-- ==== Sys2Proof/Word.lean ====
section
/-! DEFINITION. The word types of the Tyquel 9 channel engine complex: the widths the spec computes with. -/
namespace Sys2Proof

/-- One byte of a memory of the complex. -/
abbrev Byte := BitVec 8
/-- A 64-bit port value (R46, R48). -/
abbrev Word := BitVec 64
/-- A 32-bit page register (R17). -/
abbrev Reg := BitVec 32
/-- A 15-bit control-store address (R177). -/
abbrev CAddr := BitVec 15
/-- A 168-bit move word, parity included (R50). -/
abbrev MoveWord := BitVec 168
/-- A 256-byte line of host memory, byte `k` in bits `[8k+7:8k]` (R311). -/
abbrev LineData := BitVec 2048

end Sys2Proof
end

