-- ==== Sys2Proof/Syntax.lean ====
section
/-! DEFINITION. The commands of the complex: one constructor of `Instr` per row of spec/opcode_table.json, and the operand types they carry. -/
namespace Sys2Proof

/-- A runner: runner `i` of heat `h` (8 is the reserve runner), or the Arbiter runner (R46, R75). -/
inductive Rid where
  | heat (h i : Nat)
  | arb
  deriving DecidableEq, Repr

/-- Who accesses a page or the window (R424): a host link with its world attribute, a runner with its world and level, or the TAP. -/
inductive Origin where
  | link (k : Nat) (custody : Bool)
  | runner (r : Rid) (custody super : Bool)
  | tap
  deriving DecidableEq, Repr

/-- A response on a host link or on the service-memory port (R33). `busy` asks for the request again. -/
inductive Resp where
  | ok | busy | ur | err
  deriving DecidableEq, Repr

/-- A stored word's error state (R303, R304, R322). -/
inductive Ecc where
  | single | double
  deriving DecidableEq, Repr

/-- Data read by IMG from host memory: the response and the bytes (R184, R190). -/
structure HostData where
  resp  : Resp
  bytes : List Byte
  deriving DecidableEq, Repr

/-- A unit of a runner whose triggered operations deliver results (R77, R194). -/
inductive FUnit where
  | alu0 | alu1 | shf | mul | cmp | lsu0 | lsu1 | hau | str | atm | seq | ring | sig | tim | bat | pcr | prd
  | ext (b : Nat)
  deriving DecidableEq, Repr

/-- A TAP instruction (R32). -/
inductive TapOp where
  | bypass | idcode | other
  | access (write : Bool) (page off : Nat) (data : Reg)
  deriving DecidableEq, Repr

/-- Sparse data by key: keys strictly rising, no entry equal to what an unlisted key reads as (notes/assumptions/3.md). -/
abbrev Machine.Table (α : Type) := List (Nat × α)

/-- The three variants of R2. -/
inductive Machine.Variant where
  | tq9_16h | tq9_8h | tq9_4h
  deriving DecidableEq, Repr

/-- A fused key slot (R189). -/
structure Machine.KeySlot where
  digest  : BitVec 384 := 0
  revoked : Bool := false
  deriving DecidableEq, Repr

/-- What the fuses and straps fix (R2, R119, R189, R203, R309, R377, R436, R465). Only the fuse load of a cold start writes them (R452 step 2). -/
structure Machine.Fuses where
  variant   : Machine.Variant := .tq9_16h
  svnMin    : BitVec 16 := 0
  key0      : Machine.KeySlot := {}                           -- the two key slots (R189)
  key1      : Machine.KeySlot := {}
  toff      : Machine.Table (BitVec 8) := []                  -- CALF.TOFFh (R466)
  pdly      : Machine.Table (BitVec 8) := []                  -- CALF.PDLY per pin (R466)
  retv      : BitVec 5 := 0
  sbin      : BitVec 2 := 0
  repair    : Machine.Table Reg := []                         -- CALF.REPMAP, key 2 * array number + half (R309)
  nvBase    : BitVec 40 := 0                                  -- SCS.NVBASE bits [51:12] (R436)
  nvSize    : BitVec 7 := 8                                   -- SCS.NVSIZE in MiB (R436)
  pairCap   : BitVec 32 := 0                                  -- PCRG.CAP straps (R374)
  extAtt    : Machine.Table Bool := []                        -- a unit is attached, key 4h + b (R118)
  extPorts  : Machine.Table (BitVec 8) := []                  -- nports, key 4h + b (R117, R118)
  extKind   : Machine.Table (BitVec 2) := []                  -- port kinds, key (4h + b) * 128 + offset (R119)
  idecap    : Bool := false                                   -- RP.STAT.idecap strap (R397)
  deriving DecidableEq, Repr

/-- What the outside and the self-tests give to a cold start (R438, R452, R453): heats that fail a test, the Arbiter memory failing, the two header copies
as read, and what the fuse read bus returns where it returns other values than those that stand. -/
structure ColdIn where
  bist    : BitVec 16
  arbFail : Bool
  hdrs    : List (List Byte)
  fuses   : Option Machine.Fuses := none
  deriving DecidableEq, Repr

/-- A 32-byte Scoresheet record (R423): payload words at 0x14, 0x18 and 0x1C. -/
structure Rec where
  seq     : Nat
  origin  : Nat
  kind    : Nat
  pcc     : Nat
  optime  : Nat
  lap     : Nat
  p0      : Reg
  p1      : Reg
  p2      : Reg
  deriving DecidableEq, Repr

/-- The commands and events of the complex: one constructor per row of spec/opcode_table.json.
Lean's compiler (not its kernel) can build no constructor with fields past the 245th, so the rows
without an operand and thirteen rare events stand last. -/
inductive Instr where
  -- boundary
  | coldReset (winbase : BitVec 24) (c : ColdIn)
  | warmReset (c : ColdIn)
  | lifeChange (code : BitVec 3) (c : ColdIn)
  | winRd (link : Nat) (custody : Bool) (off size : Nat)
  | winWr (link : Nat) (custody : Bool) (off size : Nat) (data : LineData)
  | scratchpadWindowAccess (link : Nat) (custody write : Bool) (off size : Nat) (data : LineData) (refused : Bool)
  | doorbell (link off : Nat) (data : Word)
  | snpInv (link addr : Nat)
  | snpCleanInv (link addr : Nat)
  | tapAccess (op : TapOp)
  | registerWrite (o : Origin) (page off : Nat) (data : Reg)
  -- runner
  | moveWord (r : Rid) (upset extFull : Bool)
  | wordRetry (r : Rid) (upset extFull rom : Bool)
  | trapEntry (r : Rid) (rom : Bool)
  | machineCheck (r : Rid) (rom : Bool)
  | runnerStart (o : Origin) (r : Rid)
  | runnerStop (o : Origin) (r : Rid)
  | pctlFence (o : Origin) (page : Nat)
  | unitResultDelivery (r : Rid) (u : FUnit)
  | residueRerun (r : Rid) (u : FUnit)
  | loadReplay (r : Rid) (u : FUnit) (win : Option Nat)
  | storeDrain (r : Rid) (refused : Bool)
  | frameDrain (r : Rid) (refused : Bool)
  | reservationExpiry (r : Rid)
  | hauResponse (r : Rid) (id : Nat) (resp : Resp) (data : Word)
  | hauRequestTimeout (r : Rid) (id : Nat)
  -- arithmetic units
  | aluAdd (r : Rid) (one : Bool) (v : Word)
  | aluSub (r : Rid) (one : Bool) (v : Word)
  | aluRsub (r : Rid) (one : Bool) (v : Word)
  | aluAnd (r : Rid) (one : Bool) (v : Word)
  | aluOr (r : Rid) (one : Bool) (v : Word)
  | aluXor (r : Rid) (one : Bool) (v : Word)
  | aluAndn (r : Rid) (one : Bool) (v : Word)
  | aluNeg (r : Rid) (one : Bool) (v : Word)
  | aluAbs (r : Rid) (one : Bool) (v : Word)
  | aluMin (r : Rid) (one : Bool) (v : Word)
  | aluMax (r : Rid) (one : Bool) (v : Word)
  | aluMinu (r : Rid) (one : Bool) (v : Word)
  | aluMaxu (r : Rid) (one : Bool) (v : Word)
  | aluPop (r : Rid) (one : Bool) (v : Word)
  | aluClz (r : Rid) (one : Bool) (v : Word)
  | aluCtz (r : Rid) (one : Bool) (v : Word)
  | shfShl (r : Rid) (v : Word)
  | shfShr (r : Rid) (v : Word)
  | shfSar (r : Rid) (v : Word)
  | shfRol (r : Rid) (v : Word)
  | shfRor (r : Rid) (v : Word)
  | shfExt (r : Rid) (v : Word)
  | shfExts (r : Rid) (v : Word)
  | shfDep (r : Rid) (v : Word)
  | shfBswap (r : Rid) (v : Word)
  | mulMul (r : Rid) (v : Word)
  | mulMulu (r : Rid) (v : Word)
  | mulMac (r : Rid) (v : Word)
  | mulMac2 (r : Rid) (v : Word)
  | mulDiv (r : Rid) (v : Word)
  | mulDivu (r : Rid) (v : Word)
  | cmpEq (r : Rid) (v : Word)
  | cmpNe (r : Rid) (v : Word)
  | cmpLt (r : Rid) (v : Word)
  | cmpLe (r : Rid) (v : Word)
  | cmpGt (r : Rid) (v : Word)
  | cmpGe (r : Rid) (v : Word)
  | cmpLtu (r : Rid) (v : Word)
  | cmpLeu (r : Rid) (v : Word)
  | cmpGtu (r : Rid) (v : Word)
  | cmpGeu (r : Rid) (v : Word)
  | cmpTst (r : Rid) (v : Word)
  | cmpTstz (r : Rid) (v : Word)
  -- scratchpad and host access
  | lsuLd (r : Rid) (one : Bool) (v : Word)
  | lsuLd32 (r : Rid) (one : Bool) (v : Word)
  | lsuLd16 (r : Rid) (one : Bool) (v : Word)
  | lsuLd8 (r : Rid) (one : Bool) (v : Word)
  | lsuSt (r : Rid) (one : Bool) (v : Word)
  | lsuSt32 (r : Rid) (one : Bool) (v : Word)
  | lsuSt16 (r : Rid) (one : Bool) (v : Word)
  | lsuSt8 (r : Rid) (one : Bool) (v : Word)
  | lsuSync (r : Rid) (one : Bool) (v : Word)
  | hauLd (r : Rid) (v : Word)
  | hauLd32 (r : Rid) (v : Word)
  | hauLdnc (r : Rid) (v : Word)
  | hauSt (r : Rid) (v : Word)
  | hauSt32 (r : Rid) (v : Word)
  | hauStnc (r : Rid) (v : Word)
  | hauCpy (r : Rid) (v : Word)
  | hauPref (r : Rid) (v : Word)
  | hauFence (r : Rid) (v : Word)
  -- string and atomics
  | strCopy (r : Rid)
  | strFill (r : Rid)
  | strCmp (r : Rid)
  | strScan (r : Rid)
  | stringElement (r : Rid)
  | stringDone (r : Rid)
  | atmTas (r : Rid) (v : Word)
  | atmLr (r : Rid) (v : Word)
  | atmSc (r : Rid) (v : Word)
  | atmClr (r : Rid) (v : Word)
  -- rings, Starter interface, timers
  | ringPop (r : Rid) (v : Word)
  | ringAdv (r : Rid) (v : Word)
  | ringRel (r : Rid) (v : Word)
  | ringStat (r : Rid) (v : Word)
  | ringHandout (h : Nat)
  | sigClaim (r : Rid) (v : Word)
  | sigEoi (r : Rid) (v : Word)
  | sigPend (r : Rid) (v : Word)
  | sigHmsg (r : Rid) (v : Word)
  | timSnap (r : Rid) (v : Word)
  | timArm0 (r : Rid) (v : Word)
  | timArm1 (r : Rid) (v : Word)
  | timDis (r : Rid) (v : Word)
  | timWdog (r : Rid) (v : Word)
  | timWait (r : Rid) (v : Word)
  | timerFire (r : Rid) (one : Bool)
  | watchdogExpiry (r : Rid)
  -- batons, pacer mailbox, prediction
  | batPass (r : Rid) (v : Word) (late : Bool)
  | batGet (r : Rid) (v : Word)
  | batFree (r : Rid) (v : Word)
  | pcrPush (r : Rid) (v : Word)
  | pcrPull (r : Rid) (v : Word)
  | prdFlush (r : Rid) (v : Word)
  | prdBar (r : Rid) (v : Word)
  | prdSnap (r : Rid) (v : Word)
  | prdClrc (r : Rid) (v : Word)
  -- traps and sequencing
  | trpCall (r : Rid) (v : Word)
  | trpGate (r : Rid) (v : Word)
  | trpSret (r : Rid) (v : Word)
  | trpEret (r : Rid) (v : Word)
  | seqJmpi (r : Rid) (v : Word)
  | seqCalli (r : Rid) (v : Word)
  | seqCallm (r : Rid) (v : Word)
  | seqRetm (r : Rid) (v : Word)
  | seqRep (r : Rid) (v : Word)
  | seqRspush (r : Rid) (v : Word)
  | seqRspop (r : Rid) (v : Word)
  | seqRsclr (r : Rid) (v : Word)
  | seqRsrd (r : Rid) (v : Word)
  -- control store and images
  | lineFetch (r : Rid)
  | cstoreScrubRead (st : Nat)
  | reload (hdr seg : HostData)
  | imgGo (o : Origin) (hdr : HostData)
  | imgAbort (o : Origin)
  | imgSegment (d : HostData)
  -- rings
  | ringEnable (o : Origin) (data : Reg)
  | ringDisable (o : Origin) (data : Reg)
  | ringDisableEffect (q : Nat)
  | rselSnapshot (o : Origin) (data : Reg)
  -- fences
  | runnerFence (r : Rid)
  | heatFence (h : Nat)
  | heatStart (o : Origin) (h : Nat)
  | remirrorEnd (h : Nat)
  -- Arbiter
  | windowEnd (temps : List Int)
  | mselSnapshot (o : Origin) (data : Reg)
  | place (o : Origin) (data : Reg)
  | migrate (o : Origin) (data : Reg)
  | migrateMove (q : Nat)
  | presRead (o : Origin)
  | poolWrite (o : Origin) (data : Reg)
  | pathw (o : Origin) (data : Reg)
  | fallbackBegin (cause : Nat)
  | fallbackPlace (q : Nat)
  | fallbackResume (o : Origin) (data : Reg)
  -- scratchpad upkeep
  | eccWriteback (h word : Nat)
  | scrubRead (h refused : Nat)
  | wipeEnd (st : Nat)
  -- heat cache
  | fillResponse (h line : Nat) (resp : Resp) (data : LineData) (err : Option Ecc)
  | lockedFill (o : Origin) (h : Nat) (data : Reg)
  | rangeInvalidate (o : Origin) (h : Nat) (data : Reg)
  | cacheClean (o : Origin) (h : Nat)
  | cacheEnable (o : Origin) (h : Nat)
  | seedWrite (o : Origin) (h : Nat) (data : Reg)
  | strideDetectorAssign (o : Origin) (h k : Nat) (data : Reg)
  -- Starter
  | sourceEvent (sl src : Nat) (level : Bool)
  | sourcePresent (r : Rid)
  | offerWithdraw (r : Rid)
  | spendWrite (o : Origin) (h k : Nat) (data : Reg)
  | messageForward (r : Rid)
  | coalesceTimeout (q : Nat)
  | qack (o : Origin) (data : Reg)
  -- lap counter and pacers
  | lapSet (o : Origin) (data : Reg)
  | lapCntRead (o : Origin)
  | pacerStart (o : Origin) (n : Nat)
  | pacerStop (o : Origin) (n : Nat)
  | pacerResume (o : Origin) (n : Nat)
  | pmdataWrite (o : Origin) (n : Nat) (data : Reg)
  | idle (n : Nat)
  | emit (n : Nat)
  | capt (n : Nat)
  | take (n : Nat)
  | give (n : Nat)
  | drive (n : Nat)
  | await (n : Nat)
  | goto (n : Nat)
  | latch (n : Nat)
  | flag (n : Nat)
  | sched (n : Nat)
  | untilI (n : Nat)
  | bump (n : Nat)
  | stamp (n : Nat)
  | halt (n : Nat)
  | illop (n : Nat)
  | timedAction (n : Nat)
  | short (n pin : Nat)
  -- root ports
  | linkTrained (p : Nat) (rate : BitVec 3) (width : BitVec 2) (flit rev : Bool) (inv : BitVec 8)
  | containment (p cause : Nat)
  | surpriseDown (p : Nat)
  | aerMessage (p kind : Nat)
  | contain (o : Origin) (p : Nat)
  | release (o : Origin) (p : Nat)
  | inboundWrite (p : Nat) (addr : Word) (data : List Byte) (busy : Nat) (other : Bool)
  | inboundNotification (p : Nat) (addr : Word) (data : List Byte)
  | cfgRead (o : Origin) (p : Nat)
  | cfgWrite (o : Origin) (p : Nat)
  | cfgCompletion (p : Nat) (res : BitVec 3) (data : Reg)
  | marginGo (o : Origin) (p : Nat) (data : Reg)
  -- carriers
  | jobPost (h k i : Nat)
  | carrierElement (h k : Nat) (refused : Bool)
  | jobEnd (h k i : Nat)
  | carrierEnable (o : Origin) (h : Nat) (data : Reg)
  -- Referee
  | reportArrival (n : Nat)
  | entryClose (src unit elem : Nat)
  | sevClear (o : Origin) (data : Reg)
  | injectReport (o : Origin) (data : Reg)
  | injectSingleBit (o : Origin) (data : Reg)
  | injectDoubleBit (o : Origin) (data : Reg)
  | injectCsParity (o : Origin) (data : Reg)
  | injectResidue (o : Origin) (data : Reg)
  -- Scoresheet
  | flush (bad : List Nat)
  | flushRequest (o : Origin)
  | clear (o : Origin)
  | windowFetch (o : Origin) (data : Reg) (bad : List Nat)
  -- modes
  | modeReqFactory (o : Origin)
  | modeReqService (o : Origin)
  | modeReqQuiesce (o : Origin)
  -- boundary events
  | hostLinkLost (k : Nat)
  | hostLinkUp (k : Nat)
  | writebackAck (h line : Nat)
  | carrierHostResponse (h k i : Nat) (resp : Resp) (data : LineData)
  | windowReadResponse (recs : List Rec)
  | pinClockEdge (n : Nat) (rising : Bool)
  | pinLevelChange (pin : Nat) (level : Bool)
  | untilReached (n : Nat)
  | tWaitTimeReached (r : Rid)
  | pacerTestsEnd (n : Nat) (samples : List (Nat × List Bool))
  | extResultReady (r : Rid) (port : Nat) (v : Word) (parity : Bool)
  | transformEnd (h k i : Nat) (fin : Option Bool) (out : List Byte)
  -- rows without an operand
  | pfwNFall
  | tamper
  | safeReq
  | safeReqRelease
  | commandBegin
  | msgIntDelivery
  | reportTake
  | faultOutUpdate
  | recordCommit
  | flushBeatAck
  | optimeTick
  | nvPathDown
  | wakeTimer
  | wake
  | tamperFall
  | vddCoreLoss
  | windowFetchTimeout
  -- timeouts and diagnostic events
  | extResultTimeout (r : Rid)
  | batonTimeout (r : Rid)
  | laneNarrow (p lane : Nat)
  | trainTimeout (p : Nat)
  | completionTimeout (p id : Nat)
  | xformTimeout (h k i : Nat)
  | linkErrorCorrected (k : Nat)
  | adapterCompletion (h k i code : Nat) (data : LineData)
  | imgRequestTimeout (link : Nat)
  | lateMirrorWrite (r : Rid)
  | linkPartnerPresent (p : Nat)
  | portErrorDetected (p : Nat) (uncorrectable : Bool) (bit : Nat)
  | marginingEnd (p : Nat) (result : BitVec 4)
  deriving DecidableEq, Repr

end Sys2Proof
end

