-- ==== Sys2Proof/Decode.lean ====
section
/-! DEFINITION. The command a word spells by the bits of spec/opcode_table.json: the table gives no row any bits, so no word spells a command. -/
namespace Sys2Proof

/-- The rows of the opcode table that give bits, with their widths: none. -/
def tableWords : List (Nat × Nat × Instr) := []

/-- The command spelled by a word of `nbits` bits, none where no row has those bits. -/
def decodeTableWord (nbits w : Nat) : Option Instr :=
  (tableWords.find? fun e => e.1 == nbits && e.2.1 == w).map fun e => e.2.2

end Sys2Proof
end

