-- ==== Sys2Proof/Config.lean ====
section
/-! DEFINITION. What the spec leaves open, as constants without a body, and the one check function that an outside standard fixes. -/
namespace Sys2Proof.Config

/-- SHA-384 of an octet string (R184, R187, R190): the spec names the standard and does not restate it (notes/assumptions/6.md). -/
opaque sha384 : List Byte → BitVec 384

/-- ECDSA P-384 verification (FIPS 186-5; R190 step 4): key octets, digest, signature octets (notes/assumptions/6.md). -/
opaque ecdsaP384 : List Byte → BitVec 384 → List Byte → Bool

/-- A 64-bit value the spec leaves undefined or does not state, the `n`-th one asked for (notes/assumptions/7.md). -/
opaque freeWord : Nat → Word

/-- The `n`-th free choice between two outcomes where the spec allows both (notes/assumptions/7.md). -/
opaque freeBool : Nat → Bool

/-- Whether, in the `n`-th word that both triggers the return stack and calls or returns, the trigger comes first (notes/assumptions/24.md). -/
opaque rsFirst : Nat → Bool

end Sys2Proof.Config
end

