-- ==== Sys2Proof/Machine/State.lean ====
section
/-! DEFINITION. The state of the complex, whole: every register page, every runner with its units, every memory, queue, engine and pin the spec names, and the queue of waiting commands. -/
namespace Sys2Proof.Machine

/-- The six modes of R13, R446. -/
inductive Mode where
  | factory | coldstart | service | degraded | recovery | quiesce
  deriving DecidableEq, Repr

/-- The repeat state SEQ.o_rep (R132). -/
structure Rep where
  act   : Bool := false
  count : BitVec 16 := 0
  rend  : CAddr := 0
  rbeg  : CAddr := 0
  deriving DecidableEq, Repr

/-- A shadow bank of a world (R156). -/
structure Bank where
  spc   : CAddr := 0
  sgrd  : BitVec 8 := 0
  gate  : Bool := false
  busy  : Bool := false
  world : Bool := false
  level : Bool := false
  srep  : Rep := {}
  deriving DecidableEq, Repr

/-- A store waiting in the store buffer (R67): address, size in bytes, data. -/
structure StoreEnt where
  addr : Nat
  size : Nat
  data : Word
  deriving DecidableEq, Repr

/-- The value of a result port or of the accumulator, with its poison mark (R81, R87, R95). `by` is the cause a read raises. -/
structure QVal where
  val    : Word := 0
  poison : Bool := false
  host   : Bool := false                              -- poisoned by a host response: the read raises host access (R98)
  deriving DecidableEq, Repr

/-- What an operation in flight waits for, or is (R62, R64, R68). -/
inductive OpKind where
  | plain                                             -- latency only
  | div                                               -- a division: it occupies MUL (R85)
  | load (addr size : Nat)                            -- a scratchpad load that a collision may replay (R302)
  | mac (prod : Word) (bad : Bool)                    -- t_mac and t_mac2 add at delivery, in order (R87)
  | sync (older : Nat)                                -- t_sync: stores still to drain (R92)
  | host (id : Nat)                                   -- a HAU request (R98)
  | fence (ids : List Nat) (bad : Bool)               -- t_fence: HAU writes still unacknowledged (R96)
  | pop (mask : BitVec 8)                             -- t_pop waits (R109)
  | wait (v : Word)                                   -- t_wait waits (R111)
  | baton                                             -- t_pass waits for the partner (R113)
  | ext (port : Nat)                                  -- an extension result (R121)
  deriving DecidableEq, Repr

/-- An operation in flight: its unit, the results it will deliver (port number, value) and the flags it raises (R83, R90). -/
structure Op where
  unit : FUnit
  res  : List (Nat × QVal)
  v    : Bool := false
  dz   : Bool := false
  kind : OpKind := .plain
  deriving DecidableEq, Repr

/-- A fault raised by a word (R70, R162, R172). -/
structure FaultRec where
  code   : Nat
  sv     : Bool := false
  slot   : Nat := 0
  detail : Word := 0
  deriving DecidableEq, Repr

/-- An opening-book entry (R143). -/
structure BookEnt where
  tag    : BitVec 5
  world  : Bool
  level  : Bool
  target : CAddr
  hyst   : Bool
  deriving DecidableEq, Repr

/-- A HAU request outstanding (R98): loads carry the size they extract, writes their span. `dead`: its runner has been fenced or has started
again since, so its response is discarded (R82, R257 step 2). -/
structure HauReq where
  id    : Nat
  load  : Bool
  size  : Nat
  addr  : Nat
  cust  : Bool := false                               -- its world attribute (R96)
  dead  : Bool := false
  deriving DecidableEq, Repr

/-- A message in the runner's message buffer (R343): it leaves once the HAU writes `ids` are acknowledged. -/
structure Msg where
  queue : Nat
  data  : Word
  ids   : List Nat
  deriving DecidableEq, Repr

/-- The kind of a string operation (R101). -/
inductive StrKind where
  | copy | fill | cmp | scan
  deriving DecidableEq, Repr

/-- The string hold (R102): the operation, the triggering word's address and the next address decided at its commit. -/
structure StrHold where
  kind : StrKind
  rpc  : CAddr
  npc  : CAddr
  slot : Nat := 0                                     -- the STR trigger's slot
  done : Option Word := none                          -- q_r decided, to be delivered by STRING_DONE
  deriving DecidableEq, Repr

/-- How far a runner is from running (R475). -/
inductive RunState where
  | stopped | running | stopping | handoff
  deriving DecidableEq, Repr

/-- A mirror write of a timed-out pass that may still arrive (R246). -/
structure LateMirror where
  heat : Nat
  slot : Nat
  bytes : List Byte
  dir  : Word
  deriving DecidableEq, Repr

/-- A runner: the programming model of R46 to R48 and the state of its units. -/
structure Runner where
  run      : RunState := .stopped
  fenced   : Bool := false
  starting : Bool := false                            -- PCTL.run is 1 and the start waits for the wipe of its heat (R308)
  hoff     : Bool := false                            -- fenced by a hoff reaction: started again when lorph is 0 (R413)
  g        : Table Word := []                         -- G0 to G63 (R46)
  grd      : BitVec 8 := 0                            -- g1 to g7 in bits [7:1] (R47)
  flgV     : Bool := false
  flgDZ    : Bool := false
  cust     : Bool := true                             -- world (R150): true is Custody
  sup      : Bool := true                             -- level (R150): true is supervisor
  pc       : CAddr := 0
  cycBase  : Nat := 0                                 -- CLK_S count at which CYC was 0 (R48)
  wcnt     : Word := 0
  stl      : Word := 0
  stallAt  : Option Nat := none                       -- CLK_S count at which the present stall began (R65)
  rty      : BitVec 32 := 0
  ctlEff   : Reg := 0                                 -- RUN.CTL as it stood when the word began (R75, R135)
  stores   : List StoreEnt := []                      -- oldest first, at most 8 (R67)
  frame    : List (Nat × Word) := []                  -- frame buffer (R170)
  frameOld : Nat := 0                                 -- store-buffer entries older than the frame (R170)
  oport    : Table Word := []                         -- operand ports by port number (R79)
  qport    : Table QVal := []                         -- result ports by port number (R81)
  accBad   : Bool := false                            -- o_acc poisoned (R87)
  ops      : List Op := []                            -- operations in flight, oldest first (R68)
  resv     : Option (Nat × Nat) := none               -- reservation: granule, CLK_S count of its t_lr (R106)
  hold     : Option StrHold := none                   -- string hold (R102)
  resume   : Option CAddr := none                     -- the word at pc executes in resume form; its npc (R104)
  rep      : Rep := {}
  bankS    : Bank := {}
  bankC    : Bank := {}
  entry    : Table (BitVec 16) := []                  -- o_entry, key 8 * world + k (R155)
  gates    : Table (BitVec 16) := []                  -- o_gate (R155)
  fspS     : Nat := 0
  fspC     : Nat := 0
  flimS    : Nat := 0
  flimC    : Nat := 0
  qcause   : Word := 0                                -- TRP.q_cause (R164)
  pendW    : Option FaultRec := none                  -- fault of kind W raised, entry not yet taken (R70)
  pendBat  : Bool := false                            -- kind D traps pending (R162)
  pendV    : Bool := false
  pendDZ   : Bool := false
  pendM    : Option Nat := none                       -- machine check or stack exhaustion (R176)
  pendMCS  : Bool := false                            -- the machine check came from control-store parity (R182)
  first    : Bool := false                            -- a handler's first word has not yet executed (R165)
  noTrap   : Bool := false                            -- between a t_retm word and the word at its return address (R138)
  tries    : Nat := 0                                 -- executions of the present word that failed a check (R71)
  failPar  : Bool := false                            -- the last failure was fetch parity (R72)
  injPar   : Bool := false                            -- injected fetch parity error pending (R419 kind 3)
  injRes   : Bool := false                            -- injected ALU0 residue error pending (R419 kind 4)
  resFail  : Bool := false                            -- a residue failure to be charged to the next word (R195)
  fbuf     : List (Nat × List MoveWord) := []         -- fetch buffer: lines with their four words (R178)
  ahead    : List CAddr := []                         -- words decoded on the path, that at pc first (R140)
  fnext    : Option (CAddr × Rep) := none             -- after `ahead`: the next place of the path, none where it waits (R140, R146)
  rs       : List CAddr := []                         -- return stack, top first (R134)
  book     : Table BookEnt := []                      -- opening book (R143)
  hist     : List CAddr := []                         -- t1 to t4 (R143)
  rpred    : List CAddr := []                         -- return predictor, top first (R145)
  barStop  : Bool := false                            -- PRD.t_bar stop (R146)
  latent   : BitVec 32 := 0                           -- count behind PRD.q_latent (R149)
  mpred    : BitVec 32 := 0                           -- count behind PRD.q_mpred (R142)
  tim0     : Option Word := none                      -- armed timers (R111)
  tim1     : Option Word := none
  wdog     : Option Nat := none                       -- CLK_S count at which the watchdog expires (R111)
  ring     : Option Nat := none                       -- held ring (R108)
  wdrawn   : Bool := false                            -- the held ring was withdrawn by a pass (R283)
  hau      : List HauReq := []                        -- outstanding HAU requests (R98)
  spanBad  : Bool := false                            -- a write of the present fence span failed (R96)
  msgs     : List Msg := []                           -- message buffer, oldest first (R343)
  late     : Option LateMirror := none                -- mirror write still on its way (R246)
  deriving DecidableEq, Repr

/-- A runner's running-priority stack, offers and presented sources in its slice (R331, R333, R335, R338). -/
structure RunPrio where
  stack  : List (Nat × Nat) := []                     -- source and priority, top first; entry 0 is implicit
  ehold  : Option Nat := none                         -- entry hold with its entry priority (R335)
  offers : List (Nat × Nat) := []                     -- sources presented less than 4 CLK_C cycles ago, oldest first, with the priority each had then (R338)
  seen   : List Nat := []                             -- sources that have been presented and are deliverable still (R331)
  deriving DecidableEq, Repr

/-- A Starter slice (R327 to R342). -/
structure Slice where
  prio    : Table Nat := []                           -- SCFG.prio by source (R346)
  target  : Table Nat := []                           -- SCFG.target by source (R346)
  pend    : Table Bool := []                          -- pending bits of edge sources, and of t_pend on levels (R328, R336)
  line    : Table Bool := []                          -- asserted level inputs (R328)
  act     : Table Nat := []                           -- active sources: runner + 1 (R332)
  handP   : Table Bool := []                          -- 0xF0 pending, by runner (R328)
  handA   : Table Bool := []                          -- 0xF0 active, by runner
  rp      : Table RunPrio := []                       -- by runner
  latched : Table Bool := []                          -- edges caught while CLK_C is stopped (R337)
  deriving DecidableEq, Repr

/-- Upkeep state of a scratchpad or of the Arbiter data memory (R303, R306, R307). -/
structure MemUp where
  ecc   : List (Nat × Ecc) := []                      -- words with errors, by word address, in the order found
  held  : Table Bool := []                            -- corrected words held for write-back (R303)
  inj   : List (Nat × Ecc) := []                      -- injected errors that await the next write of the word (R419)
  wipe  : Bool := false                               -- secure-part wipe running (R306)
  restart : Bool := false                             -- it is the wipe of a heat that is started again: its runners wait (R308)
  deriving DecidableEq, Repr

/-- A heat-cache line (R311). -/
structure Line where
  line   : Nat                                        -- address of the line, bits [51:8]
  dirty  : Bool := false
  owned  : Bool := false
  poison : Bool := false
  err    : Option Ecc := none                         -- an error of its words that no access has met (R322)
  data   : LineData := 0
  deriving DecidableEq, Repr

/-- Who waits for a fill (R311, R313, R317). -/
inductive Waiter where
  | hauLoad (r : Rid) (id addr size : Nat)
  | hauStore (r : Rid) (id addr size : Nat) (data : Word)
  | carRead (k i : Nat)
  | carWrite (k i addr size : Nat) (data : LineData)
  | ncRead (r : Rid) (id addr size : Nat)             -- uncached requests behind an earlier access of their source to the line (R34)
  | ncWrite (r : Rid) (id addr size : Nat) (data : LineData)
  | carNcRead (k i addr size : Nat)
  | carNcWrite (k i addr : Nat) (data : List Byte)
  deriving DecidableEq, Repr

/-- Why a line is being filled (R313, R314, R317, R318). -/
inductive FillKind where
  | demand | pref | next | stride (k : Nat) | locked
  deriving DecidableEq, Repr

/-- A fill outstanding: its line, the way it will take (none: it bypasses), RD_UNIQUE or not, and who waits (R311, R313, R37). -/
structure Fill where
  line    : Nat
  way     : Option Nat
  unique  : Bool
  kind    : FillKind
  locked  : Bool := false                             -- a locked fill has taken it over (R314)
  cust    : Bool := false                             -- world attribute of its request (R33, R96)
  snooped : Bool := false                             -- a snoop met it: delivered once, not installed (R37)
  wait    : List Waiter := []
  deriving DecidableEq, Repr

/-- A stride detector (R318). -/
structure Stride where
  last  : Option Nat := none
  step  : Int := 0
  seen  : Nat := 0
  conf  : Bool := false
  deriving DecidableEq, Repr

/-- A heat cache (R311 to R322). -/
structure Cache where
  lines    : Table Line := []                         -- key 8 * set + way; unlisted: invalid
  lfsr     : BitVec 16 := 0xACE1
  init     : Bool := true
  draining : Bool := false
  rinv     : Bool := false
  lfill    : Bool := false
  fills    : List Fill := []
  wbs      : List Nat := []                           -- WR_BACKs not yet acknowledged, by line
  sd       : Table Stride := []
  deriving DecidableEq, Repr

/-- What a job ring's element waits for: nothing, source data of `n` bytes, or the acknowledgement of `n` destination bytes (R392, R394). -/
inductive JStage where
  | idle
  | src (n : Nat)
  | dst (n : Nat)
  deriving DecidableEq, Repr

/-- Where one side of a job stands (R392): the next entry of its list, the present run, and the bytes of the runs entered so far. -/
structure Side where
  next : Nat := 0
  addr : Nat := 0
  left : Nat := 0
  got  : Nat := 0
  deriving DecidableEq, Repr

/-- A non-posted request outstanding on a root port (R380, R382): a configuration request, a carrier's read, or the read of a job that is no more,
with the bytes it still brings (R395). -/
inductive NpReq where
  | cfg (write : Bool)
  | car (h k i : Nat)
  | gone (h k i left : Nat)
  deriving DecidableEq, Repr

/-- Link states of a root port (R397). -/
inductive LinkState where
  | disabled | detect | training | up | contained
  deriving DecidableEq, Repr

/-- States of a pacer (R375). -/
inductive PState where
  | stopped | running | stalled | stopping | faulted | safe
  deriving DecidableEq, Repr

/-- What a running pacer waits for (R361, R364). -/
inductive PWait where
  | none
  | start (left : Nat)                                -- CLK_S cycles before address 0 begins (R365)
  | idle (left : Nat)
  | shift (isOut : Bool)
  | await (pin : Nat) (lvl : Bool)
  | until
  | take
  | give
  | sched
  deriving DecidableEq, Repr

/-- A timed action (R362): time, pattern levels by pin, event. -/
structure Timed where
  t    : BitVec 32
  pins : List (Nat × Bool)
  ev   : Bool
  deriving DecidableEq, Repr

/-- A pacer (R354 to R376). -/
structure Pacer where
  st       : PState := .safe
  wait     : PWait := .none
  fcode    : BitVec 3 := 0
  fpin     : BitVec 6 := 0
  stale    : Bool := false
  test     : Bool := false
  pc       : BitVec 6 := 0
  bits     : Nat := 0
  sr       : BitVec 32 := 0
  inq      : List (BitVec 32) := []
  outq     : List (BitVec 32) := []
  tq       : List Timed := []
  divAcc   : BitVec 16 := 0
  divLeft  : Nat := 0                                 -- CLK_S cycles to the next divider edge (R357)
  lastTake : BitVec 32 := 0
  resumed  : Bool := false                            -- the instruction at pc resumes with `bits` bits (R366)
  started  : Bool := false                            -- started since cold reset (R355)
  edgeAt   : Option Nat := none                       -- CLK_S count of the last pin-clock edge (R357)
  pm       : Table (BitVec 24) := []                  -- program memory (R367)
  deriving DecidableEq, Repr

/-- A pin's drive by its owner and the level sensed on it (R355). -/
structure Pin where
  oe    : Bool := false
  lvl   : Bool := false
  drvn  : Bool := false                               -- its owner has driven it (R355)
  lim   : Bool := false                               -- its delay trim in effect was limited (R465)
  sense : Bool := false
  chk   : Option Nat := none                          -- CLK_S count of a driven edge that is still to be checked (R369)
  diff  : Bool := false                               -- the last check met another level, and that level has stood since (R369)
  eff   : Reg := 0x00000200                           -- class B fields of PCRG.PINk in effect (R374)
  deriving DecidableEq, Repr

/-- A ring: its ring-table entry (R207) and its placement-table entry (R277). -/
structure Ring where
  burst  : BitVec 12 := 0
  base   : BitVec 40 := 0
  lsz    : BitVec 4 := 0
  cls    : BitVec 3 := 0
  world  : Bool := false
  en     : Bool := false
  unprot : Bool := false
  err    : Bool := false
  frozen : Bool := false
  placed : Bool := false
  heat   : Nat := 0
  runner : Nat := 0
  held   : Bool := false
  cons   : BitVec 16 := 0
  prod   : BitVec 16 := 0
  taken  : BitVec 32 := 0
  rung   : BitVec 32 := 0
  lapDb  : Word := 0
  lapPop : Word := 0
  ovf    : BitVec 16 := 0
  stale  : BitVec 16 := 0
  clrEn  : Bool := false                              -- a clearing of en waits (R209)
  joined : Nat := 0                                   -- CLK_S count at which it joined its queue (R276)
  aff    : BitVec 16 := 0xFFFF
  migs   : BitVec 16 := 0
  migTo  : Option (Nat × Nat) := none                 -- MIGRATE in progress: dest, ctag (R282)
  migMv  : Bool := false                              -- frozen by its MIGRATE, move step to come
  fzRun  : Bool := false                              -- frozen by a runner fence (R257, R258)
  fzHeat : Bool := false                              -- frozen by a heat fence (R261)
  fzAt   : Nat := 0                                   -- heat whose lorph or morph unfreezes it (R258, R261)
  told   : Bool := false                              -- reported as left unplaced (R294)
  deriving DecidableEq, Repr

/-- A placement command waiting in the FIFO (R279). -/
structure PCmd where
  mig  : Bool
  ctag : BitVec 8
  dest : Nat
  ring : Nat
  deriving DecidableEq, Repr

/-- A placement result (R280). -/
structure PRes where
  ctag : BitVec 8
  code : Nat
  ring : Nat
  deriving DecidableEq, Repr

/-- The Arbiter's own state (R269 to R295). -/
structure Arbiter where
  cmds   : List PCmd := []
  res    : List PRes := []                            -- oldest first: the FIFO of 16, and behind it results that wait for room (R280)
  fb     : Bool := true
  fbCause : BitVec 3 := 3
  fbCnt  : BitVec 8 := 0
  excl   : BitVec 16 := 0                             -- thermally excluded heats (R292)
  secok  : BitVec 16 := 0                             -- the last wipe of the secure part completed, with no error found there since (R293)
  snaps  : Table Nat := []                            -- latest window snapshot, key 2048 * heat + offset (R274, R276)
  window : Nat := 0
  winAt  : Option Nat := none                         -- CLK_S count at which the last window ended (R274)
  hist   : Table Nat := []                            -- handout waits of the running window, key 16 * heat + bin
  pqMax  : Table Nat := []                            -- largest number outstanding in the running window, by port
  rbusy  : Table Nat := []                            -- busy CLK_R cycles of the running window, key 9h + i
  pools  : Table (Reg × Reg) := []                    -- committed pool entries (R289)
  paths  : Table (BitVec 4) := []                     -- path table (R290)
  gen    : BitVec 32 := 0                             -- publication generation (R288)
  temp   : Table Int := []                            -- effective temperature of each heat (R465)
  throt  : Table Nat := []                            -- throttle level k of each heat (R463)
  deriving DecidableEq, Repr

/-- A report on its way to the Referee (R402). -/
structure Report where
  src      : Nat
  reporter : Nat
  suspect  : Nat
  elem     : Nat
  live     : Bool
  detail   : Reg
  stamp    : Nat                                      -- CLK_S lap count
  held     : Bool                                     -- grade (R405)
  deriving DecidableEq, Repr

/-- An entry of the suspect table (R410). -/
structure Suspect where
  src    : Nat
  unit   : Nat
  elem   : Nat
  count  : Nat
  t0     : Nat
  tev    : Nat
  nrep   : Nat
  sev    : Bool := false                              -- a severe event of it is not yet closed (R411)
  latched : Bool := false                             -- that event is the one its class has latched (R412)
  stamp  : Nat := 0                                   -- stamp of the event's first report
  detail : Reg := 0
  logAt  : Nat := 0                                   -- its entry of the register log
  deriving DecidableEq, Repr

/-- A class of the Referee: effective configuration and status (R405, R412, R420). -/
structure ClassSt where
  cfg    : Reg                                        -- CCFG as written
  win    : Nat                                        -- CWIN as written
  eff    : Reg                                        -- CCFG in effect (class B, R420)
  winEff : Nat
  sev    : Bool := false
  live   : Bool := false
  trans  : Bool := false
  rd     : Bool := false                              -- CSTAT read since sev became 1 (R414)
  first  : BitVec 3 := 0
  causes : BitVec 8 := 0
  sevcnt : BitVec 16 := 0
  elem   : BitVec 16 := 0
  unit   : BitVec 9 := 0
  detail : Reg := 0
  nrep   : BitVec 16 := 0
  ccnt   : BitVec 32 := 0
  intrAt : List Nat := []                             -- heats whose source 0xF3 the class asserts (R413)
  safeOn : Bool := false                              -- its safe reaction fired and sev is still 1 (R413)
  deriving DecidableEq, Repr

/-- A register-log entry (R421). -/
structure LogEnt where
  unit  : BitVec 9
  src   : BitVec 9
  nrep  : BitVec 16
  react : BitVec 6
  stamp : Word
  deriving DecidableEq, Repr

/-- The Referee (R402 to R422). -/
structure Referee where
  arriving : List Report := []                        -- reports at their reporters, in order of the event
  offered  : List Report := []                        -- reports that have arrived and wait with their reporters, one of each (R407, R408)
  admAt    : Nat := 0                                 -- CLK_C cycle of the latest admission, and how many it has admitted (R406)
  admN     : Nat := 0
  fifo     : List Report := []                        -- ingress FIFO, oldest first (R406)
  episode  : Bool := false                            -- a drop episode is open (R408)
  susp     : List Suspect := []
  cls      : Table ClassSt := []                      -- classes whose state differs from its reset value
  log      : Table LogEnt := []
  logHead  : BitVec 4 := 0
  logCnt   : BitVec 8 := 0
  fo       : BitVec 4 := 0                            -- FAULT_OUT[3:0] (R417)
  foAt     : Nat := 0                                 -- CLK_S count at which it was driven
  deriving DecidableEq, Repr

/-- The Scoresheet (R423 to R445). -/
structure Scores where
  fifo     : List Rec := []                           -- ingest FIFO, oldest first (R431)
  lost     : Option (Nat × Nat × Nat) := none         -- loss episode: count, first and last lap (R433)
  buf      : Table Rec := []                          -- SRAM buffer by slot (R430)
  pos      : Nat := 0                                 -- next slot
  pend     : List (Nat × Nat) := []                   -- pending records: seq, slot, oldest first
  segf     : BitVec 16 := 0                           -- fenced segments (R441)
  segw     : BitVec 16 := 0                           -- segments to be fenced once nothing of them is pending (R441)
  fcount   : Nat := 0                                 -- records written by the flush since its last header (R434)
  next     : Nat := 0
  old      : Nat := 0
  flushed  : Nat := 0
  pcc      : BitVec 24 := 0
  optime   : BitVec 40 := 0
  hdrGen   : Nat := 0
  prevPfw  : Bool := false
  flushing : Bool := false
  clearing : Bool := false
  beat     : List Nat := []                           -- sequence numbers of the beats not yet acknowledged
  nvdown   : Bool := false
  nvlost   : Bool := false
  ovrRun   : Nat := 0                                 -- records overwritten while the path was down (R442)
  win      : List (Option Rec) := []                  -- window records, none where valid is 0 (R439)
  wcur     : Nat := 0
  wbusy    : Bool := false
  deriving DecidableEq, Repr

/-- A control-store fence entry (R183, R199): state 0 FREE, 1 RELOAD, 2 PERM. -/
structure CFence where
  state : Nat := 0
  line  : Nat := 0
  deriving DecidableEq, Repr

/-- A control store's registers (R197 to R200): key 0 to 15 a heat, 16 the Arbiter store. -/
structure CStore where
  valid   : Bool := false
  count   : Nat := 0
  reloads : BitVec 16 := 0
  errors  : BitVec 16 := 0
  passes  : BitVec 16 := 0
  line    : Nat := 0
  fence   : Table CFence := []                        -- FENCE0 to FENCE3 (R183)
  digest  : Option (BitVec 384) := none               -- retained at the last successful load (R191)
  gold    : BitVec 40 := 0                            -- IMG.GOLD address bits [51:12] (R202)
  deriving DecidableEq, Repr

/-- The IMG unit (R184 to R204). -/
structure Img where
  state   : Nat := 0                                  -- 1 while a load is in progress
  paused  : Bool := false                             -- it stands at a segment boundary while a reload runs (R185)
  seg     : Nat := 0
  code    : BitVec 8 := 0
  abort   : Bool := false
  hdr     : List Byte := []                           -- header of the load in progress
  heats   : BitVec 16 := 0                            -- targets of the load in progress
  arb     : Bool := false
  src     : BitVec 40 := 0                            -- container address of the load in progress
  rq      : List (Nat × Nat) := []                    -- reloads requested: store, line, oldest first (R185)
  rcode   : BitVec 8 := 0
  rstore  : BitVec 5 := 0
  rcount  : BitVec 16 := 0
  deriving DecidableEq, Repr

/-- A host interruption queue (R344, R349, R350). -/
structure HQueue where
  en      : Bool := false
  mask    : Bool := false
  ackmode : Bool := false
  tmo     : Nat := 1
  cnt     : Nat := 1
  tmoEff  : Nat := 1
  cntEff  : Nat := 1
  addr    : BitVec 48 := 0                            -- message address bits [51:4]
  acc     : Nat := 0
  t0      : Nat := 0                                  -- CLK_A count of the first accumulated message
  due     : Bool := false                             -- its time since then has passed (R344)
  hold    : Bool := false
  seq     : BitVec 16 := 0
  data    : Word := 0
  deriving DecidableEq, Repr

/-- What leaves the complex at its edge (R25, R33, R434), oldest first in `State.out`. -/
inductive Out where
  | resp (o : Origin) (r : Resp) (data : LineData)    -- answer to a window or page request
  | snoop (link : Nat) (r : Resp) (present : Bool) (data : Option LineData)   -- answer to a snoop (R37, R319)
  | rdShared (link line : Nat) (cust : Bool)          -- host requests: the link of R34 and the world attribute of R33, R96
  | rdUnique (link line : Nat) (cust : Bool)
  | wrBack (link line : Nat) (data : LineData)
  | rdNc (link : Nat) (cust : Bool) (r : Rid) (id addr size : Nat)
  | wrNc (link : Nat) (cust : Bool) (r : Rid) (id addr size : Nat) (data : LineData)
  | rdNcCar (link h k i addr size : Nat)
  | wrNcCar (link h k i addr : Nat) (data : List Byte)
  | rdImg (link addr size : Nat)                      -- a read of a container by IMG (R184, R187, R190)
  | msgInt (link : Nat) (addr : BitVec 52) (data : BitVec 128)   -- the 16 bytes of R345
  | ext (h i port : Nat) (v : Word) (cust super : Bool)   -- delivery to an extension block (R120)
  | adRead (p : Nat) (ecrc : Bool) (h k i addr size : Nat)                -- memory read request on a root port (R377)
  | adWrite (p : Nat) (ecrc : Bool) (h k i addr : Nat) (data : List Byte) -- memory write on a root port
  | xform (h b ctx : Nat) (first last : Bool) (data : List Byte)  -- transform stream with its markers (R393)
  | cfgReq (p : Nat) (ecrc : Bool) (type1 write : Bool) (addr data : Reg) -- configuration request, Type 0 or Type 1 (R385)
  | cplUr (p : Nat)                                   -- completion with UR of an inbound request that is not supported (R377)
  | beat (addr : Nat) (data : List Byte)              -- a beat of one or two records written to service memory (R434)
  | header (addr : Nat) (data : List Byte)            -- header write (R436)
  | zero (old : Nat)                                  -- zeroing of the region (R443)
  | svcRead (addrs : List Nat)                        -- service-memory read of a window fetch (R439)
  | tap (ok : Bool) (data : Reg)                      -- a TAP instruction taken (`ok`), or BYPASS loaded (R32)
  deriving DecidableEq, Repr

/-- A root port (R377 to R385); its register fields lie in `State.regs`. -/
structure Port where
  ls     : LinkState := .disabled
  live   : Bool := false                              -- live bit of the publication (R288)
  fenced : Bool := false
  relAt  : Option Nat := none                         -- released and not yet up (R380)
  np     : List (Nat × NpReq) := []                   -- outstanding non-posted requests with their tags, oldest first (R377)
  tagq   : List (NpReq × Out) := []                   -- requests that wait for a free tag, oldest first (R377)
  hold   : List Out := []                             -- requests held until the link is up (R381)
  deriving DecidableEq, Repr

/-- A carrier job ring (R390 to R395). -/
structure Job where
  active : Bool := false                              -- an entry has been taken up
  prod   : BitVec 16 := 0                             -- last accepted prod
  cons   : BitVec 16 := 0
  who    : List (Bool × Bool) := []                   -- world and level of the runner at each posting not yet taken up (R393)
  failed : Bool := false                              -- a job of the ring ended not OK (fence flag of R391)
  ent    : List Byte := []                            -- the entry taken up
  src    : Side := {}
  dst    : Side := {}
  moved  : Nat := 0                                   -- source bytes whose elements completed
  rd     : Nat := 0                                   -- bytes of the read request outstanding at the adapter
  outlen : Nat := 0                                   -- destination bytes written or counted
  st     : JStage := .idle
  outp   : Bool := false                              -- the element in flight is transform output
  req    : Option Out := none                         -- the host request outstanding, reissued on BUSY (R33)
  rbuf   : List Byte := []                            -- source data that has arrived and waits for its element
  rAt    : Nat := 0                                   -- the source address of its first byte
  obuf   : List Byte := []                            -- transform output not yet written (R393)
  code   : Nat := 0                                   -- first failure, 0 if none
  rcode  : Nat := 0                                   -- failure of the read, met once `rbuf` has been moved
  xend   : Bool := false                              -- the transform has ended the job
  stop   : Bool := false                              -- runner fenced: stop at the element boundary (R395)
  late   : Nat := 0                                   -- host answers still to come for a job that is no more (R395)
  deriving DecidableEq, Repr

/-- Reasons a command stops the model with a fault. The spec gives every command an effect, so the only fault is a
safe one: raised by no meaning of this model and kept for a later repair. Safe. -/
inductive Fault where
  | unstated
  deriving DecidableEq, Repr

/-- Reasons a command is refused. -/
inductive Refusal where
  /-- Raised by an arm of `exec` that has no meaning yet, with the row's mnemonic. Safe. -/
  | notModelled (mnemonic : String)
  deriving DecidableEq, Repr

/-- The whole state of the complex. -/
structure State where
  fuses    : Fuses := {}
  lap      : Word := 0                                -- lap counter (R351)
  clkS     : Nat := 0                                 -- CLK_S cycles since cold reset, never loaded (R39)
  fresh    : Nat := 0                                 -- the model's own counter of free values (notes/assumptions/7.md)
  mode     : Mode := .coldstart
  prevMode : Mode := .service                         -- mode held before a QUIESCE entry (R447)
  hwdone   : Bool := false
  cstep    : Nat := 1
  qpend    : Bool := false
  pfw      : Bool := false                            -- PFW_N recognised since cold reset (R467)
  life     : BitVec 3 := 2                            -- accepted LIFE code at the pins (R29)
  safeReq  : Bool := false                            -- SAFE_REQ_N recognised low (R30)
  tamper   : Bool := false                            -- TAMPER recognised high (R27)
  vddLow   : Bool := false                            -- VDD_CORE below its range (R44)
  winbase  : BitVec 24 := 0                           -- sampled WINBASE[51:28] (R26)
  linkUp   : BitVec 4 := 0                            -- CPX.LINKSTAT.up (R43)
  linkDown : BitVec 4 := 0                            -- CPX.LINKSTAT.down (R43)
  linkLost : BitVec 4 := 0                            -- links whose link-lost condition stands (R403)
  heatFen  : BitVec 16 := 0                           -- fenced heats (R5)
  mstate   : Table Nat := []                          -- BATSTAT.mstate by heat: 0 LIVE, 1 NONE, 2 REMIRROR (R267)
  gateRun  : Table Bool := []                         -- runners that ran before a QUIESCE entry, key 9h + i, 144 ARBRUN (R459)
  regs     : Table Reg := []                          -- page registers that hold a value of their own, key 1024 * page + offset / 4
  lohold   : Table Reg := []                          -- held _LO halves (R17), same key
  latch    : Table Reg := []                          -- _HI halves latched by reads (R353, R445), by requester
  runners  : Table Runner := []                       -- heat runners, key 9h + i
  arbRun   : Runner := {}                             -- the Arbiter runner
  slices   : Table Slice := []                        -- Starter slices by heat, 16 the Arbiter slice
  spads    : Table Byte := []                         -- scratchpads, key 0x800000 * heat + address; unlisted: zero (R452)
  arbMem   : Table Byte := []                         -- Arbiter data memory (R271); unlisted: zero (R452)
  memUp    : Table MemUp := []                        -- upkeep by heat, 16 the Arbiter data memory
  caches   : Table Cache := []                        -- heat caches
  cwords   : Table MoveWord := []                     -- control stores, key 32768 * store + address; unlisted: zero
  cstores  : Table CStore := []                       -- control-store registers, 16 the Arbiter store
  img      : Img := {}
  rings    : Table Ring := []                         -- ring table and placement table
  queues   : Table (List Nat) := []                   -- class queues, key 8 * heat + class, head first (R212)
  credit   : Table Nat := []                          -- credit[c], key 8 * heat + c (R213)
  qptr     : Table Nat := []                          -- ptr by heat (R213)
  rent     : List Reg := []                           -- RSCH.RENT snapshot (R234)
  arb      : Arbiter := {}
  hq       : Table HQueue := []                       -- host interruption queues
  hlast    : Nat := 63                                -- queue served last (R345)
  ports    : Table Port := []
  jobs     : Table Job := []                          -- carrier job rings, key 36h + 9k + i
  carLast  : Table Nat := []                          -- ring served last by a carrier, key 4h + k (R392)
  carFen   : Table Bool := []                         -- carriers stopped by a Referee reaction, key 4h + k (R416, R447)
  pacers   : Table Pacer := []
  pins     : Table Pin := []                          -- PCR_IO[63:0]
  perst    : BitVec 16 := 0                           -- PERST_N[15:0] (R27)
  ref      : Referee := {}
  scs      : Scores := {}
  out      : List Out := []                           -- what has left the edge, oldest first
  pending  : List Instr := []                         -- commands waiting, first in, first out
  deriving DecidableEq, Repr

/-- The complex right after reset: step 1 of R452, every register at its reset value (notes/assumptions/1.md, 2.md). -/
def State.reset : State := {}

end Sys2Proof.Machine
end

