-- ==== Sys2Proof/Machine/RegMap.lean ====
section
/-! DEFINITION. The page map (R470) and the layout of every page register: fields with access code, class and reset value (R17 to R19). -/
namespace Sys2Proof.Machine

/-- The page types of R470. -/
inductive PType where
  | cpx | mode | pwr | calf | calu | life | img | arb | arbl | ref | scs | hstr | rsch | lap | pcrg
  | heat | str | spad | hcache | cstore | rp | car | pacer | ext | run | arbrun
  deriving DecidableEq, Repr

/-- Access codes of R18; fields that only hardware changes have no entry in the layout and are read only. -/
inductive Acc where
  | rw | wo | w1c | w1s | rc
  deriving DecidableEq, Repr

/-- Classes of R19. -/
inductive Cls where
  | s | b | l
  deriving DecidableEq, Repr

/-- A field: bits `[hi:lo]`, access, class, reset value. -/
structure Fld where
  hi  : Nat
  lo  : Nat
  acc : Acc
  cls : Cls
  rst : Nat
  deriving DecidableEq, Repr

/-- `n` registers of one layout from offset `off` on, `step` bytes apart. -/
structure Row where
  off  : Nat
  fs   : List Fld := []
  n    : Nat := 1
  step : Nat := 4
  deriving DecidableEq, Repr

def rw (hi lo : Nat) (rst : Nat := 0) : Fld := ⟨hi, lo, .rw, .l, rst⟩
def rwS (hi lo : Nat) (rst : Nat := 0) : Fld := ⟨hi, lo, .rw, .s, rst⟩
def rwB (hi lo : Nat) (rst : Nat := 0) : Fld := ⟨hi, lo, .rw, .b, rst⟩
def rc (hi lo : Nat) : Fld := ⟨hi, lo, .rc, .l, 0⟩
def wo (hi lo : Nat) : Fld := ⟨hi, lo, .wo, .l, 0⟩
def w1c (hi lo : Nat) : Fld := ⟨hi, lo, .w1c, .l, 0⟩
def w1s (b : Nat) : Fld := ⟨b, b, .w1s, .l, 0⟩
/-- Single-bit fields `[hi]` down to `[0]`, each of its own (R347). -/
def bits (f : Nat → Nat → Nat → Fld) (n rst : Nat) : List Fld :=
  (List.range n).map fun b => f b b (rst / 2 ^ b % 2)
/-- The four byte fields of a register. -/
def bytes4 (f : Nat → Nat → Nat → Fld) (rst : Nat := 0) : List Fld :=
  [f 31 24 rst, f 23 16 rst, f 15 8 rst, f 7 0 rst]

/-- The registers of a control store at `base` (R197 to R200, R205). -/
def cstoreRows (base : Nat) : List Row :=
  [⟨base, [rw 0 0 1], 1, 4⟩, ⟨base + 4, [], 3, 4⟩, ⟨base + 0x10, [], 4, 4⟩, ⟨base + 0x20, [rwS 14 0], 1, 4⟩, ⟨base + 0x24, [], 6, 4⟩]

/-- The Starter slice registers with `w` pending words and `n` runners (R342, R346 to R348). -/
def sliceRows (selHi w n : Nat) : List Row :=
  [⟨0x200, [rw selHi 0], 1, 4⟩, ⟨0x204, [rw 11 8, rw 3 0], 1, 4⟩, ⟨0x220, [⟨31, 0, .w1s, .l, 0⟩], w, 4⟩, ⟨0x240, [], w, 4⟩,
   ⟨0x260, bits (fun a b c => rw a b c) 32 0, w, 4⟩, ⟨0x280, [], n, 4⟩]

def runRows : List Row :=
  [⟨0x100, [rwB 2 2, rwB 1 1, rwB 0 0], 1, 4⟩, ⟨0x104, [], 3, 4⟩, ⟨0x110, [rwS 14 6], 1, 4⟩, ⟨0x114, [rwS 31 31, rwS 14 6], 1, 4⟩]

/-- The unit registers of each page type, offsets 0x100 to 0x3FF (R22). -/
def rowsOf : PType → List Row
  | .cpx => [{ off := 0x100, n := 3 }, { off := 0x110, n := 3 }]
  | .mode => [{ off := 0x100 }, { off := 0x104, fs := [wo 2 0] }, { off := 0x108, n := 2 }]
  | .pwr => [{ off := 0x100, n := 16, fs := [rc 31 16, rc 11 8] }, { off := 0x140, n := 16 }, { off := 0x180, n := 2, fs := [rw 31 0] },
      { off := 0x188, fs := [rw 0 0] }, { off := 0x1C0, n := 16 }]
  | .calf => [{ off := 0x100, n := 16 }, { off := 0x140, n := 16 }, { off := 0x180, n := 2 },
      { off := 0x200, fs := [rw 15 12, rw 8 4, rw 2 0] }, { off := 0x204, n := 2 }]
  | .calu => [{ off := 0x100, n := 16, fs := [rwB 7 0] }, { off := 0x140, n := 16, fs := bytes4 (fun a b c => rwB a b c) }, { off := 0x180, fs := [rwB 7 0] },
      { off := 0x200, n := 16 }, { off := 0x240, n := 16 }, { off := 0x280, n := 3 }]
  | .life => [{ off := 0x100 }]
  | .img => [{ off := 0x100, fs := [w1s 1, w1s 0] }, { off := 0x104, fs := [rwB 16 16, rwB 15 0] }, { off := 0x108, fs := [rwB 31 12] },
      { off := 0x10C, fs := [rwB 19 0] }, { off := 0x110 }, { off := 0x114, fs := [rw 31 16] }, { off := 0x118 },
      { off := 0x140, n := 34 }] ++ cstoreRows 0x300
  | .arb => [{ off := 0x100 }, { off := 0x104, fs := [w1s 0] }, { off := 0x108, fs := [rw 3 0] }, { off := 0x10C, n := 2 },
      { off := 0x114, fs := [rw 14 0] }, { off := 0x118, fs := [rw 15 0 0xFFFF] },
      { off := 0x120, fs := [wo 31 30, wo 27 20, wo 19 16, wo 14 0] }, { off := 0x124, fs := [rc 31 0] }, { off := 0x128, fs := [rw 5 0] },
      { off := 0x12C, fs := [rw 26 25, rw 24 24, rw 23 20, rw 19 16, rw 15 0] }, { off := 0x130, fs := [rw 10 0] },
      { off := 0x134, fs := [rw 27 16, rw 3 2, rw 1 0] }, { off := 0x140, n := 13 }, { off := 0x180, n := 32 }] ++ sliceRows 4 1 1
  | .arbl => [{ off := 0x100, fs := [rw 13 12 1, rw 11 0 0x400] }, { off := 0x104, fs := [rw 26 16 0x168, rw 10 0 0x17C] },
      { off := 0x108, fs := [rw 15 0] }, { off := 0x10C, n := 2 },
      { off := 0x120, n := 8, fs := (List.range 8).map fun j => rw (4 * j + 3) (4 * j) (j % 4) }]
  | .ref => [{ off := 0x100, fs := [rw 31 31, rw 29 24, rw 19 16, rw 7 0 0x80] }, { off := 0x104 }, { off := 0x108, fs := [rc 31 16, rc 15 0] },
      { off := 0x10C, fs := [rw 5 0] },
      { off := 0x110, fs := [rwB 31 24, rwB 23 20, rwB 5 5, rwB 4 4, rwB 3 3, rwB 2 2, rwB 1 1] }, { off := 0x114, fs := [rwB 14 0] },
      { off := 0x118, fs := [w1c 31 31, w1c 23 16] }, { off := 0x11C, n := 4 }, { off := 0x130 }, { off := 0x140, n := 2 },
      { off := 0x200, n := 64 }, { off := 0x300, fs := [w1s 31, rw 30 28, rw 24 16, rw 8 0] }, { off := 0x304, fs := [rw 31 0] }]
  | .scs => [{ off := 0x100, fs := [w1s 31, w1s 0] }, { off := 0x104, fs := [w1c 31 31] }, { off := 0x108, n := 2 },
      { off := 0x110, fs := [rc 31 16, rc 15 0] }, { off := 0x114, fs := [rc 31 0] }, { off := 0x118, n := 9 },
      { off := 0x140, fs := [rw 31 0] }, { off := 0x144, fs := [rw 15 0] }, { off := 0x148 }, { off := 0x200, n := 64 }]
  | .hstr => [{ off := 0x100, fs := [rw 5 0] }, { off := 0x104, fs := [rw 31 31, rw 30 30, rw 29 29, rwB 24 8 1, rwB 7 0 1] },
      { off := 0x108, fs := [rw 31 4] }, { off := 0x10C, fs := [rw 19 0] }, { off := 0x110 }, { off := 0x114, fs := [wo 5 0] },
      { off := 0x118, fs := [rc 15 0] }]
  | .rsch => [{ off := 0x100, fs := [rw 14 0] }, { off := 0x108, fs := [rw 31 12, rw 11 8, rw 7 5, rw 4 4, rwB 3 3] },
      { off := 0x10C, fs := [rw 31 20, rw 19 0] }, { off := 0x110, fs := bytes4 (fun a b c => rwB a b c) 1 }, { off := 0x114, fs := [rwB 15 8 1, rwB 7 0 1] },
      { off := 0x118, n := 2, fs := [rc 31 16, rc 15 0] }, { off := 0x120, fs := [rwS 31 12] }, { off := 0x124, fs := [rwS 19 0] },
      { off := 0x180, n := 16 }]
  | .lap => [{ off := 0x100, n := 2 }, { off := 0x108, n := 2, fs := [rw 31 0] }]
  | .pcrg => [{ off := 0x100, n := 64, fs := [rwB 31 31, rwB 30 28, rwB 11 11, rwB 10 10, rwB 9 8 2, rwB 7 6, rwB 5 4, rwB 3 2] }, { off := 0x200, n := 2 }]
  | .heat => [{ off := 0x140, fs := [rw 8 0 0x1FF] }, { off := 0x144, n := 2 },
      { off := 0x14C, fs := [rc 31 24, rc 23 16, rc 15 8, rc 7 0] }] ++ sliceRows 7 8 9
  | .str => []
  | .spad => [{ off := 0x100, fs := [rw 3 1, rw 0 0 1] }, { off := 0x104 }, { off := 0x108, fs := [rc 31 16, rc 15 0] },
      { off := 0x10C, fs := [rc 31 31] }, { off := 0x110, fs := [rc 31 16, rc 15 0] }, { off := 0x114 }]
  | .hcache => [{ off := 0x100, fs := [rw 0 0 1] }, { off := 0x104, fs := [rw 7 0] }, { off := 0x108, fs := [rw 31 8, rw 2 0] },
      { off := 0x10C, fs := [rw 19 0] }, { off := 0x110, fs := [rw 31 8] }, { off := 0x114, fs := [rw 19 0] }, { off := 0x118, fs := [rw 15 0] },
      { off := 0x11C }, { off := 0x120, fs := [rw 15 0 0xACE1] }, { off := 0x124 },
      { off := 0x130, n := 4, fs := [rw 31 31, rw 29 29, rw 27 24] }, { off := 0x140, n := 4 }, { off := 0x150, n := 2 },
      { off := 0x158, fs := [rc 15 0] }]
  | .cstore => cstoreRows 0x100
  | .rp => [{ off := 0x100, fs := [w1s 31, w1s 30, rw 29 29, rwS 28 28, rwS 27 27, rwS 26 26, rwS 25 25 1, rwS 23 22 2, rwS 21 19 5,
        rwS 18 16 5, rwS 15 14 3] }, { off := 0x104, n := 2 }, { off := 0x110, fs := bits (fun a b _ => w1c a b) 13 0 }, { off := 0x114, fs := bits (fun a b c => rw a b c) 13 0x133C },
      { off := 0x118, fs := bits (fun a b _ => w1c a b) 8 0 }, { off := 0x11C, fs := [rc 31 16, rc 15 0] },
      { off := 0x120, fs := [rw 27 20, rw 19 15, rw 14 12, rw 11 2] }, { off := 0x124, fs := [rw 31 0] }, { off := 0x128, fs := [wo 1 0] },
      { off := 0x12C }, { off := 0x130, fs := [rwS 31 28] }, { off := 0x134, fs := [rwS 31 0] }, { off := 0x138, fs := [rw 15 0] },
      { off := 0x140, fs := [rwS 31 31, rwS 27 24, rwS 7 0] }, { off := 0x148, fs := [w1s 31, rw 29 27, rw 26 26, rw 25 20] }]
  | .car => [{ off := 0x100, fs := [rwS 22 12] }, { off := 0x104, fs := [rw 3 0 0xF] }, { off := 0x110, n := 4, fs := [rc 15 0] },
      { off := 0x120, n := 8 }, { off := 0x140, n := 2, fs := [rc 15 0] }, { off := 0x148 }]
  | .pacer => [{ off := 0x100, fs := [wo 1 0] }, { off := 0x104 },
      { off := 0x108, fs := [rwS 31 31, rwS 30 30, rwS 29 29, rwS 28 24, rwS 20 16, rwS 12 8] },
      { off := 0x10C, fs := [rwS 28 24, rwS 20 16, rwS 12 8, rwS 4 0] }, { off := 0x110, fs := [rwS 31 16 2, rwS 15 0] },
      { off := 0x114, fs := [rwS 31 0] }, { off := 0x118, n := 2 }, { off := 0x120, fs := [rc 31 16, rc 15 0] }, { off := 0x124, fs := [rc 15 0] },
      { off := 0x128, fs := [rw 31 31, rw 3 0] }, { off := 0x130, fs := [rwS 5 0] }, { off := 0x134, fs := [rwS 23 0] },
      { off := 0x138, fs := [rwS 31 0 0x5A3C96E1] }, { off := 0x13C, fs := bytes4 (fun a b c => rwS a b c) }, { off := 0x140, fs := [rwS 23 16, rwS 15 8, rwS 7 0] }]
  | .ext => [{ off := 0x100, n := 4, fs := [rwS 30 30, rwS 29 29 1] }, { off := 0x110, n := 32 }]
  | .run => runRows
  | .arbrun => runRows

/-- Heats present in a variant (R2, R3). -/
def Variant.heats : Variant → Nat
  | .tq9_16h => 16
  | .tq9_8h => 8
  | .tq9_4h => 4
/-- Root ports present in a variant (R2). -/
def Variant.rps : Variant → Nat
  | .tq9_16h => 16
  | .tq9_8h => 8
  | .tq9_4h => 4
/-- Whether the variant has pacers, extension interfaces and stride detectors (R2). -/
def Variant.full : Variant → Bool
  | .tq9_4h => false
  | _ => true
/-- CPX.VARCAP (R4). -/
def Variant.cap : Variant → Reg
  | .tq9_16h => BitVec.ofNat 32 (1 * 2 ^ 28 + 16 * 2 ^ 23 + 4 * 2 ^ 20 + 2 * 2 ^ 18 + 2 ^ 17 + 144 * 2 ^ 8 + 16)
  | .tq9_8h => BitVec.ofNat 32 (2 * 2 ^ 28 + 8 * 2 ^ 23 + 4 * 2 ^ 20 + 2 * 2 ^ 18 + 2 ^ 17 + 72 * 2 ^ 8 + 8)
  | .tq9_4h => BitVec.ofNat 32 (3 * 2 ^ 28 + 4 * 2 ^ 23 + 36 * 2 ^ 8 + 4)

/-- Type and instance of a page, none for a reserved page or an absent unit (R470). -/
def pageType (v : Variant) (p : Nat) : Option (PType × Nat) :=
  let perHeat (t : PType) (h : Nat) : Option (PType × Nat) := if h < v.heats then some (t, h) else none
  if p = 0 then some (.cpx, 0) else if p = 1 then some (.mode, 0) else if p = 2 then some (.pwr, 0)
  else if p = 3 then some (.calf, 0) else if p = 4 then some (.calu, 0) else if p = 5 then some (.life, 0)
  else if p = 6 then some (.img, 0) else if p = 7 then some (.arb, 0) else if p = 8 then some (.arbl, 0)
  else if p = 9 then some (.ref, 0) else if p = 0xA then some (.scs, 0) else if p = 0xB then some (.hstr, 0)
  else if p = 0xC then some (.rsch, 0) else if p = 0xD then some (.lap, 0)
  else if p = 0xE then (if v.full then some (.pcrg, 0) else none)
  else if p = 0xF then none
  else if p < 0x20 then perHeat .heat (p - 0x10)
  else if p < 0x30 then perHeat .str (p - 0x20)
  else if p < 0x40 then perHeat .spad (p - 0x30)
  else if p < 0x50 then perHeat .hcache (p - 0x40)
  else if p < 0x60 then perHeat .cstore (p - 0x50)
  else if p < 0x70 then (if p - 0x60 < v.rps then some (.rp, p - 0x60) else none)
  else if p < 0x80 then perHeat .car (p - 0x70)
  else if p < 0x90 then (if v.full then some (.pacer, p - 0x80) else none)
  else if p < 0xA0 then (if v.full then perHeat .ext (p - 0x90) else none)
  else if p < 0x100 then none
  else if p < 0x190 then (if (p - 0x100) / 9 < v.heats then some (.run, p - 0x100) else none)
  else if p = 0x190 then some (.arbrun, 0)
  else none

/-- The type code of R470, as PID.type shows it. -/
def PType.code : PType → Nat
  | .cpx => 0x01 | .mode => 0x02 | .pwr => 0x03 | .calf => 0x04 | .calu => 0x05 | .life => 0x06 | .img => 0x07 | .arb => 0x08
  | .arbl => 0x09 | .ref => 0x0A | .scs => 0x0B | .hstr => 0x0C | .rsch => 0x0D | .lap => 0x0E | .pcrg => 0x0F | .heat => 0x10
  | .str => 0x11 | .spad => 0x12 | .hcache => 0x13 | .cstore => 0x14 | .rp => 0x15 | .car => 0x16 | .pacer => 0x17 | .ext => 0x18
  | .run => 0x19 | .arbrun => 0x1A

/-- Pages owned by the Custody world (R470). -/
def PType.custody : PType → Bool
  | .calu | .life | .img | .arbl => true
  | _ => false

/-- The fields of the register at an offset of 0x100 to 0x3FF, none where the page defines no register (R22). -/
def fieldsAt (t : PType) (off : Nat) : Option (List Fld) :=
  ((rowsOf t).find? fun r => decide (r.off ≤ off ∧ off < r.off + r.n * r.step ∧ (off - r.off) % r.step = 0)).map (·.fs)

/-- The reset value of the stored part of a register. -/
def resetOf (v : Variant) (p off : Nat) : Reg :=
  if p = 1 ∧ off = 0x108 then 0x00010100              -- MODE.LAST (R467)
  else match pageType v p with
  | none => 0
  | some (t, _) =>
    match fieldsAt t off with
    | none => 0
    | some fs => BitVec.ofNat 32 (fs.foldl (fun a f => a + f.rst * 2 ^ f.lo) 0)

end Sys2Proof.Machine
end

