-- ==== Sys2Proof/Machine/Ops.lean ====
section
/-! DEFINITION. The named operations over tables, pages, reports and records that every meaning is built from. -/
namespace Sys2Proof.Machine

/-! Tables -/

/-- What a key reads as: its entry, or `d` where none is listed. -/
def tget {α : Type} (d : α) : Table α → Nat → α
  | [], _ => d
  | (k', v) :: t, k => if k' = k then v else tget d t k

/-- Write a key, keeping the canonical form: an entry equal to `d` is not listed. -/
def tset {α : Type} [DecidableEq α] (d : α) : Table α → Nat → α → Table α
  | [], k, v => if v = d then [] else [(k, v)]
  | (k', v') :: t, k, v =>
    if k < k' then (if v = d then (k', v') :: t else (k, v) :: (k', v') :: t)
    else if k = k' then (if v = d then t else (k, v) :: t)
    else (k', v') :: tset d t k v

/-- Keys strictly above `lo`, rising, and no entry equal to `d`. -/
def twfFrom {α : Type} [DecidableEq α] (d : α) : Option Nat → Table α → Bool
  | _, [] => true
  | lo, (k, v) :: t => (match lo with | none => true | some l => decide (l < k)) && decide (v ≠ d) && twfFrom d (some k) t

/-- The canonical form of a table. -/
def twf {α : Type} [DecidableEq α] (d : α) (t : Table α) : Bool := twfFrom d none t

/-- Drop the entries whose key fails `p`. -/
def tkeep {α : Type} (p : Nat → Bool) (t : Table α) : Table α := t.filter fun e => p e.1

/-- A list in ascending order of a key, equal keys in their order. -/
def insertOn {α : Type} (f : α → Nat) (m : α) : List α → List α
  | [] => [m]
  | a :: t => if f m ≤ f a then m :: a :: t else a :: insertOn f m t
def sortOn {α : Type} (f : α → Nat) (l : List α) : List α := l.foldr (insertOn f) []

/-! Bit fields -/

/-- Bits `[hi:lo]` of a word, as a number. -/
def fld {n : Nat} (w : BitVec n) (hi lo : Nat) : Nat := (w.extractLsb' lo (hi - lo + 1)).toNat

/-- A word with bits `[hi:lo]` replaced by the low bits of `x`. -/
def setFld {n : Nat} (w : BitVec n) (hi lo x : Nat) : BitVec n :=
  let m := BitVec.ofNat n ((2 ^ (hi - lo + 1) - 1) * 2 ^ lo)
  (w &&& ~~~m) ||| (BitVec.ofNat n (x % 2 ^ (hi - lo + 1) * 2 ^ lo))

def b2n (b : Bool) : Nat := if b then 1 else 0

/-- A count that saturates at `2^w - 1`. -/
def satAdd (w a b : Nat) : Nat := min (a + b) (2 ^ w - 1)

/-- Bit `k` of a word set to `b`. -/
def putBit {n : Nat} (w : BitVec n) (k : Nat) (b : Bool) : BitVec n := setFld w k k (b2n b)

/-- A little-endian byte string as a number (R17). -/
def leNat : List Byte → Nat
  | [] => 0
  | b :: t => b.toNat + 256 * leNat t

/-- The low `n` bytes of a number, little-endian (R17). -/
def leBytes : Nat → Nat → List Byte
  | 0, _ => []
  | n + 1, x => BitVec.ofNat 8 x :: leBytes n (x / 256)

end Sys2Proof.Machine

namespace Sys2Proof

/-- Pages of runners and heats (R470). -/
def Rid.page : Rid → Nat
  | .heat h i => 0x100 + 9 * h + i
  | .arb => 0x190
/-- The slice, memory and control store of a runner: its heat, or 16 for the Arbiter runner (R177, R181, R271, R342). -/
def Rid.home : Rid → Nat
  | .heat h _ => h
  | .arb => 16
/-- The index of a runner in its heat; the Arbiter runner reads 0 (R48). -/
def Rid.idx : Rid → Nat
  | .heat _ i => i
  | .arb => 0
def Rid.isArb : Rid → Bool
  | .arb => true
  | .heat _ _ => false
/-! Origins of accesses (R424) -/

/-- The world attribute of an access: Custody or not. -/
def Origin.cust : Origin → Bool
  | .link _ c => c
  | .runner _ c _ => c
  | .tap => true
/-- The origin field of a record (R424). -/
def Origin.bits : Origin → Nat
  | .runner (.heat h i) c u => Machine.b2n c * 2 ^ 9 + Machine.b2n u * 2 ^ 8 + h % 16 * 16 + i % 16
  | .runner .arb c u => Machine.b2n c * 2 ^ 9 + Machine.b2n u * 2 ^ 8 + 0xF
  | .link k c => 0x400 + Machine.b2n c * 2 ^ 9 + k % 4
  | .tap => 0x800 + 2 ^ 9 + 2 ^ 8
/-- PWERR.origin (R476). -/
def Origin.code : Origin → Nat
  | .link _ _ => 0
  | .runner _ _ _ => 1
  | .tap => 2
/-- The requester that a latch belongs to (R353): a link, a runner, or the TAP. -/
def Origin.latchKey : Origin → Nat
  | .link k _ => k % 4
  | .runner (.heat h i) _ _ => 16 + 9 * h + i
  | .runner .arb _ _ => 4
  | .tap => 5
end Sys2Proof

namespace Sys2Proof.Machine

/-! Presence (R2, R3, R7, R470) -/

def State.nHeats (s : State) : Nat := s.fuses.variant.heats
def State.nPorts (s : State) : Nat := s.fuses.variant.rps
def State.heatPresent (s : State) (h : Nat) : Bool := decide (h < s.nHeats)
/-- Present and not fenced (R5). -/
def State.heatUp (s : State) (h : Nat) : Bool := s.heatPresent h && !s.heatFen.getLsbD h
/-- The partner heat (R3). -/
def partner (h : Nat) : Nat := h ^^^ 1
def State.portPresent (s : State) (p : Nat) : Bool := decide (p < s.nPorts)
def State.pacerPresent (s : State) (n : Nat) : Bool := s.fuses.variant.full && decide (n < 16)
def State.ridPresent (s : State) : Rid → Bool
  | .heat h i => s.heatPresent h && decide (i < 9)
  | .arb => true
/-- The runner a RUN page belongs to. -/
def ridOfPage (p : Nat) : Rid := if p = 0x190 then .arb else .heat ((p - 0x100) / 9) ((p - 0x100) % 9)
/-- The runners of a heat, reserve last (R46). -/
def ridsOf (h : Nat) : List Rid := (List.range 9).map (Rid.heat h)

/-! Accessors of the parts -/

def State.runner (s : State) : Rid → Runner
  | .heat h i => tget {} s.runners (9 * h + i)
  | .arb => s.arbRun
def State.setRunner (s : State) (r : Rid) (x : Runner) : State :=
  match r with
  | .heat h i => { s with runners := tset {} s.runners (9 * h + i) x }
  | .arb => { s with arbRun := x }
def State.updR (s : State) (r : Rid) (f : Runner → Runner) : State := s.setRunner r (f (s.runner r))
def State.slice (s : State) (k : Nat) : Slice := tget {} s.slices k
def State.updSl (s : State) (k : Nat) (f : Slice → Slice) : State := { s with slices := tset {} s.slices k (f (s.slice k)) }
def State.up (s : State) (k : Nat) : MemUp := tget {} s.memUp k
def State.updUp (s : State) (k : Nat) (f : MemUp → MemUp) : State := { s with memUp := tset {} s.memUp k (f (s.up k)) }
def State.cache (s : State) (h : Nat) : Cache := tget {} s.caches h
def State.updCache (s : State) (h : Nat) (f : Cache → Cache) : State := { s with caches := tset {} s.caches h (f (s.cache h)) }
def State.ring (s : State) (q : Nat) : Ring := tget {} s.rings q
def State.updRing (s : State) (q : Nat) (f : Ring → Ring) : State := { s with rings := tset {} s.rings q (f (s.ring q)) }
def State.port (s : State) (p : Nat) : Port := tget {} s.ports p
def State.updPort (s : State) (p : Nat) (f : Port → Port) : State := { s with ports := tset {} s.ports p (f (s.port p)) }
def State.job (s : State) (k : Nat) : Job := tget {} s.jobs k
def State.updJob (s : State) (k : Nat) (f : Job → Job) : State := { s with jobs := tset {} s.jobs k (f (s.job k)) }
def State.pacer (s : State) (n : Nat) : Pacer := tget {} s.pacers n
def State.updPacer (s : State) (n : Nat) (f : Pacer → Pacer) : State := { s with pacers := tset {} s.pacers n (f (s.pacer n)) }
def State.pin (s : State) (k : Nat) : Pin := tget {} s.pins k
def State.updPin (s : State) (k : Nat) (f : Pin → Pin) : State := { s with pins := tset {} s.pins k (f (s.pin k)) }
def State.hqueue (s : State) (q : Nat) : HQueue := tget {} s.hq q
def State.updQ (s : State) (q : Nat) (f : HQueue → HQueue) : State := { s with hq := tset {} s.hq q (f (s.hqueue q)) }
def State.cstore (s : State) (k : Nat) : CStore := tget {} s.cstores k
def State.updCs (s : State) (k : Nat) (f : CStore → CStore) : State := { s with cstores := tset {} s.cstores k (f (s.cstore k)) }
def State.updArb (s : State) (f : Arbiter → Arbiter) : State := { s with arb := f s.arb }
def State.updRef (s : State) (f : Referee → Referee) : State := { s with ref := f s.ref }
def State.updScs (s : State) (f : Scores → Scores) : State := { s with scs := f s.scs }
def State.updImg (s : State) (f : Img → Img) : State := { s with img := f s.img }
def State.put (s : State) (o : Out) : State := { s with out := s.out ++ [o] }
/-- Apply `f` for each element of a list, in order. -/
def State.each {α : Type} (s : State) (l : List α) (f : State → α → State) : State := l.foldl f s
/-- Apply `f` where `b` holds. -/
def State.when (s : State) (b : Bool) (f : State → State) : State := if b then f s else s

/-- Some host link is up and not declared down (R34, R43). A link shows down where its up bit is 0 or its down bit is 1 (notes/assumptions/54.md). -/
def State.linkLive (s : State) : Bool := (s.linkUp &&& ~~~s.linkDown) != 0
/-- The link a request to an address takes (R34). -/
def State.linkOf (s : State) (a : Nat) : Nat :=
  (((List.range 4).map fun i => (a / 256 + i) % 4).find? fun k => s.linkUp.getLsbD k && !s.linkDown.getLsbD k).getD 0

/-- CLK_A cycles since cold reset (R15). -/
def State.clkA (s : State) : Nat := s.clkS / 16
/-- A free value, the next of its kind (notes/assumptions/7.md). -/
def State.freeWord (s : State) : Word × State := (Config.freeWord s.fresh, { s with fresh := s.fresh + 1 })

/-! Page registers -/

def regKey (p off : Nat) : Nat := 1024 * p + off / 4
/-- The stored part of a register (R17). -/
def State.reg (s : State) (p off : Nat) : Reg := tget (resetOf s.fuses.variant p off) s.regs (regKey p off)
def State.setReg (s : State) (p off : Nat) (v : Reg) : State :=
  { s with regs := tset (resetOf s.fuses.variant p off) s.regs (regKey p off) v }
def State.rfld (s : State) (p off hi lo : Nat) : Nat := fld (s.reg p off) hi lo
def State.setRfld (s : State) (p off hi lo x : Nat) : State := s.setReg p off (setFld (s.reg p off) hi lo x)
/-- Advance a field that saturates. -/
def State.satInc (s : State) (p off hi lo : Nat) (k : Nat := 1) : State :=
  s.setRfld p off hi lo (satAdd (hi - lo + 1) (s.rfld p off hi lo) k)
/-- Advance a field that wraps. -/
def State.wrapInc (s : State) (p off hi lo : Nat) (k : Nat := 1) : State := s.setRfld p off hi lo (s.rfld p off hi lo + k)

/-- Origin bits of hardware (R424). -/
def hwOrigin : Nat := 0xC00

/-! Reports (R402 to R405) -/

/-- The grade of a class: true is held (R405). -/
def heldClass (c : Nat) : Bool :=
  c = 0x01 || c = 0x02 || c = 0x05 || c = 0x09 || c = 0x0A || c = 0x0E || c = 0x11 || c = 0x20 || c = 0x24 || c = 0x3F

/-- A report leaves its reporter for the Referee; it arrives by REPORT_ARRIVAL (R404, R406). -/
def State.report (s : State) (cls cause reporter suspect elem : Nat) (detail : Nat := 0) (live : Bool := false) : State :=
  s.updRef fun f => { f with arriving := f.arriving ++
    [{ src := 8 * cls + cause, reporter := reporter, suspect := suspect, elem := elem, live := live,
       detail := BitVec.ofNat 32 detail, stamp := 0, held := heldClass cls }] }

/-! Scoresheet records (R423 to R433) -/

/-- A hardware record enters the ingest FIFO, or is lost and counted (R432, R435). -/
def State.record (s : State) (kind : Nat) (p0 p1 p2 : Nat) (lapAt : Nat := s.lap.toNat) : State :=
  let x := s.scs
  if s.pfw then s
  else if x.fifo.length ≤ 447 then
    s.updScs fun x => { x with fifo := x.fifo ++
      [{ seq := 0, origin := hwOrigin, kind := kind, pcc := x.pcc.toNat, optime := x.optime.toNat, lap := lapAt % 2 ^ 32,
         p0 := BitVec.ofNat 32 p0, p1 := BitVec.ofNat 32 p1, p2 := BitVec.ofNat 32 p2 }] }
  else
    let l := s.lap.toNat % 2 ^ 32
    match x.lost with
    | none => (s.updScs fun x => { x with lost := some (1, l, l) }).report 0x24 2 0xA 0xA 0
    | some (n, a, _) => s.updScs fun x => { x with lost := some (n + 1, a, l) }

/-- Whether an AUDIT record can be admitted now (R429, R432, R435). -/
def State.auditRoom (s : State) : Bool := !s.pfw && decide (s.scs.fifo.length < 512)

/-- An AUDIT record of an accepted access (R425 kind 0, R428). -/
def State.audit (s : State) (o : Origin) (read rsvd : Bool) (page off : Nat) (data : Reg) (pseq : Reg) : State :=
  s.updScs fun x => { x with fifo := x.fifo ++
    [{ seq := 0, origin := o.bits, kind := 0, pcc := x.pcc.toNat, optime := x.optime.toNat, lap := s.lap.toNat % 2 ^ 32,
       p0 := BitVec.ofNat 32 (b2n read * 2 ^ 31 + b2n rsvd * 2 ^ 30 + page % 512 * 2 ^ 12 + off % 4096),
       p1 := data, p2 := pseq }] }

/-! CRC-32C, of a baton record and of the Scoresheet's header (R242, R436, notes/assumptions/22.md) -/

def crcBit (c : BitVec 32) : BitVec 32 := if c.getLsbD 0 then (c >>> 1) ^^^ 0x82F63B78 else c >>> 1
def crcByte (c : BitVec 32) (b : Byte) : BitVec 32 := (List.range 8).foldl (fun a _ => crcBit a) (c ^^^ b.setWidth 32)
def crc32c (l : List Byte) : BitVec 32 := ~~~(l.foldl crcByte 0xFFFFFFFF)

/-! Throttle cycles (R464) -/

/-- Every CLK_R cycle of this CLK_S cycle is a throttle cycle of the runner's heat: no word and no STR element begins (R464). -/
def State.throttled (s : State) (r : Rid) : Bool :=
  match r with
  | .heat h _ => decide (2 * s.clkS % 16 + 2 ≤ tget 0 s.arb.throt h)
  | .arb => false
/-- This CLK_S cycle issues no carrier element of the heat (R464). -/
def State.carThrottled (s : State) (h : Nat) : Bool := decide (s.clkS % 16 < tget 0 s.arb.throt h)

/-! Modes (R446, R447) -/

def Mode.code : Mode → Nat
  | .factory => 0 | .coldstart => 1 | .service => 2 | .degraded => 3 | .recovery => 4 | .quiesce => 5

/-- A mode transition: MODE.LAST and a MODE record (R447, R425 kind 2). -/
def State.setMode (s : State) (m : Mode) (cause : Nat) : State :=
  let last := cause * 2 ^ 16 + m.code * 2 ^ 8 + s.mode.code
  ({ s with mode := m }.setReg 1 0x108 (BitVec.ofNat 32 last)).record 2 last 0 0

/-- A degraded condition exists (R447). -/
def State.degradedNow (s : State) : Bool :=
  s.linkDown != 0
  || (List.range s.nHeats).any (fun h => s.heatFen.getLsbD h
      || (ridsOf h).any (fun r => (s.runner r).fenced)
      || (List.range 4).any (fun k => tget false s.carFen (4 * h + k)))
  || (List.range s.nPorts).any (fun p => (s.port p).fenced || (s.port p).ls == .contained || s.rfld (0x60 + p) 0x104 22 22 == 1)
  || s.arbRun.fenced

/-- BATSTAT.morph: mirror directory entries with occ 1 and orph 1 are counted from the scratchpad by `Baton`; this is the stored count (R267). -/
def State.morph (s : State) (h : Nat) : Nat := s.rfld (0x10 + h) 0x144 28 16
def State.lorph (s : State) (h : Nat) : Nat := s.rfld (0x10 + h) 0x144 12 0

/-- The reporting transitions of R447: codes 0x20, 0x21 and 0x23. -/
def State.refreshMode (s : State) : State :=
  match s.mode with
  | .service => if s.degradedNow then s.setMode .degraded 0x20 else s
  | .degraded => if s.degradedNow then s else s.setMode .service 0x21
  | .recovery =>
    if (List.range s.nHeats).all (fun h => s.heatFen.getLsbD h || s.morph h == 0) then
      s.setMode (if s.degradedNow then .degraded else .service) 0x23
    else s
  | _ => s

/-- The part outcome of a meaning. -/
abbrev Res := Host.Outcome State Fault Refusal

end Sys2Proof.Machine
end

