-- ==== Sys2Proof/Machine/ControlStore.lean ====
section
/-! DEFINITION. The control stores: words, parity, fences, reload, scrub, and the image loads of IMG (R51, R177 to R205). -/
namespace Sys2Proof.Machine

/-- Words of a control store (R177, R181). -/
def storeSize (st : Nat) : Nat := if st = 16 then 8192 else 32768
/-- The page that shows a store's registers (R196, R205). -/
def storePage (st : Nat) : Nat := if st = 16 then 6 else 0x50 + st
def storeOff (st : Nat) : Nat := if st = 16 then 0x300 else 0x100

def State.cword (s : State) (st a : Nat) : MoveWord := tget 0 s.cwords (32768 * st + a)
def State.setCword (s : State) (st a : Nat) (w : MoveWord) : State := { s with cwords := tset 0 s.cwords (32768 * st + a) w }

/-- Even parity of the eight groups of a word (R50, R51). -/
def parityOk (w : MoveWord) : Bool :=
  (List.range 8).all fun k =>
    ((List.range 20).filter fun j => w.getLsbD (20 * k + j)).length % 2 == b2n (w.getLsbD (160 + k))

/-- The four words of a line (R177). -/
def State.lineWords (s : State) (st line : Nat) : List MoveWord := (List.range 4).map fun j => s.cword st (4 * line + j)

/-- State of a line in the fence table: 0 free, 1 RELOAD, 2 PERM (R183, R199). -/
def State.fenceOf (s : State) (st line : Nat) : Nat :=
  match (s.cstore st).fence.find? fun e => e.2.line == line with
  | some e => e.2.state
  | none => 0
/-- A FENCE register's entry. -/
def CStore.fenceAt (c : CStore) (k : Nat) : CFence := tget {} c.fence k
/-- The lowest free entry of the table. -/
def CStore.freeFence (c : CStore) : Option Nat := (List.range 4).find? fun k => (c.fenceAt k).state == 0
/-- The entry of a line becomes free, or PERM (R184). -/
def CStore.fenceFree (c : CStore) (line : Nat) : CStore := { c with fence := c.fence.filter fun e => e.2.line != line }
def CStore.fencePerm (c : CStore) (line : Nat) : CStore :=
  { c with fence := c.fence.map fun e => if e.2.line = line then (e.1, { e.2 with state := 2 }) else e }

/-- A failing line enters the fence table and asks for its reload, or finds the table full (R182, R183, R185). -/
def State.enterFence (s : State) (st line : Nat) : State :=
  if s.fenceOf st line ≠ 0 then s
  else match (s.cstore st).freeFence with
    | some k => (s.updCs st fun c => { c with fence := tset {} c.fence k { state := 1, line := line } }).updImg fun m => { m with rq := m.rq ++ [(st, line)] }
    | none => s.report 0x09 0 (storePage st) (storePage st) (line % 65536) line

def satCount16 (n : BitVec 16) : BitVec 16 := BitVec.ofNat 16 (satAdd 16 n.toNat 1)

/-- One read of the scrub (R186). -/
def State.scrubLine (s : State) (st : Nat) : State :=
  let c := s.cstore st
  if (s.reg (storePage st) (storeOff st)).getLsbD 0 && c.valid then
    let line := if c.count / 4 ≤ c.line then 0 else c.line
    let s := if (s.lineWords st line).all parityOk then s
      else ((s.updCs st fun c => { c with errors := satCount16 c.errors }).report 0x08 0 (storePage st) (storePage st) (line % 65536) line).enterFence st line
    if c.count / 4 ≤ line + 1 then s.updCs st fun c => { c with line := 0, passes := c.passes + 1 }
    else s.updCs st fun c => { c with line := line + 1 }
  else s

/-! Images (R187 to R191) -/

/-- `n` bytes of a byte string from `a` on. -/
def bslice (l : List Byte) (a n : Nat) : List Byte := (l.drop a).take n
def bnat (l : List Byte) (a n : Nat) : Nat := leNat (bslice l a n)
def bzero (l : List Byte) (a n : Nat) : Bool := (bslice l a n).all fun b => b == 0
/-- A digest as its 48 octets name it, big-endian. -/
def digestOf (l : List Byte) (a : Nat) : BitVec 384 := BitVec.ofNat 384 (leNat (bslice l a 48).reverse)

/-- Word `j` of a segment (R188). -/
def segWord (l : List Byte) (j : Nat) : MoveWord := BitVec.ofNat 168 (bnat l (32 * j) 21)
/-- A word of a segment passes parity and its bytes 21 to 31 are zero (R190 step 8). -/
def segWordOk (l : List Byte) (j : Nat) : Bool := parityOk (segWord l j) && bzero l (32 * j + 21) 11

/-- An IMAGE record (R425 kind 4). -/
def State.imageRecord (s : State) (reload arb : Bool) (heats code : Nat) (hdr : List Byte) : State :=
  s.record 4 (b2n reload * 2 ^ 31 + b2n arb * 2 ^ 24 + heats % 2 ^ 16 * 2 ^ 8 + code % 2 ^ 8) (bnat hdr 8 4) (bnat hdr 0x18 4)

/-- The segment that holds a line. -/
def segOfLine (line : Nat) : Nat := 4 * line / 2048

/-- The reads of IMG that bring `n` bytes of a container from `a` on, each within one line and a power of two long (R33, R34, R187). -/
def State.imgReads (s : State) (a n : Nat) : State :=
  let lines := s.each (List.range (n / 256)) fun s k => s.put (.rdImg (s.linkOf (a + 256 * k)) (a + 256 * k) 256)
  let rest (s : State) (z : Nat) : State :=
    let x := a + n / (2 * z) * (2 * z)
    if (n / z) % 2 = 1 then s.put (.rdImg (s.linkOf x) x z) else s
  lines.each [128, 64, 32, 16, 8] rest

/-- Offset of a body segment in its container (R187). -/
def segOffset (seg : Nat) : Nat := 0x1000 + seg * 0x10000
/-- Words of a segment of an image of `count` words (R188). -/
def segWords (count seg : Nat) : Nat := min 2048 (count - 2048 * seg)

/-- Code of a reload: 0 OK, 7 digest, 9 host (R184). -/
def State.reloadCode (s : State) (st line : Nat) (hdr seg : HostData) : Nat :=
  let n := segWords (s.cstore st).count (segOfLine line)
  if hdr.resp ≠ .ok then 9
  else if (s.cstore st).digest ≠ some (Config.sha384 (bslice hdr.bytes 0 0x400)) then 7
  else if seg.resp ≠ .ok then 9
  else if Config.sha384 (seg.bytes.take (32 * n)) ≠ digestOf hdr.bytes (0x100 + 48 * segOfLine line) then 7
  else 0

/-- The reads of a reload: the header of the golden container, then, where its digest matches, the segment of the line (R184). -/
def State.reloadReads (s : State) (st line : Nat) (hdr : HostData) : State :=
  let c := s.cstore st
  let a := c.gold.toNat * 4096; let seg := segOfLine line
  let s := s.imgReads a 0x460
  if hdr.resp = .ok ∧ c.digest = some (Config.sha384 (bslice hdr.bytes 0 0x400)) then s.imgReads (a + segOffset seg) (32 * segWords c.count seg) else s

/-- The reads that a load in progress makes next: its header, or its present segment (R187, R190). -/
def State.loadReads (s : State) : State :=
  let a := s.img.src.toNat * 4096
  if s.img.hdr.isEmpty then s.imgReads a 0x1000
  else s.imgReads (a + segOffset s.img.seg) (32 * segWords (bnat s.img.hdr 0x10 4) s.img.seg)

/-- A load in progress at a segment boundary: while reloads wait it is paused, else it reads on (R185). -/
def State.loadOn (s : State) : State :=
  if s.img.rq.isEmpty then (s.updImg fun m => { m with paused := false }).loadReads else s.updImg fun m => { m with paused := true }

/-- A load ends with a code (R190, R203). -/
def State.imgEnd (s : State) (code : Nat) : State :=
  let m := s.img
  (s.updImg fun m => { m with state := 0, paused := false, code := BitVec.ofNat 8 code, abort := false, hdr := [] }).imageRecord false m.arb
    m.heats.toNat code m.hdr

/-- The next reads of a load, or its end where no link is live (R34). -/
def State.loadGo (s : State) : State :=
  if s.linkLive || !s.img.rq.isEmpty then s.loadOn else (s.report 0x10 5 0 0 0 (s.img.src.toNat * 4096)).imgEnd 9

/-- A segment boundary of a load (R185, R201): abort ends it there, and a reload that was requested runs there. -/
def State.imgBoundary (s : State) : State := if s.img.abort then s.imgEnd 0xA else s.loadGo

/-- The oldest reload ends (R184, R185, R204); a load that it held goes on once no reload waits. -/
def State.reloadEnd (s : State) (st line code : Nat) (hdr seg : List Byte) : State :=
  let s := s.updImg fun m => { m with rq := m.rq.drop 1, rcode := BitVec.ofNat 8 code, rstore := BitVec.ofNat 5 st, rcount := satCount16 m.rcount }
  let s := s.imageRecord true (decide (st = 16)) (if st = 16 then 0 else 2 ^ st) code hdr
  let s := if code = 0 then
      (s.each (List.range 4) fun s j => s.setCword st (4 * line + j) (segWord seg ((4 * line + j) % 2048))).updCs st
        fun c => { c.fenceFree line with reloads := satCount16 c.reloads }
    else (s.updCs st fun c => c.fencePerm line).report 0x09 1 (storePage st) (storePage st) (line % 65536) line
  if s.img.paused then s.imgBoundary else s

/-- The reload that runs now: the oldest requested, while no load is between its boundaries (R185). -/
def State.reloadNow (s : State) : Option (Nat × Nat) := if s.img.state = 1 ∧ s.img.paused = false then none else s.img.rq.head?

/-- RELOAD with what its reads gave; BUSY makes them again (R33, R184). Without a live link they end in ERR (R34). -/
def State.reload (s : State) (hdr seg : HostData) : State :=
  match s.reloadNow with
  | none => s
  | some (st, line) =>
    if s.linkLive then
      let s := s.reloadReads st line hdr
      if hdr.resp = .busy ∨ seg.resp = .busy then s else s.reloadEnd st line (s.reloadCode st line hdr seg) hdr.bytes seg.bytes
    else (s.report 0x10 5 0 0 0 ((s.cstore st).gold.toNat * 4096)).reloadEnd st line 9 [] []

/-- A runner counts as stopped for an image load (R190). -/
def Runner.idle (x : Runner) : Bool := x.fenced || x.run == .stopped || x.run == .handoff

/-- The targets of IMG.TGT: heats present, and the Arbiter (R201). -/
def State.imgHeats (s : State) : BitVec 16 := BitVec.ofNat 16 (s.rfld 6 0x104 15 0 % 2 ^ s.nHeats)
def State.imgArb (s : State) : Bool := s.rfld 6 0x104 16 16 == 1
/-- IMG.SRC as a container address (R202). -/
def State.imgSrc (s : State) : BitVec 40 := BitVec.ofNat 40 (s.rfld 6 0x108 31 12 + s.rfld 6 0x10C 19 0 * 2 ^ 20)

/-- The lifecycle state code; undefined codes act as DECOMMISSIONED (R29). -/
def State.lifeCode (s : State) : Nat := min s.life.toNat 4

/-- The zero fields of a container header (R187). -/
def hdrZeros (l : List Byte) : Bool :=
  bzero l 0xE 2 && bzero l 0x20 96 && bzero l 0xE1 31 && bzero l 0x460 2976 && decide (bnat l 0xD 1 < 32)
  && (List.range 16).all fun k => decide (k < bnat l 0x14 4) || bzero l (0x100 + 48 * k) 48

/-- Step 1 of R190: every target stands still, or the mode is COLDSTART. -/
def State.imgFree (s : State) (heats : BitVec 16) (arb : Bool) : Bool :=
  s.mode == .coldstart
  || ((List.range s.nHeats).all (fun k => !heats.getLsbD k || (ridsOf k).all fun r => (s.runner r).idle) && (!arb || s.arbRun.idle))

/-- The digest of a fused key slot that is not revoked; slot numbers above 1 name none (R189). -/
def Fuses.slotKey (f : Fuses) (k : Nat) : Option (BitVec 384) :=
  let x := if k = 0 then f.key0 else f.key1
  if 1 < k ∨ x.revoked = true then none else some x.digest

/-- Steps 1 to 7 of R190; 0 where all pass. -/
def State.imgCheck (s : State) (heats : BitVec 16) (arb : Bool) (h : HostData) : Nat :=
  let l := h.bytes
  if !s.imgFree heats arb then 1
  else if h.resp ≠ .ok then 9
  else if !(bslice l 0 4 == [0x4F, 0x42, 0x44, 0x58] && bnat l 4 2 == 1 && hdrZeros l
      && (if arb then bnat l 6 2 == 2 && heats == 0 else bnat l 6 2 == 1 && heats != 0)) then 2
  else if s.fuses.slotKey (bnat l 0xC 1) ≠ some (Config.sha384 (bslice l 0x80 97)) then 3
  else if !Config.ecdsaP384 (bslice l 0x80 97) (Config.sha384 (bslice l 0 0x400)) (bslice l 0x400 96) then 4
  else if bnat l 8 4 < max s.fuses.svnMin.toNat (s.rfld 6 0x114 31 16) then 5
  else if (bnat l 0xD 1 / 2 ^ s.lifeCode) % 2 = 0 then 6
  else if !(bnat l 0x10 4 % 4 == 0 && decide (4 ≤ bnat l 0x10 4 ∧ bnat l 0x10 4 ≤ storeSize (if arb then 16 else 0))
      && bnat l 0x14 4 == (bnat l 0x10 4 + 2047) / 2048) then 2
  else 0

/-- Start of a load: its targets and address take effect; a target that runs ends it at once, else its header is read (R190, R201, R202). -/
def State.imgStart (s : State) : State :=
  let heats := s.imgHeats; let arb := s.imgArb; let src := s.imgSrc
  let s := s.updImg fun m => { m with state := 1, paused := false, seg := 0, abort := false, hdr := [], heats := heats, arb := arb, src := src }
  if !s.imgFree heats arb then s.imgEnd 1
  else if s.linkLive then s.loadReads else (s.report 0x10 5 0 0 0 (src.toNat * 4096)).imgEnd 9

/-- A load waits for its header. -/
def State.imgWaits (s : State) : Bool := s.img.state == 1 && s.img.hdr.isEmpty

/-- The header arrives: checks 1 to 7 (R190, R191). -/
def State.imgHeader (s : State) (h : HostData) : State :=
  if h.resp = .busy then s.loadReads
  else
    let s := s.updImg fun m => { m with hdr := h.bytes }
    match s.imgCheck s.img.heats s.img.arb h with
    | 0 => s.imgBoundary
    | c => s.imgEnd c

/-- The stores a load writes. -/
def State.imgTargets (s : State) : List Nat :=
  (List.range 16).filter (fun k => s.img.heats.getLsbD k) ++ (if s.img.arb then [16] else [])

/-- The load has written every segment (R191, R202). -/
def State.imgSuccess (s : State) : State :=
  let l := s.img.hdr
  let s := s.each s.imgTargets fun s st => s.updCs st fun c =>
    { c with valid := true, count := bnat l 0x10 4, fence := [], digest := some (Config.sha384 (bslice l 0 0x400)), gold := s.img.src }
  let ts := s.imgTargets
  (s.updImg fun m => { m with rq := m.rq.filter fun e => !ts.contains e.1 }).imgEnd 0

/-- One segment is read, checked and written into every target store; its end is a segment boundary (R185, R190 step 8, R191, R201). -/
def State.imgSegment (s : State) (d : HostData) : State :=
  let m := s.img
  if s.imgWaits then s.imgHeader d
  else if m.state ≠ 1 ∨ m.paused = true then s
  else if d.resp = .busy then s.loadReads
  else if d.resp ≠ .ok then s.imgEnd 9
  else
    let n := segWords (bnat m.hdr 0x10 4) m.seg
    if Config.sha384 (d.bytes.take (32 * n)) ≠ digestOf m.hdr (0x100 + 48 * m.seg) then s.imgEnd 7
    else if !(List.range n).all (segWordOk d.bytes) then s.imgEnd 8
    else
      let s := s.each s.imgTargets fun s st =>
        (s.updCs st fun c => { c with valid := false }).each (List.range n) fun s j => s.setCword st (2048 * m.seg + j) (segWord d.bytes j)
      if bnat m.hdr 0x14 4 ≤ m.seg + 1 then (if m.abort then s.imgEnd 0xA else s.imgSuccess)
      else (s.updImg fun m => { m with seg := m.seg + 1 }).imgBoundary

/-- A host read of IMG exceeds its time: the reload entry becomes PERM, or the load ends HOST (R184, R190, R481). -/
def State.imgTimeout (s : State) (link : Nat) : State :=
  match s.reloadNow with
  | some (st, line) => (s.report 0x10 0 6 6 link).reloadEnd st line 9 [] []
  | none => if s.img.state = 1 then (s.report 0x10 0 6 6 link).imgEnd 9 else s

end Sys2Proof.Machine
end

