-- ==== Sys2Proof/Machine/Starter.lean ====
section
/-! DEFINITION. The Starter slices: pending sources, presentation, claim and end of interrupt (R327 to R342). -/
namespace Sys2Proof.Machine

/-- A runner is live: present, not fenced and not stopped for handoff (notes/assumptions/20.md). -/
def State.liveR (s : State) (r : Rid) : Bool :=
  s.ridPresent r && !(s.runner r).fenced && (s.runner r).run != .handoff

/-- Live runners of a heat. -/
def State.liveCount (s : State) (h : Nat) : Nat := ((ridsOf h).filter s.liveR).length

/-- HEAT[h].BATCTL.take names runner `i` (R267). -/
def State.takes (s : State) (h i : Nat) : Bool := (s.reg (0x10 + h) 0x140).getLsbD i

/-- A unit is attached to an extension block (R117, R118). -/
def State.extAttached (s : State) (h b : Nat) : Bool := s.fuses.variant.full && tget false s.fuses.extAtt (4 * h + b)

/-- A source that a slice implements (R273, R327, R342). -/
def State.srcOk (s : State) (sl src : Nat) : Bool :=
  if sl = 16 then decide (src < 8)
  else if src < 0x40 then true
  else if src < 0x50 then decide (src % 4 < 2)
  else if src < 0x60 then s.extAttached sl ((src - 0x50) / 4)
  else if src < 0x80 then s.fuses.variant.full
  else if src < 0xC0 then true
  else if src < 0xD2 then true
  else decide (0xF0 ≤ src ∧ src ≤ 0xF4)

/-- A source number inside a slice that is reserved for want of a definition, not of a unit (R346). -/
def srcReserved (sl src : Nat) : Bool :=
  if sl = 16 then decide (8 ≤ src)
  else decide (0x40 ≤ src ∧ src < 0x50 ∧ 2 ≤ src % 4) || decide (0xD2 ≤ src ∧ src < 0xF0) || decide (0xF5 ≤ src)

/-- Level sources (R327). -/
def srcLevel (sl src : Nat) : Bool := decide (sl ≠ 16) && (decide (0x50 ≤ src ∧ src < 0x60) || decide (src = 0xF3))
/-- The per-runner source HANDOFF (R327). -/
def srcHand (sl src : Nat) : Bool := decide (sl ≠ 16 ∧ src = 0xF0)
/-- The runner a timer source is fixed to (R327, R342). -/
def srcTimer (sl src : Nat) : Option Nat :=
  if sl = 16 then (if src = 6 ∨ src = 7 then some 0 else none)
  else if 0xC0 ≤ src ∧ src < 0xD2 then some ((src - 0xC0) / 2) else none

/-- The page that holds a slice's registers (R342, R346). -/
def slicePage (sl : Nat) : Nat := if sl = 16 then 7 else 0x10 + sl

def State.srcMasked (s : State) (sl src : Nat) : Bool := (s.reg (slicePage sl) (0x260 + 4 * (src / 32))).getLsbD (src % 32)
def State.srcPrio (s : State) (sl src : Nat) : Nat := tget 0 (s.slice sl).prio src
def State.srcTarget (s : State) (sl src : Nat) : Nat :=
  match srcTimer sl src with
  | some i => i
  | none => tget 0 (s.slice sl).target src

/-- Pending for runner `i`: R328, R336. -/
def Slice.isPend (x : Slice) (sl src i : Nat) : Bool :=
  if srcHand sl src then tget false x.handP i
  else if srcLevel sl src then (tget false x.line src && tget 0 x.act src == 0) || tget false x.pend src
  else tget false x.pend src
/-- Active for runner `i` (R332). -/
def Slice.isAct (x : Slice) (sl src i : Nat) : Bool :=
  if srcHand sl src then tget false x.handA i else tget 0 x.act src == i + 1
/-- Active for any runner. -/
def Slice.anyAct (x : Slice) (sl src i : Nat) : Bool :=
  if srcHand sl src then tget false x.handA i else tget 0 x.act src != 0

def Slice.rprio (x : Slice) (i : Nat) : RunPrio := tget {} x.rp i
def Slice.updRp (x : Slice) (i : Nat) (f : RunPrio → RunPrio) : Slice := { x with rp := tset {} x.rp i (f (x.rprio i)) }
/-- The running priority (R333). -/
def RunPrio.cur (p : RunPrio) : Nat := match p.stack with | [] => 0 | (_, k) :: _ => k
/-- The threshold of presentation, entry hold included (R330). -/
def RunPrio.thr (p : RunPrio) : Nat := match p.ehold with | none => p.cur | some e => max p.cur e

/-- The better of two sources: the higher priority, then the lower number (R330). -/
def betterSrc (a b : Nat × Nat) : Nat × Nat := if a.2 > b.2 ∨ (a.2 = b.2 ∧ a.1 ≤ b.1) then a else b

def bestSrc : List (Nat × Nat) → Option (Nat × Nat)
  | [] => none
  | a :: t => match bestSrc t with | none => some a | some b => some (betterSrc a b)

/-- An offer stands until it is claimed, withdrawn, or the running priority reaches its priority (R338). -/
def Slice.offersOf (x : Slice) (sl i : Nat) : List (Nat × Nat) :=
  (x.rprio i).offers.filter fun o => x.isPend sl o.1 i && !x.anyAct sl o.1 i && decide ((x.rprio i).cur < o.2)
/-- A source that is offered to another runner: no other claim returns it (R338). -/
def Slice.offeredElse (x : Slice) (sl src i : Nat) : Bool :=
  !srcHand sl src && x.rp.any fun e => e.1 != i && (x.offersOf sl e.1).any fun o => o.1 == src

/-- A source is deliverable to a runner above `thr` (R330, R338). -/
def State.canDeliver (s : State) (r : Rid) (thr src : Nat) : Bool :=
  let sl := r.home; let i := r.idx; let x := s.slice sl
  s.srcOk sl src && x.isPend sl src i && !x.anyAct sl src i && !s.srcMasked sl src && decide (1 ≤ s.srcPrio sl src)
  && (srcHand sl src || s.srcTarget sl src == i) && decide (thr < s.srcPrio sl src) && !x.offeredElse sl src i

/-- The source deliverable to a runner above `thr`, with its priority (R330). -/
def State.deliverable (s : State) (r : Rid) (thr : Nat) : Option (Nat × Nat) :=
  let x := s.slice r.home
  let cands := x.pend.map (·.1) ++ x.line.map (·.1) ++ (if r.home ≠ 16 then [0xF0] else [])
  bestSrc ((cands.filter fun c => s.canDeliver r thr c).map fun c => (c, s.srcPrio r.home c))

/-- A runner's running priority and threshold of presentation (R330, R333). -/
def State.prioOf (s : State) (r : Rid) : RunPrio := (s.slice r.home).rprio r.idx

/-- An interrupt is pending for a runner (R330). -/
def State.intrPending (s : State) (r : Rid) : Bool := (s.deliverable r (s.prioOf r).thr).isSome

/-- The better of a deliverable source and an offered one: the offered one unless the other has a higher priority (R338). -/
def pickSrc : Option (Nat × Nat) → Option (Nat × Nat) → Option (Nat × Nat)
  | none, o => o
  | d, none => d
  | some d, some o => some (if d.2 > o.2 then d else o)

/-- The offer that a claim of the runner would take (R338). -/
def State.offered (s : State) (r : Rid) : Option (Nat × Nat) := bestSrc ((s.slice r.home).offersOf r.home r.idx)

/-- Of the sources that have been presented to a runner, and are deliverable above `thr` or still offered, the highest (R331, R338). -/
def State.presented (s : State) (r : Rid) (thr : Nat) : Option (Nat × Nat) :=
  pickSrc (bestSrc (((s.prioOf r).seen.filter fun c => s.canDeliver r thr c).map fun c => (c, s.srcPrio r.home c)))
    (bestSrc (((s.slice r.home).offersOf r.home r.idx).filter fun o => decide (thr < o.2)))

/-- The source an interrupt entry takes (R103, R331, R339). -/
def State.intrSource (s : State) (r : Rid) : Option (Nat × Nat) := s.presented r (s.prioOf r).thr

/-- A source that is no longer deliverable above the running priority has to be presented again (R331, R334, R338). -/
def State.settleSeen (s : State) (sl : Nat) : State :=
  s.each (if sl = 16 then [Rid.arb] else ridsOf sl) fun s r =>
    if (s.prioOf r).seen.isEmpty then s
    else s.updSl sl fun x => x.updRp r.idx fun p => { p with seen := p.seen.filter fun c => s.canDeliver r p.cur c }

/-- A source's edge event (R328, R337); HANDOFF is raised for the live runners named in take. -/
def State.raise (s : State) (sl src : Nat) : State :=
  if !s.srcOk sl src then s
  else if s.mode = .quiesce then s.updSl sl fun x => { x with latched := tset false x.latched src true }
  else if srcHand sl src then
    let add (t : Table Bool) (i : Nat) : Table Bool := if s.takes sl i && s.liveR (.heat sl i) then tset false t i true else t
    s.updSl sl fun x => { x with handP := (List.range 9).foldl add x.handP }
  else s.updSl sl fun x => { x with pend := tset false x.pend src true }

/-- A level input changes (R328); while CLK_C is stopped it is sampled at wake (R337). -/
def State.setLine (s : State) (sl src : Nat) (b : Bool) : State :=
  s.updSl sl fun x => { x with line := tset false x.line src b }

/-- The level 0xF3 of a heat follows the classes aimed at it that have intr set (R413). -/
def State.syncF3 (s : State) (h : Nat) : State :=
  s.setLine h 0xF3 (s.ref.cls.any fun e => e.2.sev && e.2.eff.getLsbD 2 && e.2.intrAt.contains h)

/-- Present the best source to a runner; it is offered to it from now on (R331, R338). -/
def State.present (s : State) (r : Rid) : State :=
  match s.deliverable r (s.prioOf r).thr with
  | none => s
  | some c => s.updSl r.home fun x => x.updRp r.idx fun p =>
      { p with offers := p.offers.filter (fun o => o.1 != c.1) ++ [c], seen := p.seen.filter (fun a => a != c.1) ++ [c.1] }

/-- A claim: the highest deliverable source judged against the running priority, or the offered one; it is marked active and pushed (R332, R338). -/
def State.claim (s : State) (r : Rid) : State × Nat × Nat :=
  let sl := r.home; let i := r.idx
  match pickSrc (s.deliverable r (s.prioOf r).cur) (s.offered r) with
  | none => (s.updSl sl fun x => x.updRp i fun p => { p with ehold := none }, 0x3FF, 0)
  | some (src, pr) =>
    ((s.updSl sl fun x =>
      let x := if srcHand sl src then { x with handP := tset false x.handP i false, handA := tset false x.handA i true }
        else { x with pend := tset false x.pend src false, act := tset 0 x.act src (i + 1) }
      x.updRp i fun p => { p with stack := (src, pr) :: p.stack, ehold := none,
                                  offers := p.offers.filter fun o => o.1 != src && decide (pr < o.2) }).settleSeen sl, src, pr)

/-- End of interrupt: false where the source is not active for the runner (R334). -/
def State.eoi (s : State) (r : Rid) (src : Nat) : State × Bool :=
  let sl := r.home; let i := r.idx
  let x := s.slice sl
  if x.isAct sl src i && (x.rprio i).stack.any (fun e => e.1 == src) then
    (s.updSl sl fun x =>
      let x := if srcHand sl src then { x with handA := tset false x.handA i false } else { x with act := tset 0 x.act src 0 }
      x.updRp i fun p => { p with stack := p.stack.filter fun e => e.1 != src }, true)
  else (s, false)

/-- The entry hold begins at an interrupt entry's commit (R335). -/
def State.entryHold (s : State) (r : Rid) (pr : Nat) : State :=
  s.updSl r.home fun x => x.updRp r.idx fun p => { p with ehold := some pr }
/-- The entry hold ends at the commit of a t_eret or t_sret (R335). -/
def State.endHold (s : State) (r : Rid) : State :=
  s.updSl r.home fun x => x.updRp r.idx fun p => { p with ehold := none }

/-- An event given by software: SIG.t_pend or a write of 1 to SPEND (R336). -/
def State.softEvent (s : State) (sl src : Nat) : State := s.raise sl src

/-- A runner's part of its slice at its fence (R341). -/
def State.sliceFence (s : State) (r : Rid) : State :=
  let sl := r.home; let i := r.idx
  (s.updSl sl fun x =>
    let x := { x with act := x.act.filter fun e => e.2 != i + 1, handA := tset false x.handA i false,
                      handP := tset false x.handP i false, rp := tset {} x.rp i {} }
    let t0 := if sl = 16 then 6 else 0xC0 + 2 * i
    { x with pend := tset false (tset false x.pend t0 false) (t0 + 1) false }).updR r
    fun x => { x with tim0 := none, tim1 := none }

/-- The slice of a runner at its start: empty stack, threshold 0 (R341). -/
def State.sliceStart (s : State) (r : Rid) : State :=
  s.updSl r.home fun x => x.updRp r.idx fun _ => {}

end Sys2Proof.Machine
end

