-- ==== Sys2Proof/Machine/Memory.lean ====
section
/-! DEFINITION. The scratchpads and the Arbiter data memory: reads, writes, error state, reservations, wipes (R271, R296, R303 to R307). -/
namespace Sys2Proof.Machine

/-- Bytes of a memory: 6 MiB of a heat, 256 KiB of the Arbiter (R271, R296). -/
def memLen (m : Nat) : Nat := if m = 16 then 0x40000 else 0x600000
/-- Where the secure part of a memory begins; it runs to the end (R271, R296). -/
def secBase (m : Nat) : Nat := if m = 16 then 0x38000 else 0x580000
def inSecure (m a : Nat) : Bool := decide (secBase m ≤ a ∧ a < memLen m)
def spadKey (m a : Nat) : Nat := 0x800000 * m + a

/-- The canonical form of a byte memory (notes/assumptions/3.md): keys strictly rising, no listed byte zero. -/
def Memory.wf (t : Table Byte) : Bool := twf 0 t

def State.byteAt (s : State) (m a : Nat) : Byte := if m = 16 then tget 0 s.arbMem a else tget 0 s.spads (spadKey m a)
def State.setByte (s : State) (m a : Nat) (b : Byte) : State :=
  if m = 16 then { s with arbMem := tset 0 s.arbMem a b } else { s with spads := tset 0 s.spads (spadKey m a) b }
/-- `n` bytes from `a` up. -/
def State.bytesAt (s : State) (m a : Nat) : Nat → List Byte
  | 0 => []
  | n + 1 => s.byteAt m a :: s.bytesAt m (a + 1) n
/-- Store bytes from `a` up. -/
def State.setBytes (s : State) (m a : Nat) : List Byte → State
  | [] => s
  | b :: t => (s.setByte m a b).setBytes m (a + 1) t
/-- `n` bytes from `a` up, little-endian. -/
def State.numAt (s : State) (m a n : Nat) : Nat := leNat (s.bytesAt m a n)

/-- Words that an access touches, as word addresses. -/
def wordsOf (a n : Nat) : List Nat := if n = 0 then [] else (List.range ((a + n - 1) / 8 - a / 8 + 1)).map (a / 8 + ·)

/-- The bank of a word (R296). -/
def bankOf (m w : Nat) : Nat := if m = 16 then w % 8 else w % 32
/-- Reports of memory errors name SPAD[h], or ARBRUN for the Arbiter data memory (R271, R303). -/
def memPage (m : Nat) : Nat := if m = 16 then 0x190 else 0x30 + m

/-- One word is read: a single-bit error is corrected, counted, reported and held; a double-bit error is counted and reported (R303). True: uncorrectable. -/
def State.readWordErr (s : State) (m w : Nat) : State × Bool :=
  let u := s.up m
  match u.ecc.find? (fun e => e.1 == w) with
  | none => (s, false)
  | some (_, .single) =>
    if tget false u.held w then (s, false)
    else
      let room := decide ((u.held.filter fun e => bankOf m e.1 == bankOf m w).length < 4)
      let s := s.when room fun s => s.updUp m fun u => { u with held := tset false u.held w true }
      if m = 16 then (s.report 0x0C 3 0x190 0x190 (bankOf m w) (8 * w), false)
      else ((s.satInc (0x30 + m) 0x108 15 0).report 0x0C 0 (0x30 + m) (0x30 + m) (bankOf m w) (8 * w), false)
  | some (_, .double) =>
    if m = 16 then (s.report 0x0D 2 0x190 0x190 (bankOf m w) (8 * w), true)
    else
      let s := (s.satInc (0x30 + m) 0x108 31 16).setReg (0x30 + m) 0x10C (BitVec.ofNat 32 (2 ^ 31 + 8 * w))
      let s := s.when (inSecure m (8 * w)) fun s => s.updArb fun a => { a with secok := putBit a.secok m false }
      ((s.raise m 0xF4).report 0x0D 0 (0x30 + m) (0x30 + m) (bankOf m w) (8 * w), true)

/-- A word of the range is uncorrectable. -/
def State.spadBad (s : State) (m a n : Nat) : Bool := (s.up m).ecc.any fun e => e.2 == .double && decide (a / 8 ≤ e.1 ∧ e.1 ≤ (a + n - 1) / 8)

/-- A read of `n` bytes: its data and whether a word of it was uncorrectable. -/
def State.memRead (s : State) (m a n : Nat) : State × List Byte × Bool :=
  let (s', bad) := (wordsOf a n).foldl (fun (p : State × Bool) w => let (s1, b) := p.1.readWordErr m w; (s1, p.2 || b)) (s, false)
  (s', s'.bytesAt m a n, bad)

/-- The error state of a word after a write of it: a full write clears it, a partial write into an uncorrectable word keeps
it (R304), the next injected error of the word applies (R419), a held correction is cancelled (R303). -/
def State.writeWordErr (s : State) (m w : Nat) (full : Bool) : State :=
  let u := s.up m
  match u.inj.find? (fun e => e.1 == w) with
  | some (_, k) => s.updUp m fun u => { u with ecc := (u.ecc.filter fun e => e.1 != w) ++ [(w, k)], inj := u.inj.filter fun e => e.1 != w,
                                               held := tset false u.held w false }
  | none =>
    if full then s.updUp m fun u => { u with ecc := u.ecc.filter fun e => e.1 != w, held := tset false u.held w false }
    else s.updUp m fun u => { u with ecc := u.ecc.filter fun e => e.1 != w || e.2 == .double, held := tset false u.held w false }

/-- Reservations on the granules of an access are lost (R106). -/
def State.loseResv (s : State) (m a n : Nat) : State :=
  let rs := if m = 16 then [Rid.arb] else ridsOf m
  s.each rs fun s r =>
    match (s.runner r).resv with
    | none => s
    | some (g, _) => if a / 64 ≤ g ∧ g ≤ (a + n - 1) / 64 then s.updR r fun x => { x with resv := none } else s

/-- A word that a write of `n` bytes at `a` writes whole. -/
def wholeWord (a n w : Nat) : Bool := decide (a ≤ 8 * w ∧ 8 * w + 8 ≤ a + n)

/-- A write of bytes by any requester (R106, R303, R304); a word that is written in part is read for the merge. -/
def State.memWrite (s : State) (m a : Nat) (bs : List Byte) : State :=
  let n := bs.length
  if n = 0 then s
  else
    let s := s.each (wordsOf a n) fun s w => if wholeWord a n w then s else (s.readWordErr m w).1
    let s := s.setBytes m a bs
    let s := s.each (wordsOf a n) fun s w => s.writeWordErr m w (wholeWord a n w)
    s.loseResv m a n

/-- `n` collisions in a scratchpad are counted (R302); the Arbiter data memory has no count. -/
def State.collide (s : State) (m : Nat) (n : Nat := 1) : State := if m = 16 then s else s.satInc (0x30 + m) 0x110 31 16 n

/-- The ranges of a scratchpad that only the baton path and the publication path write (R240, R288). -/
def inReserved (m a : Nat) : Bool := decide (m ≠ 16 ∧ 0x36E000 ≤ a ∧ a < 0x580000)

/-- A write from LSU, STR, ATM, a frame or the host window: into a reserved range it is discarded and reported (R240, R288). -/
def State.userWrite (s : State) (m a : Nat) (bs : List Byte) (who : Nat) : State :=
  if inReserved m a || inReserved m (a + bs.length - 1) then s.report 0x04 4 (0x30 + m) who (bankOf m (a / 8)) a
  else s.memWrite m a bs

/-- The secure part of a memory becomes zero data with valid check bytes (R306). -/
def State.zeroSecure (s : State) (m : Nat) : State :=
  let s := if m = 16 then { s with arbMem := tkeep (fun a => decide (a < secBase 16)) s.arbMem }
    else { s with spads := tkeep (fun k => !decide (spadKey m (secBase m) ≤ k ∧ k < spadKey m (memLen m))) s.spads }
  s.updUp m fun u => { u with ecc := tkeep (fun w => decide (8 * w < secBase m)) u.ecc, held := tkeep (fun w => decide (8 * w < secBase m)) u.held }

/-- A runner's store-buffer entries aimed at the secure part of `m` are discarded (R307). -/
def Runner.dropSecure (x : Runner) (m : Nat) : Runner :=
  let out (l : List StoreEnt) : List StoreEnt := l.filter fun e => !inSecure m e.addr
  let gone (n : Nat) : Nat := (x.stores.take n).length - (out (x.stores.take n)).length
  { x with stores := out x.stores, frameOld := x.frameOld - gone x.frameOld,
           ops := x.ops.map fun (o : Op) => match o.kind with | .sync n => { o with kind := .sync (n - gone n) } | _ => o }

/-- A wipe starts, or restarts (R306, R307): store-buffer entries aimed at the secure part are discarded and secok is cleared. -/
def State.startWipe (s : State) (m : Nat) : State :=
  let s := s.updUp m fun u => { u with wipe := true }
  let rs := if m = 16 then [Rid.arb] else ridsOf m
  let s := s.each rs fun s r =>
    if (s.runner r).stores.any (fun e => inSecure m e.addr) then s.updR r fun x => x.dropSecure m else s
  s.when (decide (m < 16)) fun s => s.updArb fun a => { a with secok := putBit a.secok m false }

/-- A wipe ends (R307): the secure part is zero, reservations in it are lost (R106), it is good again (R293), wiped becomes 1. -/
def State.endWipe (s : State) (m : Nat) : State :=
  let s := ((s.zeroSecure m).updUp m fun u => { u with wipe := false, restart := false }).loseResv m (secBase m) (memLen m - secBase m)
  if m < 16 then
    (s.setRfld (0x30 + m) 0x104 30 30 1).updArb fun a => { a with secok := putBit a.secok m true }
  else s

end Sys2Proof.Machine
end

