-- ==== Sys2Proof/Machine/Flags.lean ====
section
/-! DEFINITION. What the arithmetic units compute, and the flags they raise (R83 to R90). -/
namespace Sys2Proof.Machine

/-- The most negative word (R90). -/
def minWord : Word := 0x8000000000000000

/-- The triggers of ALU0 and ALU1, in port order from offset 0x08 (R83). -/
inductive AluOp where
  | add | sub | rsub | band | bor | bxor | andn | neg | abs | min | max | minu | maxu | pop | clz | ctz
  deriving DecidableEq, Repr

/-- A result with its flags: q_r, q_c or q_hi, V, DZ. -/
structure Alu where
  r  : Word
  c  : Word := 0
  v  : Bool := false
  dz : Bool := false
  deriving DecidableEq, Repr

def onesOf (v : Word) : Nat := ((List.range 64).filter fun k => v.getLsbD k).length
def clzOf (v : Word) : Nat := ((List.range 64).takeWhile fun k => !v.getLsbD (63 - k)).length
def ctzOf (v : Word) : Nat := ((List.range 64).takeWhile fun k => !v.getLsbD k).length
def carryOf (a v : Word) : Word := if 2 ^ 64 ≤ a.toNat + v.toNat then 1 else 0
def borrowOf (a v : Word) : Word := if a.toNat < v.toNat then 1 else 0

/-- The ALU functions of R83 with the edges of R90. -/
def aluOut (op : AluOp) (a v : Word) : Alu :=
  match op with
  | .add => { r := a + v, c := carryOf a v, v := decide ((a + v).toInt ≠ a.toInt + v.toInt) }
  | .sub => { r := a - v, c := borrowOf a v, v := decide ((a - v).toInt ≠ a.toInt - v.toInt) }
  | .rsub => { r := v - a, c := borrowOf v a, v := decide ((v - a).toInt ≠ v.toInt - a.toInt) }
  | .band => { r := a &&& v }
  | .bor => { r := a ||| v }
  | .bxor => { r := a ^^^ v }
  | .andn => { r := a &&& ~~~v }
  | .neg => { r := -v, v := decide (v = minWord) }
  | .abs => { r := if v.toInt < 0 then -v else v, v := decide (v = minWord) }
  | .min => { r := if a.toInt ≤ v.toInt then a else v }
  | .max => { r := if a.toInt ≤ v.toInt then v else a }
  | .minu => { r := if a.toNat ≤ v.toNat then a else v }
  | .maxu => { r := if a.toNat ≤ v.toNat then v else a }
  | .pop => { r := BitVec.ofNat 64 (onesOf v) }
  | .clz => { r := BitVec.ofNat 64 (clzOf v) }
  | .ctz => { r := BitVec.ofNat 64 (ctzOf v) }

/-- The triggers of SHF, in port order from offset 0x08 (R84). -/
inductive ShfOp where
  | shl | shr | sar | rol | ror | ext | exts | dep | bswap
  deriving DecidableEq, Repr

/-- Position and width of a field operand; bits above bit 63 are absent (R84). -/
def fieldPos (v : Word) : Nat := fld v 5 0
def fieldWidth (v : Word) : Nat := min (if fld v 14 8 = 0 then 64 else fld v 14 8) (64 - fieldPos v)

/-- The SHF functions of R84 and R90. -/
def shfOut (op : ShfOp) (a b v : Word) : Word :=
  let n := fld v 6 0
  let p := fieldPos v; let w := fieldWidth v
  match op with
  | .shl => a <<< n
  | .shr => a >>> n
  | .sar => a.sshiftRight n
  | .rol => a.rotateLeft (n % 64)
  | .ror => a.rotateRight (n % 64)
  | .ext => BitVec.ofNat 64 (a.toNat / 2 ^ p % 2 ^ w)
  | .exts => (a <<< (64 - w - p)).sshiftRight (64 - w)
  | .dep => setFld a (p + w - 1) p b.toNat
  | .bswap => BitVec.ofNat 64 (leNat (leBytes 8 a.toNat).reverse)

/-- Product, quotient and remainder of MUL (R85, R90); `c` is q_hi. -/
def mulOut (a v : Word) : Alu :=
  let p := BitVec.ofInt 128 (a.toInt * v.toInt)
  { r := p.extractLsb' 0 64, c := p.extractLsb' 64 64 }
def muluOut (a v : Word) : Alu :=
  let p := BitVec.ofNat 128 (a.toNat * v.toNat)
  { r := p.extractLsb' 0 64, c := p.extractLsb' 64 64 }
def divOut (a v : Word) : Alu :=
  if v = 0 then { r := 0, c := a, dz := true }
  else if a = minWord ∧ v = -1 then { r := minWord, c := 0, v := true }
  else { r := BitVec.ofInt 64 (a.toInt.tdiv v.toInt), c := BitVec.ofInt 64 (a.toInt.tmod v.toInt) }
def divuOut (a v : Word) : Alu :=
  if v = 0 then { r := 0, c := a, dz := true } else { r := a / v, c := a % v }

/-- The addition of a MAC (R87, R90): V on signed overflow. -/
def macOut (acc prod : Word) : Alu := { r := acc + prod, v := decide ((acc + prod).toInt ≠ acc.toInt + prod.toInt) }

/-- The triggers of CMP, in port order from offset 0x08 (R88). -/
inductive CmpOp where
  | eq | ne | lt | le | gt | ge | ltu | leu | gtu | geu | tst | tstz
  deriving DecidableEq, Repr

def cmpOut (op : CmpOp) (a v : Word) : Bool :=
  match op with
  | .eq => decide (a = v)
  | .ne => decide (a ≠ v)
  | .lt => decide (a.toInt < v.toInt)
  | .le => decide (a.toInt ≤ v.toInt)
  | .gt => decide (v.toInt < a.toInt)
  | .ge => decide (v.toInt ≤ a.toInt)
  | .ltu => decide (a.toNat < v.toNat)
  | .leu => decide (a.toNat ≤ v.toNat)
  | .gtu => decide (v.toNat < a.toNat)
  | .geu => decide (v.toNat ≤ a.toNat)
  | .tst => decide (a &&& v ≠ 0)
  | .tstz => decide (a &&& v = 0)

/-- The guards after a comparison (R88, R89): the result's guard wins over the complement's. -/
def cmpGuards (gsel : Word) (res : Bool) (g : BitVec 8) : BitVec 8 :=
  let gr := fld gsel 2 0; let gc := fld gsel 5 3
  let g := if gc = 0 then g else putBit g gc (!res)
  if gr = 0 then g else putBit g gr res

end Sys2Proof.Machine
end

