-- ==== Sys2Proof/Machine/Operands.lean ====
section
/-! DEFINITION. The ports of a runner: the port map with levels, widths and immediates, and what each port reads and holds (R46 to R59, R77 to R122, R128, R132, R155, R156, R171). -/
namespace Sys2Proof.Machine

/-- What a port is: readable, writable, trigger, supervisor only, Custody supervisor only. -/
structure PortInfo where
  rd   : Bool := false
  wr   : Bool := false
  trig : Bool := false
  sup  : Bool := false
  cust : Bool := false
  deriving DecidableEq, Repr

def pRW : PortInfo := { rd := true, wr := true }
def pRO : PortInfo := { rd := true }
def pT : PortInfo := { wr := true, trig := true }
def PortInfo.s (p : PortInfo) : PortInfo := { p with sup := true }

/-- The unit blocks below 0x2A0: operand, trigger and result offsets with their levels (R83 to R115, R128). -/
def blockPort (b off : Nat) : Option PortInfo :=
  let pick (o t q : List Nat) (os ts qs : Bool) : Option PortInfo :=
    if o.contains off then some { pRW with sup := os }
    else if t.contains off then some { pT with sup := ts }
    else if q.contains off then some { pRO with sup := qs } else none
  let r (a n : Nat) : List Nat := (List.range n).map (a + ·)
  if b = 0x80 ∨ b = 0xA0 then pick [0, 1] (r 8 16) [0x1C, 0x1D] false false false
  else if b = 0xC0 then pick [0, 1, 2] (r 8 9) [0x1C] false false false
  else if b = 0xE0 then pick (r 0 5) (r 8 6) [0x1C, 0x1D] false false false
  else if b = 0x100 then pick [0, 1, 2] (r 8 12) [0x1C] false false false
  else if b = 0x120 ∨ b = 0x140 then pick [0] (r 8 4 ++ r 0x10 4 ++ [0x18]) [0x1C, 0x1D] false false false
  else if b = 0x160 then pick [0, 1] (r 8 3 ++ r 0x10 5 ++ [0x18]) [0x1C, 0x1D] true true true
  else if b = 0x180 then pick (r 0 4) (r 8 4) [0x1C] false false false
  else if b = 0x1A0 then pick [0] (r 8 4) [0x1C] false false false
  else if b = 0x1C0 then
    (if off = 1 then some pRW.s else if 0xD ≤ off ∧ off ≤ 0x10 then some pT.s else pick [0] (r 8 5) [0x1C] false false true)
  else if b = 0x1E0 then pick [0] (r 8 4) [0x1C, 0x1D, 0x1E] true true true
  else if b = 0x200 then pick [0] (r 8 4) [0x1C, 0x1D] true true true
  else if b = 0x220 then (if off = 8 then some pT else if off = 0x1C then some pRO else pick [] (r 9 5) [0x1D, 0x1E] true true true)
  else if b = 0x240 then pick [0] (r 8 3) [0x1C] true true true
  else if b = 0x260 then pick [0] (r 8 2) [0x1C, 0x1D] true true true
  else if b = 0x280 then pick [] (r 8 4) [0x1C, 0x1D] true true true
  else none

/-- The TRP ports (R116). -/
def trpPort (off : Nat) : Option PortInfo :=
  if off < 8 then some pRW.s
  else if off < 0xC then some { pRW with cust := true }
  else if off = 0xC ∨ off = 0xD ∨ off = 0xF ∨ off = 0x10 then some pRW.s
  else if off = 0xE then some pRO.s
  else if off = 0x14 ∨ off = 0x15 then some pT
  else if off = 0x16 ∨ off = 0x17 then some pT.s
  else if off = 0x1C then some pRO.s
  else none

/-- The special ports (R48). -/
def specialPort (p : Nat) : Option PortInfo :=
  if p ≤ 0x48 then some pRW
  else if p = 0x4A ∨ p = 0x4B ∨ p = 0x4C then some pRO
  else if p = 0x4E then some pRW
  else if p = 0x50 ∨ p = 0x51 ∨ p = 0x54 ∨ p = 0x55 then some pRO
  else if 0x58 ≤ p ∧ p ≤ 0x5B then some pRO.s
  else if p = 0x5C then some { wr := true, sup := true }
  else none

/-- An extension port, by its strapped kind (R117, R119). -/
def State.extPort (s : State) (r : Rid) (p : Nat) : Option PortInfo :=
  match r with
  | .arb => none
  | .heat h _ =>
    let b := (p - 0x600) / 128; let off := (p - 0x600) % 128
    if s.extAttached h b && decide (off < (tget 0 s.fuses.extPorts (4 * h + b)).toNat) then
      match (tget 0 s.fuses.extKind ((4 * h + b) * 128 + off)).toNat with
      | 1 => some pRW
      | 2 => some pT
      | 3 => some pRO
      | _ => none
    else none

/-- The port map of a runner: none for an unimplemented or reserved port or one of an absent unit (R73, R77, R78, R270). -/
def State.portInfo (s : State) (r : Rid) (p : Nat) : Option PortInfo :=
  if p < 0x40 then some pRW
  else if p < 0x80 then specialPort p
  else if p < 0x2A0 then
    let b := p / 32 * 32
    if r.isArb && (b == 0x1E0 || b == 0x240 || b == 0x260) then none
    else if b == 0x260 && !s.fuses.variant.full then none
    else blockPort b (p % 32)
  else if p < 0x2C0 then trpPort (p - 0x2A0)
  else if p < 0x600 then none
  else s.extPort r p

/-- The unit of a trigger port, for the one-trigger rule of R80. -/
def unitOf (p : Nat) : Nat := if p < 0x600 then p / 32 else 0x100 + (p - 0x600) / 128

/-- The fault of naming a port from a world and level (R74, R118, R153): world 0x02 or privilege 0x03. -/
def State.portFault (s : State) (r : Rid) (p : Nat) (i : PortInfo) : Option Nat :=
  let x := s.runner r
  if 0x600 ≤ p then
    match r with
    | .arb => none
    | .heat h _ =>
      let blk := s.reg (0x90 + h) (0x100 + 4 * ((p - 0x600) / 128))
      if blk.getLsbD 30 && !x.cust then some 2 else if blk.getLsbD 29 && !x.sup then some 3 else none
  else if i.cust then (if !x.cust then some 2 else if !x.sup then some 3 else none)
  else if i.sup && !x.sup then some 3 else none

/-- Ports whose names end in _s, which share the plain port below them (R79). -/
def isSignPort (p : Nat) : Bool := p = 0x81 || p = 0xA1 || p = 0xC1 || p = 0xE1 || p = 0x101
/-- The port that holds the value. -/
def plainPort (p : Nat) : Nat := if isSignPort p then p - 1 else p

/-- Extension of the low `w` bits of a source value (R56). -/
def widen (v : Word) (w : Nat) (sign : Bool) : Word :=
  let low := BitVec.ofNat 64 (v.toNat % 2 ^ w)
  if sign then (low <<< (64 - w)).sshiftRight (64 - w) else low
/-- Bits moved by a SIZE code (R53). -/
def sizeBits (c : Nat) : Nat := 64 / 2 ^ c

/-! Layouts of composite ports -/

/-- SEQ.o_rep and o_srep (R132). -/
def Rep.word (x : Rep) : Word :=
  BitVec.ofNat 64 (b2n x.act * 2 ^ 63 + x.count.toNat * 2 ^ 32 + x.rend.toNat * 2 ^ 16 + x.rbeg.toNat)
def repOf (v : Word) : Rep :=
  let n := fld v 47 32
  { act := v.getLsbD 63 && decide (n ≠ 0), count := BitVec.ofNat 16 n, rend := BitVec.ofNat 15 (fld v 30 16), rbeg := BitVec.ofNat 15 (fld v 14 0) }

/-- TRP.o_sstate (R156). -/
def Bank.stateWord (b : Bank) : Word := BitVec.ofNat 64 (b2n b.gate * 8 + b2n b.busy * 4 + b2n b.world * 2 + b2n b.level)

/-- The bank, fault-stack pointer and limit of a world. -/
def Runner.bank (x : Runner) (c : Bool) : Bank := if c then x.bankC else x.bankS
def Runner.setBank (x : Runner) (c : Bool) (b : Bank) : Runner := if c then { x with bankC := b } else { x with bankS := b }
def Runner.fsp (x : Runner) (c : Bool) : Nat := if c then x.fspC else x.fspS
def Runner.setFsp (x : Runner) (c : Bool) (a : Nat) : Runner := if c then { x with fspC := a } else { x with fspS := a }
def Runner.flim (x : Runner) (c : Bool) : Nat := if c then x.flimC else x.flimS
def Runner.setFlim (x : Runner) (c : Bool) (a : Nat) : Runner := if c then { x with flimC := a } else { x with flimS := a }
/-- A fault-stack address as written: bits [22:6] kept (R171). -/
def fspOf (v : Word) : Nat := fld v 22 6 * 64

/-- An operand or result port's held value. -/
def Runner.op (x : Runner) (p : Nat) : Word := tget 0 x.oport p
def Runner.setOp (x : Runner) (p : Nat) (v : Word) : Runner := { x with oport := tset 0 x.oport p v }
def Runner.q (x : Runner) (p : Nat) : QVal := tget {} x.qport p
def Runner.setQ (x : Runner) (p : Nat) (v : QVal) : Runner := { x with qport := tset {} x.qport p v }
def Runner.gr (x : Runner) (k : Nat) : Word := tget 0 x.g k
def Runner.setG (x : Runner) (k : Nat) (v : Word) : Runner := { x with g := tset 0 x.g k v }

def identWord : Rid → Word
  | .heat h i => BitVec.ofNat 64 (h * 16 + i)
  | .arb => 256

/-- The value a port reads, literals apart (R46 to R48, R79, R81, R116, R132). -/
def State.readPort (s : State) (r : Rid) (p : Nat) : QVal :=
  let x := s.runner r
  let w (v : Word) : QVal := { val := v }
  if p < 0x40 then w (x.gr p)
  else if p = 0x40 then w (BitVec.ofNat 64 (fld x.grd 7 1 * 2))
  else if p ≤ 0x47 then w (BitVec.ofNat 64 (b2n (x.grd.getLsbD (p - 0x40))))
  else if p = 0x48 then w (BitVec.ofNat 64 (b2n x.flgDZ * 2 + b2n x.flgV))
  else if p = 0x4E then w 0
  else if p = 0x50 then w (BitVec.ofNat 64 (b2n x.cust * 2 + b2n x.sup))
  else if p = 0x51 then w (identWord r)
  else if p = 0x54 then w (BitVec.ofNat 64 x.pc.toNat)
  else if p = 0x55 then w (BitVec.ofNat 64 (x.pc + 1).toNat)
  else if p = 0x58 then w (BitVec.ofNat 64 (2 * (s.clkS - x.cycBase)))
  else if p = 0x59 then w x.wcnt
  else if p = 0x5A then w (x.stl + BitVec.ofNat 64 (2 * (s.clkS - x.stallAt.getD s.clkS)))
  else if p = 0x5B then w (BitVec.ofNat 64 x.rty.toNat)
  else if p = 0xE2 then { val := x.op 0xE2, poison := x.accBad }
  else if p = 0x1C0 then w x.rep.word
  else if p = 0x1C1 then w (x.bank x.cust).srep.word
  else if 0x2A0 ≤ p ∧ p < 0x2A8 then w (BitVec.ofNat 64 (tget 0 x.entry (8 * b2n x.cust + (p - 0x2A0))).toNat)
  else if 0x2A8 ≤ p ∧ p < 0x2AC then w (BitVec.ofNat 64 (tget 0 x.gates (p - 0x2A8)).toNat)
  else if p = 0x2AC then w (BitVec.ofNat 64 (x.bank x.cust).spc.toNat)
  else if p = 0x2AD then w (BitVec.ofNat 64 (fld (x.bank x.cust).sgrd 7 1 * 2))
  else if p = 0x2AE then w (x.bank x.cust).stateWord
  else if p = 0x2AF then w (BitVec.ofNat 64 (x.fsp x.cust))
  else if p = 0x2B0 then w (BitVec.ofNat 64 (x.flim x.cust))
  else if p = 0x2BC then w x.qcause
  else if 0x600 ≤ p then (match s.extPort r p with | some i => if i.wr then w (x.op p) else x.q p | none => w 0)
  else if 0x1C ≤ p % 32 then x.q p
  else w (x.op (plainPort p))

/-- A committed write to a port that is no trigger (R47, R48, R79, R87, R132, R155, R156, R171). -/
def State.writePort (s : State) (r : Rid) (p : Nat) (v : Word) : State :=
  let x := s.runner r
  let up (y : Runner) : State := s.setRunner r y
  if p < 0x40 then up (x.setG p v)
  else if p = 0x40 then up { x with grd := BitVec.ofNat 8 (fld v 7 1 * 2) }
  else if p ≤ 0x47 then up { x with grd := putBit x.grd (p - 0x40) (v.getLsbD 0) }
  else if p = 0x48 then up { x with flgV := v.getLsbD 0, flgDZ := v.getLsbD 1 }
  else if p = 0x4E then s
  else if p = 0x5C then up { x with cycBase := s.clkS, wcnt := 0, stl := 0, rty := 0 }
  else if p = 0xE2 then up { x.setOp 0xE2 v with accBad := false }
  else if p = 0x1C0 then up { x with rep := repOf v }
  else if p = 0x1C1 then up (x.setBank x.cust { x.bank x.cust with srep := repOf v })
  else if 0x2A0 ≤ p ∧ p < 0x2A8 then up { x with entry := tset 0 x.entry (8 * b2n x.cust + (p - 0x2A0)) (BitVec.ofNat 16 v.toNat) }
  else if 0x2A8 ≤ p ∧ p < 0x2AC then up { x with gates := tset 0 x.gates (p - 0x2A8) (BitVec.ofNat 16 v.toNat) }
  else if p = 0x2AC then up (x.setBank x.cust { x.bank x.cust with spc := BitVec.ofNat 15 v.toNat })
  else if p = 0x2AD then up (x.setBank x.cust { x.bank x.cust with sgrd := BitVec.ofNat 8 (fld v 7 1 * 2) })
  else if p = 0x2AF then up (x.setFsp x.cust (fspOf v))
  else if p = 0x2B0 then up (x.setFlim x.cust (fspOf v))
  else if 0x600 ≤ p then
    (up (x.setOp p v)).put (.ext r.home r.idx (p - 0x600) v x.cust x.sup)
  else up (x.setOp (plainPort p) v)

/-! Readiness (R62 to R64, R87) -/

/-- Operation kinds that produce no value until another event decides them still name their port in `res`. -/
def Op.gives (o : Op) (p : Nat) : Bool := o.res.any fun e => e.1 == p
def Op.isMac (o : Op) : Bool := match o.kind with | .mac _ _ => true | _ => false
def Op.isPop (o : Op) : Bool := match o.kind with | .pop _ => true | _ => false
def Op.isLoad (o : Op) : Bool := match o.kind with | .load _ _ => true | _ => false

/-- A read of the port must wait (R63, R87). -/
def Runner.unready (x : Runner) (p : Nat) : Bool :=
  if p = 0xE2 then x.ops.any Op.isMac else x.ops.any fun o => o.gives p

/-! Delivery of results (R62, R87, R91, R194) -/

/-- Set the flags a result raises and the traps they may raise (R91). -/
def Runner.flags (x : Runner) (v dz : Bool) : Runner :=
  { x with flgV := x.flgV || v, flgDZ := x.flgDZ || dz,
           pendV := x.pendV || (v && x.ctlEff.getLsbD 0), pendDZ := x.pendDZ || (dz && x.ctlEff.getLsbD 1) }

/-- What the delivery of one operation does (R87 for MACs). -/
def Runner.deliver (x : Runner) (o : Op) : Runner :=
  match o.kind with
  | .mac prod bad =>
    let m := macOut (x.op 0xE2) prod
    let bad := bad || x.accBad
    (({ x.setOp 0xE2 m.r with accBad := bad }.setQ 0xFC { val := m.r, poison := bad }).setQ 0xFD {}).flags m.v false
  | _ => (o.res.foldl (fun (y : Runner) e => y.setQ e.1 e.2) x).flags o.v o.dz

/-- An operation that its unit can deliver now; the others wait for another event. -/
def Op.due (o : Op) : Bool :=
  match o.kind with
  | .plain | .div | .load _ _ | .mac _ _ => true
  | .sync n => n == 0
  | .fence ids _ => ids.isEmpty
  | _ => false

/-- Remove the first element that satisfies `p`. -/
def takeFirst {α : Type} (p : α → Bool) : List α → Option (α × List α)
  | [] => none
  | a :: t => if p a then some (a, t) else (takeFirst p t).map fun e => (e.1, a :: e.2)

/-- Older operations no longer show results on the ports a newer one has delivered (R64). -/
def hideOlder (o : Op) (older : List Op) : List Op :=
  older.map fun (e : Op) => if decide (e.unit = o.unit) && !e.isMac then { e with res := e.res.filter fun x => !o.gives x.1 } else e

/-- Deliver the first operation that satisfies `p` (R62, R64). -/
def Runner.deliverWhere (x : Runner) (p : Op → Bool) : Runner :=
  match x.ops.span fun o => !p o with
  | (_, []) => x
  | (older, o :: newer) => { x with ops := hideOlder o older ++ newer }.deliver o

/-- Deliver the oldest due operation of a unit (R62). -/
def Runner.deliverOf (x : Runner) (u : FUnit) : Runner := x.deliverWhere fun o => decide (o.unit = u) && o.due

/-- A word has begun and has not ended: a string hold, a stall, or a retry that is due (R69, R474). -/
def Runner.midWord (x : Runner) : Bool := x.hold.isSome || x.stallAt.isSome || x.tries != 0

/-- A stall ends: STL counts its cycles, whatever becomes of the word (R48, R65). -/
def Runner.stallEnd (x : Runner) (clkS : Nat) : Runner :=
  match x.stallAt with
  | none => x
  | some t => { x with stl := x.stl + BitVec.ofNat 64 (2 * (clkS - t)), stallAt := none }

/-- Requests outstanding at the host are of earlier work: their responses are discarded (R82, R257 step 2). -/
def Runner.deadHau (x : Runner) : List HauReq := x.hau.map fun e => { e with dead := true }

/-! Start and halt of a runner (R82, R151, R168, R193, R257) -/

/-- A vector base register as an address: TVEC at 0x110 for the Service world, TVECC at 0x114 for the Custody world (R167, R168). -/
def State.vecBase (s : State) (r : Rid) (cust : Bool) : CAddr :=
  BitVec.ofNat 15 (s.rfld r.page (if cust then 0x114 else 0x110) 14 6 * 64)
/-- The entry address of group `g` (R168). -/
def State.vector (s : State) (r : Rid) (cust : Bool) (g : Nat) : CAddr := s.vecBase r cust + BitVec.ofNat 15 (16 * g)

/-- A runner starts: the state of R82 cleared, the Custody bank preset, the first word at the Custody start vector (R151, R193). Messages of
earlier work go on, and what the host still answers is discarded (R257, R343). -/
def State.startRunner (s : State) (r : Rid) : State :=
  let x := s.runner r
  let bank : Bank := { spc := s.vector r false 3, gate := true, busy := true, world := false, level := true }
  let y : Runner := { run := .running, cycBase := s.clkS, ctlEff := s.reg r.page 0x100, pc := s.vector r true 3, bankC := bank,
                      hau := x.deadHau, msgs := x.msgs, late := x.late, injPar := x.injPar, injRes := x.injRes }
  let s := (s.setRunner r y).sliceStart r
  s.when x.fenced fun s => s.raise 16 3

/-- A runner commits nothing further: its buffers, pending traps, reservation and operations are gone; a committed pass still completes (R193, R247, R257). -/
def Runner.halt (x : Runner) : Runner :=
  { x with stores := [], frame := [], frameOld := 0, fbuf := [], resv := none, hold := none, resume := none, pendW := none, pendBat := false,
           pendV := false, pendDZ := false, pendM := none, pendMCS := false, first := false, noTrap := false, tries := 0, failPar := false,
           resFail := false, stallAt := none, wdog := none, starting := false, ahead := [], fnext := none, hau := x.deadHau, ops := x.ops.filter fun (o : Op) => o.kind == OpKind.baton }

end Sys2Proof.Machine
end

