-- ==== Sys2Proof/Machine/Rings.lean ====
section
/-! DEFINITION. The ring scheduler: eligibility, class queues, doorbells, handout, and the ring-table entry (R207 to R215, R234). -/
namespace Sys2Proof.Machine

/-- Descriptors a ring holds (R207, R208). -/
def Ring.size (x : Ring) : Nat := 2 ^ (x.lsz.toNat + 4)
/-- The doorbell limit of R210. -/
def Ring.limit (x : Ring) : Nat := if x.lsz.toNat < 12 then x.size else 65535
/-- Eligible (R212). -/
def Ring.elig (x : Ring) : Bool := x.en && x.placed && x.cons != x.prod && !x.held && !x.frozen

def qkey (h c : Nat) : Nat := 8 * h + c
def State.queue (s : State) (h c : Nat) : List Nat := tget [] s.queues (qkey h c)

/-- Bring the class queues in step with a ring: it leaves every queue but its own, and joins the tail of its own when it becomes eligible (R212, R215). -/
def State.syncRing (s : State) (q : Nat) : State :=
  let x := s.ring q
  let k := qkey x.heat x.cls.toNat
  let drop (e : Nat × List Nat) : Option (Nat × List Nat) :=
    if e.1 = k ∧ x.elig = true then some e
    else match e.2.filter (fun a => a != q) with
      | [] => none
      | l => some (e.1, l)
  let s := { s with queues := s.queues.filterMap drop }
  let l := tget [] s.queues k
  if x.elig && !l.contains q then
    { s with queues := tset [] s.queues k (l ++ [q]) }.updRing q fun x => { x with joined := s.clkS }
  else s

/-- Change a ring and bring its queue membership in step. -/
def State.modRing (s : State) (q : Nat) (f : Ring → Ring) : State := (s.updRing q f).syncRing q

/-- The lowest ring with en 1 and placed 0 (R278). -/
def State.pendRing (s : State) : Option Nat := (s.rings.find? fun e => e.2.en && !e.2.placed).map (·.1)
/-- The set of rings awaiting placement changed: source PEND is raised while one waits (R278, notes/assumptions/21.md). -/
def State.pendChanged (s : State) : State := s.when s.pendRing.isSome fun s => s.raise 16 1

/-- Rings placed on a heat, in ascending order. -/
def State.ringsOn (s : State) (h : Nat) : List Nat := (s.rings.filter fun e => e.2.placed && e.2.heat == h).map (·.1)

/-- RSCH.CPB as an address, word 7 of every entry (R217, R238). -/
def State.cpb (s : State) : Nat := (s.reg 0xC 0x120).toNat / 4096 * 4096 + fld (s.reg 0xC 0x124) 19 0 * 2 ^ 32

/-- Word `k` of a ring-table entry (R207). -/
def State.ringWord (s : State) (q k : Nat) : Word :=
  let x := s.ring q
  BitVec.ofNat 64 (
    match k with
    | 0 => x.burst.toNat * 2 ^ 52 + x.base.toNat * 2 ^ 12 + x.lsz.toNat * 2 ^ 8 + x.cls.toNat * 2 ^ 5 + b2n x.world * 16 + b2n x.en * 8
    | 1 => b2n x.unprot * 2 ^ 8 + b2n x.err * 2 ^ 7 + b2n x.frozen * 2 ^ 6 + b2n x.placed * 2 ^ 5 + x.heat % 16
    | 2 => x.runner % 16 * 2 ^ 34 + b2n ((s.queue x.heat x.cls.toNat).contains q) * 2 ^ 33 + b2n x.held * 2 ^ 32 + x.cons.toNat * 2 ^ 16 + x.prod.toNat
    | 3 => x.taken.toNat * 2 ^ 32 + x.rung.toNat
    | 4 => x.lapDb.toNat
    | 5 => x.lapPop.toNat
    | 6 => x.ovf.toNat * 2 ^ 16 + x.stale.toNat
    | _ => s.cpb)

/-- q_ring for a held ring, and q_desc (R108). -/
def ringState (q : Nat) (x : Ring) (heldBit : Bool) : Word :=
  BitVec.ofNat 64 (2 ^ 63 + b2n heldBit * 2 ^ 61 + x.cons.toNat * 2 ^ 32 + x.prod.toNat * 2 ^ 16 + q % 2 ^ 15)
def ringDesc (x : Ring) : Word := BitVec.ofNat 64 (x.base.toNat * 4096 + x.cons.toNat % x.size * 64)
def ringRes (q : Nat) (x : Ring) (heldBit : Bool) : List (Nat × QVal) :=
  [(0x1FC, { val := ringState q x heldBit }), (0x1FD, { val := ringDesc x })]
def noRing (wake : Bool) : List (Nat × QVal) := [(0x1FC, { val := BitVec.ofNat 64 (b2n wake * 2 ^ 62) }), (0x1FD, {})]

/-- A doorbell that passed R41 (R210): ring in bits [31:16], producer index in [15:0]. -/
def State.doorbell (s : State) (q : Nat) (new : BitVec 16) : State :=
  let x := s.ring q
  if !x.en then s.satInc 0xC 0x118 31 16
  else
    let dOld := (x.prod - x.cons).toNat; let dNew := (new - x.cons).toNat
    if x.limit < dNew then
      ((s.satInc 0xC 0x11C 31 16).updRing q fun x =>
        { x with ovf := BitVec.ofNat 16 (satAdd 16 x.ovf.toNat 1), err := true }).report 0x06 0 0xC 0xC q new.toNat
    else if dNew < dOld then
      (s.satInc 0xC 0x11C 15 0).updRing q fun x => { x with stale := BitVec.ofNat 16 (satAdd 16 x.stale.toNat 1) }
    else if dNew = dOld then s
    else s.modRing q fun x => { x with prod := new, rung := x.rung + 1, lapDb := s.lap }

/-- A class weight (R236). -/
def State.weight (s : State) (c : Nat) : Nat :=
  if c < 6 then s.rfld 0xC 0x110 (8 * (c - 2) + 7) (8 * (c - 2)) else s.rfld 0xC 0x114 (8 * (c - 6) + 7) (8 * (c - 6))
/-- credit[c] and ptr of a heat; at cold reset the weights, 1, and 2 (R213). -/
def State.creditOf (s : State) (h c : Nat) : Nat := tget 1 s.credit (qkey h c)
def State.setCredit (s : State) (h c n : Nat) : State := { s with credit := tset 1 s.credit (qkey h c) n }
def State.ptrOf (s : State) (h : Nat) : Nat := tget 2 s.qptr h

/-- The scheduler's choice for a class mask: a ring of the heat, and the credits it leaves (R213). -/
def State.chooseRing (s : State) (h : Nat) (m : BitVec 8) : Option Nat × State :=
  let head (c : Nat) : Option Nat := (s.queue h c).head?
  if m.getLsbD 0 && (head 0).isSome then (head 0, s)
  else if m.getLsbD 1 && (head 1).isSome then (head 1, s)
  else
    let cand := [2, 3, 4, 5, 6, 7].filter fun c => m.getLsbD c && (head c).isSome
    if cand.isEmpty then (none, s)
    else
      let s := if cand.any fun c => decide (0 < s.creditOf h c) then s
        else [2, 3, 4, 5, 6, 7].foldl (fun (t : State) c => t.setCredit h c (t.weight c)) s
      let order := (List.range 6).map fun i => 2 + (s.ptrOf h - 2 + i) % 6
      match order.find? fun c => cand.contains c && decide (0 < s.creditOf h c) with
      | none => (none, s)
      | some c =>
        let n := s.creditOf h c - 1
        let s := s.setCredit h c n
        let s := if n = 0 then { s with qptr := tset 2 s.qptr h (if c = 7 then 2 else c + 1) } else s
        (head c, s)

/-- The bin of a handout wait (R276). -/
def waitBin (w : Nat) : Nat := if w < 4 then 0 else if 65536 ≤ w then 15 else Nat.log2 w - 1

/-- The mask of a runner's waiting t_pop. -/
def Runner.popMask (x : Runner) : Option (BitVec 8) :=
  x.ops.findSome? fun o => match o.kind with | .pop m => some m | _ => none

/-- Settle a runner's waiting t_pop with a result; older RING results deliver before it (R109). -/
def Runner.popDone (x : Runner) (res : List (Nat × QVal)) : Runner :=
  let x := { x with ops := x.ops.map fun (o : Op) => if o.isPop then { o with kind := .plain, res := res } else o }
  x.ops.foldl (fun (y : Runner) _ => y.deliverOf .ring) x

/-- Hand a ring to runner `i` of heat `h` (R214). -/
def State.handTo (s : State) (h i q : Nat) : State :=
  let w := s.clkS - (s.ring q).joined
  let s := s.updArb fun a => { a with hist := tset 0 a.hist (16 * h + waitBin w) (tget 0 a.hist (16 * h + waitBin w) + 1) }
  let s := s.modRing q fun x => { x with held := true, runner := i, lapPop := s.lap }
  s.updR (.heat h i) fun x => { x.popDone (ringRes q (s.ring q) false) with ring := some q, wdrawn := false }

/-- One handout of a heat: the lowest waiting runner that some eligible ring satisfies (R214). -/
def State.handout (s : State) (h : Nat) : List Nat → State
  | [] => s
  | i :: t =>
    match (s.runner (.heat h i)).popMask with
    | none => s.handout h t
    | some m =>
      match s.chooseRing h m with
      | (some q, s') => s'.handTo h i q
      | (none, _) => s.handout h t

/-- A pending clearing of en takes effect (R209). -/
def State.disableRing (s : State) (q : Nat) : State :=
  let x := s.ring q
  if x.clrEn && !x.held && !x.frozen then (s.modRing q fun x => { x with en := false, clrEn := false }).pendChanged else s

/-- The 16 words of RENT (R234). -/
def State.rentOf (s : State) (q : Nat) : List Reg :=
  (List.range 16).map fun k => BitVec.ofNat 32 ((s.ringWord q (k / 2)).toNat / 2 ^ (32 * (k % 2)))

/-- A ring is unfrozen and queued if eligible (R258, R261, R282). -/
def State.unfreeze (s : State) (q : Nat) : State := s.modRing q fun x => { x with frozen := false, fzRun := false, fzHeat := false }

end Sys2Proof.Machine
end

