-- ==== Sys2Proof/Machine/Baton.lean ====
section
/-! DEFINITION. The baton path: slots, directories, passes, gets and frees, re-mirroring (R239 to R249, R258, R264 to R268). -/
namespace Sys2Proof.Machine

/-! Records -/

/-- A record passes its CRC-32C (R242). -/
def recordGood (l : List Byte) : Bool := leNat (l.drop 252) == (crc32c (l.take 252)).toNat
/-- The record with its CRC inserted (R245). -/
def withCrc (l : List Byte) : List Byte := l.take 252 ++ leBytes 4 (crc32c (l.take 252)).toNat
/-- The ring a record names (R242, R250). -/
def recordRing (l : List Byte) : Option Nat :=
  if leNat (l.take 2) = 0xBA70 then some (leNat ((l.drop 8).take 8) / 2 ^ 16 % 2 ^ 15) else none

/-! Directories (R239, R241) -/

def mirrorDir (slot : Nat) : Nat := 0x370000 + 8 * slot
def localDir (slot : Nat) : Nat := 0x378000 + 8 * slot
def localSlot (slot : Nat) : Nat := 0x380000 + 256 * slot
def mirrorSlot (slot : Nat) : Nat := 0x480000 + 256 * slot

def State.dirAt (s : State) (h a : Nat) : Word := BitVec.ofNat 64 (s.numAt h a 8)
/-- The baton path reads a directory entry, with the checks of every read (R303). -/
def State.dirRead (s : State) (h a : Nat) : State := (s.memRead h a 8).1
def dirOcc (w : Word) : Bool := w.getLsbD 63
def dirOrph (w : Word) : Bool := w.getLsbD 62
def dirOwner (w : Word) : Nat := fld w 60 57
/-- A directory entry as a pass leaves it. -/
def dirWord (mok : Bool) (owner : Nat) (ring : Option Nat) (lap : Nat) : Word :=
  BitVec.ofNat 64 (2 ^ 63 + b2n mok * 2 ^ 61 + owner % 16 * 2 ^ 57 + (ring.getD 0) % 2 ^ 15 * 2 ^ 42 + b2n ring.isSome * 2 ^ 41 + lap % 2 ^ 32)

/-- A runner fenced by a hoff reaction is started again (R413). -/
def State.hoffStart (s : State) (h : Nat) : State :=
  s.each (ridsOf h) fun s r =>
    if (s.runner r).fenced && (s.runner r).hoff && s.heatUp h && (s.cstore h).valid then s.startRunner r else s

/-- A ring frozen by a fence is unfrozen, or its migration begins again as for an unheld ring (R258, R261, R283). -/
def State.freeRing (s : State) (q : Nat) : State :=
  if (s.ring q).migTo.isSome then s.modRing q fun x => { x with fzRun := false, fzHeat := false, migMv := true } else s.unfreeze q

/-- Rings that wait for a heat's orphans of one kind, in ascending order. -/
def State.frozenBy (s : State) (h : Nat) (p : Ring → Bool) : List Nat := (s.rings.filter fun e => e.2.fzAt == h && p e.2).map (·.1)

/-- The runner that dropped a ring is stopped for handoff and not yet fenced: its entries are not yet counted (R193, R257). -/
def State.handoffDue (s : State) (h : Nat) (x : Ring) : Bool :=
  let y := s.runner (.heat h x.runner)
  y.run == .handoff && !y.fenced

/-- Rings frozen by a runner fence are unfrozen; handed-off runners start again (R258, R283, R413). -/
def State.lorphZero (s : State) (h : Nat) : State :=
  ((s.each (s.frozenBy h fun x => x.fzRun && !s.handoffDue h x) State.freeRing).hoffStart h).refreshMode

/-- Rings re-placed by a heat loss are unfrozen (R261). -/
def State.morphZero (s : State) (h : Nat) : State := (s.each (s.frozenBy h fun x => x.fzHeat) State.freeRing).refreshMode

/-- Add to the orphan count of a directory; at zero the frozen rings are released (R258, R261). -/
def State.countOrph (s : State) (h : Nat) (mir was now : Bool) : State :=
  if was == now then s
  else if mir then
    let n := if now then s.morph h + 1 else s.morph h - 1
    let s := s.setRfld (0x10 + h) 0x144 28 16 n
    if n = 0 then s.morphZero h else s
  else
    let n := if now then s.lorph h + 1 else s.lorph h - 1
    let s := s.setRfld (0x10 + h) 0x144 12 0 n
    if n = 0 then s.lorphZero h else s

/-- Write a directory entry of heat `h` (R241). -/
def State.setDir (s : State) (h : Nat) (mir : Bool) (slot : Nat) (w : Word) : State :=
  let a := if mir then mirrorDir slot else localDir slot
  let old := s.dirAt h a
  ((s.dirRead h a).memWrite h a (leBytes 8 w.toNat)).countOrph h mir (dirOcc old && dirOrph old) (dirOcc w && dirOrph w)

/-- The other slot of the pair receives the owner and loses its orphan mark (R243). -/
def State.pairOwner (s : State) (h : Nat) (mir : Bool) (slot owner : Nat) : State :=
  let a := if mir then mirrorDir (slot ^^^ 1) else localDir (slot ^^^ 1)
  s.setDir h mir (slot ^^^ 1) (setFld (putBit (s.dirAt h a) 62 false) 60 57 owner)

/-- Occupied slots of a directory: those whose top byte is listed and has bit 7 (R241). -/
def State.occSlots (s : State) (h : Nat) (mir : Bool) : List Nat :=
  let base := spadKey h (if mir then 0x370000 else 0x378000)
  ((s.spads.filter fun e => decide (base ≤ e.1 ∧ e.1 < base + 0x8000 ∧ (e.1 - base) % 8 = 7) && e.2.getLsbD 7).map fun e => (e.1 - base) / 8)

/-- A ring loses its mirror (R264): event UNPROT when the bit is newly set. -/
def State.unprotect (s : State) (q : Nat) : State :=
  if (s.ring q).unprot then s else (s.updRing q fun x => { x with unprot := true }).raise 16 5

/-- A mirror write of a pass reaches the partner (R245, R246). -/
def State.mirrorWrite (s : State) (m : LateMirror) (owner : Nat) : State :=
  ((s.memWrite m.heat (mirrorSlot m.slot) m.bytes).setDir m.heat true m.slot m.dir).pairOwner m.heat true m.slot owner

/-- The status of a BAT operation, in flight to q_st (R112). -/
def batOp (st : Nat) : Op := { unit := .bat, res := [(0x25C, { val := BitVec.ofNat 64 st })] }

/-- A held ring is withdrawn by the commit of a pass that names it (R283). -/
def State.withdrawByPass (s : State) (r : Rid) (ring : Option Nat) : State :=
  match ring, (s.runner r).ring with
  | some q, some q' =>
    if q = q' ∧ (s.ring q).migTo.isSome = true then
      (s.modRing q fun x => { x with held := false, frozen := true, migMv := true }).updR r fun x => { x with ring := none, wdrawn := true }
    else s
  | _, _ => s

/-- The local half of a pass: record and directory written, the mirror write on its way (R245, R247). -/
def State.passLocal (s : State) (h i : Nat) (slot src : Nat) : State :=
  let r := Rid.heat h i
  let s := match (s.runner r).late with
    | some m => (s.mirrorWrite m i).updR r fun x => { x with late := none }
    | none => s
  let (s, bs, bad) := s.memRead h src 256
  if bad then s.updR r fun x => { x with pendM := some 0x30 }
  else
    let rec' := withCrc bs
    let ring := recordRing rec'
    let lap := s.lap.toNat
    let s := ((s.memWrite h (localSlot slot) rec').setDir h false slot (dirWord false i ring lap)).pairOwner h false slot i
    let s := s.updR r fun x =>
      { x with late := some { heat := partner h, slot := slot, bytes := rec', dir := dirWord true i ring lap },
               ops := x.ops ++ [{ batOp 0 with kind := .baton }] }
    s.withdrawByPass r ring

/-- The pass in flight ends: OK with both copies, or NOMIRROR where the partner is fenced (R246, R247, R264, R268). -/
def State.passEnd (s : State) (h i : Nat) : State :=
  let r := Rid.heat h i
  match takeFirst (fun (o : Op) => o.kind == OpKind.baton) (s.runner r).ops, (s.runner r).late with
  | some _, some m =>
    let settle (s : State) (st : Nat) : State := s.updR r fun x =>
      { x with late := none, ops := x.ops.map fun (o : Op) => if o.kind == OpKind.baton then batOp st else o }
    let s := s.wrapInc (0x10 + h) 0x148 31 0
    if s.heatUp m.heat then
      settle ((s.mirrorWrite m i).setDir h false m.slot (putBit (s.dirAt h (localDir m.slot)) 61 true)) 0
    else
      let s := match recordRing m.bytes with
        | some q => s.unprotect q
        | none => s
      settle (s.satInc (0x10 + h) 0x14C 23 16) 3
  | _, _ => s

/-- The pass in flight exceeds its limit (R113, R246, R268). -/
def State.passTimeout (s : State) (h i : Nat) : State :=
  let r := Rid.heat h i
  match takeFirst (fun (o : Op) => o.kind == OpKind.baton) (s.runner r).ops with
  | some _ =>
    let s := s.updR r fun x =>
      ({ x with pendBat := true, ops := x.ops.filter fun (o : Op) => o.kind != OpKind.baton }).deliver (batOp 1)
    (s.satInc (0x10 + h) 0x14C 31 24).report 0x0E 0 (0x10 + h) (0x10 + partner h) 0
  | none => s

/-- Both copies of a slot fail (R266). -/
def State.slotLost (s : State) (h slot : Nat) : Bool :=
  dirOcc (s.dirAt h (localDir slot))
  && ((s.memRead h (localSlot slot) 256).2.2 || !recordGood (s.bytesAt h (localSlot slot) 256))
  && (!s.heatUp (partner h) || (s.memRead (partner h) (mirrorSlot slot) 256).2.2 || !recordGood (s.bytesAt (partner h) (mirrorSlot slot) 256))

/-- A mirror slot that this heat holds fails, its only copy (R261, R266). -/
def State.mirrorLost (s : State) (h slot : Nat) : Bool :=
  dirOcc (s.dirAt h (mirrorDir slot))
  && ((s.memRead h (mirrorSlot slot) 256).2.2 || !recordGood (s.bytesAt h (mirrorSlot slot) 256))

/-- The record of a t_get goes to o_src; a write into the publication area is discarded and reported (R288). -/
def State.giveRecord (s : State) (h src : Nat) (bs : List Byte) (who : Nat) : State :=
  if 0x36E000 ≤ src ∧ src < 0x370000 then s.report 0x04 4 (0x30 + h) who (bankOf h (src / 8)) src else s.memWrite h src bs

/-- t_get (R112, R248): status, and the record copied to `src` where one passes. -/
def State.batGet (s : State) (h : Nat) (slot : Nat) (mir : Bool) (src who : Nat) : State × Nat :=
  let crcFail (s : State) : State × Nat :=
    let s := s.satInc (0x10 + h) 0x14C 7 0
    let lost (k : Nat) : Bool := if mir then s.mirrorLost h k else s.slotLost h k
    (s.when (lost slot && lost (slot ^^^ 1)) fun s => s.report 0x0E 1 (0x10 + h) (0x30 + h) slot, 2)
  let dir := if mir then mirrorDir slot else localDir slot
  let s := s.dirRead h dir
  if !dirOcc (s.dirAt h dir) then (s, 4)
  else if mir then
    let (s, bs, bad) := s.memRead h (mirrorSlot slot) 256
    if !bad && recordGood bs then (s.giveRecord h src bs who, 0) else crcFail s
  else
    let (s, bs, bad) := s.memRead h (localSlot slot) 256
    if !bad && recordGood bs then (s.giveRecord h src bs who, 0)
    else if s.heatUp (partner h) then
      let (s, bs, bad) := s.memRead (partner h) (mirrorSlot slot) 256
      if !bad && recordGood bs then
        (((s.giveRecord h src bs who).satInc (0x10 + h) 0x14C 15 8).report 0x0C 2 (0x10 + h) (0x30 + h) 0 (localSlot slot), 0)
      else crcFail s
    else crcFail s

/-- t_free (R249). -/
def State.batFree (s : State) (h : Nat) (slot : Nat) (mir : Bool) (who : Nat) : State × Nat :=
  let clear (s : State) (h : Nat) (m : Bool) : State :=
    s.setDir h m slot (s.dirAt h (if m then mirrorDir slot else localDir slot) &&& ~~~(3 <<< 62 : Word))
  if mir then
    if s.heatUp (partner h) then (s.report 0x0E 2 who who 0 slot, 5)
    else (s.setDir h true slot 0, 0)
  else
    let s := clear s h false
    if s.heatUp (partner h) then (clear s (partner h) true, 0) else (s, 3)

/-- HEAT[h].BATSTAT.mstate changes, with source MIRROR (R267, R327). -/
def State.mstateOf (s : State) (h : Nat) : Nat := tget 0 s.mstate h
def State.setMstate (s : State) (h m : Nat) : State :=
  if s.mstateOf h = m then s else { s with mstate := tset 0 s.mstate h m }.raise h 0xF1

/-- Both directories of a heat are cleared at its start (R265). -/
def State.clearDirs (s : State) (h : Nat) : State :=
  let keepKey (k : Nat) : Bool := !decide (spadKey h 0x370000 ≤ k ∧ k < spadKey h 0x380000)
  let s := { s with spads := tkeep keepKey s.spads }
  let out (w : Nat) : Bool := !decide (0x370000 / 8 ≤ w ∧ w < 0x380000 / 8)
  let s := s.updUp h fun u => { u with ecc := tkeep out u.ecc, held := tkeep out u.held }
  (s.setRfld (0x10 + h) 0x144 28 16 0).setRfld (0x10 + h) 0x144 12 0 0

/-- One slot of the re-mirroring copy, with its directory entry, whose mok reads 1 in a mirror directory (R241, R265); a word that cannot be
corrected stays so in the copy (notes/assumptions/55.md). -/
def State.copySlot (s : State) (h slot : Nat) : State :=
  let p := partner h
  let w := putBit (s.dirAt h (localDir slot)) 61 true
  let (s, bs, _) := s.memRead h (localSlot slot) 256
  let s := ((s.dirRead h (localDir slot)).memWrite p (mirrorSlot slot) bs).setDir p true slot w
  let bad := (List.range 32).filter fun k => s.spadBad h (localSlot slot + 8 * k) 8
  s.updUp p fun u => { u with ecc := u.ecc ++ bad.map fun k => (mirrorSlot slot / 8 + k, Ecc.double) }

/-- The re-mirroring copy: every occupied local slot of `h` with its entry into the partner's mirror area (R265). -/
def State.remirrorCopy (s : State) (h : Nat) : State := s.each (s.occSlots h false) fun s slot => s.copySlot h slot

/-- The re-mirroring of heat `h` ends (R265). -/
def State.remirrorEnd (s : State) (h : Nat) : State :=
  if s.mstateOf h = 2 then
    let s := (s.remirrorCopy h).setMstate h 0
    s.each (s.ringsOn h) fun s q => s.updRing q fun x => { x with unprot := false }
  else s

end Sys2Proof.Machine
end

