-- ==== Sys2Proof/Machine/Arbiter.lean ====
section
/-! DEFINITION. The Arbiter: publication, placement checks and commands, migration, static fallback, measurement windows (R274 to R295). -/
namespace Sys2Proof.Machine

/-! Publication (R288) -/

/-- CPX.HEATLIVE (R5). -/
def State.heatLive (s : State) : Nat := (List.range 16).foldl (fun a h => a + b2n (s.heatUp h) * 2 ^ h) 0
/-- The published mask of live root ports (R288, R290). -/
def State.portsLive (s : State) : Nat := (List.range 16).foldl (fun a p => a + b2n (s.portPresent p && (s.port p).live) * 2 ^ p) 0
/-- The generation word (R288). -/
def State.pubWord (s : State) : List Byte :=
  leBytes 8 (s.arb.gen.toNat * 2 ^ 32 + s.heatLive * 2 ^ 16 + s.portsLive)
def pathAddr (n : Nat) : Nat := 0x36E000 + n
def poolAddr (k : Nat) : Nat := 0x36F000 + 16 * k
def poolBytes (p : Reg × Reg) : List Byte := leBytes 4 p.1.toNat ++ leBytes 4 p.2.toNat ++ leBytes 8 0

/-- Write entries and the generation word into every present, unfenced heat (R288). -/
def State.publish (s : State) (entries : List (Nat × List Byte)) : State :=
  let s := s.updArb fun a => { a with gen := a.gen + 1 }
  s.each (List.range s.nHeats) fun s h =>
    if s.heatUp h then
      ((s.each entries fun s e => s.memWrite h e.1 e.2).memWrite h 0x36F400 s.pubWord).raise h 0xF2
    else s

/-- The whole publication area of a heat that is started again (R288). -/
def State.publishAll (s : State) (h : Nat) : State :=
  let keepKey (k : Nat) : Bool := !decide (spadKey h 0x36E000 ≤ k ∧ k < spadKey h 0x370000)
  let out (w : Nat) : Bool := !decide (0x36E000 / 8 ≤ w ∧ w < 0x370000 / 8)
  let s := { s with spads := tkeep keepKey s.spads }.updUp h fun u => { u with ecc := tkeep out u.ecc, held := tkeep out u.held }
  let s := s.each s.arb.paths fun s e => s.memWrite h (pathAddr e.1) [e.2.setWidth 8]
  let s := s.each s.arb.pools fun s e => s.memWrite h (poolAddr e.1) (poolBytes e.2)
  s.memWrite h 0x36F400 s.pubWord

/-! Placement checks (R281) -/

/-- Whether a heat's mirror state meets ARBL.LIM.mirr (R291). -/
def State.mirrorOk (s : State) (h : Nat) : Bool :=
  match s.rfld 8 0x100 13 12 with
  | 0 => true
  | 1 => s.mstateOf h != 1
  | _ => s.mstateOf h == 0

/-- ARBL.EXCL.secok of a heat (R293). -/
def State.secOk (s : State) (h : Nat) : Bool := s.heatUp h && s.arb.secok.getLsbD h

/-- Checks 0x2 to 0x9 of R281 for a ring and a destination; 0 where all pass. -/
def State.destCheck (s : State) (q dest : Nat) : Nat :=
  if !s.heatPresent dest then 2
  else if !s.heatUp dest then 3
  else if (s.reg 8 0x108).getLsbD dest then 4
  else if !(s.ring q).aff.getLsbD dest then 5
  else if (s.ring q).world && !s.secOk dest then 6
  else if s.arb.excl.getLsbD dest then 7
  else if !s.mirrorOk dest then 8
  else if s.rfld 8 0x100 11 0 * s.liveCount dest ≤ (s.ringsOn dest).length then 9
  else 0

/-- All checks of R281. -/
def State.placeCheck (s : State) (mig : Bool) (q dest : Nat) : Nat :=
  let x := s.ring q
  let ok := if mig then x.en && x.placed && x.heat != dest else x.en && !x.placed
  if !ok then 1 else s.destCheck q dest

/-- A command's result: the result FIFO, where it waits while 16 stand before it (notes/assumptions/56.md), its record, the refusal count, source RES (R273, R280, R281, R425). -/
def State.postResult (s : State) (q dest ctag code : Nat) : State :=
  let s := s.updArb fun a => { a with res := a.res ++ [{ ctag := BitVec.ofNat 8 ctag, code := code, ring := q }] }
  let s := s.when (decide (2 ≤ code ∧ code ≤ 9)) fun s => s.wrapInc 8 0x110 31 0
  (s.record 5 (code * 2 ^ 24 + dest % 16 * 2 ^ 16 + q % 2 ^ 15) (ctag % 256) 0).raise 16 2

/-- The ring is placed on a heat and joins its queue if eligible (R281). -/
def State.placeOn (s : State) (q dest : Nat) : State :=
  (s.modRing q fun x => { x with heat := dest, placed := true, unprot := x.unprot || s.mstateOf dest == 1, told := false }).pendChanged

/-- The move of a migration: the checks again, then move, unfreeze and result (R282 steps 3 to 5). -/
def State.moveRing (s : State) (q : Nat) : State :=
  match (s.ring q).migTo with
  | none => s
  | some (dest, ctag) =>
    let code := s.placeCheck true q dest
    let old := (s.ring q).heat
    let endMig (x : Ring) : Ring := { x with frozen := false, migTo := none, migMv := false }
    if code = 0 then
      let unp (x : Ring) : Bool := s.mstateOf dest == 1 || (x.unprot && s.mstateOf old == 1)
      (s.modRing q fun x => { endMig x with heat := dest, unprot := unp x, migs := x.migs + 1 }).postResult q dest ctag 0
    else (s.modRing q endMig).postResult q dest ctag code

/-- Migrations in progress (R279). -/
def State.migsOpen (s : State) : Nat := (s.rings.filter fun e => e.2.migTo.isSome).length

/-- Whether the oldest queued command may begin (R279, R280). -/
def State.canBegin (s : State) : Bool :=
  match s.arb.cmds with
  | [] => false
  | c :: _ => decide (s.migsOpen < 4) && (s.ring c.ring).migTo.isNone && decide (s.arb.res.length < 16)

/-- Begin the oldest queued command (R279, R281, R282): an unheld ring is frozen and moves at MIGRATE_MOVE, a held one waits for its withdrawal, one that a
fence froze for its heat's orphans. -/
def State.beginCmd (s : State) : State :=
  match s.arb.cmds with
  | [] => s
  | c :: t =>
    let s := s.updArb fun a => { a with cmds := t }
    let code := s.placeCheck c.mig c.ring c.dest
    if code ≠ 0 then s.postResult c.ring c.dest c.ctag.toNat code
    else if !c.mig then (s.placeOn c.ring c.dest).postResult c.ring c.dest c.ctag.toNat 0
    else
      let s := s.updRing c.ring fun x => { x with migTo := some (c.dest, c.ctag.toNat) }
      let x := s.ring c.ring
      if x.held || x.fzRun || x.fzHeat then s else s.modRing c.ring fun x => { x with frozen := true, migMv := true }

/-- A command enters the FIFO, and begins at once if none waits before it (R279). -/
def State.pushCmd (s : State) (c : PCmd) : State :=
  let s := s.updArb fun a => { a with cmds := a.cmds ++ [c] }
  if s.arb.cmds.length = 1 ∧ s.canBegin = true then s.beginCmd else s

/-- A ring of a migration whose old heat is fenced (R285). -/
def State.cancelMig (s : State) (q : Nat) : State :=
  match (s.ring q).migTo with
  | none => s
  | some (dest, ctag) => (s.updRing q fun x => { x with migTo := none, migMv := false }).postResult q dest ctag 0xA

/-- A withdrawn ring may move: no pass that names it is still in flight (R282 step 2). -/
def State.passPending (s : State) (q : Nat) : Bool :=
  s.runners.any fun e => match e.2.late with
    | some m => recordRing m.bytes == some q && e.2.ops.any fun (o : Op) => o.kind == OpKind.baton
    | none => false

/-! Static fallback (R294, R295) -/

/-- The fallback begins: commands not begun end CANCELLED (R294). -/
def State.fallback (s : State) (cause : Nat) : State :=
  if s.arb.fb then s
  else
    let cs := s.arb.cmds
    let s := s.updArb fun a => { a with fb := true, fbCause := BitVec.ofNat 3 cause, fbCnt := BitVec.ofNat 8 (satAdd 8 a.fbCnt.toNat 1), cmds := [] }
    s.each cs fun s c => s.postResult c.ring c.dest c.ctag.toNat 0xA

/-- ARBL.SMAP entry (R293). -/
def State.smap (s : State) (j : Nat) : Nat := s.rfld 8 (0x120 + 4 * (j / 8)) (4 * (j % 8) + 3) (4 * (j % 8))

/-- The fallback places one waiting ring (R294). -/
def State.fallbackPlace (s : State) (q : Nat) : State :=
  let x := s.ring q
  if s.arb.fb && x.en && !x.placed then
    match ((List.range 16).map fun i => (s.smap (q % 64) + i) % 16).find? fun h => s.destCheck q h == 0 with
    | some h => (s.placeOn q h).record 5 (2 ^ 31 + h * 2 ^ 16 + q % 2 ^ 15) 0 0
    | none => if x.told then s else (s.updRing q fun x => { x with told := true }).report 0x05 2 7 7 q
  else s

/-! Pools (R289) -/

def State.poolAt (s : State) (k : Nat) : Reg × Reg := tget (0, 0) s.arb.pools k
/-- First and last-but-one byte of a pool's region. -/
def poolRegion (p : Reg × Reg) : Nat × Nat :=
  let b := fld p.2 10 0 * 4096
  (b, b + fld p.1 15 0 * (256 * 2 ^ fld p.1 19 16))
def poolFree (p : Reg × Reg) : Bool := fld p.1 26 25 = 0

/-- A pair that leaves the pool not FREE is refused with STATE (R289). -/
def State.poolBad (s : State) (k : Nat) (n : Reg × Reg) : Bool :=
  if poolFree n then false
  else
    let (b, e) := poolRegion n
    let heat := fld n.1 23 20
    !s.heatPresent heat
    || (if n.1.getLsbD 24 then !decide (0x580000 ≤ b ∧ e ≤ 0x600000) else !decide (e ≤ 0x36E000))
    || (s.arb.pools.any fun x => x.1 != k && !poolFree x.2 && fld x.2.1 23 20 == heat
          && (let (b', e') := poolRegion x.2; decide (b < e' ∧ b' < e)))
    || (!poolFree (s.poolAt k) && (setFld n.1 26 25 0 != setFld (s.poolAt k).1 26 25 0 || n.2 != (s.poolAt k).2))

def State.setPool (s : State) (k : Nat) (n : Reg × Reg) : State :=
  (s.updArb fun a => { a with pools := tset (0, 0) a.pools k n }).publish [(poolAddr k, poolBytes n)]

/-- ARB.PATHW writes and publishes a path-table entry (R290). -/
def State.setPath (s : State) (n : Nat) (v : BitVec 4) : State :=
  (s.updArb fun a => { a with paths := tset 0 a.paths n v }).publish [(pathAddr n, [v.setWidth 8])]

/-! Measurement (R274 to R276) -/

/-- A runner counts as busy (R276). -/
def Runner.busyNow (x : Runner) : Bool :=
  x.run == .running && !x.ops.any fun o => match o.kind with | .pop _ => true | .wait _ => true | _ => false

/-- The measurement registers of a heat at a window end: offset and value (R276). -/
def State.measure (s : State) (h : Nat) : List (Nat × Nat) :=
  let rs := s.ringsOn h
  let back := rs.foldl (fun a q => a + ((s.ring q).prod - (s.ring q).cons).toNat) 0
  let elig := (rs.filter fun q => (s.ring q).elig).length
  let pools := s.arb.pools.foldl (fun a e =>
    if fld e.2.1 23 20 = h ∧ (fld e.2.1 26 25 = 1 ∨ fld e.2.1 26 25 = 2) then a + fld e.2.1 15 0 * (256 * 2 ^ fld e.2.1 19 16) else a) 0
  let slots := (s.occSlots h false).length + (s.occSlots h true).length
  let temp := (BitVec.ofInt 11 (tget 0 s.arb.temp h)).toNat
  (List.range 9).map (fun i => (0x140 + 4 * i, min (tget 0 s.arb.rbusy (9 * h + i)) 2500))
  ++ [(0x164, min back (2 ^ 24 - 1)), (0x168, rs.length * 2 ^ 16 + elig), (0x16C, (pools + 256 * slots + 1023) / 1024),
      (0x170, b2n (s.arb.excl.getLsbD h) * 2 ^ 16 + temp)]
  ++ (List.range 16).map (fun k => (0x180 + 4 * k, min (tget 0 s.arb.hist (16 * h + k)) (2 ^ 32 - 1)))

/-- Adapter commands outstanding on a root port (R276). -/
def State.outstanding (s : State) (p : Nat) : Nat := (s.port p).np.length

/-- Capture one snapshot of every present heat (R274). -/
def State.snapshot (s : State) : State :=
  let ps := (List.range s.nPorts).map fun p => (0x1C0 + 4 * p, s.outstanding p * 2 ^ 16 + max (s.outstanding p) (tget 0 s.arb.pqMax p))
  let put (h : Nat) (t : Table Nat) (e : Nat × Nat) : Table Nat := tset 0 t (2048 * h + e.1) e.2
  let all := (List.range s.nHeats).foldl (fun (t : Table Nat) h => (s.measure h ++ ps).foldl (put h) t) []
  let start := (List.range s.nPorts).foldl (fun (t : Table Nat) p => tset 0 t p (s.outstanding p)) []
  s.updArb fun a =>
    { a with snaps := all, window := s.lap.toNat / 1250, winAt := some s.clkS, hist := [], rbusy := [], pqMax := start }

/-- ARB.MSEL copies a heat's snapshot into the measurement registers; an absent heat copies zeros (R275). -/
def State.mselCopy (s : State) (h : Nat) : State :=
  let offs := (List.range 13).map (fun i => 0x140 + 4 * i) ++ (List.range 32).map (fun k => 0x180 + 4 * k)
  let s := s.each offs fun s off => s.setReg 7 off (if s.heatPresent h then BitVec.ofNat 32 (tget 0 s.arb.snaps (2048 * h + off)) else 0)
  s.setReg 7 0x10C (BitVec.ofNat 32 (if s.heatPresent h then s.arb.window else 0))

end Sys2Proof.Machine
end

