-- ==== Sys2Proof/Machine/HeatCache.lean ====
section
/-! DEFINITION. The heat caches and the host requests of runners: lookups, fills, evictions, prefetches, snoops, completion of HAU requests (R33 to R37, R96 to R98, R311 to R326). -/
namespace Sys2Proof.Machine

def cpage (h : Nat) : Nat := 0x40 + h
/-- A request completed inside the complex for want of a link is reported (R34). -/
def State.noLink (s : State) (a : Nat) : State := s.report 0x10 5 0 0 0 a

/-! Bytes of a line -/

/-- `size` bytes of a line from byte `off` on. -/
def lineNat (d : LineData) (off size : Nat) : Nat := d.toNat / 2 ^ (8 * off) % 2 ^ (8 * size)
/-- A line with `size` bytes replaced from byte `off` on. -/
def linePut (d : LineData) (off size x : Nat) : LineData := setFld d (8 * (off + size) - 1) (8 * off) x

/-! HAU requests (R98) -/

/-- The lowest identifier not in use. -/
def Runner.hauId (x : Runner) : Nat := ((List.range 17).find? fun i => !x.hau.any fun e => e.id == i).getD 16

/-- Outstanding HAU writes: all of them, which a message waits for (R343), and those of this run, which a fence waits for (R96). -/
def Runner.hauWrites (x : Runner) : List Nat := (x.hau.filter fun e => !e.load).map (·.id)
def Runner.runWrites (x : Runner) : List Nat := (x.hau.filter fun e => !e.load && !e.dead).map (·.id)

/-- A fence operation whose writes are all settled gives its status (R96). -/
def fenceSettle (o : Op) : Op :=
  match o.kind with
  | .fence [] bad => { o with res := [(0x17D, { val := BitVec.ofNat 64 (b2n bad) })] }
  | _ => o

/-- A fence no longer waits for write `id`; a failure is charged to the oldest fence that waits for it (R96). -/
def fenceAck (id : Nat) (bad : Bool) : List Op → List Op
  | [] => []
  | o :: t =>
    match o.kind with
    | .fence ids b =>
      if ids.contains id then
        fenceSettle { o with kind := .fence (ids.filter fun i => i != id) (b || bad) } :: fenceAck id false t
      else o :: fenceAck id bad t
    | _ => o :: fenceAck id bad t

/-- A HAU request completes: a load gives its value or a poisoned result, a write settles fences and messages (R96, R98, R343). A response to a
request from before a fence or a start of its runner is discarded, but that it came lets messages go (R257, R343). -/
def Runner.hauDone (x : Runner) (id : Nat) (ok : Bool) (v : Word) : Runner :=
  match x.hau.find? fun e => e.id == id with
  | none => x
  | some e =>
    let x := { x with hau := x.hau.filter fun e => e.id != id }
    let settled (m : Msg) : Msg := { m with ids := m.ids.filter fun i => i != id }
    if e.dead then { x with msgs := x.msgs.map settled }
    else if e.load then
      let val : QVal := if ok then { val := v } else { poison := true, host := true }
      let give (o : Op) : Op := if o.kind == OpKind.host id then { o with kind := .plain, res := o.res.map fun r => (r.1, val) } else o
      let mine (o : Op) : Bool := o.kind == OpKind.host id
      match x.ops.span fun o => !mine o with
      | (_, []) => x
      | (older, o :: newer) => { x with ops := hideOlder o older ++ newer }.deliver (give o)
    else
      let held := x.ops.any fun o => match o.kind with | .fence ids _ => ids.contains id | _ => false
      { x with ops := fenceAck id (!ok) x.ops, spanBad := x.spanBad || (!ok && !held),
               msgs := x.msgs.map settled }

def State.hauDone (s : State) (r : Rid) (id : Nat) (ok : Bool) (v : Word) : State := s.updR r fun x => x.hauDone id ok v

/-- A new HAU request in the current world (R96); a load also takes its place among the operations in flight. -/
def State.newHau (s : State) (r : Rid) (load : Bool) (addr size : Nat) : State × Nat :=
  let id := (s.runner r).hauId
  let op : List Op := if load then [{ unit := .hau, res := [(0x17C, {})], kind := .host id }] else []
  (s.updR r fun x => { x with hau := x.hau ++ [{ id := id, load := load, size := size, addr := addr, cust := x.cust }], ops := x.ops ++ op }, id)

/-- The world attribute of an outstanding HAU request (R96). -/
def Runner.hauCust (x : Runner) (id : Nat) : Bool := x.hau.any fun e => e.id == id && e.cust

/-- The block that an RD_NC of `n` bytes at `a` names: 8 to 256 bytes, a power of two, naturally aligned, holding those bytes (R33). -/
def ncBlock (a n : Nat) : Nat × Nat :=
  let size := ([8, 16, 32, 64, 128].find? fun z => a / z == (a + n - 1) / z).getD 256
  (a / size * size, size)

/-- RD_NC of a runner (R33, R34). -/
def State.ncRead (s : State) (r : Rid) (id addr size : Nat) : State :=
  let b := ncBlock addr size
  if s.linkLive then s.put (.rdNc (s.linkOf addr) ((s.runner r).hauCust id) r id b.1 b.2) else (s.noLink addr).hauDone r id false 0
/-- WR_NC of a runner (R33, R34). -/
def State.ncWrite (s : State) (r : Rid) (id addr size : Nat) (d : LineData) : State :=
  if s.linkLive then s.put (.wrNc (s.linkOf addr) ((s.runner r).hauCust id) r id addr size d) else (s.noLink addr).hauDone r id false 0

/-- A carrier's job waits for the host to answer `o` (R33). -/
def State.carWaits (s : State) (h k i : Nat) (o : Out) : State :=
  (s.updJob (36 * h + 9 * k + i) fun j => { j with req := some o }).put o
/-- RD_NC and WR_NC of a carrier, where a link is live (R33, R34). -/
def State.carRdNc (s : State) (h k i a n : Nat) : State :=
  let b := ncBlock a n
  s.carWaits h k i (.rdNcCar (s.linkOf a) h k i b.1 b.2)
def State.carWrNc (s : State) (h k i a : Nat) (bs : List Byte) : State := s.carWaits h k i (.wrNcCar (s.linkOf a) h k i a bs)

/-! Lines -/

/-- The way that holds a line, as its table key, and the line. -/
def Cache.find (c : Cache) (line : Nat) : Option (Nat × Line) :=
  (List.range 8).findSome? fun w =>
    match c.lines.find? fun e => e.1 == 8 * (line % 512) + w with
    | some (k, l) => if l.line = line then some (k, l) else none
    | none => none
def Cache.fillOf (c : Cache) (line : Nat) : Option Fill := c.fills.find? fun f => f.line == line
def Cache.drop (c : Cache) (key : Nat) : Cache := { c with lines := c.lines.filter fun e => e.1 != key }
/-- Put a line in place; the table stays in order of its keys. -/
def Cache.store (c : Cache) (key : Nat) (l : Line) : Cache :=
  { c with lines := (c.lines.filter fun e => decide (e.1 < key)) ++ [(key, l)] ++ (c.lines.filter fun e => decide (key < e.1)) }

/-- A WR_BACK leaves, or is discarded and reported for want of a link (R34, R311, R322). -/
def State.writeBack (s : State) (h line : Nat) (d : LineData) : State :=
  if s.linkLive then (s.updCache h fun c => { c with wbs := c.wbs ++ [line] }).put (.wrBack (s.linkOf (256 * line)) line d)
  else (s.noLink (256 * line)).report 0x0D 1 (cpage h) (cpage h) 0 (256 * line)

/-- A corrected error of a line, and a line that is lost, are reported (R322). -/
def State.lineCorrected (s : State) (h line : Nat) : State := s.report 0x0C 1 (cpage h) (cpage h) 0 (256 * line)
def State.lineLost (s : State) (h line : Nat) : State := s.report 0x0D 1 (cpage h) (cpage h) 0 (256 * line)

/-- Remove a line: written back if dirty; a poisoned line, and a dirty one whose error cannot be corrected, is discarded and reported (R313, R322). -/
def State.evict (s : State) (h key : Nat) : State :=
  match (s.cache h).lines.find? fun e => e.1 == key with
  | none => s
  | some (_, l) =>
    let s := s.updCache h fun c => c.drop key
    if l.poison then s.lineLost h l.line
    else if l.dirty then
      match l.err with
      | none => s.writeBack h l.line l.data
      | some .single => (s.lineCorrected h l.line).writeBack h l.line l.data
      | some .double => s.lineLost h l.line
    else s

def lockedWay (s : State) (h w : Nat) : Bool := (s.reg (cpage h) 0x104).getLsbD w

/-- The successor of the replacement LFSR (R313). -/
def lfsrNext (v : BitVec 16) : BitVec 16 :=
  (v <<< 1) ||| BitVec.ofNat 16 (b2n (xor (xor (v.getLsbD 15) (v.getLsbD 13)) (xor (v.getLsbD 12) (v.getLsbD 10))))

/-- The way an allocating miss chooses in its set; the LFSR has advanced (R313). -/
def State.chooseWay (s : State) (h line : Nat) : Option Nat :=
  let c := s.cache h
  let at' (w : Nat) : Option Line := (c.lines.find? fun e => e.1 == 8 * (line % 512) + w).map (·.2)
  let filling (w : Nat) : Bool := c.fills.any fun f => f.way == some w && f.line % 512 == line % 512
  let ok (w : Nat) : Bool := !lockedWay s h w && !filling w && (match at' w with | some l => !l.poison | none => true)
  match (List.range 8).find? fun w => ok w && (at' w).isNone with
  | some w => some w
  | none => ((List.range 8).map fun i => (c.lfsr.toNat + i) % 8).find? ok

/-- An allocating miss: the LFSR advances, a way is chosen and evicted (R313). -/
def State.allocate (s : State) (h line : Nat) : Option Nat × State :=
  let s := s.updCache h fun c => { c with lfsr := lfsrNext c.lfsr }
  match s.chooseWay h line with
  | none => (none, s)
  | some w => (some w, s.evict h (8 * (line % 512) + w))

/-- A carrier access that a fill or a lookup completes: carrier, ring, whether OK, and the line. -/
structure CarNote where
  k    : Nat
  i    : Nat
  ok   : Bool
  data : LineData
  deriving DecidableEq, Repr

/-- A waiting access fails with the fill's response (R311); an uncached request that waited its turn is sent (R34). -/
def State.waiterErr (s : State) : Waiter → State
  | .hauLoad r id _ _ => s.hauDone r id false 0
  | .hauStore r id _ _ _ => s.hauDone r id false 0
  | .ncRead r id addr size => s.ncRead r id addr size
  | .ncWrite r id addr size d => s.ncWrite r id addr size d
  | _ => s
def Waiter.errNote : Waiter → List CarNote
  | .carRead k i => [{ k := k, i := i, ok := false, data := 0 }]
  | .carWrite k i _ _ _ => [{ k := k, i := i, ok := false, data := 0 }]
  | _ => []

/-- An uncached carrier request that waited its turn is sent (R34); without a link it fails, which its job is told. -/
def State.carNcGo (s : State) (h : Nat) : Waiter → State × List CarNote
  | .carNcRead k i a n =>
    if s.linkLive then (s.carRdNc h k i a n, []) else (s.noLink a, [{ k := k, i := i, ok := false, data := 0 }])
  | .carNcWrite k i a bs =>
    if s.linkLive then (s.carWrNc h k i a bs, []) else (s.noLink a, [{ k := k, i := i, ok := false, data := 0 }])
  | _ => (s, [])

/-- A locked fill has ended (R314): STAT.lfill is 0 and LOCK.lfres holds its code. -/
def State.lockedEnd (s : State) (h code : Nat) : State := (s.updCache h fun c => { c with lfill := false }).setRfld (cpage h) 0x11C 28 27 code

/-- A fill ends without installation: waiting accesses get its response, a prefetch counts as dropped, a locked fill ends HOSTERR (R311, R314). -/
def State.fillErr (s : State) (h : Nat) (f : Fill) : State × List CarNote :=
  let s := s.updCache h fun c => { c with fills := c.fills.filter fun g => g.line != f.line }
  let s := s.when f.locked fun s => s.lockedEnd h 2
  let s := match f.kind with
    | .demand | .locked => s
    | _ => s.satInc (cpage h) 0x158 15 0
  let s := f.wait.foldl State.waiterErr s
  f.wait.foldl (fun p w => let q := p.1.carNcGo h w; (q.1, p.2 ++ w.errNote ++ q.2)) (s, [])

/-- The request of a fill (R33, R34, R311). -/
def State.fillOut (s : State) (f : Fill) : Out :=
  if f.unique then .rdUnique (s.linkOf (256 * f.line)) f.line f.cust else .rdShared (s.linkOf (256 * f.line)) f.line f.cust

/-- Ask the host for a line (R311, R34). -/
def State.startFill (s : State) (h : Nat) (f : Fill) : State × List CarNote :=
  if s.linkLive then ((s.updCache h fun c => { c with fills := c.fills ++ [f] }).put (s.fillOut f), [])
  else (s.noLink (256 * f.line)).fillErr h f

/-- A prefetch of a line, dropped and counted where it finds no way (R313, R317, R318). -/
def State.prefetch (s : State) (h line : Nat) (kind : FillKind) (cust : Bool) : State :=
  let c := s.cache h
  if (c.find line).isSome || (c.fillOf line).isSome || decide (2 ^ 44 ≤ line) then s
  else
    match s.allocate h line with
    | (none, s) => s.satInc (cpage h) 0x158 15 0
    | (some w, s) => (s.startFill h { line := line, way := some w, unique := false, kind := kind, cust := cust }).1

/-- The next-line prefetch of an allocating demand miss: at most 8 outstanding (R317). -/
def State.nextLine (s : State) (h line : Nat) (cust : Bool) : State :=
  let c := s.cache h
  if (c.find (line + 1)).isSome || (c.fillOf (line + 1)).isSome then s
  else if 8 ≤ (c.fills.filter fun f => f.kind == .next).length then s.satInc (cpage h) 0x158 15 0
  else s.prefetch h (line + 1) .next cust

/-- The next four distinct lines of a confirmed stream beyond the line of `a` (R318). -/
def strideLines (a : Nat) (d : Int) : List Nat :=
  ((List.range 4).map fun (n : Nat) =>
    let k : Int := (n : Int) + 1
    if d.natAbs < 256 then (a / 256 : Int) + (if d < 0 then -k else k) else ((a : Int) + k * d) / 256).filterMap
    fun l => if l < 0 then none else some l.toNat

/-- A detector sees a demand address (R318, notes/assumptions/23.md). -/
def Stride.see (t : Stride) (a : Nat) : Stride :=
  match t.last with
  | none => { last := some a }
  | some l =>
    let d : Int := (a : Int) - l
    if t.conf then (if d = t.step then { t with last := some a } else { last := some a, step := t.step })
    else if d ≠ 0 ∧ d.natAbs ≤ 2 ^ 20 ∧ d = t.step ∧ 1 ≤ t.seen then { last := some a, step := d, seen := t.seen + 1, conf := true }
    else { last := some a, step := d, seen := if d ≠ 0 ∧ d.natAbs ≤ 2 ^ 20 then 1 else 0 }

/-- A cached demand address is presented to the detectors of its stream; confirmed ones keep four lines requested (R318). -/
def State.stride (s : State) (h : Nat) (carrier : Bool) (idx a : Nat) (cust : Bool) : State :=
  if !s.fuses.variant.full then s
  else s.each (List.range 4) fun s k =>
    let r := s.reg (cpage h) (0x130 + 4 * k)
    if r.getLsbD 31 && (r.getLsbD 29 == carrier) && (fld r 27 24 == idx) then
      let t := tget {} (s.cache h).sd k
      let t' := t.see a
      let s := s.updCache h fun c => { c with sd := tset {} c.sd k t' }
      if t.conf && t'.conf then
        s.each (strideLines a t'.step) fun s line =>
          if ((s.cache h).fills.filter fun f => f.kind == .stride k).length < 4 then s.prefetch h line (.stride k) cust else s
      else s
    else s

/-- Cached accesses are served and allocate (R320). -/
def State.cacheOn (s : State) (h : Nat) : Bool := (s.reg (cpage h) 0x100).getLsbD 0 && !(s.cache h).draining

/-- A hit that the cache may serve: any line while it is on, a dirty one while it drains (R320). -/
def State.hitLine (s : State) (h line : Nat) : Option (Nat × Line) :=
  match (s.cache h).find line with
  | some (k, l) => if s.cacheOn h || (l.dirty && (s.cache h).draining) then some (k, l) else none
  | none => none

/-- The words of a line that a demand access hits are checked: a single error is corrected and reported; a double one poisons a dirty line, and a clean
line is invalidated and filled again in its way, the access waiting for it as for any fill (R322, notes/assumptions/51.md). -/
def State.lineCheck (s : State) (h line : Nat) (unique cust : Bool) : State :=
  match s.hitLine h line with
  | none => s
  | some (k, l) =>
    if l.poison then s
    else
      match l.err with
      | none => s
      | some .single => (s.updCache h fun c => c.store k { l with err := none }).lineCorrected h line
      | some .double =>
        if l.dirty then (s.updCache h fun c => c.store k { l with err := none, poison := true }).lineLost h line
        else
          let s := s.updCache h fun c => c.drop k
          if s.linkLive && ((s.cache h).fillOf line).isNone then
            (s.startFill h { line := line, way := some (k % 8), unique := unique, kind := .demand, cust := cust }).1
          else s

/-- A bypassing write invalidates any clean copy of its line (R320). -/
def State.bypassDrop (s : State) (h line : Nat) : State :=
  match (s.cache h).find line with
  | some (k, l) => if l.dirty then s else s.updCache h fun c => c.drop k
  | none => s

/-- An access waits for a fill that is outstanding. -/
def State.joinFill (s : State) (h line : Nat) (w : Waiter) : State :=
  s.updCache h fun c => { c with fills := c.fills.map fun (f : Fill) => if f.line = line then { f with wait := f.wait ++ [w] } else f }

/-- A miss of a demand access: it joins a fill, allocates, or must bypass (false) (R313, R317). -/
def State.demandMiss (s : State) (h line : Nat) (unique cust : Bool) (w : Waiter) : (State × List CarNote) × Bool :=
  match (s.cache h).fillOf line with
  | some _ => ((s.joinFill h line w, []), true)
  | none =>
    match s.allocate h line with
    | (none, s) => ((s.report 0x0D 3 (cpage h) (cpage h) 0 (256 * line), []), false)
    | (some way, s) =>
      let s := s.wrapInc (cpage h) 0x154 31 0
      let p := s.startFill h { line := line, way := some way, unique := unique, kind := .demand, cust := cust, wait := [w] }
      ((p.1.nextLine h line cust, p.2), true)

/-- A store to a line held clean asks for it by RD_UNIQUE; no way is reserved (R311, R313). -/
def State.upgrade (s : State) (h line : Nat) (cust : Bool) (ws : List Waiter) : State × List CarNote :=
  s.startFill h { line := line, way := none, unique := true, kind := .demand, cust := cust, wait := ws }

/-- A store into an owned line (R311). -/
def Cache.write (c : Cache) (key off size x : Nat) : Cache :=
  match c.lines.find? fun e => e.1 == key with
  | some (_, l) => c.store key { l with dirty := true, data := linePut l.data off size x }
  | none => c

/-- The source of a waiting access: a runner's HAU, or a carrier (R34). -/
def Waiter.source : Waiter → Rid ⊕ Nat
  | .hauLoad r _ _ _ | .hauStore r _ _ _ _ | .ncRead r _ _ _ | .ncWrite r _ _ _ _ => .inl r
  | .carRead k _ | .carWrite k _ _ _ _ | .carNcRead k _ _ _ | .carNcWrite k _ _ _ => .inr k

/-- An earlier access of the source waits for the line: a later one waits behind it (R34). -/
def Cache.mine (c : Cache) (line : Nat) (who : Rid ⊕ Nat) : Bool :=
  match c.fillOf line with
  | some f => f.wait.any fun w => decide (w.source = who)
  | none => false

/-- An uncached read of a runner, behind its earlier accesses to the line (R34). -/
def State.ncReadTurn (s : State) (r : Rid) (id addr size : Nat) : State :=
  if (s.cache r.home).mine (addr / 256) (.inl r) then s.joinFill r.home (addr / 256) (.ncRead r id addr size) else s.ncRead r id addr size
/-- An uncached write of a runner, likewise. -/
def State.ncWriteTurn (s : State) (r : Rid) (id addr size : Nat) (d : LineData) : State :=
  if (s.cache r.home).mine (addr / 256) (.inl r) then s.joinFill r.home (addr / 256) (.ncWrite r id addr size d)
  else s.ncWrite r id addr size d

/-- A demand address is presented to the stride detectors once its own lookup has been made (R317, R318). -/
def State.strideAfter (s : State) (on : Bool) (h : Nat) (carrier : Bool) (idx a : Nat) (cust : Bool) : State :=
  s.when on fun s => s.stride h carrier idx a cust

/-- The lookup of a cached load of a heat runner (R34, R96, R311). -/
def State.hauLoadGo (s : State) (h i addr size : Nat) : State :=
  let r := Rid.heat h i; let line := addr / 256; let cust := (s.runner r).cust
  let s := s.lineCheck h line false cust
  match s.hitLine h line with
  | some (_, l) =>
    let s := s.wrapInc (cpage h) 0x150 31 0
    let v : QVal := if l.poison then { poison := true } else { val := BitVec.ofNat 64 (lineNat l.data (addr % 256) size) }
    if (s.cache h).mine line (.inl r) then
      let (s, id) := s.newHau r true addr size
      s.joinFill h line (.hauLoad r id addr size)
    else s.updR r fun x => { x with ops := x.ops ++ [{ unit := .hau, res := [(0x17C, v)] }] }
  | none =>
    let (s1, id) := s.newHau r true addr size
    if s.cacheOn h then
      match s1.demandMiss h line false cust (.hauLoad r id addr size) with
      | ((s2, _), true) => s2
      | ((s2, _), false) => s2.ncRead r id addr size
    else s1.ncReadTurn r id addr size

/-- A cached load of a heat runner (R96, R311, R318). -/
def State.hauLoad (s : State) (h i addr size : Nat) : State :=
  (s.hauLoadGo h i addr size).strideAfter (s.cacheOn h) h false i addr (s.runner (.heat h i)).cust

/-- The lookup of a cached store of a heat runner (R96, R311). -/
def State.hauStoreGo (s : State) (h i addr size : Nat) (v : Word) : State :=
  let r := Rid.heat h i; let line := addr / 256; let cust := (s.runner r).cust
  let d : LineData := BitVec.ofNat 2048 (v.toNat % 2 ^ (8 * size))
  let s := s.lineCheck h line true cust
  match s.hitLine h line with
  | some (k, l) =>
    let s := s.wrapInc (cpage h) 0x150 31 0
    if l.poison then s.updR r fun x => { x with spanBad := true }
    else if l.owned then s.updCache h fun c => c.write k (addr % 256) size v.toNat
    else
      let (s, id) := s.newHau r false addr size
      match (s.cache h).fillOf line with
      | some _ => s.joinFill h line (.hauStore r id addr size v)
      | none => (s.upgrade h line cust [.hauStore r id addr size v]).1
  | none =>
    let (s1, id) := s.newHau r false addr size
    if s.cacheOn h then
      match s1.demandMiss h line true cust (.hauStore r id addr size v) with
      | ((s2, _), true) => s2
      | ((s2, _), false) => s2.ncWrite r id addr size d
    else (s1.bypassDrop h line).ncWriteTurn r id addr size d

/-- A cached store of a heat runner (R96, R311, R318). -/
def State.hauStore (s : State) (h i addr size : Nat) (v : Word) : State :=
  (s.hauStoreGo h i addr size v).strideAfter (s.cacheOn h) h false i addr (s.runner (.heat h i)).cust

/-- t_pref: the line that holds the address (R96, R317, R320). -/
def State.hauPref (s : State) (h addr : Nat) (cust : Bool) : State := if s.cacheOn h then s.prefetch h (addr / 256) .pref cust else s

/-! Fill responses (R311, R37) -/

/-- Waiting accesses on an installed line, in order; a store that finds it clean asks for it again by RD_UNIQUE. -/
def State.serve (s : State) (h line key : Nat) : List Waiter → State × List CarNote
  | [] => (s, [])
  | w :: t =>
    match (s.cache h).lines.find? fun e => e.1 == key with
    | none => (s, [])
    | some (_, l) =>
      match w with
      | .hauLoad r id addr size => (s.hauDone r id true (BitVec.ofNat 64 (lineNat l.data (addr % 256) size))).serve h line key t
      | .carRead k i => let p := s.serve h line key t; (p.1, { k := k, i := i, ok := true, data := l.data } :: p.2)
      | .hauStore r id addr size v =>
        if l.owned then ((s.updCache h fun c => c.write key (addr % 256) size v.toNat).hauDone r id true 0).serve h line key t
        else s.upgrade h line ((s.runner r).hauCust id) (w :: t)
      | .carWrite k i addr size d =>
        if l.owned then
          let p := (s.updCache h fun c => c.write key (addr % 256) size d.toNat).serve h line key t
          (p.1, { k := k, i := i, ok := true, data := 0 } :: p.2)
        else s.upgrade h line false (w :: t)
      | .ncRead r id a n => (s.ncRead r id a n).serve h line key t
      | .ncWrite r id a n d => (s.ncWrite r id a n d).serve h line key t
      | .carNcRead _ _ _ _ | .carNcWrite _ _ _ _ =>
        let q := s.carNcGo h w
        let p := q.1.serve h line key t
        (p.1, q.2 ++ p.2)

/-- Waiting accesses of a fill that is not installed: loads take the data, stores go by WR_NC (R37, R311). -/
def State.serveOnce (s : State) (h : Nat) (d : LineData) : List Waiter → State × List CarNote
  | [] => (s, [])
  | .hauLoad r id addr size :: t => (s.hauDone r id true (BitVec.ofNat 64 (lineNat d (addr % 256) size))).serveOnce h d t
  | .carRead k i :: t => let p := s.serveOnce h d t; (p.1, { k := k, i := i, ok := true, data := d } :: p.2)
  | .hauStore r id addr size v :: t => (s.ncWrite r id addr size (BitVec.ofNat 2048 (v.toNat % 2 ^ (8 * size)))).serveOnce h d t
  | .carWrite k i addr size e :: t =>
    if s.linkLive then (s.carWrNc h k i addr (leBytes size e.toNat)).serveOnce h d t
    else let p := (s.noLink addr).serveOnce h d t; (p.1, { k := k, i := i, ok := false, data := 0 } :: p.2)
  | .ncRead r id a n :: t => (s.ncRead r id a n).serveOnce h d t
  | .ncWrite r id a n e :: t => (s.ncWrite r id a n e).serveOnce h d t
  | w :: t =>
    let q := s.carNcGo h w
    let p := q.1.serveOnce h d t
    (p.1, q.2 ++ p.2)

/-- A fill response (R311, R314). BUSY asks for the request again (R33). `err` is an error of the line as it is stored (R322). -/
def State.fillResponse (s : State) (h line : Nat) (resp : Resp) (d : LineData) (err : Option Ecc) : State × List CarNote :=
  match (s.cache h).fillOf line with
  | none => (s, [])
  | some f =>
    match resp with
    | .busy => if s.linkLive then (s.put (s.fillOut f), []) else (s.noLink (256 * line)).fillErr h f
    | .ur | .err => s.fillErr h f
    | .ok =>
      let s := s.updCache h fun c => { c with fills := c.fills.filter fun g => g.line != line }
      let s := s.when f.locked fun s => s.lockedEnd h 0
      let key : Option Nat := if f.snooped then none else match f.way with
        | some w => some (8 * (line % 512) + w)
        | none => ((s.cache h).find line).map (·.1)
      match key with
      | some key => (s.updCache h fun c => c.store key { line := line, owned := f.unique, err := err, data := d }).serve h line key f.wait
      | none => s.serveOnce h d f.wait

/-! Snoops (R37, R319, R321, R322) -/

/-- One heat's answer: the state, and where the line was held its data if dirty and whether it was poisoned. A line that is being filled is answered
"not present", and a clean copy that the fill was to make owned goes (R37). -/
def State.snoopHeat (s : State) (h line link : Nat) : State × Option (Option LineData × Bool) :=
  let c := s.cache h
  if c.init then (s, none)
  else
    let s := s.updCache h fun c => { c with fills := c.fills.map fun (f : Fill) => if f.line = line then { f with snooped := true } else f }
    match c.find line with
    | none => (s, none)
    | some (k, l) =>
      let s := s.updCache h fun c => c.drop k
      if (c.fillOf line).isSome && !l.dirty then (s, none) else
      let lost (s : State) : State × Option (Option LineData × Bool) := (s.report 0x10 4 (cpage h) (cpage h) link (256 * line), some (none, true))
      if l.poison then lost s
      else if l.dirty then
        match l.err with
        | none => (s, some (some l.data, false))
        | some .single => (s.lineCorrected h line, some (some l.data, false))
        | some .double => lost (s.lineLost h line)
      else (s, some (none, false))

/-- Two heats' answers to one snoop, as one. -/
def joinSnoop (a b : Option (Option LineData × Bool)) : Option (Option LineData × Bool) :=
  match a, b with
  | none, y => y
  | x, none => x
  | some x, some y => some ((match y.1 with | some d => some d | none => x.1), x.2 || y.2)

/-- A snoop of every heat cache and its response: dirty data goes with it, also for SNP_INV (R33, R37, R319). -/
def State.snoop (s : State) (link line : Nat) : State :=
  let p := (List.range s.nHeats).foldl (fun p h =>
    let q := p.1.snoopHeat h line link
    (q.1, joinSnoop p.2 q.2)) (s, (none : Option (Option LineData × Bool)))
  p.1.put (match p.2 with
    | none => .snoop link .ok false none
    | some (_, true) => .snoop link .err true none
    | some (d, false) => .snoop link .ok true d)

/-! Clean, range invalidation, locked fill (R314, R315, R320) -/

/-- Every line of a list of keys leaves the cache, dirty ones written back. -/
def State.evictAll (s : State) (h : Nat) (keys : List Nat) : State := s.each keys fun s k => s.evict h k

/-- A clean or a range invalidation ends when its writebacks are acknowledged (R315, R320). -/
def State.settleCache (s : State) (h : Nat) : State :=
  let c := s.cache h
  if c.wbs.isEmpty then
    let s := s.when c.draining fun s => s.setRfld (cpage h) 0x100 0 0 0
    s.updCache h fun c => { c with rinv := false, draining := false }
  else s

/-- The clean of R320: every line written back if dirty, and invalidated; what a fill still brings is not installed (notes/assumptions/53.md). -/
def State.cacheClean (s : State) (h : Nat) : State :=
  ((s.updCache h fun c => { c with draining := true, fills := c.fills.map fun (f : Fill) => { f with snooped := true } }).evictAll h
    ((s.cache h).lines.map (·.1))).settleCache h

/-- The walk of R315 over `n` lines from `line`, in ascending order of the lines. -/
def State.rangeInv (s : State) (h line n : Nat) : State :=
  let found := (s.cache h).lines.filter fun e => decide (line ≤ e.2.line ∧ e.2.line < line + n)
  let keys := (sortOn (fun (e : Nat × Line) => e.2.line) found).map (·.1)
  ((s.updCache h fun c => { c with rinv := true }).evictAll h keys).settleCache h

/-- A locked fill (R314); a fill of the line that is outstanding becomes the locked fill (notes/assumptions/53.md). -/
def State.lockedFill (s : State) (h line w : Nat) : State :=
  if !lockedWay s h w then s.setRfld (cpage h) 0x11C 28 27 1
  else
    let s := match (s.cache h).find line with
      | some (k, _) => s.evict h k
      | none => s
    let s := (s.evict h (8 * (line % 512) + w)).updCache h fun c => { c with lfill := true }
    match (s.cache h).fillOf line with
    | some _ =>
      s.updCache h fun c => { c with fills := c.fills.map fun (f : Fill) => if f.line = line then { f with way := some w, locked := true } else f }
    | none => (s.startFill h { line := line, way := some w, unique := false, kind := .locked, locked := true }).1

/-- The acknowledgement of a WR_BACK (R315, R320). -/
def State.wbAck (s : State) (h line : Nat) : State :=
  match takeFirst (fun l => l == line) (s.cache h).wbs with
  | none => s
  | some (_, t) => (s.updCache h fun c => { c with wbs := t }).settleCache h

end Sys2Proof.Machine
end

