-- ==== Sys2Proof/Machine/Carriers.lean ====
section
/-! DEFINITION. The carriers: job rings, entries, elements, their sides in every space, and the end of a job (R390 to R395, R401). -/
namespace Sys2Proof.Machine

def carPage (h : Nat) : Nat := 0x70 + h
def jkey (h k i : Nat) : Nat := 36 * h + 9 * k + i
def State.jbase (s : State) (h : Nat) : Nat := s.rfld (carPage h) 0x100 22 12 * 4096
/-- The control block of a ring and its entries (R390). -/
def State.jctl (s : State) (h k i : Nat) : Nat := s.jbase h + 0x12000 + 64 * (9 * k + i)
def State.jentAddr (s : State) (h k i : Nat) (c : BitVec 16) : Nat := s.jbase h + 0x800 * (9 * k + i) + 64 * (c.toNat % 32)

/-- A job entry's fields (R391). -/
structure JEnt where
  sspc  : Nat
  dspc  : Nat
  slist : Bool
  dlist : Bool
  xform : Bool
  irq   : Bool
  fence : Bool
  disc  : Bool
  xblk  : Nat
  port  : Nat
  xctx  : Nat
  len   : Nat
  src   : Nat
  dst   : Nat
  cap   : Nat                                         -- destination bytes: dcap, or len (R391)
  rsvd  : Bool                                        -- a reserved bit is set
  deriving DecidableEq, Repr

def jentOf (l : List Byte) : JEnt :=
  let w : Reg := BitVec.ofNat 32 (leNat (l.take 4))
  let n (a k : Nat) : Nat := leNat ((l.drop a).take k)
  let dcap := n 0x1C 4
  { sspc := fld w 31 30, dspc := fld w 29 28, slist := w.getLsbD 27, dlist := w.getLsbD 26, xform := w.getLsbD 25, irq := w.getLsbD 24,
    fence := w.getLsbD 23, disc := w.getLsbD 22, xblk := fld w 21 20, port := fld w 19 16, xctx := fld w 15 0, len := n 4 4, src := n 8 8,
    dst := n 0x10 8, cap := if w.getLsbD 25 && dcap != 0 then dcap else n 4 4, rsvd := n 0x2C 4 != 0 || n 0x30 16 != 0 || n 0x24 1 != 0 || n 0x26 1 != 0 || n 0x27 1 % 128 != 0 }

def Job.ent' (j : Job) : JEnt := jentOf j.ent

/-! Address checks and lists (R227, R391, R392) -/

/-- A scratchpad range a carrier may read. -/
def carReadOk (a n : Nat) : Bool := decide (a + n ≤ 0x580000)
/-- A scratchpad range a carrier may write. -/
def carWriteOk (a n : Nat) : Bool := decide (a + n ≤ 0x36E000)
def hostOk (a : Nat) : Bool := decide (a < 2 ^ 52)

/-- A side begins: a list at its first entry, or one run of `total` bytes. -/
def sideOf (list : Bool) (a total : Nat) : Side := if list then { next := a } else { addr := a, left := total, got := total }
/-- `n` bytes of a run have been used. -/
def Side.step (x : Side) (n : Nat) : Side := { x with addr := x.addr + n, left := x.left - n }

/-- A side whose run is used up enters the next one: its list entry is read and checked; the code is FORMAT, RANGE or SPUE, or 0 (R227, R303, R394). -/
def State.sideNext (s : State) (h : Nat) (list : Bool) (total : Nat) (x : Side) : State × Side × Nat :=
  if !list || 0 < x.left then (s, x, 0)
  else if !carReadOk x.next 16 then (s, x, 2)
  else
    let (s, bs, bad) := s.memRead h x.next 16
    let n := leNat ((bs.drop 8).take 4)
    if bad then (s, x, 3)
    else if n = 0 ∨ total < x.got + n ∨ leNat (bs.drop 12) ≠ 0 then (s, x, 1)
    else (s, { next := x.next + 16, addr := leNat (bs.take 8), left := n, got := x.got + n }, 0)

/-- The check of one element's address in a space (R392): false is RANGE. -/
def spaceOk (spc : Nat) (write : Bool) (a n : Nat) : Bool :=
  match spc with
  | 0 => if write then carWriteOk a n else carReadOk a n
  | 1 | 2 => hostOk a
  | _ => true

/-! Taking up a job (R391 to R394) -/

/-- The status a job ends with before its first element; 0 where it may run. `by'` is the world and level of the runner that posted it (R393). -/
def State.jobCheck (s : State) (h : Nat) (by' : Bool × Bool) (failed : Bool) (e : JEnt) : Nat :=
  let blk := s.reg (0x90 + h) (0x100 + 4 * e.xblk)
  if e.fence && failed then 0x0B
  else if e.rsvd || e.len == 0 || (e.sspc == 3 && e.dspc == 3) || (e.xform && !s.extAttached h e.xblk)
      || (e.slist && e.src % 16 != 0) || (e.dlist && e.dst % 16 != 0) then 1
  else if e.xform && ((blk.getLsbD 30 && !by'.1) || (blk.getLsbD 29 && !by'.2)) then 0x0C
  else 0

/-- A carrier takes up the oldest entry of a ring. -/
def State.takeUp (s : State) (h k i : Nat) : State :=
  let j := s.job (jkey h k i)
  let a := s.jentAddr h k i j.cons
  let (s, bs, bad) := s.memRead h a 64
  let e := jentOf bs
  let code := if bad then 3 else s.jobCheck h (j.who.headD (false, false)) j.failed e
  s.updJob (jkey h k i) fun j =>
    { prod := j.prod, cons := j.cons, who := j.who.drop 1, failed := j.failed, late := j.late, active := true, ent := bs, code := code,
      src := sideOf e.slist e.src e.len, dst := sideOf e.dlist e.dst e.cap }

/-- A job is no more: what its outstanding read still brings is for nobody (R395). -/
def State.forgetRead (s : State) (h k i : Nat) : State :=
  let left := (s.job (jkey h k i)).rd
  let lose (r : NpReq) : NpReq := if r = .car h k i then .gone h k i left else r
  if left = 0 then s
  else s.each (List.range s.nPorts) fun s p => s.updPort p fun x =>
    { x with np := x.np.map fun e => (e.1, lose e.2), tagq := x.tagq.map fun e => (lose e.1, e.2) }

/-- A runner's posted jobs are discarded at a boundary: cons becomes prod (R395). -/
def State.discardJobs (s : State) (h k i : Nat) : State :=
  let j := s.job (jkey h k i)
  let n := (j.prod - j.cons).toNat
  let s := (s.forgetRead h k i).updJob (jkey h k i) fun j => { prod := j.prod, cons := j.prod, failed := j.failed, late := j.late }
  let s := s.when (n != 0) fun s => s.memWrite h (s.jctl h k i + 8) (leBytes 8 j.prod.toNat)
  s.satInc (carPage h) 0x140 15 0 n

/-- The carrier jobs of a fenced runner stop at their next element boundary (R257 step 3, R395). -/
def State.stopJobs (s : State) (h i : Nat) : State :=
  s.each (List.range 4) fun s k =>
    if (s.job (jkey h k i)).st = .idle then s.discardJobs h k i else s.updJob (jkey h k i) fun j => { j with stop := true }

/-- Every carrier job of a fenced heat stops at once (R395). -/
def State.dropJobs (s : State) (h : Nat) : State :=
  s.each (List.range 36) fun s n => (s.forgetRead h (n / 9) (n % 9)).updJob (36 * h + n) fun j => { late := j.late + b2n j.req.isSome }

/-- Bytes that a carrier moved (R401). -/
def State.countBytes (s : State) (h k n : Nat) : State :=
  let b := s.rfld (carPage h) (0x120 + 8 * k) 31 0 + 2 ^ 32 * s.rfld (carPage h) (0x124 + 8 * k) 31 0 + n
  (s.setRfld (carPage h) (0x120 + 8 * k) 31 0 b).setRfld (carPage h) (0x124 + 8 * k) 31 0 (b / 2 ^ 32)

/-- An element ends: its bytes count where it succeeded, or the job takes its first failure (R394). -/
def State.elemEnd (s : State) (h k i n code : Nat) : State :=
  let key := jkey h k i
  let j := s.job key
  let x := j.ent'.xform
  let s := s.when (code != 0) fun s => s.forgetRead h k i
  let s := s.updJob key fun j =>
    let j := { j with st := .idle, req := none, outp := false }
    if code ≠ 0 then { j with code := if j.code = 0 then code else j.code, rd := 0, rbuf := [] }
    else if x && !(s.job key).outp then { j with moved := j.moved + n }
    else if x then { j with outlen := j.outlen + n, obuf := j.obuf.drop n }
    else { j with moved := j.moved + n, outlen := j.outlen + n }
  let s := s.when (decide (code = 0) && !j.outp) fun s => s.countBytes h k n
  if j.stop then s.discardJobs h k i else s

/-! Root ports, as a carrier sees them (R377, R381, R394) -/

/-- A request leaves by a port, or is held in a released port whose link is not up. -/
def State.portSend (s : State) (p : Nat) (o : Out) : State :=
  if (s.port p).ls = .up then s.put o else s.updPort p fun x => { x with hold := x.hold ++ [o] }

/-- Tags of a port: their number and the first of them (R377). -/
def State.tags (s : State) (p : Nat) : Nat × Nat := if s.rfld (0x60 + p) 0x100 25 25 = 1 then (768, 256) else (256, 0)
/-- A tag is free. -/
def State.tagFree (s : State) (p : Nat) : Bool := decide ((s.port p).np.length < (s.tags p).1)
/-- TLPs of the port carry an ECRC (R377). -/
def State.ecrcOn (s : State) (p : Nat) : Bool := s.rfld (0x60 + p) 0x100 26 26 == 1

/-- A new non-posted request on a port, with the lowest free tag. -/
def State.addNp (s : State) (p : Nat) (r : NpReq) : State :=
  let t := s.tags p
  let tag := (((List.range t.1).map (t.2 + ·)).find? fun a => !(s.port p).np.any fun e => e.1 == a).getD t.2
  let s := s.updPort p fun x => { x with np := x.np ++ [(tag, r)] }
  s.updArb fun a => { a with pqMax := tset 0 a.pqMax p (max (tget 0 a.pqMax p) (s.port p).np.length) }

/-- A non-posted request: it is sent with a tag, or waits for one (R377). -/
def State.npSend (s : State) (p : Nat) (r : NpReq) (o : Out) : State :=
  if s.tagFree p then (s.addNp p r).portSend p o else s.updPort p fun x => { x with tagq := x.tagq ++ [(r, o)] }
/-- A tag may have become free: the oldest request that waits for one is sent. -/
def State.npNext (s : State) (p : Nat) : State :=
  match (s.port p).tagq with
  | (r, o) :: t => if s.tagFree p then ((s.updPort p fun x => { x with tagq := t }).addNp p r).portSend p o else s
  | [] => s

/-- Remove the outstanding request that satisfies `q`. -/
def State.dropNp (s : State) (p : Nat) (q : NpReq → Bool) : State :=
  match takeFirst (fun (e : Nat × NpReq) => q e.2) (s.port p).np with
  | some (_, t) => (s.updPort p fun x => { x with np := t }).npNext p
  | none => s

/-! The destination side -/

/-- `bs` goes to host memory past the cache, behind earlier accesses of the carrier to the line; it ends at once for want of a link (R34, R394). -/
def State.carToNc (s : State) (h k i a : Nat) (bs : List Byte) : State :=
  let s := s.updJob (jkey h k i) fun j => { j with st := .dst bs.length, req := none }
  if (s.cache h).mine (a / 256) (.inr k) then s.joinFill h (a / 256) (.carNcWrite k i a bs)
  else if s.linkLive then s.carWrNc h k i a bs
  else (s.noLink a).elemEnd h k i bs.length 4

/-- What a lookup or a fill gives a waiting element at once: nothing yet, or its failure. -/
def State.carTold (s : State) (h k i n : Nat) : List CarNote → State
  | [] => s
  | _ => s.elemEnd h k i n 4

/-- The lookup of a write through the heat cache (R311, R320). -/
def State.carCachedGo (s : State) (h k i a : Nat) (bs : List Byte) : State :=
  let n := bs.length; let line := a / 256
  let w := Waiter.carWrite k i a n (BitVec.ofNat 2048 (leNat bs))
  let wait (s : State) : State := s.updJob (jkey h k i) fun j => { j with st := .dst n, req := none }
  let s := s.lineCheck h line true false
  match s.hitLine h line with
  | some (key, l) =>
    let s := s.wrapInc (cpage h) 0x150 31 0
    if l.poison then s.elemEnd h k i n 4
    else if l.owned then (s.updCache h fun c => c.write key (a % 256) n (leNat bs)).elemEnd h k i n 0
    else if ((s.cache h).fillOf line).isSome then (wait s).joinFill h line w
    else
      let p := (wait s).upgrade h line false [w]
      p.1.carTold h k i n p.2
  | none =>
    if s.cacheOn h then
      match (wait s).demandMiss h line true false w with
      | ((s, notes), true) => s.carTold h k i n notes
      | ((s, _), false) => s.carToNc h k i a bs
    else (s.bypassDrop h line).carToNc h k i a bs

/-- A write through the heat cache, with its stride detectors (R311, R318). -/
def State.carCached (s : State) (h k i a : Nat) (bs : List Byte) : State :=
  (s.carCachedGo h k i a bs).strideAfter (s.cacheOn h) h true k a false

/-- Payload of a write TLP (R377, R396). -/
def State.mps (s : State) (p : Nat) : Nat := 128 * 2 ^ s.rfld (0x60 + p) 0x100 23 22

/-- The write TLPs of an element. -/
def State.adWrites (s : State) (p h k i : Nat) : Nat → Nat → List Byte → State
  | 0, _, _ => s
  | f + 1, a, bs =>
    if bs.isEmpty then s
    else
      let n := s.mps p - a % s.mps p
      (s.portSend p (.adWrite p (s.ecrcOn p) h k i a (bs.take n))).adWrites p h k i f (a + n) (bs.drop n)

/-- Destination bytes, at the place where the destination stands (R392, R394). -/
def State.carDest (s : State) (h k i : Nat) (bs : List Byte) : State :=
  let j := s.job (jkey h k i); let e := j.ent'; let n := bs.length; let a := j.dst.addr
  if !spaceOk e.dspc true a n then s.elemEnd h k i n 2
  else
    let s := s.updJob (jkey h k i) fun j => { j with dst := j.dst.step n }
    if e.disc then s.elemEnd h k i n 0
    else
      match e.dspc with
      | 0 => (s.memWrite h a bs).elemEnd h k i n 0
      | 1 => s.carCached h k i a bs
      | 2 => (s.bypassDrop h (a / 256)).carToNc h k i a bs
      | _ =>
        if (s.port e.port).live then
          (s.updJob (jkey h k i) fun j => { j with st := .dst n, req := none }).adWrites e.port h k i 4 a bs
        else s.elemEnd h k i n 5

/-! One element (R392, R393) -/

/-- Bytes to the next 256-byte boundary. -/
def toBound (a : Nat) : Nat := 256 - a % 256

/-- The element that the source data which has arrived makes: to the transform stream, or to the destination (R392, R393). -/
def State.carMove (s : State) (h k i : Nat) : State :=
  let key := jkey h k i
  let j := s.job key; let e := j.ent'
  let n := min j.rbuf.length (toBound j.rAt)
  let cut (s : State) (n : Nat) : State := s.updJob key fun j => { j with rbuf := j.rbuf.drop n, rAt := j.rAt + n }
  if e.xform then
    (((cut s n).put (.xform h e.xblk e.xctx (j.moved == 0) (decide (e.len ≤ j.moved + n)) (j.rbuf.take n)))).elemEnd h k i n 0
  else
    let (s, d, c) := s.sideNext h e.dlist e.cap j.dst
    if c ≠ 0 then s.elemEnd h k i 0 c
    else
      let n := min n (min (toBound d.addr) d.left)
      (cut (s.updJob key fun j => { j with dst := d }) n).carDest h k i (j.rbuf.take n)

/-- Issue the next element of transform output (R393): output beyond the capacity ends the job XOVF. -/
def State.carOutput (s : State) (h k i : Nat) : State :=
  let key := jkey h k i
  let j := s.job key; let e := j.ent'
  if e.cap ≤ j.outlen then s.elemEnd h k i 0 9
  else
    let (s, d, c) := s.sideNext h e.dlist e.cap j.dst
    if c ≠ 0 then s.elemEnd h k i 0 c
    else
      let n := min j.obuf.length (min (toBound d.addr) d.left)
      (s.updJob key fun j => { j with dst := d, outp := true }).carDest h k i (j.obuf.take n)

/-- Source data at `a` has arrived. -/
def State.carGot (s : State) (h k i a : Nat) (bs : List Byte) : State :=
  s.updJob (jkey h k i) fun j => { j with st := .idle, req := none, rbuf := bs, rAt := a }

/-- The lookup of a source element in the heat cache (R311, R320). -/
def State.carReadGo (s : State) (h k i a n : Nat) : State :=
  let wait (s : State) : State := s.updJob (jkey h k i) fun j => { j with st := .src n, req := none, rAt := a }
  let byNc (s : State) : State := if s.linkLive then (wait s).carRdNc h k i a n else (s.noLink a).elemEnd h k i n 4
  let s := s.lineCheck h (a / 256) false false
  match s.hitLine h (a / 256) with
  | some (_, l) =>
    let s := s.wrapInc (cpage h) 0x150 31 0
    if l.poison then s.elemEnd h k i n 4
    else if (s.cache h).mine (a / 256) (.inr k) then (wait s).joinFill h (a / 256) (.carRead k i)
    else (s.carGot h k i a (leBytes n (lineNat l.data (a % 256) n))).carMove h k i
  | none =>
    if s.cacheOn h then
      match (wait s).demandMiss h (a / 256) false false (.carRead k i) with
      | ((s, notes), true) => s.carTold h k i n notes
      | ((s, _), false) => byNc s
    else if (s.cache h).mine (a / 256) (.inr k) then (wait s).joinFill h (a / 256) (.carNcRead k i a n)
    else byNc s

/-- Ask for the source bytes of the next element (R392). An adapter source is asked for a read request that stays inside its run. -/
def State.carSource (s : State) (h k i : Nat) : State :=
  let key := jkey h k i
  let j := s.job key; let e := j.ent'
  let (s, x, c) := s.sideNext h e.slist e.len j.src
  if c ≠ 0 then s.elemEnd h k i 0 c
  else if e.sspc = 3 then
    let size := min (128 * 2 ^ s.rfld (0x60 + e.port) 0x100 21 19) x.left
    if (s.port e.port).live then
      (s.updJob key fun j => { j with src := x.step size, rd := size, rAt := x.addr }).npSend e.port (.car h k i)
        (.adRead e.port (s.ecrcOn e.port) h k i x.addr size)
    else s.elemEnd h k i 0 5
  else
    let (s, d, c) := if e.xform then (s, j.dst, 0) else s.sideNext h e.dlist e.cap j.dst
    let n := min (toBound x.addr) x.left
    let n := if e.xform then n else min n (min (toBound d.addr) d.left)
    if c ≠ 0 then s.elemEnd h k i 0 c
    else if !spaceOk e.sspc false x.addr n || !(e.xform || spaceOk e.dspc true d.addr n) then s.elemEnd h k i n 2
    else
      let s := s.updJob key fun j => { j with src := x.step n, dst := d }
      match e.sspc with
      | 0 =>
        let (s, bs, bad) := s.memRead h x.addr n
        if bad then s.elemEnd h k i n 3 else (s.carGot h k i x.addr bs).carMove h k i
      | 1 => (s.carReadGo h k i x.addr n).strideAfter (s.cacheOn h) h true k x.addr false
      | _ =>
        let s := s.updJob key fun j => { j with st := .src n, req := none, rAt := x.addr }
        if (s.cache h).mine (x.addr / 256) (.inr k) then s.joinFill h (x.addr / 256) (.carNcRead k i x.addr n)
        else if s.linkLive then s.carRdNc h k i x.addr n
        else (s.noLink x.addr).elemEnd h k i n 4

/-- Every source byte of a job has been moved or sent, and its output written. -/
def Job.moveDone (j : Job) : Bool := let e := j.ent'; decide (e.len ≤ j.moved) && (!e.xform || (j.xend && j.obuf.isEmpty))
/-- Every source byte has been asked for. -/
def Job.asked (j : Job) : Bool := decide (j.ent'.len ≤ j.src.got) && j.src.left == 0

/-- A ring of carrier `k` that has an element to issue (R392). -/
def State.carReady (s : State) (h k i : Nat) : Bool :=
  let j := s.job (jkey h k i)
  if j.active then
    let e := j.ent'
    j.code == 0 && j.st == .idle
    && (!j.obuf.isEmpty || !j.rbuf.isEmpty || j.rcode != 0 || (j.rd == 0 && !j.asked))
    && !((s.cache h).init && (e.sspc == 1 || e.dspc == 1))
  else j.cons != j.prod && decide (((List.range 9).filter fun m => (s.job (jkey h k m)).active).length < 4)

/-- The carrier runs: its heat is not fenced, its page runs, its enable bit is 1 (R395, R401, R474). -/
def State.carRuns (s : State) (h k : Nat) : Bool :=
  s.heatUp h && (s.reg (carPage h) 8).getLsbD 0 && (s.reg (carPage h) 0x104).getLsbD k && s.mode != .quiesce

/-- The next element of a ring reaches the scratchpad, where it may be refused (R302). -/
def Job.touches (j : Job) : Bool :=
  let e := j.ent'
  let toSpad := e.dspc == 0 && !e.disc
  if !j.obuf.isEmpty then toSpad || (e.dlist && j.dst.left == 0)
  else if !j.rbuf.isEmpty then !e.xform && (toSpad || (e.dlist && j.dst.left == 0))
  else e.sspc == 0 || (e.slist && j.src.left == 0)

/-- Carrier `k` issues one element, round robin over its rings (R392). -/
def State.carElement (s : State) (h k : Nat) (refused : Bool) : State :=
  if !s.carRuns h k || s.carThrottled h then s
  else
    let last := tget 0 s.carLast (4 * h + k)
    match ((List.range 9).map fun n => (last + 1 + n) % 9).find? fun i => s.carReady h k i with
    | none => s
    | some i =>
      let s := if (s.job (jkey h k i)).active then s else s.takeUp h k i
      let j := s.job (jkey h k i)
      if j.code ≠ 0 then s
      else if refused && j.touches then (s.satInc (carPage h) 0x144 15 0).collide h
      else
        let s := { s with carLast := tset 0 s.carLast (4 * h + k) i }
        if !j.obuf.isEmpty then s.carOutput h k i
        else if !j.rbuf.isEmpty then s.carMove h k i
        else if j.rcode ≠ 0 then s.elemEnd h k i 0 j.rcode
        else s.carSource h k i

/-! Events -/

/-- A source element ends without its data: the job failed meanwhile, or fails now. -/
def State.carLost (s : State) (h k i n code : Nat) : State := s.elemEnd h k i n (if (s.job (jkey h k i)).code = 0 then code else (s.job (jkey h k i)).code)

/-- What a fill or a lookup of the heat cache completed for a carrier (R311). -/
def State.carNote (s : State) (h : Nat) (c : CarNote) : State :=
  let j := s.job (jkey h c.k c.i)
  match j.st, j.req with
  | .src n, none =>
    if !c.ok || j.code != 0 then s.carLost h c.k c.i n 4
    else s.carGot h c.k c.i j.rAt (leBytes n (lineNat c.data (j.rAt % 256) n))
  | .dst n, none => s.elemEnd h c.k c.i n (if c.ok then 0 else 4)
  | _, _ => s

/-- A carrier's request as it is sent again, on the link that now serves its address (R33, R34). -/
def State.resend (s : State) : Out → Out
  | .rdNcCar _ h k i a n => .rdNcCar (s.linkOf a) h k i a n
  | .wrNcCar _ h k i a bs => .wrNcCar (s.linkOf a) h k i a bs
  | .rdNc _ c r id a n => .rdNc (s.linkOf a) c r id a n
  | .wrNc _ c r id a n d => .wrNc (s.linkOf a) c r id a n d
  | o => o

/-- Bytes of the stage of a job. -/
def JStage.bytes : JStage → Nat
  | .idle => 0 | .src n | .dst n => n

/-- The host answers a carrier's RD_NC or WR_NC (R33, R394); the answer to a job that is no more is discarded. -/
def State.carHost (s : State) (h k i : Nat) (resp : Resp) (d : LineData) : State :=
  let key := jkey h k i
  let j := s.job key
  if 0 < j.late then s.updJob key fun j => { j with late := j.late - 1 }
  else match j.req with
    | none => s
    | some o =>
      match resp with
      | .busy => if s.linkLive then s.put (s.resend o) else (s.report 0x10 5 0 0 0 (256 * (j.rAt / 256))).elemEnd h k i j.st.bytes 4
      | .ok =>
        (match j.st with
         | .src n =>
           if j.code ≠ 0 then s.carLost h k i n 4
           else s.carGot h k i j.rAt (leBytes n (lineNat d (j.rAt - (ncBlock j.rAt n).1) n))
         | st => s.elemEnd h k i st.bytes 0)
      | _ => s.carLost h k i j.st.bytes 4

/-- A job fails where it stands (R380, R382, R393); an element that is in flight stands (R395). -/
def State.carFail (s : State) (h k i code : Nat) : State :=
  let j := s.job (jkey h k i)
  if !j.active then s
  else if j.st = .idle then s.elemEnd h k i 0 code
  else (s.forgetRead h k i).updJob (jkey h k i) fun j => { j with code := if j.code = 0 then code else j.code, rd := 0, rbuf := [] }

/-- The read of a job fails: what it has brought is moved first (R394). -/
def State.readFail (s : State) (h k i code : Nat) : State :=
  if (s.job (jkey h k i)).rbuf.isEmpty then (s.updJob (jkey h k i) fun j => { j with rd := 0 }).carFail h k i code
  else s.updJob (jkey h k i) fun j => { j with rd := 0, rcode := code }

/-- The port on which the read of a job that is no more still brings data, and the bytes it brings (R395). -/
def State.goneRead (s : State) (h k i : Nat) : Option (Nat × Nat) :=
  (List.range s.nPorts).findSome? fun p => (s.port p).np.findSome? fun e => match e.2 with
    | .gone h' k' i' n => if h' = h ∧ k' = k ∧ i' = i then some (p, n) else none
    | _ => none

/-- The adapter returns the next read data, at most 256 bytes, or the link acknowledges a posted write (R392, R394). Data of a job that is no more is
discarded. -/
def State.carAdapter (s : State) (h k i code : Nat) (d : LineData) : State :=
  let key := jkey h k i
  let j := s.job key; let e := j.ent'
  match s.goneRead h k i with
  | some (p, n) =>
    if code ≠ 0 ∨ n ≤ 256 then s.dropNp p fun r => r == .gone h k i n
    else s.updPort p fun x => { x with np := x.np.map fun a => if a.2 = .gone h k i n then (a.1, .gone h k i (n - 256)) else a }
  | none =>
    if !j.active then s
    else if 0 < j.rd then
      if code ≠ 0 then (s.dropNp e.port fun r => r == .car h k i).readFail h k i 6
      else
        let n := min 256 j.rd
        let s := s.updJob key fun j => { j with rd := j.rd - n, rbuf := j.rbuf ++ leBytes n d.toNat }
        if j.rd ≤ n then s.dropNp e.port fun r => r == .car h k i else s
    else
      match j.st, j.req with
      | .dst n, none => if e.dspc = 3 then s.elemEnd h k i n (if code = 0 then 0 else 6) else s
      | _, _ => s

/-- The port on which a job's adapter access is outstanding. -/
def State.carPort (s : State) (h k i : Nat) : Option Nat :=
  match s.goneRead h k i with
  | some (p, _) => some p
  | none =>
    let j := s.job (jkey h k i)
    if j.active && 0 < j.rd then some j.ent'.port else none

/-- The transform returns output, and may end the job with an OK or an error (R393). -/
def State.xformEnd (s : State) (h k i : Nat) (fin : Option Bool) (out : List Byte) : State :=
  let j := s.job (jkey h k i); let e := j.ent'
  if !j.active || !e.xform || j.xend || j.code != 0 then s
  else
    let s := s.updJob (jkey h k i) fun j => { j with obuf := j.obuf ++ out }
    match fin with
    | none => s
    | some false => s.carFail h k i 8
    | some true => if e.len ≤ j.moved then s.updJob (jkey h k i) fun j => { j with xend := true } else s

/-- A job has come to its end (R394). -/
def Job.over (j : Job) : Bool := j.active && j.st == .idle && (j.code != 0 || (j.rd == 0 && j.moveDone))

/-- A job ends: status, cons, sources and report (R394). -/
def State.jobEnd (s : State) (h k i : Nat) : State :=
  let j := s.job (jkey h k i)
  if !j.over || !s.heatUp h then s
  else
    let e := j.ent'; let a := s.jentAddr h k i j.cons; let cons := j.cons + 1
    let s := s.memWrite h (a + 0x28) (leBytes 4 j.outlen)
    let s := s.memWrite h (a + 0x20) (leBytes 8 (2 ^ 63 + j.code * 2 ^ 40 + j.moved))
    let s := s.memWrite h (s.jctl h k i + 8) (leBytes 8 cons.toNat)
    let s := s.updJob (jkey h k i) fun j => { prod := j.prod, cons := cons, who := j.who, failed := j.failed || j.code != 0, late := j.late }
    let s := s.when e.irq fun s => s.raise h (0x40 + 4 * k)
    s.when (j.code != 0) fun s =>
      let s := (s.setRfld (carPage h) (0x110 + 4 * k) 23 16 j.code).satInc (carPage h) (0x110 + 4 * k) 15 0
      (s.raise h (0x41 + 4 * k)).report 0x18 0 (carPage h) (carPage h) k j.code

/-- The carrier sees a write of word 0 of a control block (R390); the jobs posted carry the state of their runner (R393). -/
def State.jobPost (s : State) (h k i : Nat) : State :=
  if !s.heatUp h then s
  else
    let new : BitVec 16 := BitVec.ofNat 16 (s.numAt h (s.jctl h k i) 2)
    let x := s.runner (.heat h i)
    if 32 < (new - (s.job (jkey h k i)).cons).toNat then s.report 0x04 5 (carPage h) (0x100 + 9 * h + i) k new.toNat
    else s.updJob (jkey h k i) fun j => { j with prod := new, who := j.who ++ List.replicate (new - j.prod).toNat (x.cust, x.sup) }

end Sys2Proof.Machine
end

