-- ==== Sys2Proof/Machine/Fences.lean ====
section
/-! DEFINITION. Stops and fences of runners and heats, machine check, and the start of a heat (R176, R193, R257 to R265, R287, R308, R341, R474). -/
namespace Sys2Proof.Machine

/-- The ring a runner holds is released with held 0 and frozen 1 on its heat (R257 step 4). -/
def State.releaseFrozen (s : State) (r : Rid) : State :=
  match (s.runner r).ring with
  | none => s
  | some q => (s.modRing q fun x => { x with held := false, frozen := true, fzRun := true, fzAt := r.home }).updR r fun x => { x with ring := none, wdrawn := false }

/-- Every occupied local entry of the runner receives orph 1 (R257 step 5). -/
def State.orphanOwner (s : State) (h i : Nat) : State :=
  s.each (s.occSlots h false) fun s slot =>
    let w := s.dirAt h (localDir slot)
    if dirOwner w = i then s.setDir h false slot (putBit w 62 true) else s

/-- Every occupied mirror entry of a heat receives orph 1 (R261 step 2). -/
def State.orphanMirror (s : State) (h : Nat) : State :=
  s.each (s.occSlots h true) fun s slot => s.setDir h true slot (putBit (s.dirAt h (mirrorDir slot)) 62 true)

/-- The lowest live runner named in take, other than `i` (R257, R287). -/
def State.taker (s : State) (h i : Nat) : Option Nat :=
  (List.range 9).find? fun j => j != i && s.takes h j && s.liveR (.heat h j)

/-- Sources of the slice aimed at a runner are retargeted (R287). -/
def State.retarget (s : State) (h i j : Nat) : State :=
  (s.updSl h fun x =>
    let aim (t : Table Nat) (src : Nat) : Table Nat := if (srcTimer h src).isNone && tget 0 x.target src == i && s.srcOk h src then tset 0 t src j else t
    let all := (List.range 256).foldl aim x.target
    { x with target := all }).settleSeen h

/-- The ring that a directory entry names, where it names one (R241). -/
def dirRing (w : Word) : Option Nat := if w.getLsbD 41 then some (fld w 56 42) else none

/-- Rings named by the entries of a directory of `h` whose slot satisfies `p`. -/
def State.namedBy (s : State) (h : Nat) (mir : Bool) (p : Nat → Bool) : List Nat :=
  ((s.occSlots h mir).filter p).filterMap fun slot => dirRing (s.dirAt h (if mir then mirrorDir slot else localDir slot))

/-- Rings that leave programs without any baton when `h` is lost: those of pairs that no mirror holds, and with no partner those of every pair that
`h` holds, local or mirror (R262, R264). -/
def State.lostRings (s : State) (h : Nat) : List Nat :=
  let p := partner h
  let mirrored (slot : Nat) : Bool := dirOcc (s.dirAt p (mirrorDir slot)) || dirOcc (s.dirAt p (mirrorDir (slot ^^^ 1)))
  if s.heatUp p then (s.namedBy h false fun k => !mirrored k).filter fun q => (s.ring q).unprot
  else s.namedBy h false (fun _ => true) ++ s.namedBy h true fun _ => true

/-- A runner of a heat that is fenced: its HAU requests that waited in the heat cache are no more (R257, R261). -/
def State.fenceRunner (s : State) (h : Nat) (r : Rid) : State :=
  let gone := (s.cache h).fills.flatMap fun f => f.wait.filterMap fun w => match w with
    | .hauLoad r' id _ _ | .hauStore r' id _ _ _ | .ncRead r' id _ _ | .ncWrite r' id _ _ _ => if r' = r then some id else none
    | _ => none
  (s.updR r fun x =>
    let x := gone.foldl (fun (x : Runner) id => x.hauDone id false 0) x.halt
    { x with run := .stopped, fenced := true, ring := none, ops := [] }).sliceFence r

/-- Steps 2 to 4 of R261: the partner takes over. -/
def State.takeOver (s : State) (h : Nat) (rings lost : List Nat) : State :=
  let p := partner h
  let s := s.each (rings.filter fun q => lost.contains q) fun s q => s.report 0x06 3 (0x10 + h) (0x10 + h) q
  let s := (s.orphanMirror p).setMstate p 1
  let s := s.each rings fun s q =>
    s.modRing q fun x => { x with heat := p, held := false, frozen := true, fzRun := false, fzHeat := true, fzAt := p }
  let s := (s.each (s.ringsOn p) fun s q => s.unprotect q).raise p 0xF0
  if s.morph p = 0 then s.morphZero p else s

/-- With no partner (R262): the rings wait for placement, and the programs of `h` are lost; the partner's mstate reads NONE too (R267). -/
def State.looseRings (s : State) (h : Nat) (rings lost : List Nat) : State :=
  let s := s.each rings fun s q =>
    let s := s.when (lost.contains q) fun s => s.report 0x06 3 (0x10 + h) (0x10 + h) q
    (s.unprotect q).modRing q fun x => { x with held := false, frozen := false, placed := false, fzRun := false, fzHeat := false }
  let s := s.each (s.frozenBy h fun x => x.fzRun || x.fzHeat) fun s q => s.unfreeze q
  { s with mstate := tset 0 s.mstate (partner h) 1 }.pendChanged

/-- A heat is fenced (R261, R262). -/
def State.heatFence (s : State) (h : Nat) : State :=
  if s.heatFen.getLsbD h || !s.heatPresent h then s
  else
    let s := s.each (List.range 9) fun s i => s.passEnd h i
    let lost := s.lostRings h
    let s := (s.each (ridsOf h) fun s r => s.fenceRunner h r).dropJobs h
    let s := (s.updCache h fun c => { c with lines := [], fills := [], wbs := [], sd := [], lfill := false }).settleCache h
    let s := { s with heatFen := putBit s.heatFen h true }
    let rings := s.ringsOn h
    let s := s.each rings fun s q => s.cancelMig q
    let s := match s.mode with
      | .service | .degraded => s.setMode .recovery 0x22
      | _ => s
    let s := if s.heatUp (partner h) then s.takeOver h rings lost else s.looseRings h rings lost
    ((s.publish []).raise 16 3).refreshMode

/-- Steps 1 to 7 of R257 for a runner that commits no further word; where no live runner is named in take, the heat is fenced. -/
def State.handoff (s : State) (h i : Nat) : State :=
  let r := Rid.heat h i
  let s := s.updR r Runner.halt
  let s := (s.passEnd h i).updR r fun x => { x with ops := [] }
  let s := (((s.stopJobs h i).releaseFrozen r).orphanOwner h i).sliceFence r
  match s.taker h i with
  | none => s.heatFence h
  | some j =>
    let s := ((s.raise h 0xF0).retarget h i j).raise 16 3
    if s.lorph h = 0 then s.lorphZero h else s.refreshMode

/-- A runner that has reached its boundary stops: the handoff for a heat runner, the fallback for the Arbiter runner (R294, R474). -/
def State.stopNow (s : State) (r : Rid) : State :=
  let s := s.updR r fun x => { x with run := .stopped }
  match r with
  | .heat h i => s.handoff h i
  | .arb => ((s.updR .arb fun x => { x.halt with ops := [] }).sliceFence .arb).fallback 3

/-- PCTL.run written 0: a running runner stops at its next word boundary, after any string hold (R474). -/
def State.stopRunner (s : State) (r : Rid) : State :=
  let x := s.runner r
  if x.starting then s.updR r fun x => { x with starting := false }
  else if x.run = .running then (if x.midWord then s.updR r fun x => { x with run := .stopping } else s.stopNow r)
  else s

/-- A runner that is stopping and has reached its boundary stops (R474). -/
def State.settleStop (s : State) (r : Rid) : State :=
  let x := s.runner r
  if x.run = .stopping ∧ x.midWord = false ∧ x.pendM.isNone = true then s.stopNow r else s

/-- A runner is fenced (R257, R474); a fence of a fenced unit has no further effect (R416). -/
def State.runnerFence (s : State) (r : Rid) : State :=
  if (s.runner r).fenced || !s.ridPresent r then s
  else
    match r with
    | .heat h i =>
      if s.heatFen.getLsbD h then s else (s.updR r fun x => { x with run := .stopped, fenced := true, hoff := false }).handoff h i
    | .arb =>
      let s := (s.updR .arb fun x => { x.halt with run := .stopped, fenced := true, ops := [] }).sliceFence .arb
      ((s.fallback 4).raise 16 3).refreshMode

/-- The hoff reaction of a runner suspect (R413). -/
def State.runnerHoff (s : State) (r : Rid) : State :=
  match r with
  | .heat h i =>
    if (s.runner r).fenced || !s.heatUp h then s
    else (s.updR r fun x => { x with run := .stopped, fenced := true, hoff := true }).handoff h i
  | .arb => s

/-- A runner stops as machine check leaves it: buffers, reservation and held ring dropped, stopped for handoff (R193). -/
def State.dropWork (s : State) (r : Rid) : State := (s.releaseFrozen r).updR r fun x => { x.halt with run := .handoff }

/-- What a stop for handoff means for the Arbiter runner (R294). -/
def State.arbStops (s : State) : State := ((s.updR .arb fun x => { x with ops := [] }).sliceFence .arb).fallback 2

/-- A fetch from the service store fails twice: the runner stops, and its heat's fault is reported (R193, R405). -/
def State.romFail (s : State) (r : Rid) : State :=
  let s := s.dropWork r
  match r with
  | .heat h _ => (s.report 0x0A 0 r.page (0x10 + h) r.idx).refreshMode
  | .arb => ((s.report 0x0A 0 r.page r.page 0).arbStops).refreshMode

/-- The machine-check routine (R72, R76, R176, R182, R193, R294). -/
def State.machineCheck (s : State) (r : Rid) : State :=
  match (s.runner r).pendM with
  | none => s
  | some code =>
    let x := s.runner r
    if x.run == .stopped || x.run == .handoff then s
    else
      let s := if x.pendMCS then s.enterFence r.home (x.pc.toNat / 4) else s
      let s := if code = 0x30 then s.satInc r.page 0x108 15 0 else s
      let s := s.dropWork r
      match r with
      | .heat _ _ => (s.report 0x01 (if code = 0x30 then 0 else 1) r.page r.page 0 code).refreshMode
      | .arb => ((s.report 0x05 1 r.page r.page 0 code).arbStops).refreshMode

/-- Whether PCTL.run written 1 is rejected with STATE (R191, R453, R474). -/
def State.startBad (s : State) (r : Rid) : Bool :=
  !(s.cstore r.home).valid ||
  match r with
  | .heat h _ => s.heatFen.getLsbD h || s.lorph h != 0
  | .arb => s.rfld 1 0x10C 16 16 == 1

/-- PCTL.run written 1 (R151, R474): a runner that stands still starts, once the wipe of a heat that is started again has ended (R308). -/
def State.runnerGo (s : State) (r : Rid) : State :=
  let x := s.runner r
  if x.run != .stopped && x.run != .handoff then s
  else if (s.up r.home).restart then s.updR r fun x => { x with starting := true }
  else (s.startRunner r).refreshMode

/-- The wipe of a memory ends, and the runners that waited for it start (R307, R308). -/
def State.wipeEnd (s : State) (m : Nat) : State :=
  let s := s.endWipe m
  s.each (if m = 16 then [Rid.arb] else ridsOf m) fun s r => if (s.runner r).starting then (s.startRunner r).refreshMode else s

/-- A fenced heat is started again (R265, R288, R308). -/
def State.heatGo (s : State) (h : Nat) : State :=
  if !s.heatFen.getLsbD h then s
  else
    let p := partner h
    let s := { s with heatFen := putBit s.heatFen h false }
    let s := ((s.clearDirs h).startWipe h).updUp h fun u => { u with restart := true }
    let s := s.updCache h fun c => { lfsr := c.lfsr, init := false }
    let s := s.publishAll h
    let s := if s.heatUp p then (s.setMstate h 0).setMstate p 2 else s.setMstate h 1
    ((s.publish []).raise 16 3).refreshMode

/-- Whether a write of PCTL.run 1 to a fenced heat is rejected with STATE (R265). -/
def State.heatGoBad (s : State) (h : Nat) : Bool := s.heatFen.getLsbD h && s.morph (partner h) != 0

end Sys2Proof.Machine
end

