-- ==== Sys2Proof/Machine/HostStarter.lean ====
section
/-! DEFINITION. The host Starter: message queues, coalescing and MSG_INT (R34, R343 to R345, R349). -/
namespace Sys2Proof.Machine

/-- A message reaches queue `q` (R343, R344). -/
def State.hostMsg (s : State) (q : Nat) (x : Word) : State :=
  if !(s.hqueue q).en then s.satInc 0xB 0x118 15 0
  else s.updQ q fun h =>
    let h := if h.acc = 0 then { h with t0 := s.clkA, due := false, tmoEff := h.tmo, cntEff := h.cnt } else h
    { h with data := x, acc := min (h.acc + 1) 0xFFFF }

/-- A queue is ready (R344). -/
def State.qReady (s : State) (q : Nat) : Bool :=
  let h := s.hqueue q
  h.en && !h.mask && !h.hold && decide (1 ≤ h.acc) && (decide (h.cntEff ≤ h.acc) || h.due)

/-- The time of a queue that accumulates has passed (R344). -/
def State.queueDue (s : State) (q : Nat) : State :=
  let h := s.hqueue q
  if h.en && decide (1 ≤ h.acc) && decide (h.tmoEff ≤ s.clkA - h.t0) then s.updQ q fun h => { h with due := true } else s

/-- The queue served next (R345). -/
def State.nextQueue (s : State) : Option Nat := ((List.range 64).map fun i => (s.hlast + 1 + i) % 64).find? s.qReady

/-- The 16 bytes of a message, little-endian: data, count, zero, seq, queue, flags (R345). -/
def HQueue.message (h : HQueue) (q : Nat) : BitVec 128 :=
  BitVec.ofNat 128 (h.data.toNat + h.acc % 2 ^ 16 * 2 ^ 64 + h.seq.toNat * 2 ^ 96 + q % 64 * 2 ^ 112 + b2n (decide (h.acc < h.cntEff)) * 2 ^ 120)

/-- One MSG_INT leaves for a ready queue (R34, R344, R345). -/
def State.deliverMsg (s : State) : State :=
  match s.nextQueue with
  | none => s
  | some q =>
    let h := s.hqueue q
    let a : BitVec 52 := BitVec.ofNat 52 (16 * h.addr.toNat)
    let s := if s.linkLive then s.put (.msgInt (s.linkOf a.toNat) a (h.message q)) else s.noLink a.toNat
    { s with hlast := q }.updQ q fun h => { h with seq := h.seq + 1, acc := 0, due := false, hold := h.ackmode }

/-- QACK (R344). -/
def State.qack (s : State) (q : Nat) : State := s.updQ q fun h => { h with hold := false }

/-- The oldest message of a runner leaves its buffer once the earlier HAU writes are acknowledged (R343). -/
def State.forward (s : State) (r : Rid) : State :=
  match (s.runner r).msgs with
  | [] => s
  | m :: t => if m.ids.isEmpty then (s.updR r fun x => { x with msgs := t }).hostMsg m.queue m.data else s

end Sys2Proof.Machine
end

