-- ==== Sys2Proof/Machine/Calibration.lean ====
section
/-! DEFINITION. Calibration: factory value plus clamped user offset (R465, R466). -/
namespace Sys2Proof.Machine

def clampInt (lo hi x : Int) : Int := max lo (min hi x)
/-- A signed byte. -/
def sbyte (n : Nat) : Int := (BitVec.ofNat 8 n).toInt

/-- The effective value of a quantity, and whether it was limited (R465). -/
def calEff (factory user lim lo hi : Int) : Int × Bool :=
  let sum := factory + clampInt (-lim) lim user
  let r := clampInt lo hi sum
  (r, decide (clampInt (-lim) lim user ≠ user ∨ r ≠ sum))

/-- The thermal offset of a heat takes effect, at a window end (R465). -/
def State.calHeat (s : State) (h : Nat) : State :=
  let (v, lim) := calEff (tget (0 : BitVec 8) s.fuses.toff h).toInt (sbyte (s.rfld 4 (0x100 + 4 * h) 7 0)) 32 (-128) 127
  (s.setRfld 4 (0x200 + 4 * h) 7 0 (BitVec.ofInt 8 v).toNat).setRfld 4 0x284 (16 + h) (16 + h) (b2n lim)

/-- The delay trim of a pin takes effect (R465). -/
def State.calPin (s : State) (k : Nat) : State :=
  let b := k % 4
  let (v, lim) := calEff (tget (0 : BitVec 8) s.fuses.pdly k).toNat (sbyte (s.rfld 4 (0x140 + 4 * (k / 4)) (8 * b + 7) (8 * b))) 32 0 255
  let s := (s.setRfld 4 (0x240 + 4 * (k / 4)) (8 * b + 7) (8 * b) v.toNat).updPin k fun x => { x with lim := lim }
  s.setRfld 4 0x284 (k / 4) (k / 4) (b2n ((List.range 4).any fun j => (s.pin (4 * (k / 4) + j)).lim))

/-- The retention trim takes effect, at a QUIESCE entry (R465). -/
def State.calRet (s : State) : State :=
  let (v, lim) := calEff s.fuses.retv.toNat (sbyte (s.rfld 4 0x180 7 0)) 4 0 20
  (s.setRfld 4 0x280 4 0 v.toNat).setRfld 4 0x288 0 0 (b2n lim)

end Sys2Proof.Machine
end

