-- ==== Sys2Proof/Machine/RootPorts.lean ====
section
/-! DEFINITION. The root ports: link state, errors, containment and release, inbound window, configuration (R377 to R385, R396 to R400). -/
namespace Sys2Proof.Machine

def rpPage (p : Nat) : Nat := 0x60 + p
def LinkState.code : LinkState → Nat
  | .disabled => 0 | .detect => 1 | .training => 2 | .up => 3 | .contained => 4

/-- A safe-state request stands (R30, R45, R381, R413). -/
def State.safeNow (s : State) : Bool := s.safeReq || s.pfw || s.ref.cls.any fun e => e.2.safeOn

/-- The port may train: its page runs, CTL.en and PERST_N are 1, no safe-state request stands (R378, R474). -/
def State.portMay (s : State) (p : Nat) : Bool :=
  (s.reg (rpPage p) 8).getLsbD 0 && s.rfld (rpPage p) 0x100 28 28 == 1 && s.perst.getLsbD p && s.mode != .quiesce

/-- The live bit of a port changes, with its publication (R288, R290). -/
def State.setLive (s : State) (p : Nat) (b : Bool) : State :=
  if (s.port p).live = b then s else (s.updPort p fun x => { x with live := b }).publish []

/-- The link fields of STAT show no link. -/
def State.noRate (s : State) (p : Nat) : State := s.setReg (rpPage p) 0x104 (s.reg (rpPage p) 0x104 &&& 0x00570000)

/-- The link state follows the controls while the link is neither up nor contained; a stopped port goes to Disabled once its
non-posted requests are settled (R378, R474). -/
def State.syncPort (s : State) (p : Nat) : State :=
  let x := s.port p
  match x.ls with
  | .contained => s
  | .up =>
    if !(s.reg (rpPage p) 8).getLsbD 0 && x.np.isEmpty then
      ((s.updPort p fun x => { x with ls := .disabled }).noRate p).setLive p false
    else s
  | _ =>
    let ls := if !s.portMay p then .disabled else if s.rfld (rpPage p) 0x104 20 20 = 1 then .training else .detect
    s.updPort p fun x => { x with ls := ls }

/-- The port's page counts as stopped for class S (R474). -/
def State.portStopped (s : State) (p : Nat) : Bool :=
  !(s.reg (rpPage p) 8).getLsbD 0 && ((s.port p).ls == .disabled || (s.port p).ls == .contained)

/-! Requests (R380, R382, R385) -/

/-- A configuration request ends with a result (R385, R399). -/
def State.cfgEnd (s : State) (p res : Nat) (write : Bool) (d : Reg) : State :=
  let s := s.setReg (rpPage p) 0x12C (BitVec.ofNat 32 res)
  if res = 0 ∧ write = false then s.setReg (rpPage p) 0x124 d else s

/-- An outstanding request ends with an error: `res` for a configuration request, `code` for a carrier's. -/
def State.npError (s : State) (p res code : Nat) (r : NpReq) : State :=
  match r with
  | .cfg w => s.cfgEnd p res w 0
  | .car h k i => s.readFail h k i code
  | .gone _ _ _ _ => s

/-- Posted elements of a port that still await their acknowledgement: they stand, and their jobs end PORT (R395). -/
def State.postedStand (s : State) (p : Nat) : State :=
  s.each (List.range (36 * s.nHeats)) fun s key =>
    let h := key / 36; let k := key % 36 / 9; let i := key % 9
    let j := s.job key
    match j.st, j.req with
    | .dst n, none => if j.active && j.ent'.dspc == 3 && j.ent'.port == p then (s.elemEnd h k i n 0).carFail h k i 5 else s
    | _, _ => s

/-- Containment with its first cause (R380): SW 1, SAFE 2, UE 3, FATAL 4, SDOWN 5, TRAIN 6. -/
def State.containPort (s : State) (p cause : Nat) : State :=
  if !s.portPresent p || (s.port p).ls == .contained then s
  else
    let reqs := (s.port p).np.map (·.2) ++ (s.port p).tagq.map (·.1)
    let s := s.updPort p fun x => { x with ls := .contained, relAt := none, np := [], tagq := [], hold := [] }
    let s := (s.noRate p).setRfld (rpPage p) 0x104 18 16 cause
    let s := (s.each reqs fun s r => s.npError p 5 5 r).postedStand p
    ((s.setLive p false).report 0x15 1 (rpPage p) (rpPage p) 0 cause true).refreshMode

/-- A fence of a port: containment as by CTL.contain (R416, R474). -/
def State.portFence (s : State) (p : Nat) : State :=
  if (s.port p).fenced || !s.portPresent p then s
  else (((s.updPort p fun x => { x with fenced := true }).containPort p 1).raise 16 3).refreshMode

/-- Whether a release is rejected with STATE (R381). -/
def State.releaseBad (s : State) (p : Nat) : Bool := (s.port p).ls != .contained || s.safeNow

/-- An accepted release (R379, R381, R403). -/
def State.releasePort (s : State) (p : Nat) : State :=
  let s := (s.setRfld (rpPage p) 0x104 18 16 0).setRfld (rpPage p) 0x108 15 8 0
  let s := s.setRfld (rpPage p) 0x104 22 22 0
  let s := s.updPort p fun x => { x with ls := .disabled, fenced := false, relAt := some s.clkS }
  ((((s.syncPort p).setLive p true).report 0x15 1 (rpPage p) (rpPage p) 0 0 false).raise 16 3).refreshMode

/-- The safe state reaches every root port (R30, R380). -/
def State.containAll (s : State) : State := s.each (List.range s.nPorts) fun s p => s.containPort p 2

/-! Errors (R382, R398) -/

/-- The containment cause of an AERU bit. -/
def aeruCause (bit : Nat) : Nat := if bit = 1 then 5 else if bit = 11 then 4 else 3

/-- An uncorrectable error (R380, R398). -/
def State.portUe (s : State) (p bit : Nat) : State :=
  let s := s.setReg (rpPage p) 0x110 (putBit (s.reg (rpPage p) 0x110) bit true)
  let s := (s.satInc (rpPage p) 0x11C 31 16).report 0x15 0 (rpPage p) (rpPage p) bit
  if (s.reg (rpPage p) 0x114).getLsbD bit && bit != 11 then s else s.containPort p (aeruCause bit)

/-- A correctable error (R398). -/
def State.portCe (s : State) (p bit : Nat) : State :=
  let s := s.setReg (rpPage p) 0x118 (putBit (s.reg (rpPage p) 0x118) bit true)
  (s.satInc (rpPage p) 0x11C 15 0).report 0x14 0 (rpPage p) (rpPage p) bit

/-- The link can detect errors. -/
def State.linkOn (s : State) (p : Nat) : Bool := s.portPresent p && ((s.port p).ls == .up || (s.port p).ls == .training)

def State.portError (s : State) (p : Nat) (unc : Bool) (bit : Nat) : State :=
  if !s.linkOn p then s
  else if unc then (if bit < 13 ∧ (bit = 8 → s.ecrcOn p) then s.portUe p bit else s)
  else if bit < 8 then s.portCe p bit else s

/-- ERR_COR, ERR_NONFATAL and ERR_FATAL messages: kinds 0, 1 and 2 (R377, R398). -/
def State.aerMessage (s : State) (p kind : Nat) : State :=
  if !s.portPresent p || (s.port p).ls != .up then s
  else if kind = 0 then s.portCe p 7 else if kind = 1 then s.portUe p 12 else if kind = 2 then s.portUe p 11 else s

/-- Surprise down of a link, or loss of presence whatever the link's state (R380, R398). -/
def State.surpriseDown (s : State) (p : Nat) : State :=
  let was := s.rfld (rpPage p) 0x104 20 20 == 1 || (s.port p).ls == .up
  if !s.portPresent p || !was then s
  else
    let on := s.linkOn p
    let s := s.setRfld (rpPage p) 0x104 20 20 0
    let s := s.when on fun s =>
      let s := s.setReg (rpPage p) 0x110 (putBit (s.reg (rpPage p) 0x110) 1 true)
      (s.satInc (rpPage p) 0x11C 31 16).report 0x15 0 (rpPage p) (rpPage p) 1
    s.containPort p 5

/-- A link partner is found (R377). -/
def State.partnerFound (s : State) (p : Nat) : State :=
  if s.portPresent p then (s.setRfld (rpPage p) 0x104 20 20 1).syncPort p else s

/-- Lanes of a width code. -/
def laneCount (w : Nat) : Nat := 2 ^ w
/-- The lanes a link of a width uses, from lane 0 up or from lane 7 down (R377). -/
def laneUsed (w : Nat) (rev : Bool) (j : Nat) : Bool := if rev then decide (8 - laneCount w ≤ j ∧ j < 8) else decide (j < laneCount w)
/-- A width that uses no lane marked bad (R379). -/
def State.lanesFit (s : State) (p w : Nat) (rev : Bool) : Bool :=
  (List.range 8).all fun j => !(laneUsed w rev j && (s.reg (rpPage p) 0x108).getLsbD (8 + j))

/-- The link comes up with a rate and width its controls admit, on lanes none of which is marked bad (R377, R378, R379, R381). -/
def State.linkTrained (s : State) (p : Nat) (rate : BitVec 3) (width : BitVec 2) (flit rev : Bool) (inv : BitVec 8) : State :=
  let r := rpPage p
  let ok := decide (rate.toNat ≤ s.rfld r 0x100 18 16) && decide (rate.toNat ≤ 5) && decide (width.toNat ≤ s.rfld r 0x100 15 14)
    && (if rate = 5 then flit else !flit || s.rfld r 0x100 27 27 == 1) && s.lanesFit p width.toNat rev
  if !s.portPresent p || (s.port p).ls != .training || !ok then s
  else
    let s := ((s.setRfld r 0x104 28 26 rate.toNat).setRfld r 0x104 25 24 width.toNat).setRfld r 0x104 23 23 (b2n flit)
    let s := (s.setRfld r 0x104 21 21 (b2n rev)).setRfld r 0x108 7 0 inv.toNat
    let held := (s.port p).hold
    let s := s.updPort p fun x => { x with ls := .up, relAt := none, hold := [] }
    (s.each held State.put).setLive p true

/-- A lane is marked bad, and the link narrows to the widest width that avoids every bad lane (R379). -/
def State.laneNarrow (s : State) (p lane : Nat) : State :=
  let r := rpPage p
  if !s.portPresent p || (s.port p).ls != .up || 8 ≤ lane then s
  else
    let s := s.setReg r 0x108 (putBit (s.reg r 0x108) (8 + lane) true)
    let w := s.rfld r 0x104 25 24; let rev := s.rfld r 0x104 21 21 == 1
    if !laneUsed w rev lane then s
    else
      match ([2, 1, 0].flatMap fun v => [(v, rev), (v, !rev)]).find? fun c => decide (c.1 < w) && s.lanesFit p c.1 c.2 with
      | none => s
      | some (v, rv) =>
        let s := ((s.setRfld r 0x104 25 24 v).setRfld r 0x104 22 22 1).setRfld r 0x104 21 21 (b2n rv)
        (s.report 0x14 1 r r lane).refreshMode

/-- A released port without link up after its time (R380). -/
def State.trainTimeout (s : State) (p : Nat) : State :=
  if s.portPresent p && (s.port p).relAt.isSome && (s.port p).ls != .up then s.containPort p 6 else s

/-- A transmitted request has waited its time (R382). -/
def State.npTimeout (s : State) (p id : Nat) : State :=
  match (s.port p).np.find? fun e => e.1 == id with
  | none => s
  | some (_, r) =>
    if (s.port p).ls ≠ .up then s
    else
      let s := s.updPort p fun x => { x with np := x.np.filter fun e => e.1 != id }
      (((s.npError p 4 7 r).portUe p 3).npNext p).syncPort p

/-! Inbound window (R383, R384) -/

/-- The scratchpad address of an accepted inbound request, or the number of a notification. -/
def State.inboundOk (s : State) (p : Nat) (addr : Word) (data : List Byte) : Option (Nat × Bool × Nat) :=
  let r := rpPage p
  let n := data.length
  let base := s.rfld r 0x130 31 28 + 16 * s.rfld r 0x134 31 0
  let h := fld addr 27 24; let a := fld addr 22 0
  if fld addr 63 28 = base && s.heatUp h && (s.reg r 0x138).getLsbD h && decide (4 ≤ n ∧ n ≤ 64) && n % 4 == 0
      && fld addr 1 0 == 0 && decide (addr.toNat % 64 + n ≤ 64) then
    if !addr.getLsbD 23 then (if a + n ≤ 0x36E000 then some (h, false, a) else none)
    else if a = 0 ∧ n = 4 ∧ leNat data < 64 then some (h, true, leNat data) else none
  else none

/-- An inbound request that is not accepted: AERU.ur and a report (R383). -/
def State.inboundBad (s : State) (p : Nat) (addr : Word) : State := (s.report 0x15 2 (rpPage p) (rpPage p) 0 (addr.toNat % 2 ^ 32)).portUe p 9

/-- A memory write that reaches the inbound window of a port (R380, R383); its words have been refused `busy` times in collisions and issued again
by the complex (R302, R384). -/
def State.inbound (s : State) (p : Nat) (addr : Word) (data : List Byte) (busy : Nat) : State :=
  if !s.portPresent p || (s.port p).ls != .up then s
  else
    match s.inboundOk p addr data with
    | some (h, false, a) => ((s.collide h busy).memWrite h a data).wrapInc (carPage h) 0x148 31 0
    | some (h, true, n) => s.raise h (0x80 + n)
    | none => s.inboundBad p addr

/-- An inbound request other than a memory write is not supported: it receives UR (R377, R383). -/
def State.inboundOther (s : State) (p : Nat) (addr : Word) : State :=
  if !s.portPresent p || (s.port p).ls != .up then s else (s.put (.cplUr p)).inboundBad p addr

/-! Configuration (R385) -/

def State.cfgBusy (s : State) (p : Nat) : Bool := s.rfld (rpPage p) 0x12C 31 31 == 1

/-- CFGCMD issues a request, of Type 0 to bus 1 and of Type 1 to any other; a port that is not live answers with a port error (R380, R385). -/
def State.cfgIssue (s : State) (p : Nat) (write : Bool) : State :=
  let r := rpPage p
  let s := s.setReg r 0x12C 0x80000000
  if (s.port p).live then
    s.npSend p (.cfg write) (.cfgReq p (s.ecrcOn p) (s.rfld r 0x120 27 20 != 1) write (s.reg r 0x120) (s.reg r 0x124))
  else s.cfgEnd p 5 write 0

/-- A completion that says UR or CA is an error of the port too (R398). -/
def State.cplError (s : State) (p code : Nat) : State := if code = 1 then s.portUe p 9 else if code = 3 then s.portUe p 4 else s

/-- The completion of a configuration request: OK, UR, RRS or CA (R385, R399). -/
def State.cfgDone (s : State) (p : Nat) (res : BitVec 3) (d : Reg) : State :=
  match takeFirst (fun (e : Nat × NpReq) => match e.2 with | .cfg _ => true | _ => false) (s.port p).np with
  | some ((_, .cfg w), t) =>
    if (s.port p).ls = .up ∧ res.toNat ≤ 3 then
      ((((s.updPort p fun x => { x with np := t }).cfgEnd p res.toNat w d).npNext p).cplError p res.toNat).syncPort p
    else s
  | _ => s

/-- Margining ends (R399). -/
def State.marginEnd (s : State) (p : Nat) (res : BitVec 4) : State :=
  if s.rfld (rpPage p) 0x148 30 30 = 1 ∧ res.toNat ≤ 2 then (s.setRfld (rpPage p) 0x148 30 30 0).setRfld (rpPage p) 0x148 19 16 res.toNat else s

end Sys2Proof.Machine
end

