-- ==== Sys2Proof/Machine/Pacers.lean ====
section
/-! DEFINITION. The pacers and their pins: ownership, shifting, instructions, timed actions, FIFOs, commands, tests and faults (R354 to R376). -/
namespace Sys2Proof.Machine

def pacPage (n : Nat) : Nat := 0x80 + n

/-! Pins (R355, R356, R374) -/

def pinOff (k : Nat) : Nat := 0x100 + 4 * k
/-- The pin of a group index. -/
def gpin (n p : Nat) : Nat := 32 * (n / 8) + p
/-- Pacer `n` owns the pin, by the fields in effect. -/
def State.ownsPin (s : State) (n k : Nat) : Bool :=
  let e := (s.pin k).eff
  decide (k / 32 = n / 8) && e.getLsbD 31 && fld e 30 28 == n % 8
def State.ownedPins (s : State) (n : Nat) : List Nat := (List.range 64).filter (s.ownsPin n)
/-- The odd pin of a pair acts as nothing of its own (R356). -/
def State.pairOdd (s : State) (k : Nat) : Bool := k % 2 == 1 && (s.pin (k - 1)).eff.getLsbD 10

/-- The class B fields of a pin take effect; a new owner has driven nothing yet (R374, R465). -/
def State.applyPin (s : State) (k : Nat) : State :=
  let v := s.reg 0xE (pinOff k) &&& 0xF0000FFC
  let same := fld (s.pin k).eff 31 28 = fld v 31 28
  (s.updPin k fun x => if same then { x with eff := v } else { x with eff := v, oe := false, lvl := false, drvn := false, chk := none, diff := false }).calPin k

/-- The owner's state leaves the pin at its safe level (R355). -/
def State.pinSafe (s : State) (k : Nat) : Bool :=
  let e := (s.pin k).eff
  let x := s.pacer (8 * (k / 32) + fld e 30 28)
  e.getLsbD 31 && (!x.started || x.st == .faulted || x.st == .safe || !(s.pin k).drvn)

/-- The pin's open test runs: its output is disabled, its weak pull opposes the termination (R368). -/
def State.opening (s : State) (k : Nat) : Bool :=
  let e := (s.pin k).eff
  e.getLsbD 31 && fld e 7 6 != 0 && !s.pairOdd k && (s.pacer (8 * (k / 32) + fld e 30 28)).test

/-- The level its owner gives a pin that stands alone or leads a pair: none is high-impedance (R44, R355, R368). -/
def State.padOf (s : State) (k : Nat) : Option Bool :=
  let x := s.pin k
  if s.vddLow || !x.eff.getLsbD 31 || s.opening k then none
  else if s.pinSafe k then
    match fld x.eff 9 8 with
    | 0 => some false
    | 1 => some true
    | _ => none
  else if x.oe then some x.lvl else none

/-- The level a pin is driven to; the second pin of a pair carries the complement of the first (R355, R356, notes/assumptions/66.md). -/
def State.pad (s : State) (k : Nat) : Option Bool := if s.pairOdd k then (s.padOf (k - 1)).map (!·) else s.padOf k

/-- The weak pull of a pin, true for up; both pins of a pair have the pull of the first (R44, R355, R368, notes/assumptions/66.md). -/
def State.pull (s : State) (k : Nat) : Option Bool :=
  let k := if s.pairOdd k then k - 1 else k
  let e := (s.pin k).eff
  if s.vddLow then none
  else if s.opening k then some (fld e 7 6 != 1)
  else match fld e 5 4 with
    | 1 => some true
    | 2 => some false
    | _ => none

/-- The level a pacer senses on a pin; a swapped pair is inverted (R368). -/
def State.sensed (s : State) (k : Nat) : Bool := (s.pin k).sense != (s.reg 0xE (pinOff k)).getLsbD 24

/-- What a drive does to its pin; with the output enabled, an edge is still to be checked (R369). -/
def Pin.drive (x : Pin) (oe lvl : Bool) (clkS : Nat) : Pin :=
  let edge := oe && (!x.oe || !x.drvn || x.lvl != lvl)
  { x with oe := oe, lvl := lvl, drvn := true, chk := if edge then some clkS else if oe then x.chk else none }

/-- A pacer drives a pin of its group; a pin it does not own is left alone (R355). -/
def State.drivePin (s : State) (n k : Nat) (oe lvl : Bool) : State :=
  if s.ownsPin n k && !s.pairOdd k then s.updPin k fun x => x.drive oe lvl s.clkS else s

/-! Events and faults (R370, R372) -/

def State.pacRaise (s : State) (n b : Nat) : State := s.raise (s.rfld (pacPage n) 0x128 3 0) (0x60 + 2 * n + b)
def State.pacEvent (s : State) (n : Nat) : State := s.pacRaise n 0

/-- The timed queue is discarded and counted (R366, R370). -/
def State.dropTimed (s : State) (n : Nat) : State :=
  (s.satInc (pacPage n) 0x124 15 0 (s.pacer n).tq.length).updPacer n fun x => { x with tq := [] }

/-- A fault (R370): SHORT 1, OPEN 2, TRAIN 3, ILLOP 4, which names no pin. -/
def State.pacFault (s : State) (n code pin : Nat) : State :=
  let s := (s.dropTimed n).updPacer n fun x =>
    { x with st := .faulted, wait := .none, test := false, fcode := BitVec.ofNat 3 code, fpin := BitVec.ofNat 6 pin }
  let s := if code = 4 then s else s.setRfld 0xE (pinOff pin) 27 26 code
  (s.pacRaise n 1).report 0x1C (code - 1) (pacPage n) (pacPage n) pin 0 (decide (code = 1))

/-- Every pacer takes the safe state (R371). -/
def State.pacersSafe (s : State) : State :=
  s.each (List.range 16) fun s n =>
    if s.pacerPresent n then s.updPacer n fun x => { x with st := .safe, wait := .none, test := false } else s

/-- The pacer counts as stopped for class S (R365). -/
def Pacer.stopped (x : Pacer) : Bool := x.st == .stopped || x.st == .faulted || x.st == .safe

/-! Commands (R365, R366) -/

/-- A pacer stops: the timed queue is discarded, the rest is kept (R366). -/
def State.pacHalt (s : State) (n : Nat) : State := (s.dropTimed n).updPacer n fun x => { x with st := .stopped, wait := .none, test := false }

/-- Pins that a START tests for OPEN, and the pairs it trains (R368). -/
def State.openPins (s : State) (n : Nat) : List Nat := (s.ownedPins n).filter fun k => !s.pairOdd k && fld (s.pin k).eff 7 6 != 0
def State.trainPins (s : State) (n : Nat) : List Nat := (s.ownedPins n).filter fun k => k % 2 == 0 && (s.pin k).eff.getLsbD 10 && (s.pin k).eff.getLsbD 11

/-- START (R365, R368, R370): rejected where it is not allowed, or while a safe-state request stands. It ends the condition of a SHORT (R403). -/
def State.pacStartBad (s : State) (n : Nat) : Bool := !(s.pacer n).stopped || s.safeNow
def State.pacStart (s : State) (n : Nat) : State :=
  let mine (k : Nat) : Bool := k / 32 == n / 8 && (s.ownsPin n k ||
    ((s.reg 0xE (pinOff k)).getLsbD 31 && s.rfld 0xE (pinOff k) 30 28 == n % 8 && !(s.pin k).eff.getLsbD 31))
  let short := (s.pacer n).fcode == 1
  let pin := (s.pacer n).fpin.toNat
  let s := s.each ((List.range 64).filter mine) fun s k =>
    (((s.applyPin k).updPin k fun x => { x with chk := none, diff := false }).setRfld 0xE (pinOff k) 27 26 0).setRfld 0xE (pinOff k) 25 24 0
  let test := !(s.openPins n).isEmpty || !(s.trainPins n).isEmpty
  let s := s.updPacer n fun x =>
    { st := .running, wait := if test then .none else .start 4, test := test, started := true, pm := x.pm }
  s.when short fun s => s.report 0x1C 0 (pacPage n) (pacPage n) pin 0 false

/-- STOP (R365, R366). -/
def State.pacStop (s : State) (n : Nat) : State :=
  let x := s.pacer n
  match x.st with
  | .running =>
    match x.wait with
    | .shift _ => s.updPacer n fun x => { x with st := .stopping }
    | _ => s.pacHalt n
  | .stalled => s.pacHalt n
  | _ => s
/-- A STOP is accepted in any state; RESUME only in STOPPED. -/
def State.pacResume (s : State) (n : Nat) : State := s.updPacer n fun x => { x with st := .running, resumed := true }

/-- Training of a pair on its sampled bits: whether 32 consecutive ones equal the pattern (false) or its complement (true), the earlier of the two,
assembled as CAPT assembles them (R368, notes/assumptions/66.md). -/
def trainSeek (msb : Bool) (pat : BitVec 32) : BitVec 32 → Nat → List Bool → Option Bool
  | _, _, [] => none
  | sr, n, b :: t =>
    let sr := if msb then putBit (sr <<< 1) 0 b else putBit (sr >>> 1) 31 b
    if 31 ≤ n ∧ sr = pat then some false
    else if 31 ≤ n ∧ sr = ~~~pat then some true
    else trainSeek msb pat sr (n + 1) t

/-- What the training of pair `k` finds in the bits sampled on it, 4,096 at most (R368). -/
def State.trained (s : State) (n k : Nat) (samples : List (Nat × List Bool)) : Option Bool :=
  match samples.find? fun e => e.1 == k with
  | some (_, bits) => trainSeek ((s.reg (pacPage n) 0x108).getLsbD 29) (s.reg (pacPage n) 0x138) 0 0 (bits.take 4096)
  | none => none

/-- The tests of START end (R368): the open test's sample is what the pins now read, `samples` the bits that training has sampled. -/
def State.pacTestsEnd (s : State) (n : Nat) (samples : List (Nat × List Bool)) : State :=
  let x := s.pacer n
  if x.st ≠ .running ∨ x.test = false then s
  else
    let open' (k : Nat) : Bool := if fld (s.pin k).eff 7 6 = 1 then !(s.pin k).sense else (s.pin k).sense
    match (s.openPins n).find? open' with
    | some k => s.pacFault n 2 k
    | none =>
      match (s.trainPins n).find? fun k => (s.trained n k samples).isNone with
      | some k => s.pacFault n 3 k
      | none =>
        let s := s.each (s.trainPins n) fun s k => s.setRfld 0xE (pinOff k) 24 24 (b2n (s.trained n k samples == some true))
        s.updPacer n fun x => { x with test := false, wait := .start 4 }

/-- The check of a driven edge, 6 CLK_S cycles after it: a level that differed at the check before and has stood since is a SHORT (R369,
notes/assumptions/67.md). -/
def State.pacShort (s : State) (n k : Nat) : State :=
  let x := s.pacer n
  let p := s.pin k
  match p.chk with
  | none => s
  | some t =>
    if s.pacerPresent n && (x.st == .running || x.st == .stalled || x.st == .stopping) && s.ownsPin n k && p.oe && decide (t + 6 ≤ s.clkS) then
      if p.diff then
        let near (j : Nat) : Bool := j / 32 == k / 32 && s.pad j == some p.sense
        ((s.updPin k fun p => { p with chk := none, diff := false }).setRfld 0xE (pinOff k) 25 25
          (b2n ((k % 32 != 0 && near (k - 1)) || near (k + 1)))).pacFault n 1 k
      else s.updPin k fun p => { p with chk := none, diff := p.sense != p.lvl }
    else s

/-! The bit clock and shifts (R357 to R359) -/

/-- The instruction at an address (R360). -/
def State.pinstr (s : State) (n : Nat) : BitVec 24 := tget 0 (s.pacer n).pm (s.pacer n).pc.toNat

/-- An instruction ends; the next follows in sequence (R361). -/
def State.pacNext (s : State) (n : Nat) : State := s.updPacer n fun x => { x with st := .running, wait := .none, pc := x.pc + 1 }

/-- One bit is driven, which enables the pin's output, or sampled, and the divider begins its next period (R357 to R359,
notes/assumptions/66.md). -/
def State.shiftBit (s : State) (n : Nat) (isOut : Bool) : State :=
  let cfg := s.reg (pacPage n) 0x108
  let msb := cfg.getLsbD 29
  let x := s.pacer n
  let s :=
    if isOut then
      let k := gpin n (fld cfg 20 16)
      (s.drivePin n k true (if msb then x.sr.getLsbD 31 else x.sr.getLsbD 0)).updPacer n fun x =>
        { x with sr := if msb then x.sr <<< 1 else x.sr >>> 1 }
    else
      let b := s.sensed (gpin n (fld cfg 12 8))
      s.updPacer n fun x => { x with sr := if msb then putBit (x.sr <<< 1) 0 b else putBit (x.sr >>> 1) 31 b }
  let div := s.reg (pacPage n) 0x110
  let acc := (s.pacer n).divAcc.toNat + fld div 15 0
  s.updPacer n fun x => { x with bits := x.bits - 1, divAcc := BitVec.ofNat 16 acc, divLeft := fld div 31 16 + acc / 65536 }

/-- A bit-clock edge of a shift: its next bit, or its end; a stopping pacer stops at it (R358, R365). -/
def State.bitEdge (s : State) (n : Nat) : State :=
  let x := s.pacer n
  match x.wait with
  | .shift isOut =>
    if x.bits = 0 then
      let stop := x.st == .stopping
      let s := s.pacNext n
      if stop then s.pacHalt n else s
    else if x.st == .stopping then s.pacHalt n
    else s.shiftBit n isOut
  | _ => s

/-- One CLK_S cycle of a pacer: the divider, IDLE and the start delay (R357, R361, R365). -/
def State.pacTick (s : State) (n : Nat) : State :=
  let x := s.pacer n
  match x.wait with
  | .start k => if k ≤ 1 then s.updPacer n fun x => { x with wait := .none } else s.updPacer n fun x => { x with wait := .start (k - 1) }
  | .idle k => if k ≤ 1 then s.pacNext n else s.updPacer n fun x => { x with wait := .idle (k - 1) }
  | .shift _ =>
    if s.rfld (pacPage n) 0x108 31 31 = 1 then s
    else if x.divLeft ≤ 1 then s.bitEdge n else s.updPacer n fun x => { x with divLeft := x.divLeft - 1 }
  | _ => s

/-! Instructions (R360, R361, R364) -/

def opOf (w : BitVec 24) : Nat := fld w 23 19
def argOf (w : BitVec 24) : Nat := fld w 15 0

/-- A well-formed instruction (R361). -/
def pacOk (w : BitVec 24) : Bool :=
  let a := argOf w
  match opOf w with
  | 0x00 => true
  | 0x01 | 0x02 => decide (1 ≤ a ∧ a ≤ 32)
  | 0x03 | 0x04 => decide (a < 2)
  | 0x05 => decide (a < 4)
  | 0x06 => decide (a < 128) && a / 32 % 2 == 0
  | 0x07 => decide (a < 512)
  | 0x08 => a == 0
  | 0x09 | 0x0A => decide (a < 2)
  | 0x0B => a == 0
  | 0x0C | 0x0D => true
  | 0x0E => decide (a < 2)
  | _ => false

/-- The pattern pins an instruction sets, with their levels (R360). -/
def State.pattern (s : State) (n : Nat) (w : BitVec 24) : List (Nat × Bool) :=
  let p := fld w 18 16
  if p = 0 then []
  else
    let b := if p ≤ 4 then s.rfld (pacPage n) 0x13C (8 * p - 1) (8 * p - 8) else s.rfld (pacPage n) 0x140 (8 * (p - 4) - 1) (8 * (p - 4) - 8)
    let pp := s.reg (pacPage n) 0x10C
    (List.range 4).filterMap fun j => if b / 2 ^ (4 + j) % 2 = 1 then some (gpin n (fld pp (8 * j + 4) (8 * j)), b / 2 ^ j % 2 == 1) else none

def State.setPins (s : State) (n : Nat) (l : List (Nat × Bool)) : State := s.each l fun s e => s.drivePin n e.1 true e.2

/-- The instruction `op` is the one to execute now. -/
def State.pacAt (s : State) (n op : Nat) : Bool :=
  let x := s.pacer n
  s.pacerPresent n && x.st == .running && x.wait == .none && !x.test && opOf (s.pinstr n) == op && pacOk (s.pinstr n)

/-- The execution of an instruction begins: its pattern is applied, a resumed shift keeps its bits (R360, R366). -/
def State.pacBegin (s : State) (n : Nat) : State :=
  let w := s.pinstr n
  let s := s.setPins n (s.pattern n w)
  s.updPacer n fun x => { x with resumed := false, bits := if x.resumed && (opOf w == 1 || opOf w == 2) then x.bits else 0 }

/-- EMIT and CAPT (R358, R366). -/
def State.pacShift (s : State) (n : Nat) (isOut : Bool) : State :=
  let len := argOf (s.pinstr n)
  let s := s.pacBegin n
  (s.updPacer n fun x => { x with bits := if x.bits = 0 then len else x.bits, wait := .shift isOut }).shiftBit n isOut

/-- A word enters the outbound FIFO (R364). -/
def State.pacGive (s : State) (n : Nat) : State :=
  let was := (s.pacer n).outq.isEmpty
  let s := s.updPacer n fun x => { x with outq := x.outq ++ [x.sr] }
  s.when (was && s.rfld (pacPage n) 0x128 31 31 == 1) fun s => s.pacEvent n

/-- The oldest inbound word enters SR (R364). -/
def State.pacTake (s : State) (n : Nat) : State :=
  match (s.pacer n).inq with
  | [] => s
  | w :: t => s.updPacer n fun x => { x with sr := w, lastTake := w, stale := false, inq := t }

/-- Time `t` is reached (R362). -/
def State.reached (s : State) (t : BitVec 32) : Bool := decide ((BitVec.ofNat 32 s.lap.toNat - t).toNat < 2 ^ 31)

/-- A SCHED enters its action (R362). -/
def State.pacSched (s : State) (n : Nat) : State :=
  let w := s.pinstr n
  let x := s.pacer n
  let s := s.when (s.reached x.sr) fun s => s.satInc (pacPage n) 0x124 15 0
  s.updPacer n fun x => { x with tq := x.tq ++ [{ t := x.sr, pins := s.pattern n w, ev := argOf w % 2 == 1 }] }

/-- The condition of a GOTO (R361). -/
def State.pacCond (s : State) (n c : Nat) : Bool :=
  let x := s.pacer n
  let cmp := s.reg (pacPage n) 0x114
  let pin := s.sensed (gpin n (s.rfld (pacPage n) 0x108 12 8))
  match c with
  | 0 => true
  | 1 => x.sr == cmp
  | 2 => x.sr != cmp
  | 3 => !x.inq.isEmpty
  | 4 => decide (x.outq.length < 8)
  | 5 => pin
  | 6 => !pin
  | _ => x.stale

def State.pacWait (s : State) (n : Nat) (st : PState) (w : PWait) : State := s.updPacer n fun x => { x with st := st, wait := w }

/-- One instruction of a pacer, where it is the one to execute (R361, R362, R364). -/
def State.pacRun (s : State) (n op : Nat) : State :=
  if !s.pacAt n op then s
  else
    let w := s.pinstr n; let a := argOf w
    match op with
    | 0x00 => (s.pacBegin n).pacWait n .running (.idle (a + 1))
    | 0x01 => s.pacShift n true
    | 0x02 => s.pacShift n false
    | 0x03 =>
      let s := s.pacBegin n
      if (s.pacer n).inq.isEmpty then
        if a = 0 then s.pacWait n .stalled .take
        else ((s.satInc (pacPage n) 0x120 31 16).updPacer n fun x => { x with sr := x.lastTake, stale := true }).pacNext n
      else (s.pacTake n).pacNext n
    | 0x04 =>
      let s := s.pacBegin n
      if (s.pacer n).outq.length < 8 then (s.pacGive n).pacNext n
      else if a = 0 then s.pacWait n .stalled .give
      else (s.satInc (pacPage n) 0x120 15 0).pacNext n
    | 0x05 => (((s.pacBegin n).drivePin n (gpin n (s.rfld (pacPage n) 0x108 20 16)) (a / 2 % 2 == 1) (a % 2 == 1))).pacNext n
    | 0x06 =>
      let s := s.pacBegin n
      let k := gpin n (a % 32); let lvl := a / 64 % 2 == 1
      if s.sensed k == lvl then s.pacNext n else s.pacWait n .running (.await k lvl)
    | 0x07 =>
      let s := s.pacBegin n
      if s.pacCond n (a / 64) then s.updPacer n fun x => { x with pc := BitVec.ofNat 6 a } else s.pacNext n
    | 0x08 =>
      let s := s.pacBegin n
      (s.setReg (pacPage n) 0x114 (s.pacer n).sr).pacNext n
    | 0x09 =>
      let s := s.pacBegin n
      (s.when (a == 0 || s.pacCond n 1) fun s => s.pacEvent n).pacNext n
    | 0x0A =>
      let s := s.updPacer n fun x => { x with resumed := false, bits := 0 }
      if (s.pacer n).tq.length < 4 then (s.pacSched n).pacNext n else s.pacWait n .stalled .sched
    | 0x0B =>
      let s := s.pacBegin n
      if s.reached (s.pacer n).sr then s.pacNext n else s.pacWait n .running .until
    | 0x0C => ((s.pacBegin n).updPacer n fun x => { x with sr := x.sr + BitVec.ofNat 32 a }).pacNext n
    | 0x0D => ((s.pacBegin n).updPacer n fun x => { x with sr := BitVec.ofNat 32 (s.lap.toNat + a) }).pacNext n
    | 0x0E =>
      let s := ((s.pacBegin n).pacNext n).pacHalt n
      s.when (a == 1) fun s => s.pacEvent n
    | _ => s

/-- A reserved or malformed instruction (R361, R370). -/
def State.pacIllop (s : State) (n : Nat) : State :=
  let x := s.pacer n
  if s.pacerPresent n && x.st == .running && x.wait == .none && !x.test && !pacOk (s.pinstr n) then s.pacFault n 4 0 else s

/-! Events that end a wait (R361 to R364) -/

/-- The oldest timed action whose time is reached is applied (R362). -/
def State.timedAction (s : State) (n : Nat) : State :=
  let x := s.pacer n
  if !s.pacerPresent n || x.stopped then s
  else
    match takeFirst (fun (e : Timed) => s.reached e.t) x.tq with
    | none => s
    | some (e, t) =>
      let s := (s.updPacer n fun x => { x with tq := t }).setPins n e.pins
      let s := s.when e.ev fun s => s.pacEvent n
      if x.wait = .sched then (s.pacSched n).pacNext n else s

/-- The lap counter reaches SR of an UNTIL (R362). -/
def State.untilEnd (s : State) (n : Nat) : State :=
  let x := s.pacer n
  if s.pacerPresent n && x.wait == .until && s.reached x.sr then s.pacNext n else s

/-- A sensed level changes, and ends the AWAITs that wait for it (R361). -/
def State.pinLevel (s : State) (k : Nat) (b : Bool) : State :=
  if 64 ≤ k then s
  else
    let s := s.updPin k fun x => { x with sense := b, diff := x.diff && x.sense == b }
    s.each (List.range 16) fun s n =>
      match (s.pacer n).wait with
      | .await j lvl => if j = k && s.sensed k == lvl then s.pacNext n else s
      | _ => s

/-- An edge of a pacer's clock pin, which is a level change of that pin; it gives a bit-clock edge if it is of the configured direction and comes no
less than 4 CLK_S cycles after the previous one (R357, notes/assumptions/67.md). -/
def State.pinClock (s : State) (n : Nat) (rising : Bool) : State :=
  let cfg := s.reg (pacPage n) 0x108
  if s.pacerPresent n && cfg.getLsbD 31 then
    let t := s.pinLevel (gpin n (fld cfg 28 24)) rising
    if rising == cfg.getLsbD 30 then t
    else
      let far := match (t.pacer n).edgeAt with | some c => decide (4 ≤ t.clkS - c) | none => true
      let t := t.updPacer n fun x => { x with edgeAt := some t.clkS }
      if far then t.bitEdge n else t
  else s

/-- A runner pushes a word: false where the FIFO is full (R114, R363, R364). -/
def State.pacPush (s : State) (n : Nat) (w : BitVec 32) : State × Bool :=
  if 8 ≤ (s.pacer n).inq.length then (s, false)
  else
    let s := s.updPacer n fun x => { x with inq := x.inq ++ [w] }
    if (s.pacer n).wait = .take then ((s.pacTake n).pacNext n, true) else (s, true)

/-- A runner pulls a word, none where the FIFO is empty (R114, R364). -/
def State.pacPull (s : State) (n : Nat) : State × Option (BitVec 32) :=
  match (s.pacer n).outq with
  | [] => (s, none)
  | w :: t =>
    let s := s.updPacer n fun x => { x with outq := t }
    if (s.pacer n).wait = .give then ((s.pacGive n).pacNext n, some w) else (s, some w)

end Sys2Proof.Machine
end

