-- ==== Sys2Proof/Machine/Referee.lean ====
section
/-! DEFINITION. The Referee: admission, counting, severe events, reactions, FAULT_OUT (R402 to R421). -/
namespace Sys2Proof.Machine

/-! Classes (R405) -/

/-- N, window in ms, reactions in CCFG order, FAULT_OUT level, fixed, causes. Reactions: log 2, intr 4, fence 8. -/
structure ClassRow where
  n     : Nat
  win   : Nat
  react : Nat
  fo    : Nat
  fixed : Bool
  count : Nat
  deriving DecidableEq, Repr

def classRow : Nat → Option ClassRow
  | 0x00 => some ⟨16, 1000, 2, 0, false, 1⟩
  | 0x01 => some ⟨1, 1000, 10, 4, true, 2⟩
  | 0x02 => some ⟨1, 1000, 10, 4, true, 1⟩
  | 0x03 => some ⟨1, 1000, 2, 0, false, 8⟩
  | 0x04 => some ⟨1, 1000, 2, 0, false, 6⟩
  | 0x05 => some ⟨1, 1000, 6, 2, false, 3⟩
  | 0x06 => some ⟨1, 1000, 2, 0, false, 4⟩
  | 0x08 => some ⟨4, 1000, 2, 0, false, 1⟩
  | 0x09 => some ⟨1, 1000, 6, 3, false, 2⟩
  | 0x0A => some ⟨1, 1000, 10, 8, true, 1⟩
  | 0x0C => some ⟨64, 1000, 2, 0, false, 4⟩
  | 0x0D => some ⟨1, 1000, 6, 4, false, 4⟩
  | 0x0E => some ⟨8, 1, 6, 3, false, 3⟩
  | 0x10 => some ⟨1, 1000, 2, 0, false, 6⟩
  | 0x11 => some ⟨32, 1, 10, 2, false, 2⟩
  | 0x14 => some ⟨64, 1000, 2, 0, false, 2⟩
  | 0x15 => some ⟨1, 1000, 6, 2, false, 3⟩
  | 0x18 => some ⟨1, 1000, 2, 0, false, 1⟩
  | 0x19 => some ⟨1, 1000, 6, 0, false, 2⟩
  | 0x1C => some ⟨1, 1000, 6, 1, false, 4⟩
  | 0x20 => some ⟨1, 1000, 2, 0, false, 4⟩
  | 0x24 => some ⟨1, 1000, 6, 2, false, 3⟩
  | 0x3F => some ⟨1, 1000, 2, 0, true, 3⟩
  | _ => none

/-- CCFG at reset (R405, R420). -/
def ccfgReset (c : Nat) : Reg :=
  match classRow c with
  | some r => BitVec.ofNat 32 (r.n * 2 ^ 24 + r.fo * 2 ^ 20 + b2n r.fixed * 2 ^ 15 + b2n (heldClass c) * 2 ^ 14 + r.react)
  | none => 0
def clsReset (c : Nat) : ClassSt :=
  { cfg := ccfgReset c, win := ((classRow c).map (·.win)).getD 0, eff := ccfgReset c, winEff := ((classRow c).map (·.win)).getD 0 }
def State.cls (s : State) (c : Nat) : ClassSt := tget (clsReset c) s.ref.cls c
def State.updCls (s : State) (c : Nat) (f : ClassSt → ClassSt) : State :=
  s.updRef fun r => { r with cls := tset (clsReset c) r.cls c (f (s.cls c)) }

/-- Causes that concern conditions (R403). -/
def condSource (src : Nat) : Bool :=
  src = 8 * 0x11 + 1 || src = 8 * 0x15 + 1 || src = 8 * 0x1C || src = 8 * 0x20 || src = 8 * 0x20 + 2 || src = 8 * 0x20 + 3 || src = 8 * 0x24 + 1

/-- A source that R405 lists. -/
def srcListed (src : Nat) : Bool := match classRow (src / 8) with | some r => decide (src % 8 < r.count) | none => false

/-! Admission (R404, R406 to R408) -/

/-- PFLT of the suspect's page (R404). -/
def State.setPflt (s : State) (unit src : Nat) : State := s.setReg unit 0x1C (BitVec.ofNat 32 (2 ^ 31 + src))

/-- Held reports before droppable ones, then ascending reporter (R406). -/
def offerKey (r : Report) : Nat := (if r.held then 0 else 512) + r.reporter % 512

/-- One waiting report is offered: admitted, at most 4 in a CLK_C cycle; a droppable one is discarded where 896 entries are occupied; else it goes on
waiting with its reporter (R406 to R408). -/
def State.offer (s : State) (r : Report) : State :=
  let len := s.ref.fifo.length
  let now := s.clkS / 4
  let n := if s.ref.admAt = now then s.ref.admN else 0
  let leave (f : Referee) : Referee := { f with offered := f.offered.filter fun (o : Report) => o.reporter != r.reporter }
  if !r.held && decide (896 ≤ len) then
    let s := (s.updRef leave).satInc 9 0x108 31 16
    if s.ref.episode then s else (s.updRef fun f => { f with episode := true }).report 0x3F 0 9 9 0
  else if 4 ≤ n ∨ 1024 ≤ len then s
  else s.updRef fun f => { leave f with fifo := f.fifo ++ [r], admAt := now, admN := n + 1 }

/-- Every waiting report is offered, in the order of admission (R406). -/
def State.offerAll (s : State) : State := s.each (sortOn offerKey s.ref.offered) State.offer

/-- The oldest report of reporter `n` arrives: it is stamped, PFLT shows it, and it is offered. Behind a report that waits it is not sent (R404, R406 to
R408, notes/assumptions/68.md). -/
def State.arrive (s : State) (n : Nat) : State :=
  if s.ref.offered.any fun (r : Report) => r.reporter == n then s.offerAll
  else match takeFirst (fun (r : Report) => r.reporter == n) s.ref.arriving with
    | none => s
    | some (r, rest) =>
      let s := s.updRef fun f => { f with arriving := rest, offered := f.offered ++ [{ r with stamp := s.lap.toNat }] }
      (s.setPflt r.suspect r.src).offerAll

/-! Counting (R410, R411) -/

def sameKey (e : Suspect) (r : Report) : Bool := e.src == r.src && e.unit == r.suspect && e.elem == r.elem
/-- A difference of lap stamps. -/
def lapSub (a b : Nat) : Nat := (a + 2 ^ 64 - b) % 2 ^ 64
/-- The merge interval in CLK_S cycles. -/
def State.mrg (s : State) : Nat := 16 * s.rfld 9 0x100 7 0
/-- A window in CLK_S cycles (R420). -/
def winCycles (ms : Nat) : Nat := ms * 1250000

/-- An entry is gathering (R411). -/
def State.gathering (s : State) (e : Suspect) (now : Nat) : Bool := e.sev || decide (lapSub now e.tev < s.mrg)
/-- An entry is in use: gathering, or inside its window. -/
def State.inUse (s : State) (e : Suspect) (now : Nat) : Bool :=
  s.gathering e now || decide (lapSub now e.t0 < winCycles (s.cls (e.src / 8)).winEff)

/-- The entry with the oldest tev among those not gathering. -/
def State.oldest (s : State) (now : Nat) : Option Suspect :=
  (s.ref.susp.filter fun e => !s.gathering e now).foldl
    (fun a e => match a with | none => some e | some b => if lapSub now e.tev > lapSub now b.tev then some e else some b) none

/-! Reactions (R413, R416) -/

/-- The heat of a suspect unit. -/
def suspHeat (unit : Nat) : Option Nat :=
  if 0x10 ≤ unit ∧ unit < 0x60 then some (unit % 16)
  else if 0x70 ≤ unit ∧ unit < 0x80 then some (unit % 16)
  else if 0x90 ≤ unit ∧ unit < 0xA0 then some (unit % 16)
  else if 0x100 ≤ unit ∧ unit < 0x190 then some ((unit - 0x100) / 9)
  else none

/-- A host link is declared down (R34, R416). -/
def State.linkFence (s : State) (k : Nat) : State := { s with linkDown := putBit s.linkDown k true }.refreshMode

/-- A carrier is fenced: its enable bit is cleared (R416). -/
def State.carFence (s : State) (h k : Nat) : State :=
  ({ s with carFen := tset false s.carFen (4 * h + k) true }.setRfld (carPage h) 0x104 k k 0).refreshMode

/-- The fence reaction (R416). -/
def State.fenceUnit (s : State) (unit elem : Nat) : State :=
  if 0x100 ≤ unit ∧ unit < 0x190 then s.runnerFence (ridOfPage unit)
  else if 0x10 ≤ unit ∧ unit < 0x20 then s.heatFence (unit - 0x10)
  else if 0x60 ≤ unit ∧ unit < 0x70 then s.portFence (unit - 0x60)
  else if 0x70 ≤ unit ∧ unit < 0x80 ∧ elem < 4 ∧ s.heatPresent (unit - 0x70) = true then s.carFence (unit - 0x70) elem
  else if unit = 0 ∧ elem < 4 then s.linkFence elem
  else s

/-- The reactions of a class for one severe event (R413). -/
def State.react (s : State) (c : Nat) (eff : Reg) (r : Report) : State :=
  let h := (suspHeat r.suspect).getD (s.rfld 9 0x100 19 16)
  let s := s.when (eff.getLsbD 2) fun s =>
    let s := (s.updCls c fun x => { x with intrAt := if x.intrAt.contains h then x.intrAt else x.intrAt ++ [h] }).syncF3 h
    s.when (s.rfld 9 0x100 31 31 == 1) fun s =>
      s.hostMsg (s.rfld 9 0x100 29 24) (BitVec.ofNat 64 (r.elem % 2 ^ 16 * 2 ^ 32 + r.suspect % 512 * 2 ^ 16 + r.src % 512))
  let s := s.when (eff.getLsbD 3) fun s => s.fenceUnit r.suspect r.elem
  let s := s.when (eff.getLsbD 4) fun s =>
    if 0x100 ≤ r.suspect ∧ r.suspect < 0x190 then s.runnerHoff (ridOfPage r.suspect) else s.fenceUnit r.suspect r.elem
  s.when (eff.getLsbD 5) fun s => ((s.updCls c fun x => { x with safeOn := true }).pacersSafe).containAll

/-- A severe event of class `c` (R412, R415): its entry of the register log is `logHead`. -/
def State.severe (s : State) (c : Nat) (r : Report) : State :=
  let x := s.cls c
  let s := s.updCls c fun x =>
    let x := { x with causes := putBit x.causes (r.src % 8) true, sevcnt := BitVec.ofNat 16 (satAdd 16 x.sevcnt.toNat 1) }
    if x.sev then x
    else { x with sev := true, live := r.live, trans := false, rd := false, first := BitVec.ofNat 3 r.src, unit := BitVec.ofNat 9 r.suspect,
                  elem := BitVec.ofNat 16 r.elem, detail := r.detail, nrep := 1 }
  let ent : LogEnt := { unit := BitVec.ofNat 9 r.suspect, src := BitVec.ofNat 9 r.src, nrep := 1, react := BitVec.ofNat 6 (fld x.eff 5 0), stamp := BitVec.ofNat 64 r.stamp }
  let none' : LogEnt := { unit := 0, src := 0, nrep := 0, react := 0, stamp := 0 }
  let s := s.updRef fun f => { f with log := tset none' f.log f.logHead.toNat ent, logHead := f.logHead + 1, logCnt := f.logCnt + 1 }
  s.react c x.eff r

/-- A FAULT record (R411, R425). -/
def State.faultRecord (s : State) (src unit elem nrep stamp : Nat) (detail : Reg) : State :=
  s.record 1 (unit % 512 * 2 ^ 16 + src % 512) (min nrep 0xFFFF * 2 ^ 16 + elem % 2 ^ 16) detail.toNat stamp

/-- What a close does: the record and the log entry with the final nrep; `rest` are the other entries (R411, R413, R415). -/
def State.closeNow (s : State) (e : Suspect) (rest : List Suspect) : State :=
  let c := e.src / 8
  let n : BitVec 16 := BitVec.ofNat 16 (min e.nrep 0xFFFF)
  let mine (l : LogEnt) : Bool := l.unit.toNat == e.unit && l.src.toNat == e.src && l.stamp.toNat == e.stamp
  let s := s.updRef fun f => { f with susp := { e with sev := false, latched := false } :: rest,
                                      log := f.log.map fun l => if l.1 = e.logAt && mine l.2 then (l.1, { l.2 with nrep := n }) else l }
  let s := s.updCls c fun x =>
    if e.latched then { x with nrep := n } else x
  s.when ((s.cls c).eff.getLsbD 1) fun s => s.faultRecord e.src e.unit e.elem e.nrep e.stamp e.detail

/-- CSTAT.live follows the latest report for the latched suspect and element; trans marks its fall while sev is 1 and CSTAT is unread (R414). -/
def State.followLive (s : State) (r : Report) : State :=
  let c := r.src / 8
  let x := s.cls c
  if x.nrep != 0 && x.unit.toNat == r.suspect && x.elem.toNat == r.elem then
    s.updCls c fun x => { x with live := r.live, trans := x.trans || (x.sev && x.live && !r.live && !x.rd) }
  else s

/-- One more event of a class is counted: its class B fields take effect, and 0xF3 follows them (R413, R420). -/
def State.countEvent (s : State) (c : Nat) : State :=
  let s := s.updCls c fun x => { x with eff := x.cfg, winEff := x.win, ccnt := x.ccnt + 1 }
  s.each (s.cls c).intrAt State.syncF3

/-- Count one report against an entry, which it puts at the head of the table (R410). -/
def State.countEntry (s : State) (r : Report) (e : Suspect) (rest : List Suspect) : State :=
  let c := r.src / 8; let now := r.stamp
  let s := s.countEvent c
  let x := s.cls c
  let e := if e.count = 0 || decide (winCycles x.winEff ≤ lapSub now e.t0) then { e with t0 := now, count := 0 } else e
  let e := { e with count := e.count + 1, tev := now, nrep := 1, stamp := now, detail := r.detail }
  if fld x.eff 31 24 ≤ e.count then
    let e := { e with count := 0, sev := true, latched := !x.sev, logAt := s.ref.logHead.toNat }
    (s.updRef fun f => { f with susp := e :: rest }).severe c r
  else s.updRef fun f => { f with susp := e :: rest }

/-- One report is counted (R410, R411). -/
def State.countReport (s : State) (r : Report) : State :=
  let now := r.stamp; let c := r.src / 8
  let fresh : Suspect := { src := r.src, unit := r.suspect, elem := r.elem, count := 0, t0 := 0, tev := 0, nrep := 0 }
  match takeFirst (fun (e : Suspect) => sameKey e r) s.ref.susp with
  | some (e, rest) =>
    if lapSub now e.tev < s.mrg then s.updRef fun f => { f with susp := { e with nrep := e.nrep + 1 } :: rest }
    else (s.when e.sev fun s => s.closeNow e rest).countEntry r { e with sev := false, latched := false } rest
  | none =>
    let used := s.ref.susp.filter fun e => s.inUse e now
    if used.length < 256 then s.countEntry r fresh used
    else
      match s.oldest now with
      | some o =>
        let s := (s.satInc 9 0x108 15 0).report 0x3F 1 9 9 0
        s.countEntry r fresh (used.filter fun e => e != o)
      | none =>
        let s := s.countEvent c
        if fld (s.cls c).eff 31 24 ≤ 1 then
          let log := (s.cls c).eff.getLsbD 1
          (s.severe c r).when log fun s => s.faultRecord r.src r.suspect r.elem 1 r.stamp r.detail
        else s

/-- The Referee takes the oldest report of its FIFO (R403, R406, R408, R410, R414). -/
def State.takeReport (s : State) : State :=
  match s.ref.fifo with
  | [] => s
  | r :: t =>
    let s := s.updRef fun f => { f with fifo := t, episode := f.episode && decide (512 ≤ t.length) }
    let s := s.followLive r
    if condSource r.src && !r.live then s else s.countReport r

/-- A severe event's entry closes (R411, R415). -/
def State.closeEntry (s : State) (src unit elem : Nat) : State :=
  match takeFirst (fun (e : Suspect) => e.src == src && e.unit == unit && e.elem == elem && e.sev) s.ref.susp with
  | none => s
  | some (e, rest) =>
    let waits := s.ref.fifo.any fun r => sameKey e r && decide (lapSub r.stamp e.tev < s.mrg)
    if decide (lapSub s.lap.toNat e.tev < s.mrg) || waits then s else s.closeNow e rest

/-- A W1C of CSTAT; clearing sev rearms the latch (R414). -/
def State.clearSev (s : State) (c : Nat) (data : Reg) : State :=
  let heats := (s.cls c).intrAt
  let s := s.updCls c fun x => { x with causes := x.causes &&& ~~~(BitVec.ofNat 8 (fld data 23 16)) }
  if data.getLsbD 31 then
    let s := s.updCls c fun x => { x with sev := false, trans := false, causes := 0, intrAt := [], safeOn := false, rd := false }
    let s := s.updRef fun f => { f with susp := f.susp.map fun (e : Suspect) => if e.src / 8 = c then { e with latched := false } else e }
    s.each heats State.syncF3
  else s

/-- The level FAULT_OUT should carry (R417). -/
def State.faultLevel (s : State) : Nat :=
  let lv := s.ref.cls.foldl (fun a e => if e.2.sev then max a (fld e.2.eff 23 20) else a) 0
  let lv := if (s.cls 0x20).causes.getLsbD 2 then max lv 12 else lv
  if (s.cls 0x3F).causes.getLsbD 2 then 15 else lv

/-- FAULT_OUT changes once its value has been held for 4 CLK_A cycles (R417). -/
def State.driveFault (s : State) : State :=
  let lv := s.faultLevel
  if s.ref.fo.toNat ≠ lv ∧ 64 ≤ s.clkS - s.ref.foAt then s.updRef fun f => { f with fo := BitVec.ofNat 4 lv, foAt := s.clkS } else s

/-- Whether a write of CCFG or CWIN weakens a fixed class (R418). -/
def fixedBad (c : Nat) (v : Reg) : Bool :=
  match classRow c with
  | some r => r.fixed && (fld v 5 0 &&& r.react != r.react || decide (1 < fld v 31 24) || decide (fld v 23 20 < r.fo))
  | none => false

end Sys2Proof.Machine
end

