-- ==== Sys2Proof/Machine/Scoresheet.lean ====
section
/-! DEFINITION. The Scoresheet: commit, flush, non-volatile region, window, failures, clear (R423 to R445). -/
namespace Sys2Proof.Machine

/-- Record slots of the region (R437). -/
def State.nslots (s : State) : Nat := s.fuses.nvSize.toNat * 32768 - 128
/-- Pending records that may be held (R430, R441, R442). -/
def Scores.limit (x : Scores) : Nat := min 256 (128 * ((List.range 16).filter fun k => !x.segf.getLsbD k).length)
/-- The slot the next record takes; none where every segment is fenced. -/
def Scores.slot (x : Scores) : Option Nat := ((List.range 2048).map fun i => (x.pos + i) % 2048).find? fun k => !x.segf.getLsbD (k / 128)
/-- A listed buffer slot (R430). -/
def Scores.at' (x : Scores) (k : Nat) : Option Rec := (x.buf.find? fun e => e.1 == k).map (·.2)
/-- Put a record in a slot; the table stays in order of its keys. -/
def Scores.putRec (x : Scores) (k : Nat) (r : Rec) : Scores :=
  { x with buf := (x.buf.filter fun e => decide (e.1 < k)) ++ [(k, r)] ++ (x.buf.filter fun e => decide (k < e.1)) }
/-- The slot that holds a sequence number. -/
def Scores.findSeq (x : Scores) (q : Nat) : Option (Nat × Rec) := x.buf.find? fun e => e.2.seq == q

/-- Word `j` of a record as bytes read it (R423, R440). -/
def Rec.word (r : Rec) (j : Nat) : Reg :=
  let w0 := r.seq % 2 ^ 48 * 2 ^ 16 + r.origin % 2 ^ 12 * 16 + r.kind % 16
  let w1 := r.pcc % 2 ^ 24 * 2 ^ 40 + r.optime % 2 ^ 40
  match j with
  | 0 => BitVec.ofNat 32 w0
  | 1 => BitVec.ofNat 32 (w0 / 2 ^ 32)
  | 2 => BitVec.ofNat 32 w1
  | 3 => BitVec.ofNat 32 (w1 / 2 ^ 32)
  | 4 => BitVec.ofNat 32 r.lap
  | 5 => r.p0
  | 6 => r.p1
  | _ => r.p2
/-- The 32 bytes of a record (R423). -/
def Rec.bytes (r : Rec) : List Byte := (List.range 8).flatMap fun j => leBytes 4 (Rec.word r j).toNat

/-- A flush trigger (R434). -/
def State.flushTrigger (s : State) : State := s.updScs fun x => { x with flushing := true }

/-- A record commits with the next sequence number (R427, R430, R434, R442). -/
def State.commitRec (s : State) (r : Rec) : State :=
  match s.scs.slot with
  | none =>
    let l := s.lap.toNat % 2 ^ 32
    match s.scs.lost with
    | none => (s.updScs fun x => { x with lost := some (1, l, l) }).report 0x24 2 0xA 0xA 0
    | some (n, a, _) => s.updScs fun x => { x with lost := some (n + 1, a, l) }
  | some k =>
    let lapped := s.scs.pend.any fun e => e.2 == k
    let s := s.when lapped fun s => (s.satInc 0xA 0x114 31 0).updScs fun x => { x with ovrRun := x.ovrRun + 1, pend := x.pend.filter fun e => e.2 != k }
    let s := s.updScs fun x => { x.putRec k { r with seq := x.next % 2 ^ 48 } with
      pos := (k + 1) % 2048, pend := x.pend ++ [(x.next % 2 ^ 48, k)], next := x.next + 1 }
    s.when (r.kind == 1 || decide (s.scs.limit ≤ s.scs.pend.length)) State.flushTrigger

/-- A loss episode ends with its SUMMARY record (R433). -/
def State.summary (s : State) : State :=
  match s.scs.lost with
  | some (n, a, b) =>
    if s.scs.fifo.length < 256 then
      let s := (s.updScs fun x => { x with lost := none }).satInc 0xA 0x110 31 16
      s.record 7 n a b
    else s
  | none => s

/-- The oldest record leaves the ingest FIFO and commits (R431, R435). -/
def State.recordCommit (s : State) : State :=
  match s.scs.fifo with
  | [] => s
  | r :: t =>
    if s.pfw || !(s.scs.nvdown || decide (s.scs.pend.length < s.scs.limit) || s.scs.slot.isNone) then s
    else ((s.updScs fun x => { x with fifo := t }).commitRec r).summary

/-- The 64 bytes of a header, `nsize` MiB long (R436). -/
def Scores.header (x : Scores) (nsize gen : Nat) (pfw : Bool) : List Byte :=
  let body := [0x53, 0x43, 0x53, 0x48] ++ leBytes 4 gen ++ leBytes 8 (x.next % 2 ^ 48) ++ leBytes 8 (x.old % 2 ^ 48)
    ++ leBytes 4 (x.pcc.toNat + b2n pfw * 2 ^ 31) ++ leBytes 4 0 ++ leBytes 8 x.optime.toNat ++ leBytes 4 nsize ++ leBytes 16 0
  body ++ leBytes 4 (crc32c body).toNat

/-- The byte address of the region (R436). -/
def State.nvAt (s : State) : Nat := s.fuses.nvBase.toNat * 4096
/-- The address of the slot of a sequence number (R437). -/
def State.slotAt (s : State) (q : Nat) : Nat := s.nvAt + 0x1000 + 32 * (q % s.nslots)

/-- The header is written, to the copy at 0x000 where gen is even, else to the one at 0x040 (R436). -/
def State.writeHeader (s : State) (pfw : Bool) : State :=
  let x := s.scs
  let gen := x.hdrGen + 1
  (s.put (.header (s.nvAt + gen % 2 * 0x40) (x.header s.fuses.nvSize.toNat gen pfw))).updScs fun x => { x with hdrGen := x.hdrGen + 1, fcount := 0 }

/-- The DAMAGED record that takes a record's place (R425, R441). -/
def State.damaged (s : State) (q k : Nat) : Rec :=
  { seq := q, origin := hwOrigin, kind := 8, pcc := s.scs.pcc.toNat, optime := s.scs.optime.toNat, lap := s.lap.toNat % 2 ^ 32,
    p0 := BitVec.ofNat 32 (k / 128 * 2 ^ 12 + k), p1 := 0, p2 := 0 }

/-- Segments with nothing pending are fenced once an error was found in them (R441). -/
def State.fenceSegs (s : State) : State :=
  s.each (List.range 16) fun s g =>
    if s.scs.segw.getLsbD g && !s.scs.pend.any fun e => e.2 / 128 == g then
      s.updScs fun x => { x with segf := putBit x.segf g true, segw := putBit x.segw g false,
                                 buf := x.buf.filter fun e => e.1 / 128 != g }
    else s

/-- A buffered record is found uncorrectable (R441): a pending one becomes a DAMAGED record, its segment will be fenced. -/
def State.recordBad (s : State) (q k : Nat) : State :=
  let pending := s.scs.pend.any fun e => e.1 == q
  let s := s.when pending fun s => (s.updScs fun x => x.putRec k (s.damaged q k)).satInc 0xA 0x110 15 0
  let s := s.when (!pending) fun s => s.updScs fun x => { x with buf := x.buf.filter fun e => e.1 != k }
  let s := s.updScs fun x => { x with segw := putBit x.segw (k / 128) true }
  ((s.report 0x24 0 0xA 0xA (k / 128)).flushTrigger).fenceSegs

/-- The record of a sequence number is about to be written over an older one (R436, R437). -/
def State.raiseOld (s : State) (q : Nat) : State :=
  s.updScs fun x => { x with old := if s.nslots ≤ q then max x.old (q - s.nslots + 1) else x.old, fcount := x.fcount + 1 }

/-- A beat of one record or two neighbours is written to its slots of the region (R434, R437). -/
def State.writeBeat (s : State) (l : List (Nat × Nat)) : State :=
  let s := s.each l fun s e => s.raiseOld e.1
  match l with
  | [] => s
  | e :: _ => s.put (.beat (s.slotAt e.1) (l.flatMap fun e => ((s.scs.at' e.2).map Rec.bytes).getD []))

/-- A flush runs: its next beat, or the header and its end (R434, R435). -/
def State.flushStep (s : State) (bad : List Nat) : State :=
  if !s.scs.flushing || !s.scs.beat.isEmpty then s
  else
    match s.scs.pend with
    | [] =>
      let s := if 0 < s.scs.fcount ∨ s.pfw = true then s.writeHeader s.pfw else s
      s.updScs fun x => { x with flushing := false }
    | e :: t =>
      let two := match t with
        | f :: _ => if e.1 % s.nslots % 2 = 0 ∧ f.1 = e.1 + 1 then [e, f] else [e]
        | [] => [e]
      let s := s.each (two.filter fun e => bad.contains e.1) fun s e => s.recordBad e.1 e.2
      (s.writeBeat two).updScs fun x => { x with beat := two.map (·.1) }

/-- The service memory acknowledges a beat, or the last write of a clear's zeroing (R434, R442, R443). -/
def State.beatAck (s : State) : State :=
  let b := s.scs.beat
  if b.isEmpty then s.updScs fun x => { x with clearing := false }
  else
    let last := b.foldl max 0
    let s := s.updScs fun x => { x with beat := [], pend := x.pend.filter fun e => !b.contains e.1, flushed := max x.flushed last }
    let s := s.fenceSegs
    let s := s.when (decide (256 ≤ s.scs.fcount)) fun s => s.writeHeader s.pfw
    s.when s.scs.nvdown fun s =>
      let n := s.scs.ovrRun
      ((s.updScs fun x => { x with nvdown := false, ovrRun := 0, flushing := true }).record 0xA n 0 0).report 0x24 1 0xA 0xA 0 0 false

/-- A write of the service-memory path failed or went unanswered (R442). -/
def State.pathDown (s : State) : State :=
  if s.scs.beat.isEmpty && !s.scs.clearing then s
  else
    let was := s.scs.nvdown
    let s := s.updScs fun x => { x with beat := [], flushing := false, nvdown := true, nvlost := true }
    s.when (!was) fun s => s.report 0x24 1 0xA 0xA 0 0 true

/-- A flush performed to its end, every beat acknowledged (R455, R457). -/
def State.flushAll (s : State) : State :=
  if s.scs.nvdown then s
  else
    let l := s.scs.pend
    let s := (s.each l fun s e => s.writeBeat [e]).updScs fun x =>
      { x with beat := [], pend := [], flushing := false, flushed := l.foldl (fun a e => max a e.1) x.flushed }
    (s.when (!l.isEmpty) fun s => s.writeHeader s.pfw).fenceSegs

/-- Operating time advances (R426, R434). -/
def State.optimeTick (s : State) : State :=
  let s := s.updScs fun x => { x with optime := x.optime + 1 }
  s.when (s.scs.optime.toNat % 1024 == 0) State.flushTrigger

/-- An accepted clear (R443). -/
def State.clearScores (s : State) : State :=
  let x := s.scs
  let a := x.old % 2 ^ 48; let b := (x.next - 1) % 2 ^ 48
  let r : Rec := { seq := 0, origin := hwOrigin, kind := 9, pcc := x.pcc.toNat, optime := x.optime.toNat, lap := s.lap.toNat % 2 ^ 32,
                   p0 := BitVec.ofNat 32 a, p1 := BitVec.ofNat 32 (a / 2 ^ 32 + b % 2 ^ 16 * 2 ^ 16), p2 := BitVec.ofNat 32 (b / 2 ^ 16) }
  let q := x.next
  let s := (s.updScs fun x => { x with buf := [], pend := [] }).commitRec r
  let s := (s.updScs fun x => { x with old := q, clearing := true }).writeHeader s.pfw
  s.put (.zero q)

/-- Whether CTL.clear is accepted from an origin (R443). -/
def clearFrom : Origin → Bool
  | .link _ c => c
  | .runner _ c u => c && u
  | .tap => true

/-- A fetch of records c to c + 7 into the window; `bad` names the buffered ones that fail their ECC (R439, R441). -/
def State.windowFetch (s : State) (c : Nat) (bad : List Nat) : State :=
  let qs := (List.range 8).map fun k => c + k
  let s := s.each (qs.filter fun q => bad.contains q) fun s q => match s.scs.findSeq q with
    | some (k, _) => s.recordBad q k
    | none => s
  let hit (q : Nat) : Option Rec := if s.scs.old ≤ q then (s.scs.findSeq q).map (·.2) else none
  let far := qs.any fun q => decide (s.scs.old ≤ q ∧ q < s.scs.next) && (s.scs.findSeq q).isNone
  let s := s.updScs fun x => { x with win := qs.map hit, wcur := c, wbusy := far }
  s.when far fun s => s.put (.svcRead ((qs.filter fun q => decide (s.scs.old ≤ q ∧ q < s.scs.next) && (s.scs.findSeq q).isNone).map s.slotAt))

/-- The service memory answers a window fetch (R439). -/
def State.windowRead (s : State) (recs : List Rec) : State :=
  if !s.scs.wbusy then s
  else
    let fill (k : Nat) (o : Option Rec) : Option Rec := match o with
      | some r => some r
      | none => if s.scs.old ≤ s.scs.wcur + k then recs.find? fun r => r.seq == s.scs.wcur + k else none
    s.updScs fun x => { x with wbusy := false, win := (List.range 8).map fun k => fill k ((x.win[k]?).join) }

/-- What the header copy in 64 bytes says, and whether its magic and crc are correct (R436, R438). -/
structure NvHeader where
  good   : Bool
  gen    : Nat
  next   : Nat
  old    : Nat
  pcc    : Nat
  pfw    : Bool
  optime : Nat
  nsize  : Nat
  deriving DecidableEq, Repr

def readHeader (l : List Byte) : NvHeader :=
  let n (at' len : Nat) : Nat := leNat ((l.drop at').take len)
  { good := l.take 4 == [0x53, 0x43, 0x53, 0x48] && n 0x3C 4 == (crc32c (l.take 0x3C)).toNat, gen := n 4 4, next := n 8 6, old := n 0x10 6,
    pcc := n 0x18 3, pfw := decide (128 ≤ n 0x1B 1), optime := n 0x20 5, nsize := n 0x28 4 }

/-- The Scoresheet reads the region's two header copies in COLDSTART and commits POWERUP (R426, R438). -/
def State.coldScores (s : State) (hdrs : List (List Byte)) : State :=
  let ok := (hdrs.map readHeader).filter fun h => h.good && h.nsize == s.fuses.nvSize.toNat
  let best := ok.foldl (fun (a : Option NvHeader) h => match a with | none => some h | some b => if b.gen < h.gen then some h else some b) none
  let h : NvHeader := best.getD { good := true, gen := 0, next := 0, old := 0, pcc := 0, pfw := false, optime := 0, nsize := s.fuses.nvSize.toNat }
  let s := s.updScs fun x => { x with next := h.next + 256, old := h.old, pcc := BitVec.ofNat 24 (h.pcc + 1), optime := BitVec.ofNat 40 h.optime,
                                      hdrGen := h.gen, prevPfw := h.pfw }
  s.commitRec { seq := 0, origin := hwOrigin, kind := 6, pcc := s.scs.pcc.toNat, optime := s.scs.optime.toNat, lap := 0,
                p0 := BitVec.ofNat 32 (b2n h.pfw), p1 := s.fuses.variant.cap, p2 := 0 }

end Sys2Proof.Machine
end

