-- ==== Sys2Proof/Machine/Modes.lean ====
section
/-! DEFINITION. Resets, mode requests, QUIESCE and wake, window ends, the sideband events (R26 to R30, R45, R306, R308, R446 to R463). -/
namespace Sys2Proof.Machine

/-! Resets (R28, R452 to R455) -/

/-- A wipe of the secure part of every present heat and of the Arbiter data memory starts (R306). -/
def State.wipeAll (s : State) : State := s.each (List.range s.nHeats ++ [16]) State.startWipe

/-- Every register and memory at its reset value, as a cold reset leaves them; the fuses and the levels at the pins stand (R452 step 1, R454). -/
def State.coldBase (s : State) : State :=
  { State.reset with fuses := s.fuses, fresh := s.fresh, life := s.life, safeReq := s.safeReq, tamper := s.tamper, vddLow := s.vddLow,
                     winbase := s.winbase, mode := s.mode, out := s.out, pending := s.pending,
                     pins := s.pins.filterMap fun (e : Nat × Pin) => if e.2.sense then some (e.1, { sense := true }) else none }

/-- A unit that failed its test is fenced (R453). -/
def State.bistFail (s : State) (c : ColdIn) : State :=
  let s := s.setReg 1 0x10C (BitVec.ofNat 32 (b2n c.arbFail * 2 ^ 16 + c.bist.toNat % 2 ^ s.nHeats))
  let s := s.each ((List.range s.nHeats).filter fun h => c.bist.getLsbD h) fun s h => (s.report 0x0D 0 (0x30 + h) (0x30 + h) 0).heatFence h
  s.when c.arbFail fun s => (s.updR .arb fun x => { x with fenced := true }).raise 16 3

/-- What the fuse read bus returns: the variant is the chip's own (R452 step 2). -/
def State.loadFuses (s : State) (c : ColdIn) : State :=
  { s with fuses := { c.fuses.getD s.fuses with variant := s.fuses.variant } }

/-- The whole publication area of every heat, as one publication (R288). -/
def State.publishHeats (s : State) : State :=
  (s.each ((List.range s.nHeats).filter s.heatUp) State.publishAll).publish []

/-- The cold-start sequence to its end (R438, R447, R452, R453); `pre` is what a lifecycle change wrote before it. -/
def State.coldStart (s : State) (cause : Nat) (c : ColdIn) (pre : State → State := id) : State :=
  let s := ((pre (s.coldBase.loadFuses c)).setMode .coldstart cause).coldScores c.hdrs
  let s := s.each (List.range s.nHeats ++ [16]) State.endWipe
  let s := (s.each (List.range s.nHeats) State.calHeat).each (List.range 64) State.calPin
  let s := (s.calRet.bistFail c).publishHeats
  let s := s.each (List.range s.nHeats) fun s h => s.updCache h fun c => { c with init := false }
  { s with hwdone := true, cstep := 5 }.when s.safeReq State.containAll

/-- Registers that a warm reset returns to their reset values (R337, R454); REFCNT counts since cold reset (R293). -/
def warmClears (key : Nat) : Bool :=
  let p := key / 1024; let off := key % 1024 * 4
  key != regKey 8 0x110 && (p == 4 || ((p == 7 || p == 8 || p == 9 || p == 0xB || p == 0xC) && off != 0x10 && off != 0x14 && off != 0x18) || off == 0x1C
  || (decide (0x10 ≤ p ∧ p < 0x20) && decide (0x200 ≤ off)))

/-- What a warm reset leaves of a ring and of a class: the counts since cold reset, migs and sevcnt (R277, R412). -/
def warmRings (t : Table Ring) : Table Ring := (t.map fun e => (e.1, { migs := e.2.migs : Ring })).filter fun e => e.2 != ({} : Ring)
def warmCls (t : Table ClassSt) : Table ClassSt :=
  (t.map fun e => (e.1, { clsReset e.1 with sevcnt := e.2.sevcnt })).filter fun e => e.2 != clsReset e.1

/-- A warm start (R454, R455). -/
def State.warmStart (s : State) : State :=
  let s := s.flushAll
  let reg (e : Nat × Reg) : Option (Nat × Reg) :=
    let p := e.1 / 1024
    if warmClears e.1 then none
    else if (decide (0x60 ≤ p ∧ p < 0x60 + 16)) && e.1 % 1024 * 4 == 0x104 then (if e.2 &&& 0x00500000 = 0 then none else some (e.1, e.2 &&& 0x00500000))
    else some e
  let ref' : Referee := { log := s.ref.log, logHead := s.ref.logHead, logCnt := s.ref.logCnt, cls := warmCls s.ref.cls }
  let arb' : Arbiter := { secok := s.arb.secok, fbCnt := s.arb.fbCnt, gen := s.arb.gen, temp := s.arb.temp, throt := s.arb.throt }
  let cache' (e : Nat × Cache) : Nat × Cache := (e.1, { lfsr := e.2.lfsr, init := false, sd := e.2.sd })
  let s := { s with regs := s.regs.filterMap reg, ref := ref', arb := arb', runners := [], arbRun := {}, slices := [], rings := warmRings s.rings, queues := [],
                    credit := [], qptr := [], rent := [], hq := [], hlast := 63, ports := [], jobs := [], carFen := [], heatFen := 0, linkDown := 0,
                    perst := 0, gateRun := [], qpend := false, mstate := s.mstate.filter fun e => e.2 != 1,
                    caches := (s.caches.map cache').filter fun e => e.2 != ({} : Cache),
                    img := { s.img with state := 0, paused := false, abort := false, hdr := [] } }
  let s := s.each (List.range s.nHeats) fun s h => s.updCache h fun c => { c with init := false }
  let s := (s.each (List.range s.nHeats) State.calHeat).each (List.range 64) State.calPin
  let s := (s.pacersSafe.setMode .coldstart 2).publishHeats
  { s with hwdone := true, cstep := 5 }.when s.safeNow State.containAll

/-! Sideband events (R27, R29, R30, R45, R306) -/

/-- SAFE_REQ_N low or PFW_N: pacers and root ports take the safe state (R30, R45, R371, R380, R460). -/
def State.safeState (s : State) : State :=
  let s := s.pacersSafe
  s.when (s.mode != .quiesce) State.containAll

/-- An accepted change of LIFE[2:0] (R29, R306, R425, R451). -/
def State.lifeTo (s : State) (code : BitVec 3) : State :=
  let old := s.life.toNat
  let s := { s with life := code }.satInc 5 0x100 31 16
  let s := (s.record 3 (code.toNat * 2 ^ 8 + old) 0 0).wipeAll
  s.when (decide (4 < code.toNat)) fun s => s.report 0x10 3 0 0 0 code.toNat

/-! Mode requests (R449, R457, R458) -/

/-- Why a MODE.REQ is rejected: 0 accepted, else the reason of R476. -/
def State.modeReqBad (s : State) (target : Nat) (cust : Bool) : Nat :=
  let ok : Bool := match target with
    | 0 => s.mode == .coldstart && s.hwdone && (s.life == 0 || s.life == 3) && !s.pfw
    | 2 => s.mode == .coldstart && s.hwdone && (List.range s.nHeats).all (fun h => s.heatFen.getLsbD h || (s.cstore h).valid)
        && ((s.cstore 16).valid || s.arbRun.fenced) && s.img.state == 0 && s.img.rq.isEmpty && !s.pfw
    | _ => (s.mode == .service || s.mode == .degraded)
        && s.rings.all (fun e => !e.2.en || (e.2.cons == e.2.prod && !e.2.held))
        && s.jobs.all (fun e => !e.2.active)
        && (List.range 16).all (fun n => (s.pacer n).stopped)
        && s.img.state == 0 && s.img.rq.isEmpty
        && (List.range s.nHeats).all (fun h => !(s.cache h).rinv && !(s.cache h).lfill)
        && !s.scs.clearing && !s.qpend
  if target = 0 ∧ cust = false then 2 else if ok then 0 else 3

/-- Every heat cache has ended its clean (R457 step 2). -/
def State.cleaned (s : State) : Bool := (List.range s.nHeats).all fun h => s.heatFen.getLsbD h || !(s.cache h).draining

/-- The ingest FIFO commits whole. -/
def State.commitAll (s : State) : State := s.each s.scs.fifo fun s _ => s.recordCommit

/-- Runners of the complex with their keys in `gateRun`. -/
def State.allRids (s : State) : List (Nat × Rid) :=
  ((List.range s.nHeats).flatMap fun h => (List.range 9).map fun i => (9 * h + i, Rid.heat h i)) ++ [(144, Rid.arb)]

/-- Steps 3 to 6 of R457, once the caches are clean. -/
def State.quiesceEnd (s : State) : State :=
  if !s.qpend || !s.cleaned then s
  else
    let prev := s.mode
    let s := { s.setMode .quiesce 0x10 with prevMode := prev, qpend := false }.calRet
    let s := s.commitAll.flushAll
    let s := s.each (List.range s.nPorts) fun s p =>
      if (s.port p).ls = .contained then s else ((s.updPort p fun x => { x with ls := .disabled }).noRate p).setLive p false
    let run := (s.allRids.filter fun e => (s.runner e.2).run == .running).map fun e => (e.1, true)
    let s := { s with gateRun := run }
    s.each s.allRids fun s e => s.updR e.2 fun x =>
      { fenced := x.fenced, hoff := x.hoff, run := if x.run = .handoff then .handoff else .stopped }

/-- An accepted MODE.REQ QUIESCE (R457 steps 1 and 2). -/
def State.quiesceGo (s : State) : State :=
  let s := { s with qpend := true }
  let s := s.each ((List.range s.nHeats).filter fun h => s.heatUp h && (s.reg (cpage h) 0x100).getLsbD 0) State.cacheClean
  let s := s.each s.allRids fun s e => s.updR e.2 fun x => { x with tim0 := none, tim1 := none }
  s.quiesceEnd

/-- An accepted MODE.REQ (R447, R449). -/
def State.modeGo (s : State) (target : Nat) : State :=
  match target with
  | 0 => s.setMode .factory 0x10
  | 2 => s.setMode (if s.degradedNow then .degraded else .service) 0x10
  | _ => s.quiesceGo

/-- Edges caught while CLK_C was stopped set their pending bits; level inputs are sampled (R337). -/
def State.applyLatched (s : State) : State :=
  s.each (List.range s.nHeats ++ [16]) fun s sl =>
    let l := (s.slice sl).latched
    (s.updSl sl fun x => { x with latched := [] }).each l fun s e => if srcLevel sl e.1 then s else s.raise sl e.1

/-- A wake event: an entry in progress is abandoned, or the complex wakes (R447, R458, R459). -/
def State.wakeUp (s : State) : State :=
  if s.qpend then { s with qpend := false }.setMode s.mode 0x31
  else if s.mode = .quiesce then
    let s := (s.setMode (if s.degradedNow then .degraded else .service) 0x30).applyLatched
    let s := s.each (s.allRids.filter fun e => tget false s.gateRun e.1) fun s e => s.startRunner e.2
    let s := { s with gateRun := [] }.each (List.range s.nHeats) fun s h => s.updCache h fun c => { lfsr := c.lfsr, init := false, sd := c.sd }
    let s := s.each (List.range s.nPorts) State.syncPort
    s.when s.safeNow State.containAll
  else s

/-- PWR.WAKE as a lap value (R468). -/
def State.wakeAt (s : State) : Nat := (s.reg 2 0x180).toNat + (s.reg 2 0x184).toNat * 2 ^ 32

/-- The wake timer (R458, R468). -/
def State.wakeTimer (s : State) : State :=
  if (s.reg 2 0x188).getLsbD 0 && decide (s.wakeAt ≤ s.lap.toNat) && (s.qpend || s.mode == .quiesce) then s.wakeUp else s

/-! Window end (R274, R292, R463, R465, R468) -/

/-- A signed 11-bit temperature. -/
def temp11 (n : Nat) : Int := (BitVec.ofNat 11 n).toInt

/-- A heat's temperature is taken: calibration, throttle level, thermal exclusion (R292, R463, R465). -/
def State.heatTemp (s : State) (h : Nat) (raw : Int) : State :=
  let s := s.calHeat h
  let t := clampInt (-1024) 1023 (raw + sbyte (s.rfld 4 (0x200 + 4 * h) 7 0))
  let k := tget 0 s.arb.throt h
  let k' := if (0x190 : Int) ≤ t ∧ k < 8 then k + 1 else if t < 0x188 ∧ 0 < k then k - 1 else k
  let s := s.updArb fun a => { a with temp := tset 0 a.temp h t, throt := tset 0 a.throt h k' }
  let s := s.setRfld 2 (0x1C0 + 4 * h) 10 0 (BitVec.ofInt 11 t).toNat
  let s := s.when (decide (0 < k)) fun s => s.satInc 2 (0x100 + 4 * h) 31 16
  let s := (s.setRfld 2 (0x100 + 4 * h) 3 0 k').setRfld 2 (0x100 + 4 * h) 11 8 (max k' (s.rfld 2 (0x100 + 4 * h) 11 8))
  let s := s.when (k == 0 && k' == 1) fun s => s.report 0x20 3 2 (0x10 + h) h 0 true
  let s := s.when (k == 1 && k' == 0) fun s => s.report 0x20 3 2 (0x10 + h) h 0 false
  let was := s.arb.excl.getLsbD h
  let now := if was then !decide (t < temp11 (s.rfld 8 0x104 26 16)) else decide (temp11 (s.rfld 8 0x104 10 0) ≤ t)
  if was = now then s else (s.updArb fun a => { a with excl := putBit a.excl h now }).raise 16 4

/-- A measurement window ends, where the lap is a multiple of 1,250 and none has ended in this cycle; `temps` are the sensor readings in units of
0.25 °C (R274). -/
def State.windowEnd (s : State) (temps : List Int) : State :=
  if s.mode = .quiesce ∨ s.lap.toNat % 1250 ≠ 0 ∨ s.arb.winAt = some s.clkS then s
  else ((s.each (List.range s.nHeats) fun s h => s.heatTemp h (temps[h]?.getD 0)).snapshot).raise 16 0

end Sys2Proof.Machine
end

