-- ==== Sys2Proof/Machine/RegRead.lean ====
section
/-! DEFINITION. What the register pages read as, and the side effects of a read (R4, R5, R17, R22, R43, R196 to R205, R234, R267, R275 to R293, R323 to R326, R346 to R353, R374 to R376, R397 to R401, R420 to R422, R445, R451, R466 to R479). -/
namespace Sys2Proof.Machine

def nreg (n : Nat) : Reg := BitVec.ofNat 32 n

/-- The unit offset an access names, through an alias or not: 0 direct, 1 set, 2 clear (R22, R478). -/
def unalias (off : Nat) : Option (Nat × Nat) :=
  if 0x100 ≤ off ∧ off < 0x400 then some (off, 0)
  else if 0x500 ≤ off ∧ off < 0x800 then some (off - 0x400, 1)
  else if 0x900 ≤ off ∧ off < 0xC00 then some (off - 0x800, 2)
  else none

/-! The common header (R472 to R477) -/

/-- Heat of a page that belongs to one. -/
def heatOfPage (p : Nat) : Option Nat := suspHeat p

/-- The page counts as stopped for class S (R474; the Arbiter store's RADDR as a control store's). -/
def State.pageStopped (s : State) (t : PType) (inst p : Nat) : Bool :=
  match t with
  | .run | .arbrun => (s.runner (ridOfPage p)).idle
  | .rp => s.portStopped inst
  | .car => !(s.reg p 8).getLsbD 0 && (List.range 36).all fun k => (s.job (36 * inst + k)).st == .idle
  | .cstore | .ext => (ridsOf inst).all fun r => (s.runner r).idle
  | .img => s.arbRun.idle
  | .pacer => (s.pacer inst).stopped
  | .rsch => s.rings.all fun e => !e.2.en
  | _ => false

/-- PSTAT.fenced (R471, R475). -/
def State.pageFenced (s : State) (t : PType) (p : Nat) : Bool :=
  match t with
  | .run => (s.runner (ridOfPage p)).fenced || s.heatFen.getLsbD ((p - 0x100) / 9)
  | .arbrun => s.arbRun.fenced
  | .rp => (s.port (p - 0x60)).fenced
  | .heat | .str | .spad | .hcache | .cstore | .car | .ext => s.heatFen.getLsbD (p % 16)
  | _ => false

/-- PSTAT.busy: the unit has an operation in progress (R475). -/
def State.pageBusy (s : State) (t : PType) (inst p : Nat) : Bool :=
  match t with
  | .run | .arbrun => !(s.runner (ridOfPage p)).ops.isEmpty || (s.runner (ridOfPage p)).hold.isSome
  | .mode => s.qpend
  | .img => s.img.state != 0 || !s.img.rq.isEmpty
  | .arb => !s.arb.cmds.isEmpty || s.rings.any fun e => e.2.migTo.isSome
  | .scs => s.scs.flushing || s.scs.clearing || s.scs.wbusy
  | .spad => (s.up inst).wipe
  | .hcache => !(s.cache inst).fills.isEmpty || (s.cache inst).rinv || (s.cache inst).draining
  | .rp => !(s.port inst).np.isEmpty
  | .car => (List.range 36).any fun k => (s.job (36 * inst + k)).active
  | .pacer => !(s.pacer inst).stopped
  | _ => false

/-- PSTAT.state (R193, R475). -/
def State.pageState (s : State) (t : PType) (inst p : Nat) : Nat :=
  match t with
  | .run | .arbrun =>
    match (s.runner (ridOfPage p)).run with
    | .stopped => 0
    | .running => 1
    | .stopping => 2
    | .handoff => 3
  | _ => if s.pageStopped t inst p then 0 else 1

/-- PSTAT.fsum (R475). -/
def State.pageSum (s : State) (p : Nat) : Nat := min 255 (s.ref.cls.filter fun e => e.2.sev && e.2.unit.toNat == p).length

/-- Pages on which PCTL.run is writable (R473, R474). -/
def runStop (t : PType) : Bool := t == .run || t == .arbrun || t == .heat || t == .rp || t == .car
/-- Pages on which PCTL.fence acts. -/
def fenceActs (t : PType) : Bool := t == .run || t == .arbrun || t == .heat || t == .rp
/-- Pages that hold fields only the Custody world may set. -/
def custFields (t : PType) : Bool := t == .run || t == .arbrun || t == .ext || t == .rp || t == .arb || t == .rsch || t == .mode || t == .scs

/-- PCTL.run as it reads (R474). -/
def State.runBit (s : State) (t : PType) (p : Nat) : Bool :=
  match t with
  | .run | .arbrun => (s.runner (ridOfPage p)).run == .running || (s.runner (ridOfPage p)).starting
  | .heat => !s.heatFen.getLsbD (p - 0x10)
  | .rp | .car => (s.reg p 8).getLsbD 0
  | _ => true

def State.headVal (s : State) (t : PType) (inst p off : Nat) : Reg :=
  if off = 0 then nreg (2 ^ 31 + t.code * 2 ^ 20 + inst * 2 ^ 8 + 1)
  else if off = 4 then nreg (b2n (custFields t) * 4 + b2n (fenceActs t) * 2 + b2n (runStop t))
  else if off = 8 then nreg (b2n (s.pageFenced t p) * 2 + b2n (s.runBit t p))
  else if off = 0xC then nreg (b2n (s.pageFenced t p) * 2 ^ 31 + b2n (s.pageBusy t inst p) * 2 ^ 30 + s.pageState t inst p * 2 ^ 28 + s.pageSum p)
  else if off = 0x10 ∨ off = 0x14 ∨ off = 0x18 ∨ off = 0x1C then s.reg p off
  else if off = 0x20 then nreg (b2n t.custody)
  else 0

/-! Unit registers -/

/-- A pair of registers: bits [31:0] at the first offset, the rest above. -/
def half (x : Nat) (hi : Bool) : Reg := nreg (if hi then x / 2 ^ 32 else x)

def State.cpxVal (s : State) (off : Nat) : Reg :=
  if off = 0x100 then s.fuses.variant.cap
  else if off = 0x104 then nreg (2 ^ s.nHeats - 1)
  else if off = 0x108 then nreg s.heatLive
  else if off = 0x110 then nreg (s.winbase.toNat % 16 * 2 ^ 28)
  else if off = 0x114 then nreg (s.winbase.toNat / 16)
  else nreg (s.linkDown.toNat * 16 + (s.linkUp &&& ~~~s.linkDown).toNat)

def State.modeVal (s : State) (off : Nat) : Reg :=
  if off = 0x100 then nreg (s.cstep * 2 ^ 8 + b2n s.qpend * 2 ^ 6 + b2n s.pfw * 2 ^ 5 + b2n s.hwdone * 2 ^ 4 + s.mode.code) else s.reg 1 off

/-- A runner waits in t_pop or t_wait for 16 CLK_R cycles or more (R461). -/
def State.clockGated (s : State) (r : Rid) : Bool :=
  let x := s.runner r
  (x.ops.any fun o => match o.kind with | .pop _ => true | .wait _ => true | _ => false)
  && (match x.stallAt with | some t => decide (16 ≤ 2 * (s.clkS - t)) | none => false)

def State.pwrVal (s : State) (off : Nat) : Reg :=
  if 0x140 ≤ off ∧ off < 0x180 then
    let h := (off - 0x140) / 4
    if s.heatPresent h then
      nreg ((List.range 9).foldl (fun a i =>
        let x := s.runner (.heat h i)
        a + b2n (s.clockGated (.heat h i)) * 2 ^ i + b2n x.idle * 2 ^ (16 + i)) 0)
    else 0
  else s.reg 2 off

def State.calfVal (s : State) (off : Nat) : Reg :=
  if off < 0x140 then nreg (tget 0 s.fuses.toff ((off - 0x100) / 4)).toNat
  else if off < 0x180 then nreg (leNat ((List.range 4).map fun j => tget 0 s.fuses.pdly ((off - 0x140) + j)))
  else if off = 0x180 then nreg s.fuses.retv.toNat
  else if off = 0x184 then nreg s.fuses.sbin.toNat
  else if off = 0x200 then s.reg 3 off
  else
    let sel := s.reg 3 0x200
    let h := fld sel 15 12
    if s.heatPresent h then tget 0 s.fuses.repair (2 * (192 * h + 6 * fld sel 8 4 + fld sel 2 0) + (off - 0x204) / 4) else 0

def State.lifeVal (s : State) : Reg := nreg (s.rfld 5 0x100 31 16 * 2 ^ 16 + b2n (decide (4 < s.life.toNat)) * 8 + s.life.toNat)

/-- Control-store registers at their offset within the block (R197 to R200). -/
def State.csVal (s : State) (st o : Nat) : Reg :=
  let c := s.cstore st
  let p := storePage st; let b := storeOff st
  if o = 4 then nreg (b2n c.valid * 2 ^ 31 + c.count)
  else if o = 8 then nreg (c.reloads.toNat * 2 ^ 16 + c.errors.toNat)
  else if o = 0xC then nreg (c.passes.toNat * 2 ^ 16 + c.line)
  else if 0x10 ≤ o ∧ o < 0x20 then
    let e := c.fenceAt ((o - 0x10) / 4)
    nreg (e.state * 2 ^ 30 + e.line)
  else if 0x24 ≤ o then
    if s.pageStopped (if st = 16 then .img else .cstore) (if st = 16 then 0 else st) p then
      nreg ((s.cword st (s.rfld p (b + 0x20) 14 0 % storeSize st)).toNat / 2 ^ (32 * ((o - 0x24) / 4)))
    else 0
  else s.reg p (b + o)

/-- IMG.STAT.state (R185, R203). -/
def State.imgState (s : State) : Nat := if s.img.state = 1 then (if s.img.paused then 3 else 1) else if s.img.rq.isEmpty then 0 else 2

def State.imgVal (s : State) (off : Nat) : Reg :=
  if 0x300 ≤ off then s.csVal 16 (off - 0x300)
  else if off = 0x110 then nreg (s.imgState * 2 ^ 28 + s.img.seg % 16 * 2 ^ 24 + s.img.code.toNat)
  else if off = 0x114 then nreg (s.rfld 6 off 31 16 * 2 ^ 16 + s.fuses.svnMin.toNat)
  else if off = 0x118 then nreg (s.img.rcode.toNat * 2 ^ 24 + s.img.rstore.toNat * 2 ^ 16 + s.img.rcount.toNat)
  else if 0x140 ≤ off then
    let g := (s.cstore ((off - 0x140) / 8)).gold.toNat
    half (g * 4096) ((off - 0x140) % 8 != 0)
  else s.reg 6 off

/-- SCFG of the selected source (R342, R346). -/
def State.scfgVal (s : State) (sl src : Nat) : Reg :=
  if srcReserved sl src then 0
  else
    let tgt := if srcHand sl src || decide (sl = 16) then 0 else s.srcTarget sl src
    nreg ((if srcHand sl src then 2 else b2n (srcLevel sl src)) * 2 ^ 16 + tgt * 2 ^ 8 + s.srcPrio sl src)

/-- Whether a source is pending, or active, for any runner (R347). -/
def State.anyPend (s : State) (sl src : Nat) : Bool :=
  if srcHand sl src then (List.range 9).any fun i => (s.slice sl).isPend sl src i else (s.slice sl).isPend sl src 0
def State.anyActive (s : State) (sl src : Nat) : Bool := (List.range 9).any fun i => (s.slice sl).isAct sl src i

/-- 32 bits of a predicate. -/
def bits32 (f : Nat → Bool) : Reg := nreg ((List.range 32).foldl (fun a b => a + b2n (f b) * 2 ^ b) 0)

/-- Slice registers (R346 to R348). -/
def State.sliceVal (s : State) (sl off : Nat) : Reg :=
  let p := slicePage sl
  if off = 0x204 then s.scfgVal sl (s.reg p 0x200).toNat
  else if 0x220 ≤ off ∧ off < 0x240 then bits32 fun b => let src := 8 * (off - 0x220) + b; s.srcOk sl src && s.anyPend sl src
  else if 0x240 ≤ off ∧ off < 0x260 then bits32 fun b => let src := 8 * (off - 0x240) + b; s.srcOk sl src && s.anyActive sl src
  else if 0x280 ≤ off then
    let x := (s.slice sl).rprio ((off - 0x280) / 4)
    nreg (b2n x.ehold.isSome * 2 ^ 24 + x.ehold.getD 0 * 2 ^ 20 + x.stack.length * 2 ^ 8 + x.cur)
  else s.reg p off

def State.arbVal (s : State) (off : Nat) : Reg :=
  let a := s.arb
  if 0x200 ≤ off then s.sliceVal 16 off
  else if off = 0x100 then nreg (b2n a.fb * 2 ^ 31 + a.fbCause.toNat * 2 ^ 28 + a.cmds.length * 2 ^ 16 + min 16 a.res.length * 2 ^ 8 + a.fbCnt.toNat)
  else if off = 0x104 ∨ off = 0x120 then 0
  else if off = 0x110 then match s.pendRing with | some q => nreg (2 ^ 31 + q) | none => 0
  else if off = 0x118 then
    let x := s.ring (s.rfld 7 0x114 14 0)
    nreg (x.migs.toNat * 2 ^ 16 + x.aff.toNat)
  else if off = 0x124 then match a.res with | r :: _ => nreg (2 ^ 31 + r.ctag.toNat * 2 ^ 20 + r.code * 2 ^ 16 + r.ring) | [] => 0
  else if off = 0x12C then (s.poolAt (s.rfld 7 0x128 5 0)).1
  else if off = 0x130 then (s.poolAt (s.rfld 7 0x128 5 0)).2
  else s.reg 7 off

def State.arblVal (s : State) (off : Nat) : Reg :=
  if off = 0x10C then nreg ((List.range 16).foldl (fun a h => a + b2n (s.secOk h) * 2 ^ h) 0 * 2 ^ 16 + s.arb.excl.toNat) else s.reg 8 off

/-- CSTAT (R420). -/
def ClassSt.stat (x : ClassSt) : Reg :=
  nreg (b2n x.sev * 2 ^ 31 + b2n x.live * 2 ^ 30 + b2n x.trans * 2 ^ 29 + x.first.toNat * 2 ^ 24 + x.causes.toNat * 2 ^ 16 + x.sevcnt.toNat)

/-- Word `w` of a log entry (R421). -/
def State.logWord (s : State) (k w : Nat) : Reg :=
  match s.ref.log.find? fun e => e.1 == k with
  | none => 0
  | some (_, e) =>
    match w with
    | 0 => nreg (2 ^ 31 + e.unit.toNat * 2 ^ 16 + e.src.toNat)
    | 1 => nreg (e.nrep.toNat * 2 ^ 16 + e.react.toNat * 2 ^ 8)
    | 2 => half e.stamp.toNat false
    | _ => half e.stamp.toNat true

def State.refVal (s : State) (off : Nat) : Reg :=
  let c := s.rfld 9 0x10C 5 0
  let x := s.cls c
  let byClass (v : Reg) : Reg := if (classRow c).isSome then v else 0
  if off = 0x104 then nreg (s.ref.fo.toNat * 2 ^ 28 + (s.ref.susp.filter fun e => s.inUse e s.lap.toNat).length * 2 ^ 16 + s.ref.fifo.length)
  else if off = 0x110 then byClass x.cfg
  else if off = 0x114 then byClass (nreg x.win)
  else if off = 0x118 then byClass x.stat
  else if off = 0x11C then byClass (nreg (x.elem.toNat * 2 ^ 16 + x.unit.toNat))
  else if off = 0x120 then byClass x.detail
  else if off = 0x124 then byClass (nreg x.nrep.toNat)
  else if off = 0x128 then byClass x.ccnt
  else if off = 0x130 then nreg (s.ref.logCnt.toNat * 2 ^ 8 + s.ref.logHead.toNat)
  else if off = 0x140 ∨ off = 0x144 then bits32 fun b => (s.cls (8 * (off - 0x140) + b)).sev
  else if 0x200 ≤ off ∧ off < 0x300 then s.logWord ((off - 0x200) / 16) ((off - 0x200) % 16 / 4)
  else if 0x300 ≤ off ∧ s.mode ≠ .factory then 0
  else s.reg 9 off

def State.scsVal (s : State) (cust : Bool) (off : Nat) : Reg :=
  let x := s.scs
  if off = 0x100 then 0
  else if off = 0x104 then nreg (b2n x.nvlost * 2 ^ 31 + b2n x.nvdown * 2 ^ 30 + b2n x.flushing * 2 ^ 29 + b2n x.clearing * 2 ^ 28)
  else if off = 0x108 then nreg (x.segf.toNat * 2 ^ 16 + x.pend.length)
  else if off = 0x10C then nreg x.fifo.length
  else if off = 0x118 ∨ off = 0x11C then half (x.next % 2 ^ 48) (off == 0x11C)
  else if off = 0x120 ∨ off = 0x124 then half (x.old % 2 ^ 48) (off == 0x124)
  else if off = 0x128 ∨ off = 0x12C then half (x.flushed % 2 ^ 48) (off == 0x12C)
  else if off = 0x130 ∨ off = 0x134 then half (s.fuses.nvBase.toNat * 4096) (off == 0x134)
  else if off = 0x138 then nreg s.fuses.nvSize.toNat
  else if off = 0x148 then nreg (b2n x.wbusy * 2 ^ 31 + (List.range 8).foldl (fun a k => a + b2n ((x.win[k]?).join).isSome * 2 ^ k) 0)
  else if 0x200 ≤ off then
    match (x.win[(off - 0x200) / 32]?).join with
    | none => 0
    | some r =>
      let j := (off - 0x200) % 32 / 4
      let hide := !cust && r.kind == 0 && j == 6 && (match pageType s.fuses.variant (fld r.p0 20 12) with | some (t, _) => t.custody | none => false)
      if hide then 0 else Rec.word r j
  else s.reg 0xA off

def State.hstrVal (s : State) (off : Nat) : Reg :=
  let q := s.rfld 0xB 0x100 5 0
  let x := s.hqueue q
  if off = 0x104 then nreg (b2n x.en * 2 ^ 31 + b2n x.mask * 2 ^ 30 + b2n x.ackmode * 2 ^ 29 + x.tmo * 2 ^ 8 + x.cnt)
  else if off = 0x108 ∨ off = 0x10C then half (x.addr.toNat * 16) (off == 0x10C)
  else if off = 0x110 then nreg (b2n x.hold * 2 ^ 31 + b2n (s.qReady q) * 2 ^ 30 + x.acc)
  else if off = 0x114 then 0
  else s.reg 0xB off

def State.rschVal (s : State) (off : Nat) : Reg :=
  if off = 0x100 then
    let q := s.rfld 0xC 0x100 14 0
    nreg (b2n (s.ring q).clrEn * 2 ^ 30 + q)
  else if off = 0x108 ∨ off = 0x10C then (s.rent[(off - 0x108) / 4]?).getD 0
  else if 0x180 ≤ off then (s.rent[(off - 0x180) / 4]?).getD 0
  else s.reg 0xC off

def State.pcrgVal (s : State) (off : Nat) : Reg :=
  if off = 0x200 then s.fuses.pairCap
  else if off = 0x204 then nreg (b2n s.safeNow)
  else putBit (s.reg 0xE off) 23 (s.pin ((off - 0x100) / 4)).sense

def State.heatVal (s : State) (h off : Nat) : Reg :=
  if 0x200 ≤ off then s.sliceVal h off
  else if off = 0x144 then nreg (s.mstateOf h * 2 ^ 30 + s.morph h * 2 ^ 16 + s.lorph h)
  else s.reg (0x10 + h) off

def State.spadVal (s : State) (h off : Nat) : Reg :=
  if off = 0x104 then nreg (b2n (s.up h).wipe * 2 ^ 31 + s.rfld (0x30 + h) 0x104 30 30 * 2 ^ 30 + b2n (s.mode == .quiesce) * 2 ^ 29)
  else s.reg (0x30 + h) off

def State.hcacheVal (s : State) (h off : Nat) : Reg :=
  let c := s.cache h
  let p := cpage h
  if off = 0x100 then nreg (b2n c.draining * 2 + s.rfld p off 0 0)
  else if off = 0x11C then nreg (b2n c.init * 2 ^ 31 + b2n c.rinv * 2 ^ 30 + b2n c.lfill * 2 ^ 29 + s.rfld p off 28 27 * 2 ^ 27)
  else if off = 0x124 then nreg c.lfsr.toNat
  else if 0x130 ≤ off ∧ off < 0x140 then putBit (s.reg p off) 30 (tget {} c.sd ((off - 0x130) / 4)).conf
  else if 0x140 ≤ off ∧ off < 0x150 then BitVec.ofInt 32 (tget ({} : Stride) c.sd ((off - 0x140) / 4)).step
  else s.reg p off

def State.rpVal (s : State) (p off : Nat) : Reg :=
  let v := s.reg (rpPage p) off
  if off = 0x104 then setFld (putBit v 19 s.fuses.idecap) 31 29 (s.port p).ls.code
  else if off = 0x128 then 0
  else v

def State.carVal (s : State) (h off : Nat) : Reg :=
  if 0x110 ≤ off ∧ off < 0x120 then
    let k := (off - 0x110) / 4
    let busy := (List.range 9).any fun i => (s.job (jkey h k i)).active
    setFld (putBit (s.reg (carPage h) off) 31 busy) 27 24 (tget 0 s.carLast (4 * h + k))
  else s.reg (carPage h) off

def PState.code : PState → Nat
  | .stopped => 0 | .running => 1 | .stalled => 2 | .stopping => 3 | .faulted => 4 | .safe => 5

def State.pacerVal (s : State) (n off : Nat) : Reg :=
  let x := s.pacer n
  if off = 0x100 then 0
  else if off = 0x104 then
    nreg (x.st.code * 2 ^ 29 + x.fcode.toNat * 2 ^ 26 + x.fpin.toNat * 2 ^ 20 + b2n x.stale * 2 ^ 19 + b2n x.test * 2 ^ 18 + x.pc.toNat * 2 ^ 12 + x.bits)
  else if off = 0x118 then x.sr
  else if off = 0x11C then nreg (x.inq.length * 2 ^ 24 + x.outq.length * 2 ^ 16 + x.tq.length)
  else if off = 0x134 then nreg (tget 0 x.pm (s.rfld (pacPage n) 0x130 5 0)).toNat
  else s.reg (pacPage n) off

def State.extVal (s : State) (h off : Nat) : Reg :=
  if off < 0x110 then
    let b := (off - 0x100) / 4
    let n := (tget 0 s.fuses.extPorts (4 * h + b)).toNat
    putBit (setFld (s.reg (0x90 + h) off) 7 0 n) 31 (s.extAttached h b)
  else
    let b := (off - 0x110) / 0x20; let k := (off - 0x110) % 0x20 / 4
    nreg ((List.range 16).foldl (fun a j => a + (tget 0 s.fuses.extKind ((4 * h + b) * 128 + 16 * k + j)).toNat * 4 ^ j) 0)

/-- The value of a unit register; 0 where the page defines none (R22). A _LO register reads its committed value, never a held half (DESIGN CHOICE,
notes/assumptions/59.md). `cust` is the world of the reader. -/
def State.unitVal (s : State) (cust : Bool) (t : PType) (inst p off : Nat) : Reg :=
  if (fieldsAt t off).isNone then 0
  else
    match t with
    | .cpx => s.cpxVal off
    | .mode => s.modeVal off
    | .pwr => s.pwrVal off
    | .calf => s.calfVal off
    | .calu => s.reg 4 off
    | .life => s.lifeVal
    | .img => s.imgVal off
    | .arb => s.arbVal off
    | .arbl => s.arblVal off
    | .ref => s.refVal off
    | .scs => s.scsVal cust off
    | .hstr => s.hstrVal off
    | .rsch => s.rschVal off
    | .lap => if off = 0x100 then half s.lap.toNat false else if off = 0x104 then half s.lap.toNat true else s.reg 0xD off
    | .pcrg => s.pcrgVal off
    | .heat => s.heatVal inst off
    | .str => 0
    | .spad => s.spadVal inst off
    | .hcache => s.hcacheVal inst off
    | .cstore => if 0x124 ≤ off && !cust then 0 else s.csVal inst (off - 0x100)
    | .rp => s.rpVal inst off
    | .car => s.carVal inst off
    | .pacer => s.pacerVal inst off
    | .ext => s.extVal inst off
    | .run | .arbrun => s.reg p off

/-! Reads with their side effects (R18, R353, R445, R479) -/

/-- The _HI register that a read of a _LO register latches for its requester. -/
def latchOf (t : PType) (off : Nat) : Option Nat :=
  match t with
  | .lap => if off = 0x100 then some 0x104 else none
  | .scs => if off = 0x118 ∨ off = 0x120 ∨ off = 0x128 ∨ off = 0x130 ∨ off = 0x140 then some (off + 4) else none
  | _ => none
/-- A _HI register that reads the requester's latch: reset 0 where it follows hardware. -/
def latched (t : PType) (off : Nat) : Bool :=
  match t with
  | .lap => off = 0x104
  | .scs => off = 0x11C || off = 0x124 || off = 0x12C
  | _ => false
def latchKey (o : Origin) (p off : Nat) : Nat := 524288 * o.latchKey + regKey p off

/-- The bits of a register that a read clears. -/
def rcMask (fs : List Fld) : Reg := fs.foldl (fun (m : Reg) f => if f.acc = .rc then setFld m f.hi f.lo (2 ^ (f.hi - f.lo + 1) - 1) else m) 0

/-- What a read of a unit register changes. -/
def State.readEffect (s : State) (o : Origin) (t : PType) (p off : Nat) (fs : List Fld) (v : State → Nat → Reg) : State :=
  let s := match latchOf t off with
    | some hi => { s with latch := tset 0 s.latch (latchKey o p hi) (v s hi) }
    | none => s
  match t with
  | .arb => if off = 0x124 then s.updArb fun a => { a with res := a.res.drop 1 } else s
  | .ref =>
    if off = 0x118 ∧ (classRow (s.rfld 9 0x10C 5 0)).isSome then s.updCls (s.rfld 9 0x10C 5 0) fun x => { x with rd := true }
    else if off = 0x108 then s.setReg 9 0x108 0 else s
  | _ => if rcMask fs = 0 then s else s.setReg p off (s.reg p off &&& ~~~(rcMask fs))

/-- A read of a page by an origin: its data and the state after it (R7, R22, R479). -/
def State.pageRead (s : State) (o : Origin) (p off : Nat) : Reg × State :=
  match pageType s.fuses.variant p with
  | none => (0, s)
  | some (t, inst) =>
    if off < 0x100 then (s.headVal t inst p off, s)
    else
      match unalias off with
      | none => (0, s)
      | some (u, _) =>
        if t.custody && !o.cust then (0, s)
        else
          match fieldsAt t u with
          | none => (0, s)
          | some fs =>
            let v (s : State) (off : Nat) : Reg := s.unitVal o.cust t inst p off
            let d := if latched t u then tget 0 s.latch (latchKey o p u) else v s u
            (d, s.readEffect o t p u fs v)

end Sys2Proof.Machine
end

