-- ==== Sys2Proof/Machine/RegWrite.lean ====
section
/-! DEFINITION. Writes of the register pages: what a write leaves in the fields, when it is rejected or answered BUSY, its record, and what it does (R17 to R24, R209, R289, R428, R429, R473 to R478 and the chapters' register rules). -/
namespace Sys2Proof.Machine

/-! Held _LO halves (R17) -/

/-- _LO registers whose write is held until the _HI register is written. -/
def isLo (t : PType) (u : Nat) : Bool :=
  match t with
  | .pwr => u == 0x180
  | .img | .hstr | .lap => u == 0x108
  | .rsch => u == 0x108 || u == 0x120
  | .arb => u == 0x12C
  | .scs => u == 0x140
  | .hcache => u == 0x108 || u == 0x110
  | .rp => u == 0x130
  | _ => false
def isHi (t : PType) (u : Nat) : Bool := isLo t (u - 4) && decide (4 ≤ u)

/-- Put an entry in a table that may hold any value. -/
def hput (l : Table Reg) (k : Nat) (v : Reg) : Table Reg :=
  (l.filter fun e => decide (e.1 < k)) ++ [(k, v)] ++ l.filter fun e => decide (k < e.1)
/-- The held half of a _LO register, or its committed value. -/
def State.loHalf (s : State) (p u : Nat) (cur : Reg) : Reg := ((s.lohold.find? fun e => e.1 == regKey p u).map (·.2)).getD cur
def State.holdLo (s : State) (p u : Nat) (v : Reg) : State := { s with lohold := hput s.lohold (regKey p u) v }
def State.dropLo (s : State) (p u : Nat) : State := { s with lohold := s.lohold.filter fun e => e.1 != regKey p u }

/-! Field values (R18, R20 to R22) -/

/-- The committed value whose fields a write changes: the ring itself for RCTL, else what the register reads. -/
def State.curVal (s : State) (t : PType) (inst p u : Nat) : Reg :=
  if t == .rsch && (u == 0x108 || u == 0x10C) then half (s.ringWord (s.rfld 0xC 0x100 14 0) 0).toNat (u == 0x10C)
  else s.unitVal true t inst p u

/-- Ones in the low 8 bits. -/
def ones8 (x : Nat) : Nat := ((List.range 8).filter fun k => x.testBit k).length

/-- A value that is a reserved encoding of a field (R20). -/
def State.fieldBad (s : State) (t : PType) (inst u : Nat) (f : Fld) (x : Nat) : Bool :=
  match t with
  | .calf => f.lo == 0 && decide (6 ≤ x)
  | .img => u == 0x114 && decide (x < s.rfld 6 0x114 31 16)
  | .arb => (u == 0x118 && x % 2 ^ s.nHeats == 0) || (u == 0x12C && ((f.lo == 25 && x == 3) || (f.lo == 16 && decide (9 ≤ x))))
  | .arbl => u == 0x100 && ((f.lo == 12 && x == 3) || (f.lo == 0 && x == 0))
  | .ref =>
    let c := s.rfld 9 0x10C 5 0
    if u = 0x100 then (f.lo == 16 && !s.heatPresent x) || (f.lo == 0 && x == 0)
    else if u = 0x110 then
      match classRow c with
      | none => false
      | some r => (f.lo == 24 && (x == 0 || (r.fixed && decide (1 < x)))) || (f.lo == 20 && (x == 15 || (r.fixed && decide (x < r.fo))))
          || (decide (f.lo ≤ 5) && r.fixed && r.react.testBit f.lo && x == 0)
    else u == 0x114 && (classRow c).isSome && (x == 0 || decide (16700 < x))
  | .hstr => u == 0x104 && ((f.lo == 8 && (x == 0 || decide (78125 < x))) || (f.lo == 0 && x == 0))
  | .rsch => (u == 0x108 && f.lo == 8 && decide (13 ≤ x)) || ((u == 0x110 || u == 0x114) && x == 0)
  | .pcrg =>
    let k := (u - 0x100) / 4
    ((f.lo == 8 || f.lo == 6 || f.lo == 4) && x == 3) || (f.lo == 11 && x == 1 && k % 2 == 1)
      || (f.lo == 10 && x == 1 && (k % 2 == 1 || !s.fuses.pairCap.getLsbD (k / 2)))
  | .heat => u == 0x204 && f.lo == 8 && decide (9 ≤ x) && !(srcTimer inst (s.reg (0x10 + inst) 0x200).toNat).isSome
      && !srcHand inst (s.reg (0x10 + inst) 0x200).toNat
  | .hcache => (u == 0x104 && decide (6 < ones8 x)) || (u == 0x120 && x == 0)
  | .rp => (u == 0x100 && ((f.lo == 22 && x == 3) || ((f.lo == 19 || f.lo == 16) && decide (6 ≤ x)))) || (u == 0x140 && x != 0 && !s.fuses.idecap)
  | .pacer => (u == 0x138 && (x == 0 || x == 0xFFFFFFFF)) || (u == 0x110 && f.lo == 16 && decide (x ≤ 1)) || (u == 0x128 && f.lo == 0 && !s.heatPresent x)
  | _ => false

/-- Fields that are reserved in combination stay unchanged together (R20, R289, R292, R326); a write of SDk is only ignored where the variant has
no detectors, `full` false (R318). -/
def comboBad (full : Bool) (t : PType) (u : Nat) (v : Reg) : Option (List (Nat × Nat)) :=
  match t with
  | .arbl => if u = 0x104 ∧ temp11 (fld v 10 0) < temp11 (fld v 26 16) then some [(26, 16), (10, 0)] else none
  | .arb => if u = 0x12C ∧ fld v 26 25 ≠ 0 ∧ fld v 15 0 = 0 then some [(26, 25), (15, 0)] else none
  | .hcache =>
    if full ∧ 0x130 ≤ u ∧ u < 0x140 ∧ (if v.getLsbD 29 then 4 ≤ fld v 27 24 else 9 ≤ fld v 27 24) then some [(29, 29), (27, 24)] else none
  | _ => none

/-- The injection a write of INJCTL asks for is one that R419 admits. -/
def State.injectOk (s : State) (d : Reg) : Bool :=
  let unit := fld d 24 16; let src := fld d 8 0
  let det := s.reg 9 0x304
  match fld d 30 28 with
  | 0 => (pageType s.fuses.variant unit).isSome && srcListed src
  | 1 | 2 => decide (0x30 ≤ unit ∧ unit < 0x40) && s.heatPresent (unit - 0x30) && decide (fld det 22 3 * 8 < 0x600000)
  | 3 | 4 => match pageType s.fuses.variant unit with
    | some (.run, _) | some (.arbrun, _) => true
    | _ => false
  | _ => false

/-- Write-only and W1S fields that hold a reserved encoding in a direct write. -/
def State.actBad (s : State) (t : PType) (u : Nat) (d : Reg) : Bool :=
  match t with
  | .mode => u == 0x104 && !(fld d 2 0 == 0 || fld d 2 0 == 2 || fld d 2 0 == 5)
  | .arb => u == 0x120 && !(fld d 31 30 == 1 || fld d 31 30 == 2)
  | .rp => u == 0x128 && !(fld d 1 0 == 1 || fld d 1 0 == 2)
  | .ref => u == 0x300 && d.getLsbD 31 && !s.injectOk d
  | _ => false

/-- The RW fields a write leaves, `base` being what they hold, and whether some field was a reserved encoding (R20 to R22). -/
def State.compose (s : State) (t : PType) (inst u : Nat) (fs : List Fld) (base d : Reg) (mode : Nat) : Reg × Bool :=
  let step (a : Reg × Bool) (f : Fld) : Reg × Bool :=
    if f.acc = .rw ∧ (mode = 0 ∨ (f.hi = f.lo ∧ d.getLsbD f.lo = true)) then
      let x := if mode = 0 then fld d f.hi f.lo else if mode = 1 then 1 else 0
      if s.fieldBad t inst u f x then (a.1, true) else (setFld a.1 f.hi f.lo x, a.2)
    else a
  let r := fs.foldl step (base, false)
  match comboBad s.fuses.variant.full t u r.1 with
  | none => r
  | some l => (l.foldl (fun (v : Reg) e => setFld v e.1 e.2 (fld base e.1 e.2)) r.1, true)

/-! Rejection (R19, R23, R473, R474, R476) -/

/-- A class S field would change. -/
def changesS (fs : List Fld) (a b : Reg) : Bool := fs.any fun f => f.cls == .s && fld a f.hi f.lo != fld b f.hi f.lo

/-- The reason a write of a unit register is rejected with; 0 where it is not; of several the first of MODE, those of MODE.REQ and CLEAR, WORLD,
RUNNING, STATE (DESIGN CHOICE, notes/assumptions/57.md). `v` is what its RW fields would hold, `m` the alias. -/
def State.writeBad (s : State) (o : Origin) (t : PType) (inst p u m : Nat) (fs : List Fld) (v d : Reg) : Nat :=
  let direct := decide (m = 0)
  let cur := s.curVal t inst p u
  let lo := s.loHalf p (u - 4) (s.curVal t inst p (u - 4))
  let svc := !o.cust
  let world : Bool :=
    svc && match t with
    | .run | .arbrun => u == 0x114
    | .rp => u == 0x140
    | .ext => decide (u < 0x110) && (cur.getLsbD 30 || v.getLsbD 30)
    | .arb => (u == 0x12C && (cur.getLsbD 24 || v.getLsbD 24)) || (u == 0x130 && (lo.getLsbD 24 || (s.curVal t inst p 0x12C).getLsbD 24))
    | .rsch => (u == 0x108 && (cur.getLsbD 4 || v.getLsbD 4)) || (u == 0x10C && (lo.getLsbD 4 || (s.curVal t inst p 0x108).getLsbD 4))
    | _ => false
  let mode : Bool := s.mode != .factory && match t with
    | .hcache => u == 0x120
    | .lap => u == 0x108 || u == 0x10C
    | .ref => decide (0x300 ≤ u)
    | _ => false
  let running : Bool := !s.pageStopped t inst p &&
    ((t == .pacer && (u == 0x130 || u == 0x134)) || changesS fs cur v
      || (isHi t u && changesS ((fieldsAt t (u - 4)).getD []) (s.curVal t inst p (u - 4)) lo))
  let state : Bool := match t with
    | .img => u == 0x100 && direct && d.getLsbD 0 && s.imgState != 0
    | .arb => (u == 0x104 && direct && d.getLsbD 0 && s.arbRun.run != .running)
        || (u == 0x120 && direct && (s.arb.fb || decide (16 ≤ s.arb.cmds.length)))
        || (u == 0x130 && s.poolBad (s.rfld 7 0x128 5 0) (lo, v))
    | .scs => u == 0x100 && direct && d.getLsbD 31 && s.scs.clearing
    | .hstr => (u == 0x108 || u == 0x10C) && (s.hqueue (s.rfld 0xB 0x100 5 0)).en
    | .rsch =>
      let q := s.rfld 0xC 0x100 14 0
      let w := s.curVal t inst p 0x108
      u == 0x10C && (s.ring q).en && (v != cur || putBit lo 3 false != putBit w 3 false)
    | .hcache =>
      let c := s.cache inst
      (u == 0x100 && c.draining && m != 2 && d.getLsbD 0)
        || (u == 0x10C && (c.lfill || c.draining || s.rfld p 0x100 0 0 == 0))
        || (u == 0x114 && (c.rinv || c.draining || s.rfld p 0x100 0 0 == 0))
    | .rp => (u == 0x100 && direct && d.getLsbD 30 && s.releaseBad inst)
        || ((u == 0x120 || u == 0x124 || u == 0x128) && s.cfgBusy inst)
    | .car => u == 0x100 && decide (0x36E000 < fld v 22 12 * 4096 + 0x13000)
    | .pacer => u == 0x100 && direct && ((fld d 1 0 == 1 && s.pacStartBad inst) || (fld d 1 0 == 3 && (s.pacer inst).st != .stopped))
    | _ => false
  if mode then 5
  else if t == .mode && u == 0x104 && direct && !s.actBad t u d then s.modeReqBad (fld d 2 0) o.cust
  else if t == .scs && u == 0x100 && direct && d.getLsbD 31 && !clearFrom o then 2
  else if world then 2
  else if running then 6
  else if state then 3
  else 0

/-! What an accepted write does -/

/-- Store the RW fields of a register. -/
def State.storeRw (s : State) (p u : Nat) (fs : List Fld) (v : Reg) : State :=
  s.setReg p u (fs.foldl (fun (a : Reg) f => if f.acc = .rw then setFld a f.hi f.lo (fld v f.hi f.lo) else a) (s.reg p u))

/-- SCFG, SPENDk and SMASKk of a slice (R336, R342, R346, R347). -/
def State.writeSliceReg (s : State) (sl u : Nat) (fs : List Fld) (v d : Reg) (direct : Bool) : State :=
  let p := slicePage sl
  if u = 0x204 then
    let src := (s.reg p 0x200).toNat
    if srcReserved sl src then s
    else
      let s := s.updSl sl fun x => { x with prio := tset 0 x.prio src (fld v 3 0) }
      if sl = 16 || srcHand sl src || (srcTimer sl src).isSome then s
      else s.updSl sl fun x => { x with target := tset 0 x.target src (fld v 11 8) }
  else if 0x220 ≤ u ∧ u < 0x240 then
    if direct then
      s.each ((List.range 32).filter fun b => d.getLsbD b && s.srcOk sl (8 * (u - 0x220) + b)) fun s b => s.softEvent sl (8 * (u - 0x220) + b)
    else s
  else if 0x260 ≤ u ∧ u < 0x280 then s.setReg p u (v &&& bits32 fun b => !srcReserved sl (8 * (u - 0x260) + b))
  else s.storeRw p u fs v

/-- A write of a slice register; a source that it leaves undeliverable has to be presented again (R331, R338). -/
def State.writeSlice (s : State) (sl u : Nat) (fs : List Fld) (v d : Reg) (direct : Bool) : State :=
  (s.writeSliceReg sl u fs v d direct).settleSeen sl

/-- RCTL_HI commits word 0 of the selected ring (R209, R235). -/
def State.commitRing (s : State) (lo hi : Reg) : State :=
  let q := s.rfld 0xC 0x100 14 0
  let x := s.ring q
  if x.en then
    if lo.getLsbD 3 then s else (s.updRing q fun x => { x with clrEn := true }).disableRing q
  else
    let set (x : Ring) : Ring :=
      { x with burst := BitVec.ofNat 12 (fld hi 31 20), base := BitVec.ofNat 40 (fld lo 31 12 + fld hi 19 0 * 2 ^ 20), lsz := BitVec.ofNat 4 (fld lo 11 8),
               cls := BitVec.ofNat 3 (fld lo 7 5), world := lo.getLsbD 4, en := lo.getLsbD 3 }
    if lo.getLsbD 3 then
      (s.modRing q fun x => { set x with prod := 0, cons := 0, rung := 0, taken := 0, stale := 0, ovf := 0, err := false, placed := false,
                                         clrEn := false, told := false }).pendChanged
    else s.modRing q set

/-- An injection (R419). -/
def State.inject (s : State) (d : Reg) : State :=
  let unit := fld d 24 16
  let det := s.reg 9 0x304
  match fld d 30 28 with
  | 0 =>
    s.updRef fun f => { f with arriving := f.arriving ++
      [{ src := fld d 8 0, reporter := 9, suspect := unit, elem := fld det 15 0, live := false, detail := 0, stamp := 0, held := true }] }
  | 1 => s.updUp (unit - 0x30) fun u => { u with inj := (u.inj.filter fun e => e.1 != fld det 22 3) ++ [(fld det 22 3, .single)] }
  | 2 => s.updUp (unit - 0x30) fun u => { u with inj := (u.inj.filter fun e => e.1 != fld det 22 3) ++ [(fld det 22 3, .double)] }
  | 3 => s.updR (ridOfPage unit) fun x => { x with injPar := true }
  | _ => s.updR (ridOfPage unit) fun x => { x with injRes := true }

/-- RP.CTL (R378, R380, R381, R396). -/
def State.writeRpCtl (s : State) (p : Nat) (fs : List Fld) (v d : Reg) (direct : Bool) : State :=
  let s := { s.storeRw (rpPage p) 0x100 fs v with perst := putBit s.perst p (v.getLsbD 29) }
  let s := s.when (direct && d.getLsbD 31) fun s => s.containPort p 1
  let s := s.when (direct && d.getLsbD 30) fun s => s.releasePort p
  s.syncPort p

/-- CAR.CTL.en: a bit set again ends the stop of its carrier (R395, R401, R416). -/
def State.writeCarEn (s : State) (h : Nat) (v : Reg) : State :=
  let s := s.setRfld (carPage h) 0x104 3 0 (fld v 3 0)
  (s.each ((List.range 4).filter fun k => v.getLsbD k) fun s k => { s with carFen := tset false s.carFen (4 * h + k) false }).refreshMode

/-- HCACHE.CTL.en (R320). -/
def State.writeCacheEn (s : State) (h : Nat) (v : Reg) : State :=
  let on := s.rfld (cpage h) 0x100 0 0 == 1
  if v.getLsbD 0 then s.setRfld (cpage h) 0x100 0 0 1
  else if on && !(s.cache h).draining then s.cacheClean h
  else s

/-- The address a committed pair of HCACHE names, as a line (R325). -/
def lineOfPair (lo hi : Reg) : Nat := fld lo 31 8 + fld hi 19 0 * 2 ^ 24

/-- The class of the Referee that a write concerns. -/
def State.writeRef (s : State) (u : Nat) (fs : List Fld) (v d : Reg) (direct bad : Bool) : State :=
  let c := s.rfld 9 0x10C 5 0
  if u = 0x110 then (if (classRow c).isSome then s.updCls c fun x => { x with cfg := v } else s)
  else if u = 0x114 then (if (classRow c).isSome then s.updCls c fun x => { x with win := fld v 14 0 } else s)
  else if u = 0x118 then (if direct && (classRow c).isSome then s.clearSev c d else s)
  else if u = 0x300 then
    if bad then s
    else (s.storeRw 9 u fs v).when (direct && d.getLsbD 31) fun s => s.inject d
  else s.storeRw 9 u fs v

/-- HSTR registers (R344, R349, R350). -/
def State.writeHstr (s : State) (u : Nat) (fs : List Fld) (lo v d : Reg) (direct : Bool) : State :=
  let q := s.rfld 0xB 0x100 5 0
  if u = 0x104 then
    s.updQ q fun x =>
      let x := if v.getLsbD 31 && !x.en then { x with acc := 0, due := false, hold := false, seq := 0 } else x
      { x with en := v.getLsbD 31, mask := v.getLsbD 30, ackmode := v.getLsbD 29, tmo := fld v 24 8, cnt := fld v 7 0 }
  else if u = 0x10C then s.updQ q fun x => { x with addr := BitVec.ofNat 48 (fld lo 31 4 + fld v 19 0 * 2 ^ 28) }
  else if u = 0x114 then (if direct then s.qack (fld d 5 0) else s)
  else s.storeRw 0xB u fs v

/-- PACER registers (R365, R367, R376). -/
def State.writePacer (s : State) (n u : Nat) (fs : List Fld) (v d : Reg) (direct : Bool) : State :=
  if u = 0x100 then
    if !direct then s
    else match fld d 1 0 with
      | 1 => s.pacStart n
      | 2 => s.pacStop n
      | 3 => s.pacResume n
      | _ => s
  else if u = 0x134 then
    let a := s.rfld (pacPage n) 0x130 5 0
    (s.updPacer n fun x => { x with pm := tset 0 x.pm a (BitVec.ofNat 24 v.toNat) }).setRfld (pacPage n) 0x130 5 0 (a + 1)
  else s.storeRw (pacPage n) u fs v

/-- The effect of an accepted write, through an alias also where no bit changes (DESIGN CHOICE, notes/assumptions/58.md); `bad` says that an action field held a reserved encoding, `lost` names buffered records a window
fetch finds uncorrectable (R441). -/
def State.writeUnit (s : State) (t : PType) (inst p u : Nat) (fs : List Fld) (v d : Reg) (direct bad : Bool) (lost : List Nat) : State :=
  let lo := s.loHalf p (u - 4) (s.curVal t inst p (u - 4))
  if isLo t u then s.holdLo p u v
  else
    let s := s.when (isHi t u) fun s => s.dropLo p (u - 4)
    let pair (s : State) : State := ((s.storeRw p (u - 4) ((fieldsAt t (u - 4)).getD []) lo).storeRw p u fs v)
    match t with
    | .mode => if u = 0x104 ∧ direct = true ∧ bad = false then s.modeGo (fld d 2 0) else s
    | .pwr => if u = 0x184 then pair s else s.storeRw p u fs v
    | .calu =>
      let s := s.storeRw p u fs v
      if 0x140 ≤ u ∧ u < 0x180 then
        s.each ((List.range 4).map fun j => u - 0x140 + j) fun s k => if (s.pin k).eff.getLsbD 31 then s else s.calPin k
      else s
    | .img =>
      if u = 0x100 then
        let s := s.when (direct && d.getLsbD 1 && s.img.state == 1) fun s => s.updImg fun m => { m with abort := true }
        s.when (direct && d.getLsbD 0) State.imgStart
      else if u = 0x10C then pair s else s.storeRw p u fs v
    | .arb =>
      if 0x200 ≤ u then s.writeSlice 16 u fs v d direct
      else if u = 0x104 then s.when (direct && d.getLsbD 0) fun s => s.updArb fun a => { a with fb := false }
      else if u = 0x108 then (s.storeRw p u fs v).mselCopy (fld v 3 0)
      else if u = 0x118 then s.updRing (s.rfld 7 0x114 14 0) fun x => { x with aff := BitVec.ofNat 16 (fld v 15 0) }
      else if u = 0x120 then
        if !direct || bad then s
        else s.pushCmd { mig := fld d 31 30 == 2, ctag := BitVec.ofNat 8 (fld d 27 20), dest := fld d 19 16, ring := fld d 14 0 }
      else if u = 0x130 then s.setPool (s.rfld 7 0x128 5 0) (lo, v)
      else if u = 0x134 then (s.storeRw p u fs v).setPath (fld v 27 16) (BitVec.ofNat 4 (fld v 3 0))
      else s.storeRw p u fs v
    | .ref => s.writeRef u fs v d direct bad
    | .scs =>
      if u = 0x100 then
        let s := s.when (direct && d.getLsbD 0) State.flushTrigger
        s.when (direct && d.getLsbD 31) State.clearScores
      else if u = 0x104 then s.when (direct && d.getLsbD 31) fun s => s.updScs fun x => { x with nvlost := false }
      else if u = 0x144 then (pair s).windowFetch (lo.toNat + fld v 15 0 * 2 ^ 32) lost
      else s.storeRw p u fs v
    | .hstr => s.writeHstr u fs lo v d direct
    | .rsch =>
      if u = 0x100 then
        let s := s.storeRw p u fs v
        { s with rent := s.rentOf (fld v 14 0) }
      else if u = 0x10C then s.commitRing lo v
      else if u = 0x124 then pair s else s.storeRw p u fs v
    | .lap => if u = 0x10C then { pair s with lap := BitVec.ofNat 64 (lo.toNat + v.toNat * 2 ^ 32) } else s
    | .pcrg =>
      let k := (u - 0x100) / 4
      let s := s.storeRw p u fs v
      if (s.pin k).eff.getLsbD 31 then s else s.applyPin k
    | .heat => if 0x200 ≤ u then s.writeSlice inst u fs v d direct else s.storeRw p u fs v
    | .hcache =>
      if u = 0x100 then s.writeCacheEn inst v
      else if u = 0x10C then (pair s).lockedFill inst (lineOfPair lo v) (fld lo 2 0)
      else if u = 0x114 then (pair s).rangeInv inst (lineOfPair lo v) (s.rfld p 0x118 15 0 + 1)
      else if u = 0x120 then (s.storeRw p u fs v).updCache inst fun c => { c with lfsr := BitVec.ofNat 16 (fld v 15 0) }
      else if 0x130 ≤ u ∧ u < 0x140 then
        if s.fuses.variant.full then (s.storeRw p u fs v).updCache inst fun c => { c with sd := tset {} c.sd ((u - 0x130) / 4) {} } else s
      else s.storeRw p u fs v
    | .rp =>
      if u = 0x100 then s.writeRpCtl inst fs v d direct
      else if u = 0x110 ∨ u = 0x118 then (if direct then s.setReg p u (s.reg p u &&& ~~~d) else s)
      else if u = 0x128 then (if direct && !bad then s.cfgIssue inst (fld d 1 0 == 2) else s)
      else if u = 0x134 then pair s
      else if u = 0x148 then (s.storeRw p u fs v).when (direct && d.getLsbD 31) fun s => s.setRfld p u 30 30 1
      else s.storeRw p u fs v
    | .car => if u = 0x104 then s.writeCarEn inst v else s.storeRw p u fs v
    | .pacer => s.writePacer inst u fs v d direct
    | _ => s.storeRw p u fs v

/-! Acceptance (R24, R32, R428, R429, R476) -/

/-- What became of an access. -/
inductive Done where
  | ok | rejected | busy
  deriving DecidableEq, Repr

/-- PWERR and PWERR_DATA take a write (R476). -/
def State.pwerr (s : State) (o : Origin) (p off reason : Nat) (d : Reg) : State :=
  (s.setReg p 0x10 (nreg (2 ^ 31 + b2n o.cust * 2 ^ 30 + o.code * 2 ^ 28 + reason * 2 ^ 24 + off % 4096))).setReg p 0x14 d

/-- Registers whose writes produce no AUDIT record (R428). -/
def unaudited (t : PType) (u : Nat) : Bool :=
  match t with
  | .rsch | .hstr => u == 0x100
  | .arb => u == 0x108 || u == 0x114 || u == 0x128 || u == 0x200
  | .heat => u == 0x200
  | .ref => u == 0x10C
  | .calf => u == 0x200
  | .cstore => u == 0x120
  | .scs => u == 0x140 || u == 0x144
  | _ => false

/-- A rejected write: PWERR, and no record, also through the TAP (R24, R428, R476, notes/assumptions/26.md). -/
def State.rejectWrite (s : State) (o : Origin) (p off reason : Nat) (d : Reg) : State × Done :=
  (s.pwerr o p off reason d, .rejected)

/-- An accepted write: its record, PSEQ, PWERR for a reserved encoding, and its effect (R20, R24, R428, R429). -/
def State.acceptWrite (s : State) (o : Origin) (p off : Nat) (d : Reg) (rsvd quiet : Bool) (eff : State → State) : State × Done :=
  let rec' := !quiet || rsvd || o == .tap
  if rec' && !s.auditRoom then (s, .busy)
  else
    let s := s.wrapInc p 0x18 31 0
    let s := s.when rec' fun s => s.audit o false rsvd p off d (s.reg p 0x18)
    let s := s.when rsvd fun s => s.pwerr o p off 1 d
    (eff s, .ok)

/-- PCTL (R265, R474): the reason a write is rejected with, 0 where it is not. -/
def State.pctlBad (s : State) (t : PType) (inst p : Nat) (d : Reg) : Nat :=
  match t with
  | .run | .arbrun => if d.getLsbD 0 && s.startBad (ridOfPage p) then 3 else 0
  | .heat => if d.getLsbD 0 && s.heatGoBad inst then 3 else 0
  | _ => 0
/-- What PCTL does. -/
def State.pctlGo (s : State) (t : PType) (inst p : Nat) (d : Reg) : State :=
  match t with
  | .run | .arbrun =>
    let r := ridOfPage p
    (if d.getLsbD 0 then s.runnerGo r else s.stopRunner r).when (d.getLsbD 1) fun s => s.runnerFence r
  | .heat => (s.when (d.getLsbD 0) fun s => s.heatGo inst).when (d.getLsbD 1) fun s => s.heatFence inst
  | .rp => ((s.setRfld p 8 0 0 (fld d 0 0)).syncPort inst).when (d.getLsbD 1) fun s => s.portFence inst
  | .car => s.setRfld p 8 0 0 (fld d 0 0)
  | _ => s

/-- A write of a page by an origin (R7, R22 to R24, R473 to R478). -/
def State.pageWrite (s : State) (o : Origin) (p off : Nat) (d : Reg) (lost : List Nat := []) : State × Done :=
  match pageType s.fuses.variant p with
  | none => (s, .ok)
  | some (t, inst) =>
    if t.custody && !o.cust then s.rejectWrite o p off 2 d
    else if off = 8 then
      match s.pctlBad t inst p d with
      | 0 => s.acceptWrite o p off d (t == .heat && !d.getLsbD 0) false fun s => s.pctlGo t inst p d
      | r => s.rejectWrite o p off r d
    else if off ≤ 0x20 then s.acceptWrite o p off d false false id
    else
      match unalias off with
      | none => s.rejectWrite o p off 7 d
      | some (u, m) =>
        match fieldsAt t u with
        | none => s.rejectWrite o p off 7 d
        | some fs =>
          let cur := s.curVal t inst p u
          let base := if isLo t u then s.loHalf p u cur else cur
          let (v, rsvd) := s.compose t inst u fs base d m
          let bad := m == 0 && s.actBad t u d
          let v := if bad && t == .ref then base else v
          match s.writeBad o t inst p u m fs v d with
          | 0 => s.acceptWrite o p off d (rsvd || bad) (unaudited t u) fun s => s.writeUnit t inst p u fs v d (m == 0) bad lost
          | r => s.rejectWrite o p off r d

end Sys2Proof.Machine
end

