-- ==== Sys2Proof/Machine/Window.lean ====
section
/-! DEFINITION. The complex window: pages, doorbells, scratchpads and reserved ranges, and the test access port (R32, R33, R40 to R42, R210, R240, R302, R307, R456, R458). -/
namespace Sys2Proof.Machine

/-- An answer leaves to a requester. -/
def State.answer (s : State) (o : Origin) (r : Resp) (d : Nat) : State := s.put (.resp o r (BitVec.ofNat 2048 d))

/-- While clocks are stopped the always-on responder answers BUSY, and the request is a wake event (R458). -/
def State.asleep (s : State) (o : Origin) : Option State :=
  if s.mode = .quiesce then some ((s.answer o .busy 0).wakeUp) else none

/-- Whether an access is aligned to its size. -/
def alignedTo (off size : Nat) : Bool := decide (size ≠ 0) && off % size == 0

/-- A page access of a wrong size or alignment (R41, R476). -/
def State.sizeErr (s : State) (o : Origin) (write : Bool) (off : Nat) (d : LineData) : State :=
  let p := off / 4096
  let s := s.when (write && (pageType s.fuses.variant p).isSome) fun s => s.pwerr o p (off % 4096) 4 (d.setWidth 32)
  s.answer o .ur 0

/-- An access to a reserved range (R40). -/
def State.reservedRange (s : State) (o : Origin) (link off : Nat) : State := (s.report 0x10 1 0 0 link off).answer o .ok 0

/-- A doorbell (R41, R210): layout, then ring. -/
def State.ringBell (s : State) (off : Nat) (w : Word) : State :=
  let q := (off - 0x2000000) / 8
  if fld w 63 31 ≠ 0 ∨ fld w 30 16 ≠ q then s.satInc 0xC 0x118 15 0 else s.doorbell q (BitVec.ofNat 16 (fld w 15 0))

/-- Heat and address of an offset in the scratchpad range (R40). -/
def spadHeat (off : Nat) : Nat := (off - 0x8000000) / 0x600000
def spadAddr (off : Nat) : Nat := (off - 0x8000000) % 0x600000

/-- An access to the scratchpad range: its response and data (R42, R240, R302, R303, R307); `who` is the writer, `refused` a collision. -/
def State.spadAccess (s : State) (cust : Bool) (link who : Nat) (write : Bool) (off size : Nat) (d : LineData) (refused : Bool) :
    State × Resp × Nat :=
  let h := spadHeat off; let a := spadAddr off
  if !(size == 8 || size == 16 || size == 32 || size == 64 || size == 256) || !alignedTo off size then (s, .ur, 0)
  else if !s.heatPresent h then (s, .ok, 0)
  else if inSecure h a && !cust then (s.report 0x10 2 0 0 link off, .ok, 0)
  else if inSecure h a && (s.up h).wipe then (s, .busy, 0)
  else if refused then (s.collide h, .busy, 0)
  else if write then (s.userWrite h a (leBytes size d.toNat) who, .ok, 0)
  else
    let (s, bs, bad) := s.memRead h a size
    if bad then (s, .err, 0) else (s, .ok, leNat bs)

/-- A host access to the scratchpad range, with its answer (R42). -/
def State.spadWindow (s : State) (o : Origin) (link : Nat) (write : Bool) (off size : Nat) (d : LineData) (refused : Bool) : State :=
  let (s, r, v) := s.spadAccess o.cust link 0 write off size d refused
  s.answer o r v

/-- A host read of the window (R40 to R42). -/
def State.windowRd (s : State) (link : Nat) (cust : Bool) (off size : Nat) : State :=
  let o := Origin.link link cust
  match s.asleep o with
  | some s => s
  | none =>
    if off < 0x200000 then
      if size = 4 ∧ off % 4 = 0 then
        let (v, s) := s.pageRead o (off / 4096) (off % 4096)
        s.answer o .ok v.toNat
      else s.sizeErr o false off 0
    else if 0x2000000 ≤ off ∧ off < 0x2040000 then s.answer o .ur 0
    else if 0x8000000 ≤ off ∧ off < 0xE000000 then s.spadWindow o link false off size 0 false
    else if off < 0x10000000 then s.reservedRange o link off
    else s.answer o .ur 0

/-- A host write of the window (R40 to R42). -/
def State.windowWr (s : State) (link : Nat) (cust : Bool) (off size : Nat) (d : LineData) : State :=
  let o := Origin.link link cust
  match s.asleep o with
  | some s => s
  | none =>
    if off < 0x200000 then
      if size = 4 ∧ off % 4 = 0 then
        match s.pageWrite o (off / 4096) (off % 4096) (d.setWidth 32) with
        | (s, .busy) => s.answer o .busy 0
        | (s, _) => s.answer o .ok 0
      else s.sizeErr o true off d
    else if 0x2000000 ≤ off ∧ off < 0x2040000 then
      if size = 8 ∧ off % 8 = 0 then (s.ringBell off (d.setWidth 64)).answer o .ok 0 else s.answer o .ur 0
    else if 0x8000000 ≤ off ∧ off < 0xE000000 then s.spadWindow o link true off size d false
    else if off < 0x10000000 then s.reservedRange o link off
    else s.answer o .ur 0

/-- A TAP write of a page: in a lifecycle state that does not admit it BYPASS is loaded; one that must wait changes nothing (R32, R428). Where
the write is rejected PWERR shows it, as for every origin (R24). -/
def State.tapWrite (s : State) (p off : Nat) (d : Reg) (lost : List Nat := []) : State :=
  if !(s.life == 0 || s.life == 3) then s.put (.tap false 0)
  else match s.pageWrite .tap p off d lost with
    | (_, .busy) => s
    | (s', _) => s'.put (.tap true 0)

/-- A TAP instruction (R32, R428): other instructions load BYPASS. -/
def State.tap (s : State) (op : TapOp) : State :=
  match op with
  | .access true p off d => s.tapWrite p off d
  | .access false p off _ =>
    if !(s.life == 0 || s.life == 3) then s.put (.tap false 0)
    else if (pageType s.fuses.variant p).isSome && !s.auditRoom then s
    else
      let (v, s) := s.pageRead .tap p off
      let s := s.when (pageType s.fuses.variant p).isSome fun s => s.audit .tap true false p off v (s.reg p 0x18)
      s.put (.tap true v)
  | .bypass | .idcode => s.put (.tap true 0)
  | .other => s.put (.tap false 0)

/-- A page write by a command: a host link gets its answer (R429), a runner or the TAP that must wait changes nothing. -/
def State.regWrite (s : State) (o : Origin) (p off : Nat) (d : Reg) (lost : List Nat := []) : State :=
  match o with
  | .link _ _ =>
    match s.asleep o with
    | some s => s
    | none =>
      match s.pageWrite o p off d lost with
      | (s, .busy) => s.answer o .busy 0
      | (s, _) => s.answer o .ok 0
  | .tap => if s.mode = .quiesce then s else s.tapWrite p off d lost
  | .runner _ _ _ =>
    if s.mode = .quiesce then s
    else match s.pageWrite o p off d lost with
      | (_, .busy) => s
      | (s', _) => s'

/-- A page read by a command. -/
def State.regRead (s : State) (o : Origin) (p off : Nat) : State :=
  match o with
  | .tap => s.tap (.access false p off 0)
  | _ =>
    match s.asleep o with
    | some s => s
    | none =>
      let (v, s) := s.pageRead o p off
      s.answer o .ok v.toNat

end Sys2Proof.Machine
end

