-- ==== Sys2Proof/Machine/Units.lean ====
section
/-! DEFINITION. The triggers of a runner's units, flow triggers apart: the faults each meets, when a unit cannot accept it, and what it starts (R83 to R122, R136, R146, R271, R272). -/
namespace Sys2Proof.Machine

/-! Ports of the units (R77, R83 to R116) -/

def aluBase (one : Bool) : Nat := if one then 0xA0 else 0x80
def aluUnit (one : Bool) : FUnit := if one then .alu1 else .alu0
def aluOps : List AluOp := [.add, .sub, .rsub, .band, .bor, .bxor, .andn, .neg, .abs, .min, .max, .minu, .maxu, .pop, .clz, .ctz]
def shfOps : List ShfOp := [.shl, .shr, .sar, .rol, .ror, .ext, .exts, .dep, .bswap]
def cmpOps : List CmpOp := [.eq, .ne, .lt, .le, .gt, .ge, .ltu, .leu, .gtu, .geu, .tst, .tstz]
def lsuBase (one : Bool) : Nat := if one then 0x140 else 0x120
def lsuUnit (one : Bool) : FUnit := if one then .lsu1 else .lsu0

/-- Triggers of MUL, HAU, STR, ATM, RING, SIG, TIM, BAT, PCR and PRD, and the return-stack triggers of SEQ. -/
inductive MulOp where
  | mul | mulu | mac | mac2 | div | divu
  deriving DecidableEq, Repr
inductive HauOp where
  | ld | ld32 | ldnc | st | st32 | stnc | cpy | pref | fence
  deriving DecidableEq, Repr
inductive AtmOp where
  | tas | lr | sc | clr
  deriving DecidableEq, Repr
inductive RsOp where
  | push | pop | clr | rd
  deriving DecidableEq, Repr
inductive RingOp where
  | pop | adv | rel | stat
  deriving DecidableEq, Repr
inductive SigOp where
  | claim | eoi | pend | hmsg
  deriving DecidableEq, Repr
inductive TimOp where
  | snap | arm0 | arm1 | dis | wdog | wait
  deriving DecidableEq, Repr
inductive BatOp where
  | pass | get | free
  deriving DecidableEq, Repr
inductive PrdOp where
  | flush | bar | snap | clrc
  deriving DecidableEq, Repr

/-- A trigger that is no flow trigger. -/
inductive Trig where
  | alu (one : Bool) (op : AluOp)
  | shf (op : ShfOp)
  | mul (op : MulOp)
  | cmp (op : CmpOp)
  | load (one : Bool) (size : Nat)
  | store (one : Bool) (size : Nat)
  | sync (one : Bool)
  | hau (op : HauOp)
  | str (op : StrKind)
  | atm (op : AtmOp)
  | rs (op : RsOp)
  | ring (op : RingOp)
  | sig (op : SigOp)
  | tim (op : TimOp)
  | bat (op : BatOp)
  | pcr (pull : Bool)
  | prd (op : PrdOp)
  | ext (port : Nat)
  deriving DecidableEq, Repr

/-- The trigger at a port. -/
def trigOf (p : Nat) : Option Trig :=
  let o := p % 32
  if p < 0x80 then none
  else if p < 0xC0 then (aluOps[o - 8]?).map (Trig.alu (decide (0xA0 ≤ p)))
  else if p < 0xE0 then (shfOps[o - 8]?).map Trig.shf
  else if p < 0x100 then ([MulOp.mul, .mulu, .mac, .mac2, .div, .divu][o - 8]?).map Trig.mul
  else if p < 0x120 then (cmpOps[o - 8]?).map Trig.cmp
  else if p < 0x160 then
    let one := decide (0x140 ≤ p)
    if o < 0xC then some (.load one (8 / 2 ^ (o - 8)))
    else if o < 0x14 then some (.store one (8 / 2 ^ (o - 0x10)))
    else some (.sync one)
  else if p < 0x180 then
    (if o = 0x18 then some (.hau .fence)
     else if o < 0xB then ([HauOp.ld, .ld32, .ldnc][o - 8]?).map Trig.hau
     else ([HauOp.st, .st32, .stnc, .cpy, .pref][o - 0x10]?).map Trig.hau)
  else if p < 0x1A0 then ([StrKind.copy, .fill, .cmp, .scan][o - 8]?).map Trig.str
  else if p < 0x1C0 then ([AtmOp.tas, .lr, .sc, .clr][o - 8]?).map Trig.atm
  else if p < 0x1E0 then (if o < 0xD then none else ([RsOp.push, .pop, .clr, .rd][o - 0xD]?).map Trig.rs)
  else if p < 0x200 then ([RingOp.pop, .adv, .rel, .stat][o - 8]?).map Trig.ring
  else if p < 0x220 then ([SigOp.claim, .eoi, .pend, .hmsg][o - 8]?).map Trig.sig
  else if p < 0x240 then ([TimOp.snap, .arm0, .arm1, .dis, .wdog, .wait][o - 8]?).map Trig.tim
  else if p < 0x260 then ([BatOp.pass, .get, .free][o - 8]?).map Trig.bat
  else if p < 0x280 then some (.pcr (o == 9))
  else if p < 0x2A0 then ([PrdOp.flush, .bar, .snap, .clrc][o - 8]?).map Trig.prd
  else if 0x600 ≤ p then some (.ext p)
  else none

/-! Memory accesses of a runner (R67, R93 to R95, R170, R271, R303) -/

/-- The address checks of R93, lowest code first. -/
def State.addrFaults (s : State) (r : Rid) (a size : Nat) : List (Nat × Word) :=
  let d := BitVec.ofNat 64 a
  (if inSecure r.home a && !(s.runner r).cust then [(2, d)] else [])
  ++ (if memLen r.home ≤ a then [(9, d)] else []) ++ (if a % size ≠ 0 then [(0xA, d)] else [])

/-- A request to the secure part waits while it is wiped (R307). -/
def State.wipeWaits (s : State) (r : Rid) (a : Nat) : Bool := inSecure r.home a && (s.up r.home).wipe

/-- Buffered writes of a runner, oldest first: stores older than the frame, the frame, younger stores (R67, R170). -/
def Runner.writes (x : Runner) : List StoreEnt :=
  x.stores.take x.frameOld ++ x.frame.map (fun e => { addr := e.1, size := 8, data := e.2 }) ++ x.stores.drop x.frameOld

def StoreEnt.covers (e : StoreEnt) (a : Nat) : Bool := decide (e.addr ≤ a ∧ a < e.addr + e.size)
/-- The newest buffered byte at an address. -/
def bufByte (l : List StoreEnt) (a : Nat) : Option Byte :=
  match l.reverse.find? fun e => e.covers a with
  | some e => some (BitVec.ofNat 8 (e.data.toNat / 2 ^ (8 * (a - e.addr))))
  | none => none
def bytesFrom (a n : Nat) : List Nat := (List.range n).map (a + ·)

/-- What an entry that reaches the memory means to an operation in flight: t_sync counts it (R92); an older load of its bytes, which has
its value, is not replayed against it (size 0). -/
def StoreEnt.settle (e : StoreEnt) (o : Op) : Op :=
  match o.kind with
  | .sync n => { o with kind := .sync (n - 1) }
  | .load a n => if a < e.addr + e.size ∧ e.addr < a + n then { o with kind := .load a 0 } else o
  | _ => o

/-- The head entry of the store buffer reaches the memory (R67, R92, R240). -/
def State.drainStore (s : State) (r : Rid) : State :=
  match (s.runner r).stores with
  | [] => s
  | e :: t =>
    let s := s.updR r fun x => { x with stores := t, frameOld := x.frameOld - 1, ops := x.ops.map e.settle }
    s.userWrite r.home e.addr (leBytes e.size e.data.toNat) r.page

/-- The frame buffer drains (R170). -/
def State.drainFrame (s : State) (r : Rid) : State :=
  let f := (s.runner r).frame
  (s.updR r fun x => { x with frame := [] }).each f fun s e => s.userWrite r.home e.1 (leBytes 8 e.2.toNat) r.page

/-- The next thing to drain, in order (R67, R170). -/
def State.drainHead (s : State) (r : Rid) : State :=
  let x := s.runner r
  if !x.frame.isEmpty && x.frameOld == 0 then s.drainFrame r else s.drainStore r

/-- Drain until nothing buffered satisfies `p`; at most `n` entries. -/
def State.drainWhile (s : State) (r : Rid) (p : StoreEnt → Bool) : Nat → State
  | 0 => s
  | n + 1 => if (s.runner r).writes.any p then (s.drainHead r).drainWhile r p n else s

/-- The store buffer and frame buffer drain whole (R97, R105, R113). -/
def State.drainAll (s : State) (r : Rid) : State := s.drainWhile r (fun _ => true) ((s.runner r).stores.length + 1)

/-- A load of `n` bytes: from the buffers where they hold every byte, else from the memory once entries that hold some have drained (R67, R94, R95). -/
def State.loadAt (s : State) (r : Rid) (a n : Nat) : State × QVal :=
  let ws := (s.runner r).writes
  let got := (bytesFrom a n).map fun k => bufByte ws k
  if got.all Option.isSome then (s, { val := BitVec.ofNat 64 (leNat (got.map fun b => b.getD 0)) })
  else
    let hit (e : StoreEnt) : Bool := (bytesFrom a n).any fun k => e.covers k
    let s := s.drainWhile r hit (ws.length + 1)
    let (s, bs, bad) := s.memRead r.home a n
    (s, { val := BitVec.ofNat 64 (leNat bs), poison := bad })

/-- The value a replayed load captures, none where it has its value already: buffered bytes of it are of younger stores, or were forwarded to it
(R67, R302). Errors were counted at its first access. -/
def State.replayVal (s : State) (r : Rid) (a n : Nat) : Option QVal :=
  if n = 0 || (bytesFrom a n).any fun k => (bufByte (s.runner r).writes k).isSome then none
  else some { val := BitVec.ofNat 64 (leNat (s.bytesAt r.home a n)), poison := s.spadBad r.home a n }

/-- Put an operation in flight (R61, R62). -/
def State.start (s : State) (r : Rid) (o : Op) : State := s.updR r fun x => { x with ops := x.ops ++ [o] }

/-! Effective addresses -/

/-- A load address: o_addr + v, modulo 2^64 (R92, R96, R105). -/
def State.sumAddr (s : State) (r : Rid) (p : Nat) (v : Word) : Nat := ((s.runner r).op p + v).toNat
def State.opAddr (s : State) (r : Rid) (p : Nat) : Nat := ((s.runner r).op p).toNat

/-- Whether a HAU operation is a load of o_addr + v, and its size. -/
def HauOp.load : HauOp → Option Nat
  | .ld => some 8 | .ld32 => some 4 | .ldnc => some 8 | _ => none
/-- Size of a HAU store. -/
def HauOp.store : HauOp → Option Nat
  | .st => some 8 | .st32 => some 4 | .stnc => some 8 | _ => none
def cpyCount (v : Word) : Nat := fld v 8 0

/-- The offset in the complex window of a host address (R26, R99, R272). -/
def State.winOff (s : State) (a : Nat) : Option Nat := if a / 2 ^ 28 = s.winbase.toNat then some (a % 2 ^ 28) else none

/-! Faults raised by the triggering word (R70, R86, R93, R97, R109, R135) -/

/-- Faults that a trigger may raise, with what decides them: the trigger's own value or not, and the operand ports (R63). -/
structure FaultSet where
  val   : Bool
  ports : List Nat
  fs    : List (Nat × Word)
  deriving DecidableEq, Repr

def State.hauFaults (s : State) (r : Rid) (op : HauOp) (v : Word) : List FaultSet :=
  let far (a : Nat) : List (Nat × Word) := if 2 ^ 52 ≤ a then [(9, BitVec.ofNat 64 a)] else []
  let odd (a n : Nat) : List (Nat × Word) := if a % n ≠ 0 then [(0xA, BitVec.ofNat 64 a)] else []
  let a := s.opAddr r 0x160; let b := s.sumAddr r 0x160 v
  match op with
  | .ld | .ldnc => [⟨true, [0x160], far b ++ odd b 8⟩]
  | .ld32 => [⟨true, [0x160], far b ++ odd b 4⟩]
  | .pref => [⟨true, [0x160], far b⟩]
  | .st | .stnc => [⟨false, [0x160], far a ++ odd a 8⟩]
  | .st32 => [⟨false, [0x160], far a ++ odd a 4⟩]
  | .fence => []
  | .cpy =>
    let n := cpyCount v; let sp := s.opAddr r 0x161
    let bad := n % 8 ≠ 0 ∨ n < 8 ∨ 256 < n ∨ a % 8 ≠ 0 ∨ 256 < a % 256 + n
    [⟨false, [0x160], far a⟩, ⟨true, [0x160], if bad then [(0xA, BitVec.ofNat 64 a)] else []⟩,
     ⟨false, [0x161], s.addrFaults r sp 8⟩, ⟨true, [0x161], s.addrFaults r (sp + max n 8 - 8) 8⟩]

/-- The faults of a trigger beyond those of its port, by what decides them (R63, R70). The alignment of a t_cpy is that of its words
(notes/assumptions/61.md). -/
def State.trigSets (s : State) (r : Rid) (t : Trig) (v : Word) : List FaultSet :=
  match t with
  | .mul .mac2 =>
    [⟨false, [], if s.mode = .service ∨ s.mode = .degraded then [(4, BitVec.ofNat 64 0xEB)] else []⟩,
     ⟨false, [0xE3], s.addrFaults r (s.opAddr r 0xE3) 8⟩, ⟨false, [0xE4], s.addrFaults r (s.opAddr r 0xE4) 8⟩]
  | .load one n => [⟨true, [lsuBase one], s.addrFaults r (s.sumAddr r (lsuBase one) v) n⟩]
  | .store one n => [⟨false, [lsuBase one], s.addrFaults r (s.opAddr r (lsuBase one)) n⟩]
  | .hau op => s.hauFaults r op v
  | .atm .tas => [⟨true, [0x1A0], s.addrFaults r (s.sumAddr r 0x1A0 v) 8⟩]
  | .atm .lr => [⟨true, [0x1A0], s.addrFaults r (s.sumAddr r 0x1A0 v) 8⟩]
  | .atm .sc => [⟨false, [0x1A0], s.addrFaults r (s.opAddr r 0x1A0) 8⟩]
  | .rs .push => [⟨false, [], if (s.runner r).rs.length = 16 ∧ (s.runner r).ctlEff.getLsbD 2 then [(7, 0)] else []⟩]
  | .rs .pop => [⟨false, [], if (s.runner r).rs.isEmpty then [(8, 0)] else []⟩]
  | .ring .adv => [⟨true, [], if v = 0 ∨ 65535 < v.toNat then [(1, 0)] else []⟩]
  | .bat .pass => [⟨false, [0x240], s.addrFaults r (s.opAddr r 0x240) 256⟩]
  | .bat .get => [⟨false, [0x240], s.addrFaults r (s.opAddr r 0x240) 256⟩]
  | _ => []

/-- All faults of a trigger beyond those of its port. -/
def State.trigFaults (s : State) (r : Rid) (t : Trig) (v : Word) : List (Nat × Word) := (s.trigSets r t v).flatMap (·.fs)

/-! Accesses served inside the complex (R99, R272) -/

/-- The response to a window access of a runner; BUSY is a wait (R99, R424, R429). `bell` says that the access may name a doorbell. -/
def State.winAccess (s : State) (r : Rid) (write bell : Bool) (off size : Nat) (d : LineData) : State × Resp × Nat :=
  let x := s.runner r
  let o := Origin.runner r x.cust x.sup
  if off < 0x200000 then
    if size = 4 ∧ off % 4 = 0 then
      (if write then
        match s.pageWrite o (off / 4096) (off % 4096) (d.setWidth 32) with
        | (_, .busy) => (s, .busy, 0)
        | (s', _) => (s', .ok, 0)
      else
        let (v, s') := s.pageRead o (off / 4096) (off % 4096)
        (s', .ok, v.toNat))
    else (s.when (write && (pageType s.fuses.variant (off / 4096)).isSome)
      fun s => s.pwerr o (off / 4096) (off % 4096) 4 (d.setWidth 32), .ur, 0)
  else if 0x2000000 ≤ off ∧ off < 0x2040000 then
    (if write && bell && size == 8 && off % 8 == 0 then (s.ringBell off (d.setWidth 64), .ok, 0) else (s, .ur, 0))
  else if 0x8000000 ≤ off ∧ off < 0xE000000 then s.spadAccess x.cust 0 r.page write off size d false
  else (s.report 0x10 1 0 0 0 off, .ok, 0)

/-- The window access of a HAU trigger: write or not, whether doorbells are open to it, address, size, data. -/
structure WinReq where
  write : Bool
  bell  : Bool
  addr  : Nat
  size  : Nat
  data  : LineData
  deriving DecidableEq, Repr

/-- The request of a HAU trigger (R96). -/
def State.hauReq (s : State) (r : Rid) (op : HauOp) (v : Word) : Option WinReq :=
  let a := s.opAddr r 0x160; let b := s.sumAddr r 0x160 v
  let low (n : Nat) : LineData := BitVec.ofNat 2048 (v.toNat % 2 ^ (8 * n))
  match op with
  | .ld | .ldnc => some { write := false, bell := false, addr := b, size := 8, data := 0 }
  | .ld32 => some { write := false, bell := false, addr := b, size := 4, data := 0 }
  | .st => some { write := true, bell := true, addr := a, size := 8, data := low 8 }
  | .stnc => some { write := true, bell := r.isArb, addr := a, size := 8, data := low 8 }
  | .st32 => some { write := true, bell := false, addr := a, size := 4, data := low 4 }
  | .cpy =>
    let n := cpyCount v
    some { write := true, bell := false, addr := a, size := n, data := BitVec.ofNat 2048 (leNat (s.bytesAt r.home (s.opAddr r 0x161) n)) }
  | _ => none

/-- Whether a HAU trigger has to wait: served inside the complex, it meets BUSY; else the heat cache is being cleared (R99, R321, R429). -/
def State.hauBusy (s : State) (r : Rid) (op : HauOp) (v : Word) : Bool :=
  match s.hauReq r op v with
  | some q =>
    (match s.winOff q.addr with
     | some off => (s.winAccess r q.write q.bell off q.size q.data).2.1 == .busy
     | none => !r.isArb && (s.cache r.home).init)
    || (op == .cpy && s.wipeWaits r (s.opAddr r 0x161))
  | none => false

/-! Units that cannot accept yet (R64, R67, R85, R92, R98, R109, R307, R343) -/

def Runner.loads (x : Runner) (u : FUnit) : Nat := (x.ops.filter fun o => decide (o.unit = u) && o.isLoad).length
def Runner.dividing (x : Runner) : Bool := x.ops.any fun o => o.kind == OpKind.div
def Runner.popping (x : Runner) : Bool := x.ops.any Op.isPop
def Runner.passing (x : Runner) : Bool := x.ops.any fun o => o.kind == OpKind.baton

/-- A trigger that its unit cannot accept stalls its word. -/
def State.trigBusy (s : State) (r : Rid) (t : Trig) (v : Word) : Bool :=
  let x := s.runner r
  match t with
  | .mul op =>
    x.dividing || (op == .mac2 && (s.wipeWaits r (s.opAddr r 0xE3) || s.wipeWaits r (s.opAddr r 0xE4)))
  | .load one _ => decide (4 ≤ x.loads (lsuUnit one)) || s.wipeWaits r (s.sumAddr r (lsuBase one) v)
  | .store one _ => decide (8 ≤ x.stores.length) || s.wipeWaits r (s.opAddr r (lsuBase one))
  | .hau .fence => false
  | .hau op => decide (16 ≤ x.hau.length) || s.hauBusy r op v
  | .atm .sc => s.wipeWaits r (s.opAddr r 0x1A0)
  | .atm .clr => false
  | .atm _ => s.wipeWaits r (s.sumAddr r 0x1A0 v)
  | .ring _ => x.popping
  | .sig .hmsg => decide (4 ≤ x.msgs.length)
  | .bat .free => x.passing
  | .bat _ => x.passing || s.wipeWaits r (s.opAddr r 0x240)
  | _ => false

/-! What a trigger starts -/

/-- ALU0, ALU1 (R83, R90). -/
def State.runAlu (s : State) (r : Rid) (one : Bool) (op : AluOp) (v : Word) : State :=
  let b := aluBase one
  let o := aluOut op ((s.runner r).op b) v
  s.start r { unit := aluUnit one, res := [(b + 0x1C, { val := o.r }), (b + 0x1D, { val := o.c })], v := o.v, dz := o.dz }

/-- SHF (R84). -/
def State.runShf (s : State) (r : Rid) (op : ShfOp) (v : Word) : State :=
  let x := s.runner r
  s.start r { unit := .shf, res := [(0xDC, { val := shfOut op (x.op 0xC0) (x.op 0xC2) v })] }

/-- A product or a division, with q_r and q_hi (R85). -/
def mulOp (o : Alu) (div : Bool) : Op :=
  { unit := .mul, res := [(0xFC, { val := o.r }), (0xFD, { val := o.c })], v := o.v, dz := o.dz, kind := if div then .div else .plain }
/-- A MAC in flight: its product, and whether a fetched word was uncorrectable (R87). -/
def macOp (prod : Word) (bad : Bool) : Op := { unit := .mul, res := [(0xFC, {}), (0xFD, {})], kind := .mac prod bad }

/-- t_mac2 (R85, R86, R87). -/
def State.runMac2 (s : State) (r : Rid) (v : Word) : State :=
  let (s, p) := s.loadAt r (s.opAddr r 0xE3) 8
  let (s, q) := s.loadAt r (s.opAddr r 0xE4) 8
  let s := s.updR r fun x => (x.setOp 0xE3 (x.op 0xE3 + v)).setOp 0xE4 (x.op 0xE4 + v)
  s.start r (macOp (p.val * q.val) (p.poison || q.poison))

/-- MUL (R85, R87). -/
def State.runMul (s : State) (r : Rid) (op : MulOp) (v : Word) : State :=
  let a := (s.runner r).op 0xE0
  match op with
  | .mul => s.start r (mulOp (mulOut a v) false)
  | .mulu => s.start r (mulOp (muluOut a v) false)
  | .div => s.start r (mulOp (divOut a v) true)
  | .divu => s.start r (mulOp (divuOut a v) true)
  | .mac => s.start r (macOp (a * v) false)
  | .mac2 => s.runMac2 r v

/-- CMP: the guards at the commit, q_r after it (R88, R89). -/
def State.runCmp (s : State) (r : Rid) (op : CmpOp) (v : Word) : State :=
  let x := s.runner r
  let b := cmpOut op (x.op 0x100) v
  (s.updR r fun x => { x with grd := cmpGuards (x.op 0x102) b x.grd }).start r
    { unit := .cmp, res := [(0x11C, { val := BitVec.ofNat 64 (b2n b) })] }

/-- An LSU load (R92, R94). -/
def State.runLoad (s : State) (r : Rid) (one : Bool) (n : Nat) (v : Word) : State :=
  let a := s.sumAddr r (lsuBase one) v
  let (s, q) := s.loadAt r a n
  s.start r { unit := lsuUnit one, res := [(lsuBase one + 0x1C, q)], kind := .load a n }

/-- An LSU store enters the store buffer (R67, R92). -/
def State.runStore (s : State) (r : Rid) (one : Bool) (n : Nat) (v : Word) : State :=
  let a := s.opAddr r (lsuBase one)
  s.updR r fun x => { x with stores := x.stores ++ [{ addr := a, size := n, data := v }] }

/-- t_sync (R92). -/
def State.runSync (s : State) (r : Rid) (one : Bool) : State :=
  s.start r { unit := lsuUnit one, res := [(lsuBase one + 0x1D, {})], kind := .sync (s.runner r).stores.length }

/-- The end of a HAU access inside the complex (R99). -/
def State.hauLocal (s : State) (r : Rid) (q : WinReq) (resp : Resp) (v : Nat) : State :=
  let ok := decide (resp = .ok)
  if q.write then (if ok then s else s.updR r fun x => { x with spanBad := true })
  else
    let val : QVal := if ok then { val := BitVec.ofNat 64 (v % 2 ^ (8 * q.size)) } else { poison := true, host := true }
    s.start r { unit := .hau, res := [(0x17C, val)] }

/-- A HAU access sent to the host uncached (R96, R272). -/
def State.hauNc (s : State) (r : Rid) (q : WinReq) : State :=
  let (s, id) := s.newHau r (!q.write) q.addr q.size
  if q.write then s.ncWriteTurn r id q.addr q.size q.data else s.ncReadTurn r id q.addr q.size

/-- t_fence (R96): it waits for the writes of its span that are outstanding. -/
def State.runFence (s : State) (r : Rid) : State :=
  let x := s.runner r
  let o : Op := fenceSettle { unit := .hau, res := [(0x17D, {})], kind := .fence x.runWrites x.spanBad }
  s.updR r fun x => { x with ops := x.ops ++ [o], spanBad := false }

/-- A HAU access of a load, a store or a copy (R96 to R99, R272). -/
def State.hauGo (s : State) (r : Rid) (op : HauOp) (q : WinReq) : State :=
  match s.winOff q.addr with
  | some off =>
    let (s, resp, v) := s.winAccess r q.write q.bell off q.size q.data
    s.hauLocal r q resp v
  | none =>
    match r, op with
    | .heat h i, .ld => s.hauLoad h i q.addr 8
    | .heat h i, .ld32 => s.hauLoad h i q.addr 4
    | .heat h i, .st => s.hauStore h i q.addr 8 (q.data.setWidth 64)
    | .heat h i, .st32 => s.hauStore h i q.addr 4 (q.data.setWidth 64)
    | _, _ => s.hauNc r q

/-- t_cpy (R97): the staged copy is read once the buffers have drained; an uncorrectable word gives the write up. -/
def State.runCpy (s : State) (r : Rid) (v : Word) : State :=
  let s := s.drainAll r
  let (s, _, bad) := s.memRead r.home (s.opAddr r 0x161) (cpyCount v)
  if bad then s.updR r fun x => { x with spanBad := true }
  else match s.hauReq r .cpy v with
    | some q => s.hauGo r .cpy q
    | none => s

/-- HAU (R96). -/
def State.runHau (s : State) (r : Rid) (op : HauOp) (v : Word) : State :=
  match op with
  | .fence => s.runFence r
  | .cpy => s.runCpy r v
  | .pref =>
    let a := s.sumAddr r 0x160 v
    (match r with
     | .heat h _ => if (s.winOff a).isSome then s else s.hauPref h a (s.runner r).cust
     | .arb => s)
  | op =>
    match s.hauReq r op v with
    | some q => s.hauGo r op q
    | none => s

/-- STR enters the string hold (R102): the word's address and the next address decided at its commit are `rpc` and `npc`. -/
def State.runStr (s : State) (r : Rid) (k : StrKind) (rpc npc : CAddr) (slot : Nat) : State :=
  s.updR r fun x => { x with hold := some { kind := k, rpc := rpc, npc := npc, slot := slot } }

/-- ATM (R105, R106). -/
def State.runAtm (s : State) (r : Rid) (op : AtmOp) (v : Word) : State :=
  let give (s : State) (q : QVal) : State := s.start r { unit := .atm, res := [(0x1BC, q)] }
  match op with
  | .clr => give (s.updR r fun x => { x with resv := none }) {}
  | .lr =>
    let a := s.sumAddr r 0x1A0 v
    let s := s.drainAll r
    let (s, bs, bad) := s.memRead r.home a 8
    give (s.updR r fun x => { x with resv := some (a / 64, s.clkS) }) { val := BitVec.ofNat 64 (leNat bs), poison := bad }
  | .tas =>
    let a := s.sumAddr r 0x1A0 v
    let s := s.drainAll r
    let (s, bs, bad) := s.memRead r.home a 8
    let old := BitVec.ofNat 64 (leNat bs)
    let s := if bad then s else s.userWrite r.home a (leBytes 8 (old ||| 1).toNat) r.page
    give s { val := old, poison := bad }
  | .sc =>
    let a := s.opAddr r 0x1A0
    let s := s.drainAll r
    match (s.runner r).resv with
    | some (g, _) =>
      if g = a / 64 then
        give ((s.userWrite r.home a (leBytes 8 v.toNat) r.page).updR r fun x => { x with resv := none }) {}
      else give (s.updR r fun x => { x with resv := none }) { val := 1 }
    | none => give s { val := 1 }

/-- A return address on the return stack; at depth 16 the oldest is overwritten (R134, R135). -/
def Runner.rsPush (x : Runner) (a : CAddr) : Runner := { x with rs := (a :: x.rs).take 16 }

/-- q_rs: entry, depth, and the mark of a place at or below the depth (R128). -/
def rsWord (a : CAddr) (depth : Nat) (out : Bool) : Word := BitVec.ofNat 64 (b2n out * 2 ^ 21 + depth * 2 ^ 16 + a.toNat)

/-- The return-stack triggers (R128, R136, R145); the entry that q_rs shows after t_rspush and t_rsclr is a free value (notes/assumptions/24.md). -/
def State.runRs (s : State) (r : Rid) (op : RsOp) (v : Word) : State :=
  let a : CAddr := BitVec.ofNat 15 v.toNat
  let give (s : State) (e : CAddr) (out : Bool) : State :=
    s.start r { unit := .seq, res := [(0x1DC, { val := rsWord e (s.runner r).rs.length out })] }
  match op with
  | .push => let (e, s) := s.freeWord; give (s.updR r fun x => { x.rsPush a with rpred := [] }) (BitVec.ofNat 15 e.toNat) false
  | .pop => give (s.updR r fun x => { x with rs := x.rs.drop 1, rpred := [] }) ((s.runner r).rs.headD 0) false
  | .clr => let (e, s) := s.freeWord; give (s.updR r fun x => { x with rs := [], rpred := [] }) (BitVec.ofNat 15 e.toNat) false
  | .rd =>
    match (s.runner r).rs[fld v 3 0]? with
    | some e => give s e false
    | none => give s 0 true

/-- RING (R108, R109, R209, R215, R283). -/
def State.runRing (s : State) (r : Rid) (op : RingOp) (v : Word) : State :=
  let x := s.runner r
  let give (s : State) (res : List (Nat × QVal)) : State := s.start r { unit := .ring, res := res }
  let gone (s : State) : State := give (s.updR r fun x => { x with wdrawn := false }) (noRing false)
  match op with
  | .stat =>
    let q := x.op 0x1E0
    (if q.toNat < 32768 then give s [(0x1FE, { val := s.ringWord q.toNat (fld v 2 0) })]
     else let (w, s) := s.freeWord; give s [(0x1FE, { val := w })])
  | .pop =>
    let m : BitVec 8 := BitVec.ofNat 8 v.toNat
    (if m = 0 then give s (noRing false)
     else match x.ring with
      | some q => give s (ringRes q (s.ring q) true)
      | none =>
        if s.intrPending r then give s (noRing true)
        else s.start r { unit := .ring, res := noRing false, kind := .pop m })
  | .adv =>
    (match x.ring with
     | none => gone s
     | some q =>
      let y := s.ring q
      let room := (y.prod - y.cons).toNat
      let n := min v.toNat room
      let s := s.when (decide (room < v.toNat)) fun s => s.report 0x04 0 r.page r.page 0 q
      let s := s.updRing q fun y => { y with cons := y.cons + BitVec.ofNat 16 n, taken := y.taken + BitVec.ofNat 32 n }
      give s (ringRes q (s.ring q) false))
  | .rel =>
    (match x.ring with
     | none => gone s
     | some q =>
      let s := s.updR r fun x => { x with ring := none }
      let s := if (s.ring q).migTo.isSome then s.modRing q fun y => { y with held := false, frozen := true, migMv := true }
        else s.modRing q fun y => { y with held := false }
      give s (noRing false))

/-- q_prio: running priority and stack depth (R110). -/
def State.prioWord (s : State) (r : Rid) : Word :=
  let p := (s.slice r.home).rprio r.idx
  BitVec.ofNat 64 (p.stack.length * 16 + p.cur)

/-- The page of the slice a runner uses (R342, R471, R481). -/
def strPage (r : Rid) : Nat := if r.isArb then 7 else 0x20 + r.home

/-- SIG (R110, R332, R334, R336, R343). -/
def State.runSig (s : State) (r : Rid) (op : SigOp) (v : Word) : State :=
  let give (s : State) (res : List (Nat × QVal)) : State := s.start r { unit := .sig, res := res }
  match op with
  | .claim =>
    let (s, src, pr) := s.claim r
    give s [(0x21C, { val := BitVec.ofNat 64 (pr * 2 ^ 16 + src) }), (0x21D, { val := s.prioWord r })]
  | .eoi =>
    let src := fld v 9 0
    let (s, ok) := s.eoi r src
    let s := if ok then s else s.report 0x04 1 (strPage r) r.page src src
    give s [(0x21D, { val := s.prioWord r })]
  | .pend =>
    let src := fld v 7 0
    (if fld v 63 8 ≠ 0 || !s.srcOk r.home src then s.report 0x04 2 (strPage r) r.page src (v.toNat % 2 ^ 32) else s.softEvent r.home src)
  | .hmsg =>
    let q := fld v 5 0
    s.updR r fun x => { x with msgs := x.msgs ++ [{ queue := q, data := x.op 0x200, ids := x.hauWrites }] }

/-- q_tstat (R111). -/
def Runner.tstat (x : Runner) : Word := BitVec.ofNat 64 (b2n x.wdog.isSome * 4 + b2n x.tim1.isSome * 2 + b2n x.tim0.isSome)

/-- TIM (R111). -/
def State.runTim (s : State) (r : Rid) (op : TimOp) (v : Word) : State :=
  let wait (b : Bool) : Op := { unit := .tim, res := [(0x23D, { val := BitVec.ofNat 64 (b2n b) })] }
  let s := match op with
    | .snap => s.start r { unit := .tim, res := [(0x23C, { val := s.lap })] }
    | .arm0 => s.updR r fun x => { x with tim0 := some v }
    | .arm1 => s.updR r fun x => { x with tim1 := some v }
    | .dis => s.updR r fun x => { x with tim0 := if v.getLsbD 0 then none else x.tim0, tim1 := if v.getLsbD 1 then none else x.tim1 }
    | .wdog => s.updR r fun x => { x with wdog := if v = 0 then none else some (s.clkS + min v.toNat 10000) }
    | .wait =>
      if v.toNat ≤ s.lap.toNat then s.start r (wait true)
      else if s.intrPending r then s.start r (wait false)
      else s.start r { wait true with kind := .wait v }
  s.updR r fun x => x.setQ 0x23E { val := x.tstat }

/-- BAT (R112, R113, R245 to R249); a pass waits for its partner. -/
def State.runBat (s : State) (r : Rid) (op : BatOp) (v : Word) : State :=
  match r with
  | .arb => s
  | .heat h i =>
    let slot := fld v 11 0; let mir := v.getLsbD 12
    match op with
    | .pass => let s := s.drainAll r; s.passLocal h i slot (s.opAddr r 0x240)
    | .get =>
      let s := s.drainAll r
      let (s, st) := s.batGet h slot mir (s.opAddr r 0x240) r.page
      s.start r (batOp st)
    | .free =>
      let (s, st) := s.batFree h slot mir r.page
      s.start r (batOp st)

/-- PCR (R114). -/
def State.runPcr (s : State) (r : Rid) (pull : Bool) (v : Word) : State :=
  let n := (s.runner r).op 0x260
  let give (s : State) (st : Nat) (d : List (Nat × QVal)) : State :=
    s.start r { unit := .pcr, res := d ++ [(0x27D, { val := BitVec.ofNat 64 st })] }
  if 15 < n.toNat then give (s.report 0x04 3 r.page r.page 0 n.toNat) 0 []
  else if pull then
    match s.pacPull n.toNat with
    | (s, some w) => give s 1 [(0x27C, { val := w.setWidth 64 })]
    | (s, none) => give s 2 [(0x27C, {})]
  else
    match s.pacPush n.toNat (v.setWidth 32) with
    | (s, true) => give s 1 []
    | (s, false) => give s 2 []

/-- The word at an address, where the fetch buffer holds it (R178). -/
def Runner.fetched (x : Runner) (a : CAddr) : Option MoveWord :=
  match x.fbuf.find? fun e => e.1 == a.toNat / 4 with
  | some (_, ws) => ws[a.toNat % 4]?
  | none => none

/-- A word of the fetch buffer fails its check (R51). -/
def Runner.badWord (x : Runner) (a : CAddr) : Bool := match x.fetched a with | some w => !parityOk w | none => false

/-- Decoded words `l` that will not be executed are dropped; `x` holds them as they were decoded. Those that failed their check are counted, and will be
fetched again (R147, R149). -/
def Runner.dropFrom (y x : Runner) (l : List CAddr) : Runner :=
  let bad := l.filter x.badWord
  { y with ahead := [], fnext := none, latent := y.latent + BitVec.ofNat 32 bad.length,
           fbuf := y.fbuf.filter fun e => !bad.any fun a => a.toNat / 4 == e.1 }
def Runner.dropPath (x : Runner) : Runner := x.dropFrom x x.ahead

/-- PRD (R115, R146); what t_flush clears goes after every other effect of its word. -/
def State.runPrd (s : State) (r : Rid) (op : PrdOp) : State :=
  match op with
  | .flush => s.updR r fun x => { x.dropPath with book := [], hist := [], rpred := [], fbuf := [] }
  | .bar => s.updR r fun x => { x.dropPath with barStop := true, fbuf := [] }
  | .snap =>
    let x := s.runner r
    s.start r { unit := .prd, res := [(0x29C, { val := x.latent.setWidth 64 }), (0x29D, { val := x.mpred.setWidth 64 })] }
  | .clrc => s.updR r fun x => { x with latent := 0, mpred := 0 }

/-- Result ports of an extension block (R117, R119). -/
def State.extResults (s : State) (r : Rid) (p : Nat) : List Nat :=
  let base := 0x600 + (p - 0x600) / 128 * 128
  ((List.range 128).map (base + ·)).filter fun q => match s.extPort r q with | some i => i.rd && !i.wr | none => false

/-- A trigger of an extension block: delivered once, and its result ports wait for the unit (R120, R121). -/
def State.runExt (s : State) (r : Rid) (p : Nat) (v : Word) : State :=
  let x := s.runner r
  let b := (p - 0x600) / 128
  let qs := s.extResults r p
  let mine (o : Op) : Bool := match o.kind with | .ext q => qs.contains q | _ => false
  let fresh (q : Nat) : Op := { unit := .ext b, res := [(q, x.q q)], kind := .ext q }
  let s := s.updR r fun x => { x with ops := x.ops.filter (fun o => !mine o) ++ qs.map fresh }
  s.put (.ext r.home r.idx (p - 0x600) v x.cust x.sup)

/-- What a trigger starts, at the commit of its word (R61); STR starts with the next address decided, by `runStr`. -/
def State.trigRun (s : State) (r : Rid) (t : Trig) (v : Word) : State :=
  match t with
  | .alu one op => s.runAlu r one op v
  | .shf op => s.runShf r op v
  | .mul op => s.runMul r op v
  | .cmp op => s.runCmp r op v
  | .load one n => s.runLoad r one n v
  | .store one n => s.runStore r one n v
  | .sync one => s.runSync r one
  | .hau op => s.runHau r op v
  | .str _ => s
  | .atm op => s.runAtm r op v
  | .rs op => s.runRs r op v
  | .ring op => s.runRing r op v
  | .sig op => s.runSig r op v
  | .tim op => s.runTim r op v
  | .bat op => s.runBat r op v
  | .pcr pull => s.runPcr r pull v
  | .prd op => s.runPrd r op
  | .ext p => s.runExt r p v

end Sys2Proof.Machine
end

