-- ==== Sys2Proof/Machine/Sequencer.lean ====
section
/-! DEFINITION. The sequencer: the fields of a move word, the next-address decision, block repeat, the return stack, prediction and the opening book (R50 to R59, R123 to R149, R181). -/
namespace Sys2Proof.Machine

/-! The move word (R50, R52, R53, R58) -/

/-- A move slot, with its number (R53). -/
structure Slot where
  idx   : Nat
  guard : Nat
  imm   : Bool
  src   : Nat
  dst   : Nat
  size  : Nat
  rsv   : Nat
  low   : Nat                                         -- bits [27:0]
  deriving DecidableEq, Repr

/-- The fields of a move word; `slots` are the slots that are moves (R50, R52, R58). -/
structure Word4 where
  rsv    : Bool
  bar    : Bool
  hint   : Nat
  limm   : Nat
  len    : Nat
  mode   : Nat
  cond   : Nat
  target : CAddr
  lit    : Word
  slots  : List Slot
  deriving DecidableEq, Repr

def slotAt (w : MoveWord) (k : Nat) : Slot :=
  let v : BitVec 32 := w.extractLsb' (32 * k) 32
  { idx := k, guard := fld v 31 28, imm := v.getLsbD 27, src := fld v 26 16, dst := fld v 15 5, size := fld v 4 3, rsv := fld v 2 0,
    low := fld v 27 0 }

def Slot.isEmpty (k : Slot) : Bool := k.guard == 8

/-- The fields of a word (R50, R52, R58). -/
def wordOf (w : MoveWord) : Word4 :=
  let limm := fld w 155 154
  { rsv := w.getLsbD 159, bar := w.getLsbD 158, hint := fld w 157 156, limm := limm, len := fld w 153 152,
    mode := fld w 151 149, cond := fld w 148 143, target := BitVec.ofNat 15 (fld w 142 128),
    lit := BitVec.ofNat 64 (if limm = 1 then fld w 127 96 else if limm = 2 then fld w 127 64 else 0),
    slots := (List.range (if limm = 1 then 3 else if limm = 2 then 2 else 4)).map (slotAt w) }

/-- Whether a guard code lets a slot be performed (R53, R55). -/
def guardTrue (g : BitVec 8) (c : Nat) : Bool :=
  if c = 0 then true else if c < 8 then g.getLsbD c else if c = 8 then false else !g.getLsbD (c - 8)

/-- Flow triggers of SEQ and of TRP (R124). -/
def isSeqFlow (p : Nat) : Bool := decide (0x1C8 ≤ p ∧ p ≤ 0x1CC)
def isTrpFlow (p : Nat) : Bool := decide (0x2B4 ≤ p ∧ p ≤ 0x2B7)
def isFlow (p : Nat) : Bool := isSeqFlow p || isTrpFlow p
def isStr (p : Nat) : Bool := decide (0x188 ≤ p ∧ p ≤ 0x18B)

/-- Addresses of targets: modulo 8,192 on the Arbiter runner (R181). -/
def target (r : Rid) (a : CAddr) : CAddr := if r.isArb then a &&& 0x1FFF else a

/-! Conditions (R126, R127) -/

/-- A condition, sampled before the word commits. -/
def State.seqCond (s : State) (r : Rid) (c : Nat) : Bool :=
  let x := s.runner r
  if c < 0x10 then guardTrue x.grd c
  else if c = 0x10 then x.flgV
  else if c = 0x11 then x.flgDZ
  else if c = 0x12 then !x.flgV
  else if c = 0x13 then !x.flgDZ
  else if c = 0x14 then x.rep.act
  else if c = 0x15 then x.rs.isEmpty
  else if c = 0x16 then x.rs.length == 16
  else if c = 0x17 then s.intrPending r
  else false

/-! The decision (R123, R124, R129) -/

/-- What steps 1 and 2 of R124 decide: the address and what the transfer does besides. -/
structure Decision where
  act   : CAddr
  call  : Bool := false
  ret   : Bool := false
  jump  : Bool := false                               -- ends a repeat when it leaves the block (R131)
  book  : Bool := false                               -- of the kinds of R143
  rep   : Option (Nat × Nat) := none                  -- t_rep: iterations and block length
  deriving DecidableEq, Repr

/-- t_rep's operand: iterations and block length (R129). -/
def repOp (v : Word) : Nat × Nat := (fld v 15 0, fld v 23 16 + 1)

/-- Step 1 of R124; for t_retm `v` is the value it has loaded (R138). -/
def flowDecision (r : Rid) (pc : CAddr) (p : Nat) (v : Word) : Decision :=
  let a := target r (BitVec.ofNat 15 v.toNat)
  if p = 0x1C8 then { act := a, jump := true, book := true }
  else if p = 0x1C9 then { act := a, call := true, book := true }
  else if p = 0x1CA then { act := a, book := true }
  else if p = 0x1CB then { act := a }
  else
    let n := repOp v
    { act := if n.1 = 0 then pc + 1 + BitVec.ofNat 15 n.2 else pc + 1, rep := some n }

/-- Step 2 of R124 (R123): `c` is the condition, `g` the guards. -/
def modeDecision (r : Rid) (x : Runner) (w : Word4) (c : Bool) (g : BitVec 8) : Decision :=
  let pc := x.pc
  let t := target r w.target
  if w.mode = 1 then (if c then { act := t, jump := true } else { act := pc + 1 })
  else if w.mode = 2 then (if c then { act := pc + 1 } else { act := t, jump := true })
  else if w.mode = 3 then { act := t, jump := true }
  else if w.mode = 4 then (if c then { act := t, call := true } else { act := pc + 1 })
  else if w.mode = 5 then (if c then { act := target r (x.rs.headD 0), ret := true } else { act := pc + 1 })
  else if w.mode = 6 then
    let m := b2n (g.getLsbD 3) * 4 + b2n (g.getLsbD 2) * 2 + b2n (g.getLsbD 1)
    { act := target r (w.target + BitVec.ofNat 15 m), jump := true, book := true }
  else { act := pc + 1 }

/-- An address inside the block of a repeat (R129, R131). -/
def Rep.inside (p : Rep) (a : CAddr) : Bool := decide ((a - p.rbeg).toNat ≤ (p.rend - p.rbeg).toNat)

/-- The repeat state and final address after a decision (R129 to R131); `own` says that the word writes o_rep. -/
def repNext (p : Rep) (pc : CAddr) (d : Decision) (own : Bool) : Rep × CAddr :=
  match d.rep with
  | some (0, _) => ({ p with act := false }, d.act)
  | some (n, len) => ({ act := true, count := BitVec.ofNat 16 n, rend := pc + BitVec.ofNat 15 len, rbeg := pc + 1 }, d.act)
  | none =>
    if p.act && d.act == pc + 1 && pc == p.rend && !own then
      (if 1 < p.count.toNat then ({ p with count := p.count - 1 }, p.rbeg) else ({ p with act := false, count := 0 }, pc + 1))
    else if p.act && d.jump && !p.inside d.act then ({ p with act := false }, d.act)
    else (p, d.act)

/-! The opening book (R143, R144) -/

def rol10 (a : CAddr) (k : Nat) : Nat := let v := a.toNat % 1024; (v * 2 ^ k % 1024) ||| (v / 2 ^ (10 - k))
def Runner.histAt (x : Runner) (k : Nat) : CAddr := x.hist.getD k 0
def Runner.bookIdx (x : Runner) (pc : CAddr) : Nat :=
  pc.toNat % 1024 ^^^ rol10 (x.histAt 0) 0 ^^^ rol10 (x.histAt 1) 2 ^^^ rol10 (x.histAt 2) 4 ^^^ rol10 (x.histAt 3) 6
/-- The entry a lookup hits (R143). -/
def Runner.bookHit (x : Runner) (pc : CAddr) : Option BookEnt :=
  match x.book.find? fun e => e.1 == x.bookIdx pc with
  | some (_, e) => if e.tag.toNat = fld pc 14 10 ∧ e.world = x.cust ∧ e.level = x.sup then some e else none
  | none => none
def bookPut (t : Table BookEnt) (k : Nat) (e : BookEnt) : Table BookEnt :=
  (t.filter fun a => decide (a.1 < k)) ++ [(k, e)] ++ (t.filter fun a => decide (k < a.1))

/-- The update of R144 at the commit of a transfer of these kinds. -/
def Runner.train (x : Runner) (pc act : CAddr) : Runner :=
  let k := x.bookIdx pc
  let fresh : BookEnt := { tag := BitVec.ofNat 5 (fld pc 14 10), world := x.cust, level := x.sup, target := act, hyst := false }
  let e : BookEnt := match x.bookHit pc with
    | some e => if e.target = act then { e with hyst := true } else if e.hyst then { e with hyst := false } else fresh
    | none => fresh
  { x with book := bookPut x.book k e, hist := act :: [x.histAt 0, x.histAt 1, x.histAt 2] }

/-! Sources (R56 to R59, R104) -/

def isLit (p : Nat) : Bool := decide (0x4A ≤ p ∧ p ≤ 0x4C)

/-- The source of a slot before R56; in resume form no literal is read (R104). -/
def State.source (s : State) (r : Rid) (w : Word4) (res : Bool) (k : Slot) : QVal :=
  if k.imm then { val := (BitVec.ofNat 11 k.src).signExtend 64 }
  else if isLit k.src then
    { val := if res then 0 else if k.src = 0x4B then (BitVec.ofNat 32 w.lit.toNat).signExtend 64 else w.lit }
  else s.readPort r k.src

/-- The value a slot delivers (R56). -/
def State.slotVal (s : State) (r : Rid) (w : Word4) (res : Bool) (k : Slot) : Word :=
  widen (s.source r w res k).val (sizeBits k.size) (isSignPort k.dst)

/-! Prediction (R140 to R142, R145, R146) -/

/-- The flow-trigger slot that is predicted performed: an unguarded one, else the first that HINT does not predict not performed (R140, R141). -/
def Word4.flowGuess (w : Word4) : Option Slot :=
  let moves := w.slots.filter fun k => !k.isEmpty && isFlow k.dst
  match moves.find? fun k => k.guard == 0 with
  | some k => some k
  | none => if w.hint = 2 then none else moves.head?

/-- What is predicted of a word's successor, before any loopback: none where it is not predicted (R140, R141). `v` is the value of the
flow-trigger slot, as it reads at the decode. A predicted return goes to the return predictor's top entry (R145). -/
def guess (r : Rid) (x : Runner) (pc : CAddr) (w : Word4) (v : Word) : Option Decision :=
  let next : Decision := { act := pc + 1 }
  let look : CAddr := match x.bookHit pc with | some e => e.target | none => pc + 1
  match w.flowGuess with
  | some k =>
    if isTrpFlow k.dst || k.dst == 0x1CB then none
    else if k.dst = 0x1CC then some { act := pc + 1, rep := some (repOp v) }
    else some { act := look, call := k.dst == 0x1C9, jump := k.dst == 0x1C8 }
  | none =>
    let t := target r w.target
    let taken := if w.cond = 0 then true else if w.cond = 8 then false else w.hint == 1 || (w.hint == 0 && decide (w.target.toNat ≤ pc.toNat))
    let fails := if w.cond = 0 then false else if w.cond = 8 then true else w.hint == 1 || (w.hint == 0 && decide (w.target.toNat ≤ pc.toNat))
    some <|
      if w.mode = 1 then (if taken then { act := t, jump := true } else next)
      else if w.mode = 2 then (if fails then { act := t, jump := true } else next)
      else if w.mode = 3 then { act := t, jump := true }
      else if w.mode = 4 then (if taken then { act := t, call := true } else next)
      else if w.mode = 5 then (if w.cond = 0 ∨ (w.cond ≠ 8 ∧ w.hint ≠ 2) then { act := target r (x.rpred.headD (pc + 1)), ret := true } else next)
      else if w.mode = 6 then { act := look, jump := true }
      else next

/-- The word's successor is certain at decode (R140). -/
def Word4.certain (w : Word4) : Bool :=
  let flow := w.slots.any fun k => !k.isEmpty && isFlow k.dst
  !flow && (w.mode == 0 || w.mode == 3 || ((w.mode == 1 || w.mode == 2 || w.mode == 4) && (w.cond == 0 || w.cond == 8))
    || (w.mode == 5 && w.cond == 8))

/-- A word that is not predicted past: BAR, or a t_bar stop where the successor is not certain (R146). -/
def barred (stop : Bool) (w : Word4) : Bool := w.bar || (stop && !w.certain)

def pushRp (l : List CAddr) (a : CAddr) : List CAddr := (a :: l).take 8

/-- A slot of a word on the path that writes SEQ.o_rep (R140). -/
def State.repSlot (s : State) (r : Rid) (w : Word4) : Option Slot :=
  w.slots.find? fun k => !k.isEmpty && k.dst == 0x1C0 && guardTrue (s.runner r).grd k.guard

/-- A word at `pc` joins the path: the next place with the repeat state there, and the predictor's change (R140, R145). `v` is the value of its
flow-trigger slot, as it reads at the decode (notes/assumptions/62.md). -/
def State.decoded (s : State) (r : Rid) (pc : CAddr) (rep : Rep) (w : Word4) (v : Word) : Runner :=
  let x := s.runner r
  let y := { x with ahead := x.ahead ++ [pc], fnext := none }
  match x.resume, x.ahead with
  | some n, [] => { y with fnext := some (n, rep) }
  | _, _ =>
    if barred x.barStop w then y
    else
      match guess r x pc w v with
      | none => y
      | some d =>
        let own := s.repSlot r w
        let rep := match own with | some k => repOf (s.slotVal r w false k) | none => rep
        let n := repNext rep pc d own.isSome
        { y with fnext := some (n.2, n.1),
                 rpred := if d.ret then x.rpred.drop 1 else if d.call then pushRp x.rpred (pc + 1) else x.rpred }

/-- A word of the fetch buffer is decoded; one that fails its check is not followed (R51, R140, notes/assumptions/62.md). -/
def State.decodeWord (s : State) (r : Rid) (pc : CAddr) (rep : Rep) (raw : MoveWord) : Runner :=
  let x := s.runner r
  if parityOk raw then
    let w := wordOf raw
    s.decoded r pc rep w (match w.flowGuess with | some k => s.slotVal r w false k | none => 0)
  else { x with ahead := x.ahead ++ [pc], fnext := none }

/-- The next place to decode: `pc`, or what follows the words decoded. -/
def Runner.front (x : Runner) : Option (CAddr × Rep) := if x.ahead.isEmpty then some (x.pc, x.rep) else x.fnext

/-- The sequencer decodes along the path: the word at `pc` and at most three beyond it, as far as they are buffered (R140, R178). -/
def State.decodeAhead (s : State) (r : Rid) : Nat → State
  | 0 => s
  | n + 1 =>
    let x := s.runner r
    if 4 ≤ x.ahead.length then s
    else match x.front with
      | none => s
      | some (a, rep) => match x.fetched a with
        | none => s
        | some raw => (s.setRunner r (s.decodeWord r a rep raw)).decodeAhead r n
def State.follow (s : State) (r : Rid) : State := s.decodeAhead r 4

/-- The prediction side of a committed word: `x` is the runner before it, whose path begins with the word; `y` has its effects and its next
address, reached by a call or a return as `call` and `ret` say. A path that proves wrong is dropped; the mismatch is a misprediction where the
word's successor was predicted (R140, R142, R145, R149). -/
def Runner.resolve (y : Runner) (x : Runner) (w : Word4) (call ret : Bool) : Runner :=
  let rest := x.ahead.drop 1
  let expected := match rest with | a :: _ => some a | [] => x.fnext.map (·.1)
  let y := { y with ahead := rest }
  match expected with
  | none => { y with fnext := none, rpred := if ret then y.rpred.drop 1 else if call then pushRp y.rpred (x.pc + 1) else y.rpred }
  | some a =>
    if a = y.pc then y
    else if w.certain then y.dropFrom x rest
    else { y.dropFrom x rest with rpred := [], mpred := y.mpred + 1 }

/-- What a decision does to the runner: return stack, repeat and book, and the next address (R124, R134, R144). -/
def Runner.transfer (y : Runner) (pc : CAddr) (d : Decision) (own : Bool) : Runner :=
  let y := if d.call then y.rsPush (pc + 1) else if d.ret then { y with rs := y.rs.drop 1 } else y
  let (rep, next) := repNext y.rep pc d own
  let y := { y with rep := rep, pc := next }
  if d.book then y.train pc d.act else y

/-- A transfer to a word that is not in the fetch buffer discards the buffered lines beyond the transferring word `pc` (R178,
notes/assumptions/62.md). -/
def Runner.refetch (y : Runner) (pc : CAddr) : Runner :=
  if y.pc == pc + 1 || (y.fetched y.pc).isSome then y else { y with fbuf := y.fbuf.filter fun e => decide (e.1 ≤ pc.toNat / 4) }

/-! Fetching (R51, R177 to R183, R419) -/

/-- The word at `pc` has to be fetched from a line in state RELOAD, so the watchdog does not count (R72, R183). -/
def State.fetchWaits (s : State) (r : Rid) : Bool :=
  let x := s.runner r
  ((x.fetched x.pc).isNone || (x.tries != 0 && x.failPar)) && s.fenceOf r.home (x.pc.toNat / 4) == 1

/-- The places of the path whose words the fetch buffer must hold, in order: at most three beyond the word being executed (R140, R178). -/
def Runner.needs (x : Runner) : List CAddr :=
  if x.ahead.isEmpty then [x.pc]
  else x.ahead ++ (if x.ahead.length < 4 then (match x.fnext with | some (a, _) => [a] | none => []) else [])

/-- A line enters the fetch buffer of four; lines off the path make room (R178). -/
def Runner.addLine (x : Runner) (line : Nat) (ws : List MoveWord) : Runner :=
  let keep := x.needs.map fun a => a.toNat / 4
  let old := x.fbuf.filter fun e => e.1 != line
  let old := if old.length < 4 then old else old.filter fun e => keep.contains e.1
  { x with fbuf := (old.drop (old.length - 3)) ++ [(line, ws)] }

/-- An injected parity error upsets the word that is needed (R419). -/
def spoil (ws : List MoveWord) (k : Nat) : List MoveWord := ws.mapIdx fun i w => if i = k then w ^^^ (1 <<< 160 : MoveWord) else w

/-- A granted line read: the first line of the path that is not buffered, and the words of the path it brings are decoded (R140, R177, R178, R183). -/
def State.lineFetch (s : State) (r : Rid) : State :=
  let s := s.follow r
  let x := s.runner r
  match x.needs.find? fun a => (x.fetched a).isNone with
  | none => s
  | some a =>
    let line := a.toNat / 4
    match s.fenceOf r.home line with
    | 0 =>
      let ws := s.lineWords r.home line
      let hit := x.injPar && decide (a = x.pc)
      (s.setRunner r { x.addLine line (if hit then spoil ws (a.toNat % 4) else ws) with injPar := x.injPar && !hit }).follow r
    | 1 => s
    | _ => if a = x.pc then s.updR r fun x => { x with pendM := some 0x30 } else s

end Sys2Proof.Machine
end

