-- ==== Sys2Proof/Machine/Traps.lean ====
section
/-! DEFINITION. Trap entry, the fault stack and its frames, fast-path and gate calls, returns, and the tail-chained return (R150 to R176, R340). -/
namespace Sys2Proof.Machine

/-! Frames (R171 to R173) -/

/-- Where execution continues: rpc, npc and the resume mark (R103, R104, R172). -/
def Runner.retPoint (x : Runner) : CAddr × CAddr × Bool :=
  match x.hold, x.resume with
  | some h, _ => (h.rpc, h.npc, true)
  | none, some n => (x.pc, n, true)
  | none, none => (x.pc, 0, false)

/-- Frame word 0, which is also q_cause (R164, R172). -/
def causeWord (lvl wld resume sv : Bool) (slot code : Nat) : Word :=
  BitVec.ofNat 64 (b2n lvl * 2 ^ 14 + b2n wld * 2 ^ 13 + b2n resume * 2 ^ 11 + b2n sv * 2 ^ 10 + slot % 4 * 2 ^ 8 + code)

/-- Frame word 2 (R172). -/
def Runner.flagWord (x : Runner) : Word := BitVec.ofNat 64 (b2n x.flgDZ * 2 ^ 9 + b2n x.flgV * 2 ^ 8 + fld x.grd 7 1 * 2)

/-- The eight words of a frame (R172). -/
def Runner.frameWords (x : Runner) (f : FaultRec) (lap : Word) : List Word :=
  let (rpc, npc, res) := x.retPoint
  [causeWord x.sup x.cust res f.sv f.slot f.code, BitVec.ofNat 64 (npc.toNat * 2 ^ 16 + rpc.toNat), x.flagWord, x.rep.word, f.detail,
   BitVec.ofNat 64 (x.fsp x.cust), lap, BitVec.ofNat 64 x.rs.length]

/-- The push is not made: the stack-exhausted cause (R173). -/
def State.exhausted (s : State) (r : Rid) : Bool :=
  let x := s.runner r
  let a := x.fsp x.cust
  decide (a < 64) || decide (a - 64 < x.flim x.cust) || decide (memLen r.home ≤ a - 64) || (inSecure r.home (a - 64) != x.cust)

/-! Trap entry (R162 to R170) -/

/-- Group of the vector: kind W, D or I (R168). -/
def causeGroup (code : Nat) : Nat := if code < 0x10 then 0 else if code < 0x20 then 1 else 2
/-- Causes reported as class RTRAP (R162, R405). -/
def trapReport (code : Nat) : Option Nat :=
  if 1 ≤ code ∧ code ≤ 5 then some (code - 1) else if 0xB ≤ code ∧ code ≤ 0xD then some (code - 6) else none

/-- What an entry does to the runner, frame pushed, words fetched beyond discarded (R149, R169 to R171). -/
def Runner.enter (x : Runner) (f : FaultRec) (lap : Word) (clkS : Nat) (vec : CAddr) : Runner :=
  let a := x.fsp x.cust - 64
  let ws := x.frameWords f lap
  let y := (x.setFsp x.cust a).dropPath.stallEnd clkS
  { y with frame := ws.mapIdx fun i w => (a + 8 * i, w), frameOld := x.stores.length, qcause := ws.headD 0, sup := true,
           rep := { x.rep with act := false }, resv := none, fbuf := [], pc := vec, first := true, noTrap := false, tries := 0,
           failPar := false, hold := none, resume := none, pendW := none }

/-- Entry to the handler of a cause (R169, R173). -/
def State.enterTrap (s : State) (r : Rid) (f : FaultRec) : State :=
  if s.exhausted r then s.updR r fun x => { x with pendM := some 0x31 }
  else
    let s := s.updR r fun x => x.enter f s.lap s.clkS (s.vector r x.cust (causeGroup f.code))
    match trapReport f.code with
    | some c => s.report 0x03 c r.page r.page 0 f.detail.toNat
    | none => s

/-- Whether traps of kinds D and I may be taken now (R69, R138, R165). -/
def Runner.atBoundary (x : Runner) : Bool := !x.first && !x.noTrap && x.tries == 0 && x.stallAt.isNone

/-- Interrupts are taken in the world the runner is in (R165, R167). -/
def State.takesIntr (s : State) (r : Rid) : Bool := !(s.runner r).cust || (s.reg r.page 0x114).getLsbD 31

/-- The trap that is due: kind W, then kind D in ascending code order, then an interrupt (R163). -/
def State.trapDue (s : State) (r : Rid) : Option FaultRec :=
  let x := s.runner r
  match x.pendW with
  | some f => some f
  | none =>
    if !x.atBoundary then none
    else if x.pendBat then some { code := 0x10 }
    else if x.pendV then some { code := 0x11 }
    else if x.pendDZ then some { code := 0x12 }
    else if s.takesIntr r then (s.intrSource r).map fun e => { code := 0x20, detail := BitVec.ofNat 64 e.1 }
    else none

/-- A pending kind D trap is no longer pending once taken. -/
def Runner.trapTaken (x : Runner) (code : Nat) : Runner :=
  { x with pendBat := x.pendBat && code != 0x10, pendV := x.pendV && code != 0x11, pendDZ := x.pendDZ && code != 0x12 }

/-- A trap is taken (R169, R335). It waits while the frame buffer still holds the previous frame (R170). -/
def State.takeTrap (s : State) (r : Rid) (f : FaultRec) : State :=
  let pr := (s.intrSource r).map (·.2)
  let s := (s.updR r fun x => x.trapTaken f.code).enterTrap r f
  if f.code = 0x20 ∧ (s.runner r).pendM.isNone then s.entryHold r (pr.getD 0) else s

/-- TRAP_ENTRY: at a boundary, or at an element boundary of the string hold; a runner that is stopping stops there (R103, R169, R474). With `rom` the
routine's own words cannot be fetched (R193). -/
def State.trapEntry (s : State) (r : Rid) (rom : Bool) : State :=
  let x := s.runner r
  let live := x.run == .running || (x.run == .stopping && x.hold.isSome)
  if !s.ridPresent r || s.mode == .quiesce || !live || x.pendM.isSome || !x.frame.isEmpty then s
  else match s.trapDue r with
    | none => s
    | some f =>
      if rom then s.romFail r else
      let s := s.takeTrap r f
      if x.run = .stopping ∧ (s.runner r).pendM.isNone then s.stopNow r else s

/-! Flow triggers: faults and waits (R135, R137, R138, R157 to R159, R174) -/

def trpEntry (x : Runner) (v : Word) : BitVec 16 := tget 0 x.entry (8 * b2n x.cust + fld v 2 0)
def trpGate (x : Runner) (v : Word) : BitVec 16 := tget 0 x.gates (fld v 1 0)

/-- A word as a load would find it, the buffers included; nothing is counted. -/
def State.viewWord (s : State) (r : Rid) (a : Nat) : Word :=
  let ws := (s.runner r).writes
  BitVec.ofNat 64 (leNat ((bytesFrom a 8).map fun k => (bufByte ws k).getD (s.byteAt r.home k)))

/-- Faults of t_eret (R154, R174); its frame cannot be read while its part of the memory is wiped (R307). -/
def State.eretFaults (s : State) (r : Rid) : List (Nat × Word) :=
  let x := s.runner r
  let a := x.fsp x.cust
  match s.addrFaults r a 8 with
  | [] =>
    let w := s.viewWord r a
    if !s.wipeWaits r a && (w.getLsbD 13 != x.cust || (w.getLsbD 14 && !x.sup)) then [(5, 0)] else []
  | l => l

/-- Faults of a flow trigger, by what decides them (R63). -/
def State.flowSets (s : State) (r : Rid) (p : Nat) (v : Word) : List FaultSet :=
  let x := s.runner r
  if p = 0x1C9 then [⟨false, [], if x.rs.length = 16 ∧ x.ctlEff.getLsbD 2 then [(7, 0)] else []⟩]
  else if p = 0x1CA then [⟨false, [], s.addrFaults r (x.gr 63 - 8).toNat 8⟩]
  else if p = 0x1CB then [⟨false, [], s.addrFaults r (x.gr 63).toNat 8⟩]
  else if p = 0x2B4 then
    [⟨true, (List.range 8).map (0x2A0 + ·), if (trpEntry x v).getLsbD 15 then [] else [(6, 0)]⟩,
     ⟨false, [], if (x.bank x.cust).busy then [(6, 0)] else []⟩]
  else if p = 0x2B5 then
    [⟨false, [], if x.cust then [(2, BitVec.ofNat 64 p)] else if x.bankC.busy then [(6, 0)] else []⟩,
     ⟨true, (List.range 4).map (0x2A8 + ·), if x.cust || (trpGate x v).getLsbD 15 then [] else [(6, 0)]⟩]
  else if p = 0x2B6 then [⟨false, [], if (x.bank x.cust).busy then [] else [(5, 0)]⟩]
  else if p = 0x2B7 then [⟨false, [], s.eretFaults r⟩]
  else []
def State.flowFaults (s : State) (r : Rid) (p : Nat) (v : Word) : List (Nat × Word) := (s.flowSets r p v).flatMap (·.fs)

/-- The source with which a t_eret tail-chains: presented, and above the running priority (R340). -/
def State.chainSource (s : State) (r : Rid) : Option (Nat × Nat) :=
  let x := s.runner r
  if x.pendBat || x.pendV || x.pendDZ || !s.takesIntr r then none else s.presented r (s.prioOf r).cur

/-- A flow trigger that has to wait (R170, R307). -/
def State.flowBusy (s : State) (r : Rid) (p : Nat) : Bool :=
  let x := s.runner r
  if p = 0x1CA then s.wipeWaits r (x.gr 63 - 8).toNat
  else if p = 0x1CB then s.wipeWaits r (x.gr 63).toNat
  else if p = 0x2B7 then s.wipeWaits r (x.fsp x.cust) || (!x.frame.isEmpty && (s.chainSource r).isSome)
  else false

/-- What a flow trigger reads before its word commits: t_retm's word, or t_eret's frame; true: uncorrectable (R138, R175). -/
def State.flowRead (s : State) (r : Rid) (p : Nat) : State × List Word × Bool :=
  let x := s.runner r
  if p = 0x1CB then
    let (s, q) := s.loadAt r (x.gr 63).toNat 8
    (s, [q.val], q.poison)
  else if p = 0x2B7 then
    let a := x.fsp x.cust
    let ws := (List.range 4).map fun k => s.viewWord r (a + 8 * k)
    let (s, q) := s.loadAt r a 64
    (s, ws, q.poison)
  else (s, [], false)

/-! Calls and returns through the banks (R157 to R159) -/

/-- t_call and t_gate: the bank filled, the repeat saved, the entry reached (R133, R157, R158). `g`: the guards when the word began. -/
def Runner.callEntry (x : Runner) (gate : Bool) (g : BitVec 8) (a : CAddr) : Runner :=
  let w := gate || x.cust
  let b : Bank := { spc := x.pc + 1, sgrd := g &&& 0xFE, gate := gate, busy := true, world := x.cust, level := x.sup, srep := x.rep }
  { x.setBank w b with rep := { x.rep with act := false }, cust := w, sup := true, pc := a }

/-- t_sret (R159). -/
def Runner.callReturn (x : Runner) (r : Rid) : Runner :=
  let b := x.bank x.cust
  { x.setBank x.cust { b with busy := false } with grd := b.sgrd, rep := b.srep, cust := b.world, sup := b.level, pc := target r b.spc }

/-- The state a frame restores (R174). -/
def Runner.restore (x : Runner) (w0 w2 w3 : Word) : Runner :=
  { x with grd := BitVec.ofNat 8 (fld w2 7 1 * 2), flgV := w2.getLsbD 8, flgDZ := w2.getLsbD 9, rep := repOf w3, sup := w0.getLsbD 14 }

/-- A plain t_eret (R174): `a` is the o_fsp whose frame was read. -/
def Runner.eret (x : Runner) (r : Rid) (a : Nat) (w0 w1 w2 w3 : Word) : Runner :=
  let y := (x.restore w0 w2 w3).setFsp x.cust (fspOf (BitVec.ofNat 64 (a + 64)))
  { y with pc := target r (BitVec.ofNat 15 (fld w1 14 0)),
           resume := if w0.getLsbD 11 then some (target r (BitVec.ofNat 15 (fld w1 30 16))) else none }

/-- A tail-chained t_eret: the frame stays, four of its words rewritten (R340). -/
def Runner.chain (x : Runner) (a : Nat) (w0 w2 w3 : Word) (src : Nat) (lap : Word) (vec : CAddr) : Runner :=
  let c := causeWord (w0.getLsbD 14) (w0.getLsbD 13) (w0.getLsbD 11) false 0 0x20
  let y := (x.restore w0 w2 w3)
  { y with sup := true, rep := { y.rep with act := false }, resv := none, fbuf := [], qcause := c, first := true, pc := vec,
           frame := [(a, c), (a + 0x20, BitVec.ofNat 64 src), (a + 0x30, lap), (a + 0x38, BitVec.ofNat 64 x.rs.length)],
           frameOld := x.stores.length }

/-- t_eret with the frame's words, read at `a` (R174, R335, R340). -/
def State.eretGo (s : State) (r : Rid) (a : Nat) (ws : List Word) : State :=
  let w (k : Nat) : Word := ws.getD k 0
  match s.chainSource r with
  | some (src, pr) =>
    ((s.updR r fun x => x.chain a (w 0) (w 2) (w 3) src s.lap (s.vector r x.cust 2)).endHold r).entryHold r pr
  | none => (s.updR r fun x => x.eret r a (w 0) (w 1) (w 2) (w 3)).endHold r

/-- A TRP flow trigger at its word's commit (R157 to R161, R174, R335); `x0` is the runner when the word began. -/
def State.trpGo (s : State) (r : Rid) (p : Nat) (v : Word) (x0 : Runner) (ws : List Word) : State :=
  if p = 0x2B4 then s.updR r fun x => x.callEntry false x0.grd (target r (BitVec.ofNat 15 (trpEntry x v).toNat))
  else if p = 0x2B5 then s.updR r fun x => x.callEntry true x0.grd (target r (BitVec.ofNat 15 (trpGate x v).toNat))
  else if p = 0x2B6 then (s.updR r fun x => x.callReturn r).endHold r
  else s.eretGo r (x0.fsp x0.cust) ws

/-! Relivo calls (R137, R138) -/

/-- t_callm: G63 and the stored return address; `g` is G63 when the word began. -/
def Runner.callMem (x : Runner) (g : Word) : Runner :=
  let a := g - 8
  { x.setG 63 a with stores := x.stores ++ [{ addr := a.toNat, size := 8, data := BitVec.ofNat 64 (x.pc + 1).toNat }] }
/-- t_retm: G63, and no trap before the word at the loaded address. -/
def Runner.retMem (x : Runner) (g : Word) : Runner := { x.setG 63 (g + 8) with noTrap := true }

end Sys2Proof.Machine
end

