-- ==== Sys2Proof/Machine/MoveWord.lean ====
section
/-! DEFINITION. The move word: its checks, its stalls and its commit; retry; single triggers; strings (R54 to R76, R80, R92, R101 to R104, R163, R191). -/
namespace Sys2Proof.Machine

/-- A runner that executes words now: a trap that is due is taken first (R162, R165). -/
def State.canStep (s : State) (r : Rid) : Bool :=
  let x := s.runner r
  s.ridPresent r && s.mode != .quiesce && (x.run == .running || (x.run == .stopping && x.midWord)) && !x.fenced
    && x.hold.isNone && x.pendM.isNone && (s.trapDue r).isNone

/-- The stall begins, if it has not begun (R63, R65). -/
def State.stallNow (s : State) (r : Rid) : State := s.updR r fun x => { x with stallAt := some (x.stallAt.getD s.clkS) }

/-- A fault of kind W is raised; the word commits nothing (R70). -/
def State.faultNow (s : State) (r : Rid) (f : FaultRec) : State := 
  s.updR r fun x => { x.stallEnd s.clkS with pendW := some f, tries := 0, failPar := false }

/-! Faults of a word (R73, R74, R80, R163) -/

/-- A fault found in a word: cause, slot (none: the whole word), SRC before DST before the rest, detail. -/
structure WFault where
  code   : Nat
  slot   : Option Nat
  ord    : Nat
  detail : Word
  deriving DecidableEq, Repr

def WFault.before (a b : WFault) : Bool :=
  let k (f : WFault) : Nat := f.code * 64 + f.slot.getD 4 * 8 + f.ord
  decide (k a ≤ k b)
/-- The fault that is raised (R163). -/
def worst : List WFault → Option WFault
  | [] => none
  | f :: t => match worst t with
    | none => some f
    | some g => some (if f.before g then f else g)
def WFault.record (f : WFault) : FaultRec := { code := f.code, sv := f.slot.isSome, slot := f.slot.getD 0, detail := f.detail }

def portWord (p : Nat) : Word := BitVec.ofNat 64 p
def illegal (slot : Option Nat) (ord : Nat) (d : Word) : WFault := { code := 1, slot := slot, ord := ord, detail := d }

/-- Whether a slot reads the literal it is meant to read (R58, R59). -/
def Word4.litSlot (w : Word4) : Option Nat := if w.limm = 1 then some 2 else if w.limm = 2 then some 1 else none
def Word4.litOk (w : Word4) (k : Slot) : Bool :=
  !k.imm && !k.isEmpty && (if w.limm = 1 then k.idx == 2 && (k.src == 0x4A || k.src == 0x4B) else w.limm == 2 && k.idx == 1 && k.src == 0x4C)

/-- Conditions 1 to 5, 7 and 8 of R73 on a slot that is a move. -/
def State.slotStatic (s : State) (r : Rid) (w : Word4) (k : Slot) : List WFault :=
  let i := some k.idx
  let need := w.litSlot == i
  if k.isEmpty then (if k.low ≠ 0 ∨ need = true then [illegal i 2 0] else [])
  else
    (if k.imm then [] else match s.portInfo r k.src with
      | some p => if p.rd then [] else [illegal i 0 (portWord k.src)]
      | none => [illegal i 0 (portWord k.src)])
    ++ (match s.portInfo r k.dst with
      | some p => if p.wr then [] else [illegal i 1 (portWord k.dst)]
      | none => [illegal i 1 (portWord k.dst)])
    ++ (if k.rsv ≠ 0 then [illegal i 2 0] else [])
    ++ (if need != w.litOk k || (!need && !k.imm && isLit k.src) then [illegal i 2 0] else [])

/-- Conditions 6, 10 and 11 of R73. -/
def Word4.static (w : Word4) : List WFault :=
  if w.rsv || w.limm == 3 || w.mode == 7 || decide (0x18 ≤ w.cond) || w.hint == 3 then [illegal none 3 0] else []

/-- World and privilege faults of the ports of a performed slot (R74, R153). -/
def State.slotLevel (s : State) (r : Rid) (k : Slot) : List WFault :=
  let one (p ord : Nat) : List WFault := match s.portInfo r p with
    | some i => (match s.portFault r p i with | some c => [{ code := c, slot := some k.idx, ord := ord, detail := portWord p }] | none => [])
    | none => []
  (if k.imm then [] else one k.src 0) ++ one k.dst 1

def State.isTrig (s : State) (r : Rid) (p : Nat) : Bool := match s.portInfo r p with | some i => i.trig | none => false

/-- Conditions 9 and 12 of R73 and the one-trigger rule of R80, over the performed slots. -/
def State.pairFaults (s : State) (r : Rid) (l : List Slot) : List WFault :=
  let clash (a b : Slot) : Bool :=
    a.dst == b.dst || (s.isTrig r a.dst && s.isTrig r b.dst && unitOf a.dst == unitOf b.dst)
    || (isTrpFlow a.dst && isSeqFlow b.dst) || (isSeqFlow a.dst && isTrpFlow b.dst)
  (l.filter fun a => l.any fun b => a.idx != b.idx && clash a b).map fun a => illegal (some a.idx) 2 0

/-! Values (R56 to R58) -/

/-- A performed slot with its source, whether it can be read now, and the value it delivers. -/
structure Mv where
  slot  : Slot
  ready : Bool
  q     : QVal
  val   : Word
  deriving DecidableEq, Repr

def State.mvOf (s : State) (r : Rid) (w : Word4) (res : Bool) (k : Slot) : Mv :=
  let q := s.source r w res k
  { slot := k, ready := k.imm || !(s.runner r).unready k.src, q := q, val := s.slotVal r w res k }

/-- A data-error or host-access fault of a poisoned source (R95, R98). -/
def Mv.poisoned (m : Mv) : List WFault :=
  if m.ready && !m.slot.imm && m.q.poison then
    [{ code := if m.q.host then 0xC else 0xB, slot := some m.slot.idx, ord := 0, detail := portWord m.slot.src }]
  else []

/-! Writes (R61, R66) -/

/-- Two destinations that share storage: GRD with a GRDk, an operand port with its _s entry. -/
def overlap (a b : Nat) : Bool :=
  (a == 0x40 && decide (0x41 ≤ b ∧ b ≤ 0x47)) || (b == 0x40 && decide (0x41 ≤ a ∧ a ≤ 0x47)) || (a != b && plainPort a == plainPort b && decide (0x80 ≤ a))

/-- A move to an extension block, which takes its writes in slot order, triggers among them (R120). -/
def Mv.isExt (m : Mv) : Bool := decide (0x600 ≤ m.slot.dst)

/-- The slots that are not triggers, in the order their writes take effect: the spec states none where they share storage
(notes/assumptions/25.md). -/
def State.plainMoves (s : State) (r : Rid) (l : List Mv) : List Mv × State :=
  let ms := l.filter fun m => !s.isTrig r m.slot.dst && !m.isExt
  if ms.any fun a => ms.any fun b => overlap a.slot.dst b.slot.dst then
    (if Config.freeBool s.fresh then ms else ms.reverse, { s with fresh := s.fresh + 1 })
  else (ms, s)

/-- The writes of the slots that are neither triggers nor moves to an extension block (R66). -/
def State.writeAll (s : State) (r : Rid) (l : List Mv) : State :=
  let (ms, s) := s.plainMoves r l
  s.each ms fun s m => s.writePort r m.slot.dst m.val

/-! Triggers of a word -/

/-- Flow triggers whose checks and reads use the state before their word: t_callm, t_retm, t_eret (R137, R138, R175). -/
def readsFirst (p : Nat) : Bool := p == 0x1CA || p == 0x1CB || p == 0x2B7

/-- Whether all that decides a fault is known: the trigger's value where it matters, and no waited value goes to an operand port that does (R63). -/
def Mv.knows (m : Mv) (l : List Mv) (f : FaultSet) : Bool :=
  (!f.val || m.ready) && l.all fun a => a.ready || !f.ports.contains (plainPort a.slot.dst)

/-- The faults of a performed trigger, by what decides them: `s0` is the state before the word, `s` has its plain writes. -/
def State.setsOf (s : State) (s0 : State) (r : Rid) (m : Mv) : List FaultSet :=
  let p := m.slot.dst
  if isFlow p then (if readsFirst p then s0 else s).flowSets r p m.val
  else match trigOf p with | some t => s.trigSets r t m.val | none => []

/-- What acts on the return stack (R134, R136). -/
inductive RsAct where
  | push | pop | clr
  deriving DecidableEq, Repr

/-- The fault of an action at a depth (R135), and the depth after it. -/
def RsAct.fault (ovf : Bool) (n : Nat) : RsAct → Option Nat
  | .push => if n = 16 ∧ ovf = true then some 7 else none
  | .pop => if n = 0 then some 8 else none
  | .clr => none
def RsAct.depth (n : Nat) : RsAct → Nat
  | .push => min 16 (n + 1)
  | .pop => n - 1
  | .clr => 0

/-- The action of a return-stack trigger. -/
def rsActOf (p : Nat) : Option RsAct :=
  match trigOf p with
  | some (.rs .push) => some .push
  | some (.rs .pop) => some .pop
  | some (.rs .clr) => some .clr
  | _ => none

/-- Actions on the return stack, one after the other, each with its slot (none: the next-address decision); the faults they meet (R134, R135). -/
def rsFaultsOf (ovf : Bool) : Nat → List (RsAct × Option Nat) → List WFault
  | _, [] => []
  | n, (a, i) :: t =>
    (match a.fault ovf n with
     | some c => [{ code := c, slot := i, ord := if i.isSome then 1 else 3, detail := 0 }]
     | none => []) ++ rsFaultsOf ovf (a.depth n) t

/-- What the next-address decision does to the return stack (R123, R134). -/
def State.xferAct (s : State) (r : Rid) (w : Word4) (l : List Mv) : Option (RsAct × Option Nat) :=
  match l.find? fun m => isFlow m.slot.dst with
  | some m => if m.slot.dst = 0x1C9 then some (.push, some m.slot.idx) else none
  | none =>
    if !s.seqCond r w.cond then none
    else if w.mode = 4 then some (.push, none) else if w.mode = 5 then some (.pop, none) else none

/-- A condition on FLG or on interrupts is sampled only when the word does not wait (R127). -/
def Word4.lateCond (w : Word4) (l : List Mv) (waits : Bool) : Bool :=
  waits && !(l.any fun m => isFlow m.slot.dst) && (w.mode == 4 || w.mode == 5) && (decide (0x10 ≤ w.cond ∧ w.cond ≤ 0x13) || w.cond == 0x17)

/-- A word both triggers the return stack and calls or returns: which comes first is not stated (notes/assumptions/24.md). -/
def State.rsFirst (s : State) : Bool := Config.rsFirst s.fresh

/-- The return-stack faults of a word (R135). -/
def State.rsFaults (s : State) (r : Rid) (w : Word4) (l : List Mv) (waits : Bool) : List WFault :=
  let x := s.runner r
  if w.lateCond l waits then []
  else
    let t := l.findSome? fun m => (rsActOf m.slot.dst).map fun a => (a, some m.slot.idx)
    let acts := match t, s.xferAct r w l with
      | some a, some b => if s.rsFirst then [a, b] else [b, a]
      | a, b => a.toList ++ b.toList
    rsFaultsOf (x.ctlEff.getLsbD 2) x.rs.length acts

/-- Faults of the performed triggers that can be decided now (R63, R70), those of the return stack apart. -/
def State.trigWFaults (s : State) (s0 : State) (r : Rid) (l : List Mv) : List WFault :=
  (l.filter fun m => s.isTrig r m.slot.dst && (rsActOf m.slot.dst).isNone && m.slot.dst != 0x1C9).flatMap fun m =>
    (((s.setsOf s0 r m).filter (m.knows l)).flatMap (·.fs)).map fun f => { code := f.1, slot := some m.slot.idx, ord := 1, detail := f.2 }

/-- A performed t_eret would read an uncorrectable word of its frame: machine check, which outranks every fault (R163, R175). -/
def State.frameLost (s : State) (r : Rid) (l : List Mv) : Bool :=
  let x := s.runner r
  (l.any fun m => m.slot.dst == 0x2B7 && (s.slotLevel r m.slot).isEmpty) && (s.addrFaults r (x.fsp x.cust) 8).isEmpty && !s.flowBusy r 0x2B7
  && (s.flowRead r 0x2B7).2.2

/-- Whether some trigger of a word cannot be accepted (R64, R67): `s0` is the state before the word, `s` has its plain writes. -/
def State.anyBusy (s : State) (s0 : State) (r : Rid) (l : List Mv) : Bool :=
  let x := s.runner r
  let puts := (l.filter fun m => m.slot.dst == 0x1CA || (match trigOf m.slot.dst with | some (.store _ _) => true | _ => false)).length
  decide (0 < puts ∧ 8 < x.stores.length + puts)
  || l.any fun m => if isFlow m.slot.dst then s0.flowBusy r m.slot.dst else match trigOf m.slot.dst with
    | some t => s.trigBusy r t m.val
    | none => false

/-- The phase of a trigger in its word: reads of memory, stores, the rest by port, HAU, the next address, and after it strings, what t_flush and
t_bar discard, and with `rsLate` the return-stack triggers (R61, R67, R146). -/
def phase (swap rsLate : Bool) (p : Nat) : Nat :=
  match trigOf p with
  | some (.load _ _) | some (.sync _) | some (.mul _) => p
  | some (.store one _) => 0x1000 + (if one != swap then 1 else 0)
  | some (.hau _) => 0x3000
  | some (.prd .flush) | some (.prd .bar) => 0x5000
  | some (.str _) => 0x4000
  | some (.rs _) => if rsLate then 0x3900 else 0x2000 + p
  | _ => if isFlow p then 0x3800 else 0x2000 + p

/-- The next-address decision of R124, none in resume form and where TRP decides; `x0` is the runner before the word, `c` the sampled condition,
`ws` what the flow trigger read. A return takes the return stack as it stands now. -/
def State.decision (s : State) (r : Rid) (x0 : Runner) (w : Word4) (c : Bool) (flow : Option Mv) (ws : List Word) : Option Decision :=
  if x0.resume.isSome then none
  else match flow with
    | none => some (modeDecision r { x0 with rs := (s.runner r).rs } w c x0.grd)
    | some m =>
      if isTrpFlow m.slot.dst then none else some (flowDecision r x0.pc m.slot.dst (if m.slot.dst = 0x1CB then ws.headD 0 else m.val))

/-- The next address, with what the flow trigger does besides (R104, R124). -/
def State.flowGo (s : State) (r : Rid) (x0 : Runner) (d : Option Decision) (flow : Option Mv) (ws : List Word) (own : Bool) : State :=
  match d, flow with
  | some d, some m =>
    let s := if m.slot.dst = 0x1CA then s.updR r fun y => y.callMem (x0.gr 63)
      else if m.slot.dst = 0x1CB then s.updR r fun y => y.retMem (x0.gr 63) else s
    s.updR r fun y => y.transfer x0.pc d own
  | some d, none => s.updR r fun y => y.transfer x0.pc d own
  | none, some m => if isTrpFlow m.slot.dst then s.trpGo r m.slot.dst m.val x0 ws else s.updR r fun y => { y with pc := x0.resume.getD y.pc }
  | none, none => s.updR r fun y => { y with pc := x0.resume.getD y.pc }

/-- One trigger of a word, flow triggers apart, at its phase. -/
def State.phaseGo (s : State) (r : Rid) (x0 : Runner) (m : Mv) : State :=
  match trigOf m.slot.dst with
  | some (.str k) => s.runStr r k x0.pc (s.runner r).pc m.slot.idx
  | some t => s.trigRun r t m.val
  | none => s

/-- What every commit does to the runner's own counts and marks (R48, R65, R138, R146, R165). -/
def Runner.beginCommit (x : Runner) (bar : Bool) (clk : Nat) : Runner :=
  { x.stallEnd clk with wcnt := x.wcnt + 1, tries := 0, failPar := false, first := false, noTrap := false, resume := none,
                        barStop := x.barStop && !bar }

/-- The triggers of two stores of one word: the order of their entries is not stated (notes/assumptions/25.md). -/
def twoStores (l : List Mv) : Bool :=
  (l.filter fun m => match trigOf m.slot.dst with | some (.store _ _) => true | _ => false).length == 2

/-- The word's path beyond it, once its next address stands: followed, or proved wrong (R140, R145). -/
def State.resolve (s : State) (r : Rid) (x0 : Runner) (w : Word4) (d : Option Decision) : State :=
  s.updR r fun y => y.resolve x0 w (d.any (·.call)) (d.any (·.ret))

/-- The writes of a word to extension blocks, in slot order (R120). -/
def State.extWrites (s : State) (r : Rid) (l : List Mv) : State :=
  s.each (l.filter Mv.isExt) fun s m => if s.isTrig r m.slot.dst then s.runExt r m.slot.dst m.val else s.writePort r m.slot.dst m.val

/-- The commit once nothing can stop it (R66): `x0` is the runner before the word, `c` the sampled condition, `ws` what the flow trigger read. An LSU store
enters the store buffer before t_callm's (notes/assumptions/25.md). -/
def State.commitGo (s : State) (r : Rid) (x0 : Runner) (c : Bool) (w : Word4) (l : List Mv) (ws : List Word) : State :=
  let trigs := l.filter fun m => s.isTrig r m.slot.dst && !m.isExt
  let both := (l.any fun m => (rsActOf m.slot.dst).isSome) && (s.xferAct r w l).isSome
  let rsLate := both && !s.rsFirst
  let s := if both then { s with fresh := s.fresh + 1 } else s
  let s := ((s.updR r fun x => x.beginCommit w.bar s.clkS).writeAll r l).extWrites r l
  let flow := trigs.find? fun m => isFlow m.slot.dst
  let own := l.any fun m => m.slot.dst == 0x1C0
  let two := twoStores trigs
  let swap := two && Config.freeBool s.fresh
  let s := if two then { s with fresh := s.fresh + 1 } else s
  let sorted := sortOn (fun (m : Mv) => phase swap rsLate m.slot.dst) trigs
  let early := sorted.filter fun m => decide (phase swap rsLate m.slot.dst < 0x3800)
  let late := sorted.filter fun m => decide (0x3800 < phase swap rsLate m.slot.dst)
  let s := s.each early fun s m => s.phaseGo r x0 m
  let d := s.decision r x0 w c flow ws
  let s := (s.flowGo r x0 d flow ws own).resolve r x0 w d
  let s := s.each late fun s m => s.phaseGo r x0 m
  ((s.updR r fun y => y.refetch x0.pc).follow r).setReg r.page 0x10C (BitVec.ofNat 32 (2 ^ 31 + x0.pc.toNat))

/-- A word commits (R66). An uncorrectable word that t_retm reads is a machine check after the commit, which includes the load (R138). -/
def State.commitWord (s : State) (r : Rid) (w : Word4) (l : List Mv) : State :=
  let x0 := s.runner r
  let c := s.seqCond r w.cond
  let flow := l.find? fun m => isFlow m.slot.dst
  let (s, ws, bad) := s.flowRead r ((flow.map fun m => m.slot.dst).getD 0)
  let t := s.commitGo r x0 c w l ws
  if bad then t.updR r fun x => { x with pendM := some 0x30 } else t

/-- t_eret meets an uncorrectable word of its frame: its word does not commit (R175). -/
def State.frameCheck (s : State) (r : Rid) : State :=
  let t := (s.flowRead r 0x2B7).1
  t.updR r fun x => { x.stallEnd t.clkS with pendM := some 0x30 }

/-- A word in its last cycle: a fault, a stall, or its commit (R63, R64, R66, R70, R163); with `full` an attached extension unit cannot accept its writes
(R120). -/
def State.evalWord (s : State) (r : Rid) (w : Word4) (full : Bool) : State × Bool :=
  let x := s.runner r
  let res := x.resume.isSome
  let done := w.slots.filter fun k => !k.isEmpty && (if res then isStr k.dst else guardTrue x.grd k.guard)
  let l := done.map fun k => s.mvOf r w res k
  let waits := l.any fun m => !m.ready || (m.slot.dst == 0xE2 && x.ops.any Op.isMac)
  let s1 := s.writeAll r (l.filter fun m => m.ready)
  let fs := w.static ++ (w.slots.flatMap fun k => s.slotStatic r w k) ++ (if res && done.isEmpty then [illegal none 3 0] else [])
    ++ (done.flatMap fun k => s.slotLevel r k) ++ s.pairFaults r done
    ++ (l.flatMap fun m => m.poisoned) ++ s1.trigWFaults s r l ++ (if res then [] else s.rsFaults r w l waits)
  if !waits && s.frameLost r l then (s.frameCheck r, true)
  else match worst fs with
    | some f => (s.faultNow r f.record, true)
    | none => if waits || s1.anyBusy s r l || (full && l.any Mv.isExt) then (s.stallNow r, false) else (s.commitWord r w l, true)

/-! Execution and retry (R71, R72, R75, R191) -/

/-- A check of the word failed (R71, R72): the third failure goes to machine check. -/
def Runner.failed (x : Runner) (par : Bool) (clkS : Nat) : Runner :=
  let x := { x.stallEnd clkS with tries := x.tries + 1, failPar := par, resFail := false }
  if 3 ≤ x.tries then { x with pendM := some 0x30, pendMCS := par } else x

/-- CTL's fields as they stand when a word begins (R75, R135). -/
def State.beginWord (s : State) (r : Rid) : State :=
  let x := s.runner r
  if x.tries = 0 ∧ x.stallAt.isNone = true then s.updR r fun x => { x with ctlEff := s.reg r.page 0x100 } else s

/-- One execution of the word at pc; `upset` is a failed check of this execution (R71), `full` that an extension unit cannot accept (R120). -/
def State.execWord (s : State) (r : Rid) (upset full : Bool) : State :=
  let x := s.runner r
  match x.fetched x.pc with
  | none => s
  | some raw =>
    let s := (s.follow r).beginWord r
    if (s.cstore r.home).count ≤ x.pc.toNat then s.faultNow r { code := 1 }
    else if !parityOk raw then
      (s.updCs r.home fun c => { c with errors := satCount16 c.errors }).updR r fun x => x.failed true s.clkS
    else
      let (t, ended) := s.evalWord r (wordOf raw) full
      if ended && (upset || x.resFail) then s.updR r fun x => x.failed false s.clkS else t

/-- A runner told to stop stops once its word has ended (R474); `s` is the state before. -/
def State.thenStop (t s : State) (r : Rid) : State := if (s.runner r).run = .stopping then t.settleStop r else t

/-- MOVE_WORD: the word at pc, first execution or a stall that goes on; none in a throttle cycle (R66, R71, R464). -/
def State.moveWord (s : State) (r : Rid) (upset full : Bool) : State :=
  let x := s.runner r
  if s.canStep r && !s.throttled r && (x.tries == 0 || x.stallAt.isSome) then (s.execWord r upset full).thenStop s r else s

/-- WORD_RETRY: the failed word again, fetched anew after a parity failure (R72, R182, R183); the report names the word's address
(notes/assumptions/60.md). With `rom` the routine's own words cannot be fetched (R193). -/
def State.wordRetry (s : State) (r : Rid) (upset full rom : Bool) : State :=
  let x := s.runner r
  if !s.canStep r || s.throttled r || x.tries == 0 || x.stallAt.isSome then s
  else
    let line := x.pc.toNat / 4
    let f := if x.failPar then s.fenceOf r.home line else 0
    if f = 1 then s
    else if rom then s.romFail r
    else if f = 2 then s.updR r fun x => { x with pendM := some 0x30 }
    else
      let s0 := s
      let s := s.updR r fun x => { x with rty := x.rty + 1 }
      let s := (s.wrapInc r.page 0x104 31 0).report 0x00 0 r.page r.page 0 x.pc.toNat
      let s := if x.failPar then
          let ws := s.lineWords r.home line
          s.updR r fun x =>
            let ws := if x.injPar then spoil ws (x.pc.toNat % 4) else ws
            { x with fbuf := x.fbuf.map (fun e => if e.1 = line then (line, ws) else e), ahead := [], fnext := none, injPar := false }
        else s
      (s.execWord r upset full).thenStop s0 r

/-! Single triggers -/

/-- A runner that takes a single trigger now: no word of it is being executed again (R71, R104). -/
def State.canTrig (s : State) (r : Rid) : Bool := s.canStep r && !s.throttled r && (s.runner r).tries == 0 && (s.runner r).resume.isNone

/-- The fault of naming a trigger port (R74). -/
def State.portLevel (s : State) (r : Rid) (p : Nat) (i : PortInfo) : List WFault :=
  match s.portFault r p i with
  | some c => [{ code := c, slot := some 0, ord := 1, detail := portWord p }]
  | none => []

/-- A check fails where a single trigger stands for its word (R71). -/
def State.failNow (s : State) (r : Rid) : State := s.updR r fun x => x.failed false s.clkS

/-- One trigger written at `p` with value `v`, with the checks, stalls and effects it has in a word (R61, R64, R70, R71, R74, R75). -/
def State.trigger (s : State) (r : Rid) (p : Nat) (v : Word) : State :=
  if !s.canTrig r then s
  else
    let s := s.beginWord r
    match s.portInfo r p, trigOf p with
    | some i, some t =>
      if (s.runner r).resFail then s.failNow r
      else
        let fs := s.portLevel r p i ++ (s.trigFaults r t v).map fun f => { code := f.1, slot := some 0, ord := 1, detail := f.2 }
        match worst fs with
        | some f => s.faultNow r f.record
        | none => if s.trigBusy r t v then s.stallNow r else ((s.updR r fun x => x.stallEnd s.clkS).trigRun r t v).thenStop s r
    | _, _ => s.faultNow r (illegal (some 0) 1 (portWord p)).record

/-- The word that has one flow trigger and nothing else. -/
def flowWord (p : Nat) : Word4 :=
  { rsv := false, bar := false, hint := 0, limm := 0, len := 0, mode := 0, cond := 0, target := 0, lit := 0,
    slots := [{ idx := 0, guard := 0, imm := true, src := 0, dst := p, size := 0, rsv := 0, low := 0 }] }
def flowMv (p : Nat) (v : Word) : Mv :=
  { slot := { idx := 0, guard := 0, imm := true, src := 0, dst := p, size := 0, rsv := 0, low := 0 }, ready := true, q := { val := v }, val := v }

/-- The path as it was decoded with that word at pc. -/
def State.flowPath (s : State) (r : Rid) (p : Nat) (v : Word) : State :=
  let s := s.updR r fun x => { x with ahead := [], fnext := none }
  s.setRunner r (s.decoded r (s.runner r).pc (s.runner r).rep (flowWord p) v)

/-- One flow trigger, or a trigger of STR, as a word at pc that holds nothing else: it decides the next address (R102, R124). -/
def State.flowTrigger (s : State) (r : Rid) (p : Nat) (v : Word) : State :=
  if !s.canTrig r then s
  else
    let s := s.beginWord r
    match s.portInfo r p with
    | some i =>
      if (s.runner r).resFail then s.failNow r
      else if s.frameLost r [flowMv p v] then s.frameCheck r
      else
        let fs := s.portLevel r p i ++ (s.flowFaults r p v).map fun f => { code := f.1, slot := some 0, ord := 1, detail := f.2 }
        match worst fs with
        | some f => s.faultNow r f.record
        | none => if s.anyBusy s r [flowMv p v] then s.stallNow r else ((s.flowPath r p v).commitWord r (flowWord p) [flowMv p v]).thenStop s r
    | none => s.faultNow r (illegal (some 0) 1 (portWord p)).record

/-! Strings (R101 to R103) -/

/-- Ports an element advances (R101). -/
def Runner.strStep (x : Runner) (k : StrKind) : Runner :=
  let adv (x : Runner) (p : Nat) : Runner := x.setOp p (x.op p + 8)
  let x := if k = .fill then x else adv x 0x180
  let x := if k = .scan then x else adv x 0x181
  x.setOp 0x182 (x.op 0x182 - 1)

/-- The element's reads: values, and the address of the first that was uncorrectable. -/
def State.strReads (s : State) (r : Rid) (k : StrKind) : State × Word × Word × Option Nat :=
  let x := s.runner r
  let src := (x.op 0x180).toNat; let dst := (x.op 0x181).toNat
  match k with
  | .fill => (s, 0, 0, none)
  | .cmp =>
    let (s, a) := s.loadAt r src 8
    let (s, b) := s.loadAt r dst 8
    (s, a.val, b.val, if a.poison then some src else if b.poison then some dst else none)
  | _ =>
    let (s, a) := s.loadAt r src 8
    (s, a.val, 0, if a.poison then some src else none)

/-- One element of the string operation in the hold (R93, R101, R102, R103, R464). -/
def State.strElement (s : State) (r : Rid) : State :=
  let x := s.runner r
  match x.hold with
  | none => s
  | some h =>
    if x.pendW.isSome || h.done.isSome || x.op 0x182 == 0 || s.throttled r then s
    else
      let src := (x.op 0x180).toNat; let dst := (x.op 0x181).toNat
      let reads := h.kind != .fill; let writes := h.kind == .copy || h.kind == .fill
      let touched := (if reads then [src] else []) ++ (if h.kind != .scan then [dst] else [])
      let stop (s : State) (c : Nat) (d : Word) : State :=
        s.updR r fun x => { x with pendW := some { code := c, sv := true, slot := h.slot, detail := d } }
      match worst ((touched.flatMap fun a => s.addrFaults r a 8).map fun f => { code := f.1, slot := none, ord := 0, detail := f.2 }) with
      | some f => stop s f.code f.detail
      | none =>
        if (touched.any fun a => s.wipeWaits r a) || (writes && decide (8 ≤ x.stores.length)) then s
        else
          let (s, a, b, bad) := s.strReads r h.kind
          match bad with
          | some d => stop s 0xB (BitVec.ofNat 64 d)
          | none =>
            let fill := x.op 0x183
            let found := (h.kind == .cmp && a != b) || (h.kind == .scan && a == fill)
            if found then s.updR r fun x => { x with hold := some { h with done := some 1 } }
            else
              let s := if writes then
                  s.updR r fun x => { x with stores := x.stores ++ [{ addr := dst, size := 8, data := if h.kind = .copy then a else fill }] }
                else s
              s.updR r fun x => x.strStep h.kind

/-- STR delivers q_r and the hold ends; a runner that was stopping stops (R101, R102, R474). -/
def State.strDone (s : State) (r : Rid) : State :=
  let x := s.runner r
  match x.hold with
  | none => s
  | some h =>
    if x.pendW.isSome || (h.done.isNone && x.op 0x182 != 0) then s
    else
      let s := s.updR r fun x => { x.setQ 0x19C { val := h.done.getD 0 } with hold := none }
      s.settleStop r

end Sys2Proof.Machine
end

