-- ==== Sys2Proof/Machine/Guards.lean ====
section
/-! DEFINITION. What every command checks of its own operands: that its unit is present and that the clocks it needs run (R2, R6, R456). -/
namespace Sys2Proof.Machine

/-- An event of a unit whose clock stops in QUIESCE (R456). -/
def State.awake (s : State) (f : State → State) : State := if s.mode = .quiesce then s else f s
/-- An event of a runner. -/
def State.onRunner (s : State) (r : Rid) (f : State → State) : State := if s.ridPresent r && s.mode != .quiesce then f s else s
/-- An event of a heat. -/
def State.onHeat (s : State) (h : Nat) (f : State → State) : State := if s.heatPresent h && s.mode != .quiesce then f s else s
/-- An event of a heat, or of the Arbiter, which is number 16. -/
def State.onStore (s : State) (k : Nat) (f : State → State) : State := if (s.heatPresent k || k == 16) && s.mode != .quiesce then f s else s
/-- An event of a root port. -/
def State.onRp (s : State) (p : Nat) (f : State → State) : State := if s.portPresent p && s.mode != .quiesce then f s else s
/-- An event of a pacer. -/
def State.onPacer (s : State) (n : Nat) (f : State → State) : State := if s.pacerPresent n && s.mode != .quiesce then f s else s
/-- An event of a carrier job ring. -/
def State.onJob (s : State) (h k i : Nat) (f : State → State) : State :=
  if s.heatPresent h && s.mode != .quiesce && decide (k < 4 ∧ i < 9) then f s else s
/-- An event of a ring. -/
def State.onRing (s : State) (q : Nat) (f : State → State) : State := if q < 32768 ∧ s.mode ≠ .quiesce then f s else s

/-- A register write of a row that names one of `n` units of a page range. -/
def State.unitWrite (s : State) (o : Origin) (n k p off : Nat) (d : Reg) : State := if k < n then s.regWrite o p off d else s
/-- The page of a runner exists in the page map (R470). -/
def Rid.named : Rid → Bool
  | .heat h i => decide (h < 16 ∧ i < 9)
  | .arb => true
/-- A write of a runner's PCTL. -/
def State.pctlWrite (s : State) (o : Origin) (r : Rid) (d : Reg) : State := if Rid.named r then s.regWrite o r.page 8 d else s

end Sys2Proof.Machine
end

