-- ==== Sys2Proof/Machine/CmdBoundary.lean ====
section
/-! DEFINITION. The commands at the boundary: resets, sideband events, host links, the window, snoops, the test access port (R26 to R45, R210, R306, R403, R452 to R455, R458). -/
namespace Sys2Proof.Machine

/-- COLD_RESET (R28, R44, R452): the window base is sampled, and the rails are in range. -/
def execColdReset (winbase : BitVec 24) (c : ColdIn) (s : State) : Res :=
  .next ({ s with winbase := winbase, vddLow := false }.coldStart 1 c)

/-- WARM_RESET (R447, R454, R455): performed as a cold reset in FACTORY. -/
def execWarmReset (c : ColdIn) (s : State) : Res :=
  .next (if s.mode = .factory then s.coldStart 3 c else s.warmStart)

/-- PFW_N_FALL (R45, R435, R444, R460): recognised once until the next cold reset. -/
def execPfwNFall (s : State) : Res :=
  .next (if s.pfw then s
    else ((({ s with pfw := true }.updScs fun x => { x with clearing := false }).report 0x20 1 0 0 0).safeState).when (s.mode != Mode.quiesce) State.flushTrigger)

/-- TAMPER recognised high (R306, R308, R403). -/
def execTamper (s : State) : Res :=
  .next (if s.tamper then s else ({ s with tamper := true }.report 0x20 2 0 0 0 0 true).wipeAll)

/-- LIFE_CHANGE (R29, R425, R447, R451): out of FACTORY's two states it is a cold reset, after its record. -/
def execLifeChange (code : BitVec 3) (c : ColdIn) (s : State) : Res :=
  .next (if code = s.life then s
    else if s.mode = .factory ∧ code ≠ 0 ∧ code ≠ 3 then
      let note (t : State) : State :=
        (t.record 3 (code.toNat * 2 ^ 8 + s.life.toNat) 0 0).when (decide (4 < code.toNat)) fun t => t.report 0x10 3 0 0 0 code.toNat
      { s with life := code }.coldStart 3 c note
    else s.lifeTo code)

/-- SAFE_REQ_N low (R30, R380, R403). -/
def execSafeReq (s : State) : Res :=
  .next (if s.safeReq then s else ({ s with safeReq := true }.report 0x20 0 0 0 0 0 true).safeState)

/-- SAFE_REQ_N high again (R30, R403): ports stay contained until they are released. -/
def execSafeReqRelease (s : State) : Res :=
  .next (if s.safeReq then { s with safeReq := false }.report 0x20 0 0 0 0 0 false else s)

/-- WIN_RD (R40 to R42, R458). -/
def execWinRd (link : Nat) (custody : Bool) (off size : Nat) (s : State) : Res :=
  .next (if link < 4 then s.windowRd link custody off size else s)

/-- WIN_WR (R40 to R42, R458). -/
def execWinWr (link : Nat) (custody : Bool) (off size : Nat) (data : LineData) (s : State) : Res :=
  .next (if link < 4 then s.windowWr link custody off size data else s)

/-- SCRATCHPAD_WINDOW_ACCESS (R42, R302): a window access at an offset of the scratchpad range; `refused` is a collision. -/
def execScratchpadWindowAccess (link : Nat) (custody write : Bool) (off size : Nat) (data : LineData) (refused : Bool) (s : State) : Res :=
  .next (if link < 4 ∧ 0x8000000 ≤ off ∧ off < 0xE000000 then
      match s.asleep (.link link custody) with
      | some t => t
      | none => s.spadWindow (.link link custody) link write off size data refused
    else s)

/-- DOORBELL (R41, R210): an 8-byte window write at an offset of the doorbell range. -/
def execDoorbell (link off : Nat) (data : Word) (s : State) : Res :=
  .next (if link < 4 ∧ 0x2000000 ≤ off ∧ off < 0x2040000 ∧ off % 8 = 0 then s.windowWr link false off 8 (data.setWidth 2048) else s)

/-- A snoop; in QUIESCE the always-on responder answers "not present" (R37, R458). -/
def State.snoopCmd (s : State) (link addr : Nat) : State :=
  if 4 ≤ link then s
  else if s.mode = .quiesce then s.put (.snoop link .ok false none)
  else s.snoop link (addr / 256)

/-- SNP_INV: it acts as SNP_CLEAN_INV, since a dirty line's data is returned by both (R37, R319). -/
def execSnpInv (link addr : Nat) (s : State) : Res := .next (s.snoopCmd link addr)

/-- SNP_CLEAN_INV (R37). -/
def execSnpCleanInv (link addr : Nat) (s : State) : Res := .next (s.snoopCmd link addr)

/-- TAP_ACCESS (R32, R428). -/
def execTapAccess (op : TapOp) (s : State) : Res := .next (s.awake fun s => s.tap op)

/-- REGISTER_WRITE (R17 to R24, R473 to R478). -/
def execRegisterWrite (o : Origin) (page off : Nat) (data : Reg) (s : State) : Res := .next (s.regWrite o page off data)

/-- HOST_LINK_LOST (R43, R403, R481). -/
def execHostLinkLost (k : Nat) (s : State) : Res :=
  .next (if k < 4 ∧ s.linkUp.getLsbD k = true then
      { s with linkUp := putBit s.linkUp k false, linkLost := putBit s.linkLost k true }.report 0x11 1 0 0 k 0 true
    else s)

/-- HOST_LINK_UP (R43, R403): it ends a link-lost condition that stands. -/
def execHostLinkUp (k : Nat) (s : State) : Res :=
  .next (if k < 4 then
      let lost := s.linkLost.getLsbD k
      { s with linkUp := putBit s.linkUp k true, linkLost := putBit s.linkLost k false }.when lost fun s => s.report 0x11 1 0 0 k 0 false
    else s)

/-- LINK_ERROR_CORRECTED (R405). -/
def execLinkErrorCorrected (k : Nat) (s : State) : Res :=
  .next (if k < 4 ∧ s.linkUp.getLsbD k = true then s.report 0x11 0 0 0 k else s)

/-- TAMPER_FALL (R403). -/
def execTamperFall (s : State) : Res :=
  .next (if s.tamper then { s with tamper := false }.report 0x20 2 0 0 0 0 false else s)

/-- VDD_CORE_LOSS (R44): every pacer pin becomes high-impedance. -/
def execVddCoreLoss (s : State) : Res := .next { s with vddLow := true }

end Sys2Proof.Machine
end

