-- ==== Sys2Proof/Machine/CmdMemory.lean ====
section
/-! DEFINITION. The commands of the scratchpads, the heat caches and the Starter (R303 to R350). -/
namespace Sys2Proof.Machine

/-! Scratchpad upkeep (R303 to R308) -/

/-- ECC_WRITEBACK (R303): the held corrected word is stored, with a fresh check byte. -/
def execEccWriteback (h word : Nat) (s : State) : Res :=
  .next (s.onStore h fun s =>
    if tget false (s.up h).held word then
      s.updUp h fun u => { u with ecc := u.ecc.filter fun e => e.1 != word, held := tset false u.held word false }
    else s)

/-- One interval of the scrub: the next word of each of the 32 banks is read and corrected (R303, R305, R323). -/
def State.scrubWords (s : State) (h : Nat) : State :=
  let w := s.rfld (0x30 + h) 0x114 14 0
  let s := s.each (List.range 32) fun s b => (s.readWordErr h (32 * w + b)).1
  if w + 1 < 24576 then s.setRfld (0x30 + h) 0x114 14 0 (w + 1)
  else (s.setRfld (0x30 + h) 0x114 14 0 0).wrapInc (0x30 + h) 0x114 31 16

/-- SCRUB_READ (R302, R305): `refused` reads of it met a collision and were made again. -/
def execScrubRead (h refused : Nat) (s : State) : Res :=
  .next (s.onHeat h fun s => if (s.reg (0x30 + h) 0x100).getLsbD 0 then (s.scrubWords h).collide h refused else s)

/-- WIPE_END (R307, R308). -/
def execWipeEnd (st : Nat) (s : State) : Res := .next (s.onStore st fun s => if (s.up st).wipe then s.wipeEnd st else s)

/-! Heat cache (R311 to R326) -/

/-- FILL_RESPONSE (R311): carriers that waited go on with what it gave; `err` is an upset of the line once it is stored (R322). -/
def execFillResponse (h line : Nat) (resp : Resp) (data : LineData) (err : Option Ecc) (s : State) : Res :=
  .next (s.onHeat h fun s =>
    let (s, notes) := s.fillResponse h line resp data err
    s.each notes fun s c => s.carNote h c)

/-- LOCKED_FILL (R314). -/
def execLockedFill (o : Origin) (h : Nat) (data : Reg) (s : State) : Res := .next (s.unitWrite o 16 h (0x40 + h) 0x10C data)

/-- RANGE_INVALIDATE (R315). -/
def execRangeInvalidate (o : Origin) (h : Nat) (data : Reg) (s : State) : Res := .next (s.unitWrite o 16 h (0x40 + h) 0x114 data)

/-- CACHE_CLEAN (R320). -/
def execCacheClean (o : Origin) (h : Nat) (s : State) : Res := .next (s.unitWrite o 16 h (0x40 + h) 0x100 0)

/-- CACHE_ENABLE (R320). -/
def execCacheEnable (o : Origin) (h : Nat) (s : State) : Res := .next (s.unitWrite o 16 h (0x40 + h) 0x100 1)

/-- SEED_WRITE (R326). -/
def execSeedWrite (o : Origin) (h : Nat) (data : Reg) (s : State) : Res := .next (s.unitWrite o 16 h (0x40 + h) 0x120 data)

/-- STRIDE_DETECTOR_ASSIGN (R318, R326). -/
def execStrideDetectorAssign (o : Origin) (h k : Nat) (data : Reg) (s : State) : Res :=
  .next (if k < 4 then s.unitWrite o 16 h (0x40 + h) (0x130 + 4 * k) data else s)

/-- WRITEBACK_ACK (R315, R320): the last one of a clean may let a QUIESCE entry go on (R457). -/
def execWritebackAck (h line : Nat) (s : State) : Res := .next (s.onHeat h fun s => (s.wbAck h line).quiesceEnd)

/-! The Starter (R327 to R350) -/

/-- A source that only software raises: SW0 to SW63 of a heat's slice (R327). -/
def softSource (sl src : Nat) : Bool := decide (sl < 16 ∧ src < 64)

/-- A change at a source's input (R328, R337): an edge source takes its rising edge, a level source its level. -/
def State.sourceInput (s : State) (sl src : Nat) (level : Bool) : State :=
  if !(s.heatPresent sl || sl == 16) || !s.srcOk sl src || softSource sl src then s
  else if srcLevel sl src then s.setLine sl src level
  else if level then s.raise sl src else s

/-- SOURCE_EVENT (R328). -/
def execSourceEvent (sl src : Nat) (level : Bool) (s : State) : Res := .next (s.sourceInput sl src level)

/-- An interrupt pending for a runner ends its waiting t_pop with wake, and its waiting t_waits with 1 where their time has come, else 0 (R109, R111). -/
def Runner.wakeWaits (x : Runner) (lap : Word) : Runner :=
  let settle (o : Op) : Op := match o.kind with
    | .wait v => { o with kind := .plain, res := [(0x23D, { val := BitVec.ofNat 64 (b2n (decide (v.toNat ≤ lap.toNat))) })] }
    | _ => o
  let waits := x.ops.any fun o => match o.kind with | .wait _ => true | _ => false
  let x := if x.popping then x.popDone (noRing true) else x
  if waits then
    let x := { x with ops := x.ops.map settle }
    x.ops.foldl (fun (y : Runner) _ => y.deliverOf .tim) x
  else x

/-- SOURCE_PRESENT (R331). -/
def execSourcePresent (r : Rid) (s : State) : Res :=
  .next (s.onRunner r fun s => if s.intrPending r then (s.present r).updR r fun x => x.wakeWaits s.lap else s)

/-- OFFER_WITHDRAW (R338): in the fourth cycle after its presentation the oldest offer is withdrawn. -/
def execOfferWithdraw (r : Rid) (s : State) : Res :=
  .next (s.onRunner r fun s => s.updSl r.home fun x => x.updRp r.idx fun p => { p with offers := p.offers.drop 1 })

/-- SPEND_WRITE (R336). -/
def execSpendWrite (o : Origin) (h k : Nat) (data : Reg) (s : State) : Res :=
  .next (if k < 8 then s.unitWrite o 16 h (0x10 + h) (0x220 + 4 * k) data else s)

/-- MESSAGE_FORWARD (R343). -/
def execMessageForward (r : Rid) (s : State) : Res := .next (s.onRunner r fun s => s.forward r)

/-- COALESCE_TIMEOUT (R344). -/
def execCoalesceTimeout (q : Nat) (s : State) : Res := .next (s.awake fun s => if q < 64 then s.queueDue q else s)

/-- MSG_INT_DELIVERY (R345). -/
def execMsgIntDelivery (s : State) : Res := .next (s.awake fun s => s.deliverMsg)

/-- QACK (R344). -/
def execQack (o : Origin) (data : Reg) (s : State) : Res := .next (s.regWrite o 0xB 0x114 data)

end Sys2Proof.Machine
end

