-- ==== Sys2Proof/Machine/CmdPacers.lean ====
section
/-! DEFINITION. The commands of the lap counter and the pacers (R351 to R376). -/
namespace Sys2Proof.Machine

/-- LAP_SET (R353). -/
def execLapSet (o : Origin) (data : Reg) (s : State) : Res := .next (s.regWrite o 0xD 0x10C data)

/-- LAP_CNT_READ (R353). -/
def execLapCntRead (o : Origin) (s : State) : Res := .next (s.regRead o 0xD 0x100)

/-- PACER_START (R365). -/
def execPacerStart (o : Origin) (n : Nat) (s : State) : Res := .next (s.unitWrite o 16 n (0x80 + n) 0x100 1)

/-- PACER_STOP (R366). -/
def execPacerStop (o : Origin) (n : Nat) (s : State) : Res := .next (s.unitWrite o 16 n (0x80 + n) 0x100 2)

/-- PACER_RESUME (R366). -/
def execPacerResume (o : Origin) (n : Nat) (s : State) : Res := .next (s.unitWrite o 16 n (0x80 + n) 0x100 3)

/-- PMDATA_WRITE (R367). -/
def execPmdataWrite (o : Origin) (n : Nat) (data : Reg) (s : State) : Res := .next (s.unitWrite o 16 n (0x80 + n) 0x134 data)

/-! The instructions of a pacer, each where it is the one at pc (R360 to R364) -/

/-- IDLE (R361). -/
def execIdle (n : Nat) (s : State) : Res := .next (s.onPacer n fun s => s.pacRun n 0x00)

/-- EMIT (R358). -/
def execEmit (n : Nat) (s : State) : Res := .next (s.onPacer n fun s => s.pacRun n 0x01)

/-- CAPT (R358). -/
def execCapt (n : Nat) (s : State) : Res := .next (s.onPacer n fun s => s.pacRun n 0x02)

/-- TAKE (R364). -/
def execTake (n : Nat) (s : State) : Res := .next (s.onPacer n fun s => s.pacRun n 0x03)

/-- GIVE (R364). -/
def execGive (n : Nat) (s : State) : Res := .next (s.onPacer n fun s => s.pacRun n 0x04)

/-- DRIVE (R361). -/
def execDrive (n : Nat) (s : State) : Res := .next (s.onPacer n fun s => s.pacRun n 0x05)

/-- AWAIT (R361). -/
def execAwait (n : Nat) (s : State) : Res := .next (s.onPacer n fun s => s.pacRun n 0x06)

/-- GOTO (R361). -/
def execGoto (n : Nat) (s : State) : Res := .next (s.onPacer n fun s => s.pacRun n 0x07)

/-- LATCH (R361). -/
def execLatch (n : Nat) (s : State) : Res := .next (s.onPacer n fun s => s.pacRun n 0x08)

/-- FLAG (R361). -/
def execFlag (n : Nat) (s : State) : Res := .next (s.onPacer n fun s => s.pacRun n 0x09)

/-- SCHED (R362). -/
def execSched (n : Nat) (s : State) : Res := .next (s.onPacer n fun s => s.pacRun n 0x0A)

/-- UNTIL (R362). -/
def execUntilI (n : Nat) (s : State) : Res := .next (s.onPacer n fun s => s.pacRun n 0x0B)

/-- BUMP (R361). -/
def execBump (n : Nat) (s : State) : Res := .next (s.onPacer n fun s => s.pacRun n 0x0C)

/-- STAMP (R361). -/
def execStamp (n : Nat) (s : State) : Res := .next (s.onPacer n fun s => s.pacRun n 0x0D)

/-- HALT (R361). -/
def execHalt (n : Nat) (s : State) : Res := .next (s.onPacer n fun s => s.pacRun n 0x0E)

/-- ILLOP (R361). -/
def execIllop (n : Nat) (s : State) : Res := .next (s.onPacer n fun s => s.pacIllop n)

/-! Events (R357 to R369) -/

/-- TIMED_ACTION (R362). -/
def execTimedAction (n : Nat) (s : State) : Res := .next (s.onPacer n fun s => s.timedAction n)

/-- SHORT (R369). -/
def execShort (n pin : Nat) (s : State) : Res := .next (s.onPacer n fun s => s.pacShort n pin)

/-- PIN_CLOCK_EDGE (R357). -/
def execPinClockEdge (n : Nat) (rising : Bool) (s : State) : Res := .next (s.onPacer n fun s => s.pinClock n rising)

/-- PIN_LEVEL_CHANGE (R361). -/
def execPinLevelChange (pin : Nat) (level : Bool) (s : State) : Res := .next (s.pinLevel pin level)

/-- UNTIL_REACHED (R362). -/
def execUntilReached (n : Nat) (s : State) : Res := .next (s.onPacer n fun s => s.untilEnd n)

/-- PACER_TESTS_END (R368). -/
def execPacerTestsEnd (n : Nat) (samples : List (Nat × List Bool)) (s : State) : Res := .next (s.onPacer n fun s => s.pacTestsEnd n samples)

end Sys2Proof.Machine
end

