-- ==== Sys2Proof/Machine/CmdPorts.lean ====
section
/-! DEFINITION. The commands of the root ports and the carriers (R377 to R401). -/
namespace Sys2Proof.Machine

/-! Root ports (R377 to R385, R396 to R399) -/

/-- LINK_TRAINED (R377, R378). -/
def execLinkTrained (p : Nat) (rate : BitVec 3) (width : BitVec 2) (flit rev : Bool) (inv : BitVec 8) (s : State) : Res :=
  .next (s.onRp p fun s => s.linkTrained p rate width flit rev inv)

/-- LANE_NARROW (R379). -/
def execLaneNarrow (p lane : Nat) (s : State) : Res := .next (s.onRp p fun s => s.laneNarrow p lane)

/-- CONTAINMENT (R380, R396): a port enters containment with a cause that STAT.dcause lists. -/
def execContainment (p cause : Nat) (s : State) : Res :=
  .next (s.onRp p fun s => if 1 ≤ cause ∧ cause ≤ 6 then s.containPort p cause else s)

/-- SURPRISE_DOWN (R380). -/
def execSurpriseDown (p : Nat) (s : State) : Res := .next (s.onRp p fun s => s.surpriseDown p)

/-- AER_MESSAGE (R377, R398). -/
def execAerMessage (p kind : Nat) (s : State) : Res := .next (s.onRp p fun s => s.aerMessage p kind)

/-- CONTAIN (R396): the other fields of RP.CTL are written as they stand. -/
def execContain (o : Origin) (p : Nat) (s : State) : Res := .next (s.unitWrite o 16 p (0x60 + p) 0x100 (setFld (s.reg (0x60 + p) 0x100) 31 31 1))

/-- RELEASE (R381). -/
def execRelease (o : Origin) (p : Nat) (s : State) : Res := .next (s.unitWrite o 16 p (0x60 + p) 0x100 (setFld (s.reg (0x60 + p) 0x100) 30 30 1))

/-- TRAIN_TIMEOUT (R380). -/
def execTrainTimeout (p : Nat) (s : State) : Res := .next (s.onRp p fun s => s.trainTimeout p)

/-- COMPLETION_TIMEOUT (R382). -/
def execCompletionTimeout (p id : Nat) (s : State) : Res := .next (s.onRp p fun s => s.npTimeout p id)

/-- INBOUND_WRITE (R377, R383, R384): a memory write outside the notification range of its heat, refused `busy` times in collisions, or a request
of another kind (`other`). -/
def execInboundWrite (p : Nat) (addr : Word) (data : List Byte) (busy : Nat) (other : Bool) (s : State) : Res :=
  .next (s.onRp p fun s =>
    if other then s.inboundOther p addr else if addr.getLsbD 23 then s else s.inbound p addr data busy)

/-- INBOUND_NOTIFICATION (R383). -/
def execInboundNotification (p : Nat) (addr : Word) (data : List Byte) (s : State) : Res :=
  .next (s.onRp p fun s => if addr.getLsbD 23 then s.inbound p addr data 0 else s)

/-- CFG_READ (R385). -/
def execCfgRead (o : Origin) (p : Nat) (s : State) : Res := .next (s.unitWrite o 16 p (0x60 + p) 0x128 1)

/-- CFG_WRITE (R385). -/
def execCfgWrite (o : Origin) (p : Nat) (s : State) : Res := .next (s.unitWrite o 16 p (0x60 + p) 0x128 2)

/-- CFG_COMPLETION (R385). -/
def execCfgCompletion (p : Nat) (res : BitVec 3) (data : Reg) (s : State) : Res := .next (s.onRp p fun s => s.cfgDone p res data)

/-- MARGIN_GO (R399). -/
def execMarginGo (o : Origin) (p : Nat) (data : Reg) (s : State) : Res := .next (s.unitWrite o 16 p (0x60 + p) 0x148 (setFld data 31 31 1))

/-- MARGINING_END (R399). -/
def execMarginingEnd (p : Nat) (result : BitVec 4) (s : State) : Res := .next (s.onRp p fun s => s.marginEnd p result)

/-- LINK_PARTNER_PRESENT (R377). -/
def execLinkPartnerPresent (p : Nat) (s : State) : Res := .next (s.onRp p fun s => s.partnerFound p)

/-- PORT_ERROR_DETECTED (R398). -/
def execPortErrorDetected (p : Nat) (uncorrectable : Bool) (bit : Nat) (s : State) : Res :=
  .next (s.onRp p fun s => s.portError p uncorrectable bit)

/-! Carriers (R386 to R395) -/

/-- JOB_POST (R390). -/
def execJobPost (h k i : Nat) (s : State) : Res := .next (s.onJob h k i fun s => s.jobPost h k i)

/-- CARRIER_ELEMENT (R392): `refused` is a collision at the scratchpad (R302). -/
def execCarrierElement (h k : Nat) (refused : Bool) (s : State) : Res := .next (s.onJob h k 0 fun s => s.carElement h k refused)

/-- JOB_END (R394). -/
def execJobEnd (h k i : Nat) (s : State) : Res := .next (s.onJob h k i fun s => s.jobEnd h k i)

/-- XFORM_TIMEOUT (R393). -/
def execXformTimeout (h k i : Nat) (s : State) : Res :=
  .next (s.onJob h k i fun s =>
    let j := s.job (jkey h k i)
    if j.active && j.ent'.xform && !j.xend && j.code == 0 then s.carFail h k i 0x0A else s)

/-- CARRIER_ENABLE (R395). -/
def execCarrierEnable (o : Origin) (h : Nat) (data : Reg) (s : State) : Res := .next (s.unitWrite o 16 h (0x70 + h) 0x104 data)

/-- CARRIER_HOST_RESPONSE (R394). -/
def execCarrierHostResponse (h k i : Nat) (resp : Resp) (data : LineData) (s : State) : Res :=
  .next (s.onJob h k i fun s => s.carHost h k i resp data)

/-- ADAPTER_COMPLETION (R392, R394, R398): code 0 is OK, 1 UR, 3 CA, any other another failure. -/
def execAdapterCompletion (h k i code : Nat) (data : LineData) (s : State) : Res :=
  .next (s.onJob h k i fun s =>
    match s.carPort h k i with
    | some p => ((s.carAdapter h k i code data).cplError p code).syncPort p
    | none => s.carAdapter h k i code data)

/-- TRANSFORM_END (R393): output, and where `fin` is given the end of the job, OK or error. -/
def execTransformEnd (h k i : Nat) (fin : Option Bool) (out : List Byte) (s : State) : Res := .next (s.onJob h k i fun s => s.xformEnd h k i fin out)

end Sys2Proof.Machine
end

