-- ==== Sys2Proof/Machine/CmdReferee.lean ====
section
/-! DEFINITION. The commands of the Referee, the Scoresheet and the modes (R402 to R468). -/
namespace Sys2Proof.Machine

/-! The Referee (R402 to R421) -/

/-- REPORT_ARRIVAL (R404, R406 to R408): the oldest report of reporter `n`. -/
def execReportArrival (n : Nat) (s : State) : Res := .next (s.awake fun s => s.arrive n)

/-- REPORT_TAKE (R406, R410). -/
def execReportTake (s : State) : Res := .next (s.awake fun s => s.takeReport)

/-- ENTRY_CLOSE (R411). -/
def execEntryClose (src unit elem : Nat) (s : State) : Res := .next (s.awake fun s => s.closeEntry src unit elem)

/-- SEV_CLEAR (R414): a W1C of CSTAT with sev 1, for the class CSEL names. -/
def execSevClear (o : Origin) (data : Reg) (s : State) : Res := .next (s.regWrite o 9 0x118 (setFld data 31 31 1))

/-- FAULT_OUT_UPDATE (R417). -/
def execFaultOutUpdate (s : State) : Res := .next (s.awake fun s => s.driveFault)

/-- A write of INJCTL with go 1 and a kind (R419). -/
def State.injectCmd (s : State) (o : Origin) (kind : Nat) (d : Reg) : State := s.regWrite o 9 0x300 (setFld (setFld d 31 31 1) 30 28 kind)

/-- INJECT_REPORT (R419). -/
def execInjectReport (o : Origin) (data : Reg) (s : State) : Res := .next (s.injectCmd o 0 data)

/-- INJECT_SINGLE_BIT (R419). -/
def execInjectSingleBit (o : Origin) (data : Reg) (s : State) : Res := .next (s.injectCmd o 1 data)

/-- INJECT_DOUBLE_BIT (R419). -/
def execInjectDoubleBit (o : Origin) (data : Reg) (s : State) : Res := .next (s.injectCmd o 2 data)

/-- INJECT_CS_PARITY (R419). -/
def execInjectCsParity (o : Origin) (data : Reg) (s : State) : Res := .next (s.injectCmd o 3 data)

/-- INJECT_RESIDUE (R419). -/
def execInjectResidue (o : Origin) (data : Reg) (s : State) : Res := .next (s.injectCmd o 4 data)

/-! The Scoresheet (R423 to R445) -/

/-- RECORD_COMMIT (R427, R431). -/
def execRecordCommit (s : State) : Res := .next (s.awake fun s => s.recordCommit)

/-- FLUSH (R434): a running flush takes its next beat, or writes its header; `bad` names buffered records found uncorrectable (R441). -/
def execFlush (bad : List Nat) (s : State) : Res := .next (s.awake fun s => s.flushStep bad)

/-- FLUSH_BEAT_ACK (R31, R434). -/
def execFlushBeatAck (s : State) : Res := .next (s.awake fun s => s.beatAck)

/-- OPTIME_TICK (R426): QUIESCE included. -/
def execOptimeTick (s : State) : Res := .next s.optimeTick

/-- FLUSH_REQUEST (R434). -/
def execFlushRequest (o : Origin) (s : State) : Res := .next (s.regWrite o 0xA 0x100 1)

/-- CLEAR (R443). -/
def execClear (o : Origin) (s : State) : Res := .next (s.regWrite o 0xA 0x100 0x80000000)

/-- WINDOW_FETCH (R439): `bad` names buffered records found uncorrectable (R441). -/
def execWindowFetch (o : Origin) (data : Reg) (bad : List Nat) (s : State) : Res := .next (s.regWrite o 0xA 0x144 data bad)

/-- NV_PATH_DOWN (R442). -/
def execNvPathDown (s : State) : Res := .next (s.awake fun s => s.pathDown)

/-- WINDOW_READ_RESPONSE (R439). -/
def execWindowReadResponse (recs : List Rec) (s : State) : Res := .next (s.awake fun s => s.windowRead recs)

/-- WINDOW_FETCH_TIMEOUT (R439): records not answered stay with valid 0. -/
def execWindowFetchTimeout (s : State) : Res := .next (s.awake fun s => s.updScs fun x => { x with wbusy := false })

/-! Modes (R446 to R460) -/

/-- MODE_REQ_FACTORY (R449). -/
def execModeReqFactory (o : Origin) (s : State) : Res := .next (s.regWrite o 1 0x104 0)

/-- MODE_REQ_SERVICE (R449). -/
def execModeReqService (o : Origin) (s : State) : Res := .next (s.regWrite o 1 0x104 2)

/-- MODE_REQ_QUIESCE (R457). -/
def execModeReqQuiesce (o : Origin) (s : State) : Res := .next (s.regWrite o 1 0x104 5)

/-- WAKE_TIMER (R458, R468). -/
def execWakeTimer (s : State) : Res := .next s.wakeTimer

/-- WAKE (R458, R459). -/
def execWake (s : State) : Res := .next s.wakeUp

end Sys2Proof.Machine
end

