-- ==== Sys2Proof/Machine/CmdRunner.lean ====
section
/-! DEFINITION. The commands of the runner: words, traps, starts and stops, deliveries, replays, drains, host responses (R66 to R72, R98, R106, R121, R151, R169, R170, R176, R194, R195, R302, R474). -/
namespace Sys2Proof.Machine

/-- MOVE_WORD (R66). -/
def execMoveWord (r : Rid) (upset extFull : Bool) (s : State) : Res := .next (s.moveWord r upset extFull)

/-- WORD_RETRY (R72). -/
def execWordRetry (r : Rid) (upset extFull rom : Bool) (s : State) : Res := .next (s.wordRetry r upset extFull rom)

/-- TRAP_ENTRY (R169). -/
def execTrapEntry (r : Rid) (rom : Bool) (s : State) : Res := .next (s.trapEntry r rom)

/-- MACHINE_CHECK (R176); with `rom` the routine's own words cannot be fetched (R193). -/
def execMachineCheck (r : Rid) (rom : Bool) (s : State) : Res :=
  .next (s.onRunner r fun s => if rom && (s.runner r).pendM.isSome then s.romFail r else s.machineCheck r)

/-- RUNNER_START (R151, R474). -/
def execRunnerStart (o : Origin) (r : Rid) (s : State) : Res := .next (s.pctlWrite o r 1)

/-- RUNNER_STOP (R474). -/
def execRunnerStop (o : Origin) (r : Rid) (s : State) : Res := .next (s.pctlWrite o r 0)

/-- PCTL_FENCE (R474): fence is written 1, and run as it reads. -/
def execPctlFence (o : Origin) (page : Nat) (s : State) : Res :=
  .next (match pageType s.fuses.variant page with
    | none => s.regWrite o page 8 2
    | some (t, _) => s.regWrite o page 8 (BitVec.ofNat 32 (2 + b2n (s.runBit t page))))

/-- A unit has a result to deliver. -/
def Runner.dueOf (x : Runner) (u : FUnit) : Bool := x.ops.any fun o => decide (o.unit = u) && o.due

/-- A delivery: the oldest due result of a unit; a pass in flight ends here once its acknowledgement has come; an injected residue error spoils a
result of ALU0 (R62, R195, R245, R419). -/
def State.deliverUnit (s : State) (r : Rid) (u : FUnit) : State :=
  let x := s.runner r
  if u = .alu0 ∧ x.injRes = true ∧ x.dueOf u = true then s.updR r fun x => { x with injRes := false, resFail := true }
  else if u = .bat ∧ x.dueOf u = false then
    match r with
    | .heat h i => (s.passEnd h i).updR r fun x => x.deliverOf .bat
    | .arb => s
  else s.updR r fun x => x.deliverOf u

/-- UNIT_RESULT_DELIVERY (R62). -/
def execUnitResultDelivery (r : Rid) (u : FUnit) (s : State) : Res := .next (s.onRunner r fun s => s.deliverUnit r u)

/-- Units whose results carry a residue (R71). -/
def residueUnit (u : FUnit) : Bool := u == .alu0 || u == .alu1 || u == .mul || u == .shf

/-- RESIDUE_RERUN (R71, R195): the result stays in flight and the failure is charged to the next word. -/
def execResidueRerun (r : Rid) (u : FUnit) (s : State) : Res :=
  .next (s.onRunner r fun s => if residueUnit u && (s.runner r).dueOf u then s.updR r fun x => { x with resFail := true } else s)

/-- Change the first operation that satisfies `p`. -/
def updFirst (p : Op → Bool) (f : Op → Op) : List Op → List Op
  | [] => []
  | o :: t => if p o then f o :: t else o :: updFirst p f t

/-- A collision of a runner's access is counted (R302). -/
def State.countReplay (s : State) (r : Rid) : State :=
  match r with
  | .heat h _ => (s.collide h).satInc (0x30 + h) 0x110 15 0
  | .arb => s

/-- An access of a unit that may be refused in a collision is being made: an LSU load or an access of ATM in flight, a t_mac2, an element of STR, the
staged copy of a t_cpy, and for SEQ the reads of t_retm and t_eret, which their words make (R298, R302). -/
def Runner.reads (x : Runner) (u : FUnit) : Bool :=
  match u with
  | .mul => x.ops.any Op.isMac
  | .str => x.hold.isSome
  | .hau => x.hau.any fun e => !e.load && !e.dead
  | .seq => x.run != .stopped
  | _ => x.ops.any fun o => decide (o.unit = u) && (o.isLoad || decide (u = .atm))

/-- An access of a unit is issued again. The oldest LSU load takes the value that stands now; every other access is as it was performed (R302). -/
def State.loadReplay (s : State) (r : Rid) (u : FUnit) : State :=
  let x := s.runner r
  let mine (o : Op) : Bool := decide (o.unit = u) && o.isLoad
  if !x.reads u then s
  else
    let s := match x.ops.find? mine with
      | some { kind := .load a n, .. } =>
        (match s.replayVal r a n with
         | some q => s.updR r fun x => { x with ops := updFirst mine (fun (o : Op) => { o with res := o.res.map fun (e : Nat × QVal) => (e.1, q) }) x.ops }
         | none => s)
      | _ => s
    s.countReplay r

/-- LOAD_REPLAY (R302); with `win` it is a window access of HAU to the scratchpad of that heat, in its host-window place (R99). -/
def execLoadReplay (r : Rid) (u : FUnit) (win : Option Nat) (s : State) : Res :=
  .next (s.onRunner r fun s => match win with
    | none => s.loadReplay r u
    | some h => if s.heatPresent h then s.collide h else s)

/-- The head of the store buffer may be issued: no frame is before it, and it does not wait for a wipe (R67, R170, R307). -/
def State.storeReady (s : State) (r : Rid) : Bool :=
  let x := s.runner r
  match x.stores with
  | [] => false
  | e :: _ => (x.frame.isEmpty || decide (0 < x.frameOld)) && !s.wipeWaits r e.addr

/-- STORE_DRAIN (R67, R302): `refused` is a collision, after which the entry stays at the head. -/
def execStoreDrain (r : Rid) (refused : Bool) (s : State) : Res :=
  .next (s.onRunner r fun s => if !s.storeReady r then s else if refused then s.countReplay r else s.drainStore r)

/-- The frame buffer may drain: it is its turn, and it does not wait for a wipe (R170, R307). -/
def State.frameReady (s : State) (r : Rid) : Bool :=
  let x := s.runner r
  !x.frame.isEmpty && x.frameOld == 0 && !(x.frame.any fun e => s.wipeWaits r e.1)

/-- FRAME_DRAIN (R170, R302): in order with the store buffer; `refused` is a collision, after which the frame stays. -/
def execFrameDrain (r : Rid) (refused : Bool) (s : State) : Res :=
  .next (s.onRunner r fun s => if !s.frameReady r then s else if refused then s.countReplay r else s.drainFrame r)

/-- RESERVATION_EXPIRY (R106): 4,096 CLK_R cycles, which are 2,048 of CLK_S. -/
def execReservationExpiry (r : Rid) (s : State) : Res :=
  .next (s.onRunner r fun s => match (s.runner r).resv with
    | some (_, t) => if 2048 ≤ s.clkS - t then s.updR r fun x => { x with resv := none } else s
    | none => s)

/-- The slot of the stalled word that waits for an extension result, with its port, once the stall has lasted 25,000 CLK_R cycles, which are
12,500 of CLK_S (R104, R121). -/
def State.extWait (s : State) (r : Rid) : Option (Nat × Nat) :=
  let x := s.runner r
  match s.canStep r, x.stallAt, x.fetched x.pc with
  | true, some t, some raw =>
    if s.clkS - t < 12500 then none
    else
      ((wordOf raw).slots.find? fun k => !k.isEmpty && (if x.resume.isSome then isStr k.dst else guardTrue x.grd k.guard) && !k.imm
        && decide (0x600 ≤ k.src) && x.unready k.src).map fun k => (k.idx, k.src)
  | _, _, _ => none

/-- EXT_RESULT_TIMEOUT (R121, R481); the frame's detail is the port's number (notes/assumptions/64.md). -/
def execExtResultTimeout (r : Rid) (s : State) : Res :=
  .next (s.onRunner r fun s => match s.extWait r with
    | some (slot, p) =>
      (s.faultNow r { code := 0x0D, sv := true, slot := slot, detail := portWord p }).report 0x19 1 r.page (0x90 + r.home) ((p - 0x600) / 128)
    | none => s)

/-- The unit shows `v` at a result port that was not ready; it also reports where what it received failed its parity (R121, R405). -/
def State.extReady (s : State) (r : Rid) (port : Nat) (v : Word) (parity : Bool) : State :=
  let mine (o : Op) : Bool := o.kind == OpKind.ext port
  if (s.runner r).ops.any mine then
    (s.updR r fun x => { x with ops := x.ops.filter fun o => !mine o }.setQ port { val := v }).when parity
      fun s => s.report 0x19 0 (0x90 + r.home) (0x90 + r.home) ((port - 0x600) / 128)
  else s

/-- EXT_RESULT_READY (R121). -/
def execExtResultReady (r : Rid) (port : Nat) (v : Word) (parity : Bool) (s : State) : Res :=
  .next (s.onRunner r fun s => s.extReady r port v parity)

/-- A request of HAU waits in the heat cache for a fill. -/
def waitsFor (r : Rid) (id : Nat) : Waiter → Bool
  | .hauLoad r' i _ _ | .hauStore r' i _ _ _ | .ncRead r' i _ _ | .ncWrite r' i _ _ _ => decide (r' = r) && i == id
  | _ => false
def State.hauCached (s : State) (r : Rid) (id : Nat) : Bool := !r.isArb && (s.cache r.home).fills.any fun f => f.wait.any (waitsFor r id)

/-- A request of HAU that left at the edge. -/
def isRequest (r : Rid) (id : Nat) : Out → Bool
  | .rdNc _ _ r' i _ _ | .wrNc _ _ r' i _ _ _ => decide (r' = r) && i == id
  | _ => false

/-- The bytes of a load in the block that an RD_NC has brought (R33). -/
def HauReq.extract (e : HauReq) (data : Word) : Word :=
  BitVec.ofNat 64 (data.toNat / 2 ^ (8 * (e.addr - (ncBlock e.addr e.size).1)) % 2 ^ (8 * e.size))

/-- A host response to an uncached request; BUSY asks for it again, on the link that now serves its address (R33, R34, R98). -/
def State.hauAnswer (s : State) (r : Rid) (id : Nat) (resp : Resp) (data : Word) : State :=
  match (s.runner r).hau.find? fun e => e.id == id with
  | none => s
  | some e =>
    if s.hauCached r id then s
    else match resp with
      | .ok => s.hauDone r id true (e.extract data)
      | .busy =>
        (match s.linkLive, s.out.reverse.find? (isRequest r id) with
         | true, some o => s.put (s.resend o)
         | _, _ => (s.noLink e.addr).hauDone r id false 0)
      | _ => s.hauDone r id false 0

/-- HAU_RESPONSE (R98). -/
def execHauResponse (r : Rid) (id : Nat) (resp : Resp) (data : Word) (s : State) : Res :=
  .next (s.onRunner r fun s => s.hauAnswer r id resp data)

/-- HAU_REQUEST_TIMEOUT (R98, R481): a request that waits for a fill leaves it. -/
def execHauRequestTimeout (r : Rid) (id : Nat) (s : State) : Res :=
  .next (s.onRunner r fun s => match (s.runner r).hau.find? fun e => e.id == id with
    | none => s
    | some e =>
      let leave (f : Fill) : Fill := { f with wait := f.wait.filter fun w => !waitsFor r id w }
      let s := if s.hauCached r id then s.updCache r.home fun c => { c with fills := c.fills.map leave } else s
      (s.hauDone r id false 0).report 0x10 0 r.page r.page (s.linkOf e.addr))

end Sys2Proof.Machine
end

