-- ==== Sys2Proof/Machine/CmdUnits.lean ====
section
/-! DEFINITION. The triggers of a runner's units as commands: each is one trigger slot with its value, checked, stalled and run as in a word (R83 to R116, R124 to R138, R157 to R159, R174). -/
namespace Sys2Proof.Machine

/-! Arithmetic (R83 to R91) -/

/-- ALU_ADD (R83): ALU1 where `one`. -/
def execAluAdd (r : Rid) (one : Bool) (v : Word) (s : State) : Res := .next (s.trigger r (aluBase one + 0x08) v)

/-- ALU_SUB (R83): ALU1 where `one`. -/
def execAluSub (r : Rid) (one : Bool) (v : Word) (s : State) : Res := .next (s.trigger r (aluBase one + 0x09) v)

/-- ALU_RSUB (R83): ALU1 where `one`. -/
def execAluRsub (r : Rid) (one : Bool) (v : Word) (s : State) : Res := .next (s.trigger r (aluBase one + 0x0A) v)

/-- ALU_AND (R83): ALU1 where `one`. -/
def execAluAnd (r : Rid) (one : Bool) (v : Word) (s : State) : Res := .next (s.trigger r (aluBase one + 0x0B) v)

/-- ALU_OR (R83): ALU1 where `one`. -/
def execAluOr (r : Rid) (one : Bool) (v : Word) (s : State) : Res := .next (s.trigger r (aluBase one + 0x0C) v)

/-- ALU_XOR (R83): ALU1 where `one`. -/
def execAluXor (r : Rid) (one : Bool) (v : Word) (s : State) : Res := .next (s.trigger r (aluBase one + 0x0D) v)

/-- ALU_ANDN (R83): ALU1 where `one`. -/
def execAluAndn (r : Rid) (one : Bool) (v : Word) (s : State) : Res := .next (s.trigger r (aluBase one + 0x0E) v)

/-- ALU_NEG (R83): ALU1 where `one`. -/
def execAluNeg (r : Rid) (one : Bool) (v : Word) (s : State) : Res := .next (s.trigger r (aluBase one + 0x0F) v)

/-- ALU_ABS (R83): ALU1 where `one`. -/
def execAluAbs (r : Rid) (one : Bool) (v : Word) (s : State) : Res := .next (s.trigger r (aluBase one + 0x10) v)

/-- ALU_MIN (R83): ALU1 where `one`. -/
def execAluMin (r : Rid) (one : Bool) (v : Word) (s : State) : Res := .next (s.trigger r (aluBase one + 0x11) v)

/-- ALU_MAX (R83): ALU1 where `one`. -/
def execAluMax (r : Rid) (one : Bool) (v : Word) (s : State) : Res := .next (s.trigger r (aluBase one + 0x12) v)

/-- ALU_MINU (R83): ALU1 where `one`. -/
def execAluMinu (r : Rid) (one : Bool) (v : Word) (s : State) : Res := .next (s.trigger r (aluBase one + 0x13) v)

/-- ALU_MAXU (R83): ALU1 where `one`. -/
def execAluMaxu (r : Rid) (one : Bool) (v : Word) (s : State) : Res := .next (s.trigger r (aluBase one + 0x14) v)

/-- ALU_POP (R83): ALU1 where `one`. -/
def execAluPop (r : Rid) (one : Bool) (v : Word) (s : State) : Res := .next (s.trigger r (aluBase one + 0x15) v)

/-- ALU_CLZ (R83): ALU1 where `one`. -/
def execAluClz (r : Rid) (one : Bool) (v : Word) (s : State) : Res := .next (s.trigger r (aluBase one + 0x16) v)

/-- ALU_CTZ (R83): ALU1 where `one`. -/
def execAluCtz (r : Rid) (one : Bool) (v : Word) (s : State) : Res := .next (s.trigger r (aluBase one + 0x17) v)

/-- SHF_SHL (R84). -/
def execShfShl (r : Rid) (v : Word) (s : State) : Res := .next (s.trigger r 0xC8 v)

/-- SHF_SHR (R84). -/
def execShfShr (r : Rid) (v : Word) (s : State) : Res := .next (s.trigger r 0xC9 v)

/-- SHF_SAR (R84). -/
def execShfSar (r : Rid) (v : Word) (s : State) : Res := .next (s.trigger r 0xCA v)

/-- SHF_ROL (R84). -/
def execShfRol (r : Rid) (v : Word) (s : State) : Res := .next (s.trigger r 0xCB v)

/-- SHF_ROR (R84). -/
def execShfRor (r : Rid) (v : Word) (s : State) : Res := .next (s.trigger r 0xCC v)

/-- SHF_EXT (R84). -/
def execShfExt (r : Rid) (v : Word) (s : State) : Res := .next (s.trigger r 0xCD v)

/-- SHF_EXTS (R84). -/
def execShfExts (r : Rid) (v : Word) (s : State) : Res := .next (s.trigger r 0xCE v)

/-- SHF_DEP (R84). -/
def execShfDep (r : Rid) (v : Word) (s : State) : Res := .next (s.trigger r 0xCF v)

/-- SHF_BSWAP (R84). -/
def execShfBswap (r : Rid) (v : Word) (s : State) : Res := .next (s.trigger r 0xD0 v)

/-- MUL_MUL (R85). -/
def execMulMul (r : Rid) (v : Word) (s : State) : Res := .next (s.trigger r 0xE8 v)

/-- MUL_MULU (R85). -/
def execMulMulu (r : Rid) (v : Word) (s : State) : Res := .next (s.trigger r 0xE9 v)

/-- MUL_MAC (R85, R87). -/
def execMulMac (r : Rid) (v : Word) (s : State) : Res := .next (s.trigger r 0xEA v)

/-- MUL_MAC2 (R85 to R87). -/
def execMulMac2 (r : Rid) (v : Word) (s : State) : Res := .next (s.trigger r 0xEB v)

/-- MUL_DIV (R85). -/
def execMulDiv (r : Rid) (v : Word) (s : State) : Res := .next (s.trigger r 0xEC v)

/-- MUL_DIVU (R85). -/
def execMulDivu (r : Rid) (v : Word) (s : State) : Res := .next (s.trigger r 0xED v)

/-- CMP_EQ (R88, R89). -/
def execCmpEq (r : Rid) (v : Word) (s : State) : Res := .next (s.trigger r 0x108 v)

/-- CMP_NE (R88, R89). -/
def execCmpNe (r : Rid) (v : Word) (s : State) : Res := .next (s.trigger r 0x109 v)

/-- CMP_LT (R88, R89). -/
def execCmpLt (r : Rid) (v : Word) (s : State) : Res := .next (s.trigger r 0x10A v)

/-- CMP_LE (R88, R89). -/
def execCmpLe (r : Rid) (v : Word) (s : State) : Res := .next (s.trigger r 0x10B v)

/-- CMP_GT (R88, R89). -/
def execCmpGt (r : Rid) (v : Word) (s : State) : Res := .next (s.trigger r 0x10C v)

/-- CMP_GE (R88, R89). -/
def execCmpGe (r : Rid) (v : Word) (s : State) : Res := .next (s.trigger r 0x10D v)

/-- CMP_LTU (R88, R89). -/
def execCmpLtu (r : Rid) (v : Word) (s : State) : Res := .next (s.trigger r 0x10E v)

/-- CMP_LEU (R88, R89). -/
def execCmpLeu (r : Rid) (v : Word) (s : State) : Res := .next (s.trigger r 0x10F v)

/-- CMP_GTU (R88, R89). -/
def execCmpGtu (r : Rid) (v : Word) (s : State) : Res := .next (s.trigger r 0x110 v)

/-- CMP_GEU (R88, R89). -/
def execCmpGeu (r : Rid) (v : Word) (s : State) : Res := .next (s.trigger r 0x111 v)

/-- CMP_TST (R88, R89). -/
def execCmpTst (r : Rid) (v : Word) (s : State) : Res := .next (s.trigger r 0x112 v)

/-- CMP_TSTZ (R88, R89). -/
def execCmpTstz (r : Rid) (v : Word) (s : State) : Res := .next (s.trigger r 0x113 v)

/-! Scratchpad and host access (R92 to R99) -/

/-- LSU_LD (R92): 8 bytes; LSU1 where `one`. -/
def execLsuLd (r : Rid) (one : Bool) (v : Word) (s : State) : Res := .next (s.trigger r (lsuBase one + 0x08) v)

/-- LSU_LD32 (R92): 4 bytes; LSU1 where `one`. -/
def execLsuLd32 (r : Rid) (one : Bool) (v : Word) (s : State) : Res := .next (s.trigger r (lsuBase one + 0x09) v)

/-- LSU_LD16 (R92): 2 bytes; LSU1 where `one`. -/
def execLsuLd16 (r : Rid) (one : Bool) (v : Word) (s : State) : Res := .next (s.trigger r (lsuBase one + 0x0A) v)

/-- LSU_LD8 (R92): 1 bytes; LSU1 where `one`. -/
def execLsuLd8 (r : Rid) (one : Bool) (v : Word) (s : State) : Res := .next (s.trigger r (lsuBase one + 0x0B) v)

/-- LSU_ST (R92, R67): 8 bytes. -/
def execLsuSt (r : Rid) (one : Bool) (v : Word) (s : State) : Res := .next (s.trigger r (lsuBase one + 0x10) v)

/-- LSU_ST32 (R92, R67): 4 bytes. -/
def execLsuSt32 (r : Rid) (one : Bool) (v : Word) (s : State) : Res := .next (s.trigger r (lsuBase one + 0x11) v)

/-- LSU_ST16 (R92, R67): 2 bytes. -/
def execLsuSt16 (r : Rid) (one : Bool) (v : Word) (s : State) : Res := .next (s.trigger r (lsuBase one + 0x12) v)

/-- LSU_ST8 (R92, R67): 1 bytes. -/
def execLsuSt8 (r : Rid) (one : Bool) (v : Word) (s : State) : Res := .next (s.trigger r (lsuBase one + 0x13) v)

/-- LSU_SYNC (R92). -/
def execLsuSync (r : Rid) (one : Bool) (v : Word) (s : State) : Res := .next (s.trigger r (lsuBase one + 0x18) v)

/-- HAU_LD (R96). -/
def execHauLd (r : Rid) (v : Word) (s : State) : Res := .next (s.trigger r 0x168 v)

/-- HAU_LD32 (R96). -/
def execHauLd32 (r : Rid) (v : Word) (s : State) : Res := .next (s.trigger r 0x169 v)

/-- HAU_LDNC (R96). -/
def execHauLdnc (r : Rid) (v : Word) (s : State) : Res := .next (s.trigger r 0x16A v)

/-- HAU_ST (R96). -/
def execHauSt (r : Rid) (v : Word) (s : State) : Res := .next (s.trigger r 0x170 v)

/-- HAU_ST32 (R96). -/
def execHauSt32 (r : Rid) (v : Word) (s : State) : Res := .next (s.trigger r 0x171 v)

/-- HAU_STNC (R96). -/
def execHauStnc (r : Rid) (v : Word) (s : State) : Res := .next (s.trigger r 0x172 v)

/-- HAU_CPY (R97). -/
def execHauCpy (r : Rid) (v : Word) (s : State) : Res := .next (s.trigger r 0x173 v)

/-- HAU_PREF (R96). -/
def execHauPref (r : Rid) (v : Word) (s : State) : Res := .next (s.trigger r 0x174 v)

/-- HAU_FENCE (R96). -/
def execHauFence (r : Rid) (v : Word) (s : State) : Res := .next (s.trigger r 0x178 v)

/-! Strings and atomics (R101 to R106); a string trigger is a word of its own, whose next address is decided when it commits -/

/-- STR_COPY (R101, R102). -/
def execStrCopy (r : Rid) (s : State) : Res := .next (s.flowTrigger r 0x188 0)

/-- STR_FILL (R101, R102). -/
def execStrFill (r : Rid) (s : State) : Res := .next (s.flowTrigger r 0x189 0)

/-- STR_CMP (R101, R102). -/
def execStrCmp (r : Rid) (s : State) : Res := .next (s.flowTrigger r 0x18A 0)

/-- STR_SCAN (R101, R102). -/
def execStrScan (r : Rid) (s : State) : Res := .next (s.flowTrigger r 0x18B 0)

/-- STRING_ELEMENT (R101 to R103). -/
def execStringElement (r : Rid) (s : State) : Res := .next (s.onRunner r fun s => s.strElement r)

/-- STRING_DONE (R102). -/
def execStringDone (r : Rid) (s : State) : Res := .next (s.onRunner r fun s => s.strDone r)

/-- ATM_TAS (R105). -/
def execAtmTas (r : Rid) (v : Word) (s : State) : Res := .next (s.trigger r 0x1A8 v)

/-- ATM_LR (R105, R106). -/
def execAtmLr (r : Rid) (v : Word) (s : State) : Res := .next (s.trigger r 0x1A9 v)

/-- ATM_SC (R105, R106). -/
def execAtmSc (r : Rid) (v : Word) (s : State) : Res := .next (s.trigger r 0x1AA v)

/-- ATM_CLR (R105, R106). -/
def execAtmClr (r : Rid) (v : Word) (s : State) : Res := .next (s.trigger r 0x1AB v)

/-! Rings, Starter interface, timers (R107 to R111) -/

/-- RING_POP (R109). -/
def execRingPop (r : Rid) (v : Word) (s : State) : Res := .next (s.trigger r 0x1E8 v)

/-- RING_ADV (R109). -/
def execRingAdv (r : Rid) (v : Word) (s : State) : Res := .next (s.trigger r 0x1E9 v)

/-- RING_REL (R109). -/
def execRingRel (r : Rid) (v : Word) (s : State) : Res := .next (s.trigger r 0x1EA v)

/-- RING_STAT (R108). -/
def execRingStat (r : Rid) (v : Word) (s : State) : Res := .next (s.trigger r 0x1EB v)

/-- SIG_CLAIM (R110, R332). -/
def execSigClaim (r : Rid) (v : Word) (s : State) : Res := .next (s.trigger r 0x208 v)

/-- SIG_EOI (R110, R334). -/
def execSigEoi (r : Rid) (v : Word) (s : State) : Res := .next (s.trigger r 0x209 v)

/-- SIG_PEND (R110, R336). -/
def execSigPend (r : Rid) (v : Word) (s : State) : Res := .next (s.trigger r 0x20A v)

/-- SIG_HMSG (R110, R343). -/
def execSigHmsg (r : Rid) (v : Word) (s : State) : Res := .next (s.trigger r 0x20B v)

/-- TIM_SNAP (R111). -/
def execTimSnap (r : Rid) (v : Word) (s : State) : Res := .next (s.trigger r 0x228 v)

/-- TIM_ARM0 (R111). -/
def execTimArm0 (r : Rid) (v : Word) (s : State) : Res := .next (s.trigger r 0x229 v)

/-- TIM_ARM1 (R111). -/
def execTimArm1 (r : Rid) (v : Word) (s : State) : Res := .next (s.trigger r 0x22A v)

/-- TIM_DIS (R111). -/
def execTimDis (r : Rid) (v : Word) (s : State) : Res := .next (s.trigger r 0x22B v)

/-- TIM_WDOG (R111). -/
def execTimWdog (r : Rid) (v : Word) (s : State) : Res := .next (s.trigger r 0x22C v)

/-- TIM_WAIT (R111). -/
def execTimWait (r : Rid) (v : Word) (s : State) : Res := .next (s.trigger r 0x22D v)

/-- A timer of a runner fires: its source is raised in the runner's slice (R111, R273, R327). -/
def State.fireTimer (s : State) (r : Rid) (one : Bool) : State :=
  let x := s.runner r
  match (if one then x.tim1 else x.tim0) with
  | none => s
  | some v =>
    if v.toNat ≤ s.lap.toNat then
      let src := (match r with | .heat _ i => 0xC0 + 2 * i | .arb => 6) + b2n one
      (s.updR r fun x => if one then { x with tim1 := none } else { x with tim0 := none }).raise r.home src
    else s

/-- TIMER_FIRE (R111). -/
def execTimerFire (r : Rid) (one : Bool) (s : State) : Res := .next (s.onRunner r fun s => s.fireTimer r one)

/-- A runner's watchdog expires: a report, and for the Arbiter runner the static fallback (R111, R294, R405). -/
def State.fireWatchdog (s : State) (r : Rid) : State :=
  match (s.runner r).wdog with
  | none => s
  | some v =>
    if v ≤ s.clkS then
      let s := s.updR r fun x => { x with wdog := none }
      match r with
      | .heat _ _ => s.report 0x02 0 r.page r.page 0
      | .arb => (s.report 0x05 0 r.page r.page 0).fallback 1
    else s

/-- WATCHDOG_EXPIRY (R111). -/
def execWatchdogExpiry (r : Rid) (s : State) : Res := .next (s.onRunner r fun s => s.fireWatchdog r)

/-- The t_waits whose outcome `p` names end with it; older TIM results deliver before them (R111). -/
def Runner.waitDone (x : Runner) (p : Word → Option Bool) : Runner :=
  let settle (o : Op) : Op := match o.kind with
    | .wait v => (match p v with | some b => { o with kind := .plain, res := [(0x23D, { val := BitVec.ofNat 64 (b2n b) })] } | none => o)
    | _ => o
  let x := { x with ops := x.ops.map settle }
  x.ops.foldl (fun (y : Runner) _ => y.deliverOf .tim) x

/-- A t_wait whose time the lap counter has reached. -/
def State.waitReached (s : State) (v : Word) : Option Bool := if v.toNat ≤ s.lap.toNat then some true else none

/-- T_WAIT_TIME_REACHED (R111). -/
def execTWaitTimeReached (r : Rid) (s : State) : Res := .next (s.onRunner r fun s => if (s.runner r).ops.any fun o => match o.kind with | .wait v => (s.waitReached v).isSome | _ => false
    then s.updR r fun x => x.waitDone s.waitReached else s)

/-! Batons, pacer mailbox, prediction (R112 to R115, R245 to R249) -/

/-- A pass: with `late` its acknowledgement is still to come (R245). -/
def State.passCmd (s : State) (r : Rid) (v : Word) (late : Bool) : State :=
  let was := (s.runner r).passing
  let t := s.trigger r 0x248 v
  match r with
  | .heat h i => if !late && !was && (t.runner r).passing then t.passEnd h i else t
  | .arb => t

/-- BAT_PASS (R113, R245). -/
def execBatPass (r : Rid) (v : Word) (late : Bool) (s : State) : Res := .next (s.passCmd r v late)

/-- BAT_GET (R112, R248). -/
def execBatGet (r : Rid) (v : Word) (s : State) : Res := .next (s.trigger r 0x249 v)

/-- BAT_FREE (R112, R249). -/
def execBatFree (r : Rid) (v : Word) (s : State) : Res := .next (s.trigger r 0x24A v)

/-- BATON_TIMEOUT (R113, R246). -/
def execBatonTimeout (r : Rid) (s : State) : Res := .next (s.onRunner r fun s => match r with
    | .heat h i => s.passTimeout h i
    | .arb => s)

/-- A mirror write that comes after its pass has timed out is performed (R246). -/
def State.lateMirror (s : State) (r : Rid) : State :=
  let x := s.runner r
  match r, x.late with
  | .heat _ i, some m => if x.passing then s else (s.mirrorWrite m i).updR r fun x => { x with late := none }
  | _, _ => s

/-- LATE_MIRROR_WRITE (R246). -/
def execLateMirrorWrite (r : Rid) (s : State) : Res := .next (s.onRunner r fun s => s.lateMirror r)

/-- PCR_PUSH (R114). -/
def execPcrPush (r : Rid) (v : Word) (s : State) : Res := .next (s.trigger r 0x268 v)

/-- PCR_PULL (R114). -/
def execPcrPull (r : Rid) (v : Word) (s : State) : Res := .next (s.trigger r 0x269 v)

/-- PRD_FLUSH (R146). -/
def execPrdFlush (r : Rid) (v : Word) (s : State) : Res := .next (s.trigger r 0x288 v)

/-- PRD_BAR (R146). -/
def execPrdBar (r : Rid) (v : Word) (s : State) : Res := .next (s.trigger r 0x289 v)

/-- PRD_SNAP (R115). -/
def execPrdSnap (r : Rid) (v : Word) (s : State) : Res := .next (s.trigger r 0x28A v)

/-- PRD_CLRC (R115). -/
def execPrdClrc (r : Rid) (v : Word) (s : State) : Res := .next (s.trigger r 0x28B v)

/-! Traps and sequencing: each decides the next address (R124 to R138, R157 to R159, R174) -/

/-- TRP_CALL (R157). -/
def execTrpCall (r : Rid) (v : Word) (s : State) : Res := .next (s.flowTrigger r 0x2B4 v)

/-- TRP_GATE (R158). -/
def execTrpGate (r : Rid) (v : Word) (s : State) : Res := .next (s.flowTrigger r 0x2B5 v)

/-- TRP_SRET (R159). -/
def execTrpSret (r : Rid) (v : Word) (s : State) : Res := .next (s.flowTrigger r 0x2B6 v)

/-- TRP_ERET (R174). -/
def execTrpEret (r : Rid) (v : Word) (s : State) : Res := .next (s.flowTrigger r 0x2B7 v)

/-- SEQ_JMPI (R128). -/
def execSeqJmpi (r : Rid) (v : Word) (s : State) : Res := .next (s.flowTrigger r 0x1C8 v)

/-- SEQ_CALLI (R128). -/
def execSeqCalli (r : Rid) (v : Word) (s : State) : Res := .next (s.flowTrigger r 0x1C9 v)

/-- SEQ_CALLM (R137). -/
def execSeqCallm (r : Rid) (v : Word) (s : State) : Res := .next (s.flowTrigger r 0x1CA v)

/-- SEQ_RETM (R138). -/
def execSeqRetm (r : Rid) (v : Word) (s : State) : Res := .next (s.flowTrigger r 0x1CB v)

/-- SEQ_REP (R129). -/
def execSeqRep (r : Rid) (v : Word) (s : State) : Res := .next (s.flowTrigger r 0x1CC v)

/-- SEQ_RSPUSH (R128, R136). -/
def execSeqRspush (r : Rid) (v : Word) (s : State) : Res := .next (s.trigger r 0x1CD v)

/-- SEQ_RSPOP (R128, R136). -/
def execSeqRspop (r : Rid) (v : Word) (s : State) : Res := .next (s.trigger r 0x1CE v)

/-- SEQ_RSCLR (R128, R136). -/
def execSeqRsclr (r : Rid) (v : Word) (s : State) : Res := .next (s.trigger r 0x1CF v)

/-- SEQ_RSRD (R128, R136). -/
def execSeqRsrd (r : Rid) (v : Word) (s : State) : Res := .next (s.trigger r 0x1D0 v)

end Sys2Proof.Machine
end

