-- ==== Sys2Proof/Machine/CmdWork.lean ====
section
/-! DEFINITION. The commands of control stores and images, rings and their scheduler, fences, the Arbiter (R177 to R215, R257 to R295). -/
namespace Sys2Proof.Machine

/-! Control stores and images (R177 to R204) -/

/-- LINE_FETCH (R177). -/
def execLineFetch (r : Rid) (s : State) : Res := .next (s.onRunner r fun s => s.lineFetch r)

/-- CSTORE_SCRUB_READ (R186). -/
def execCstoreScrubRead (st : Nat) (s : State) : Res := .next (s.onStore st fun s => s.scrubLine st)

/-- RELOAD (R184, R185). -/
def execReload (hdr seg : HostData) (s : State) : Res := .next (s.awake fun s => s.reload hdr seg)

/-- IMG_GO (R190, R201): an accepted go reads the header, `hdr`. -/
def execImgGo (o : Origin) (hdr : HostData) (s : State) : Res :=
  let was := s.imgWaits
  let t := s.regWrite o 6 0x100 1
  .next (if !was && t.imgWaits then t.imgHeader hdr else t)

/-- IMG_ABORT (R201). -/
def execImgAbort (o : Origin) (s : State) : Res := .next (s.regWrite o 6 0x100 2)

/-- IMG_SEGMENT (R190). -/
def execImgSegment (d : HostData) (s : State) : Res := .next (s.awake fun s => s.imgSegment d)

/-- IMG_REQUEST_TIMEOUT (R184, R190). -/
def execImgRequestTimeout (link : Nat) (s : State) : Res := .next (s.awake fun s => s.imgTimeout link)

/-! Rings (R209, R214, R234) -/

/-- Whether the commit of RCTL_HI would carry en 1: the held half of RCTL_LO, or the ring's word where none is held (R17, R235). -/
def State.rctlEn (s : State) : Bool := (s.loHalf 0xC 0x108 (s.curVal .rsch 0 0xC 0x108)).getLsbD 3

/-- RING_ENABLE (R209): the commit of RCTL_HI with en 1. -/
def execRingEnable (o : Origin) (data : Reg) (s : State) : Res := .next (if s.rctlEn then s.regWrite o 0xC 0x10C data else s)

/-- RING_DISABLE (R209): the commit of RCTL_HI with en 0. -/
def execRingDisable (o : Origin) (data : Reg) (s : State) : Res := .next (if s.rctlEn then s else s.regWrite o 0xC 0x10C data)

/-- RING_DISABLE_EFFECT (R209). -/
def execRingDisableEffect (q : Nat) (s : State) : Res := .next (s.onRing q fun s => s.disableRing q)

/-- RSEL_SNAPSHOT (R234). -/
def execRselSnapshot (o : Origin) (data : Reg) (s : State) : Res := .next (s.regWrite o 0xC 0x100 data)

/-- RING_HANDOUT (R213, R214, R447, R457): no ring is handed out in COLDSTART, during a QUIESCE entry or after PFW_N. -/
def execRingHandout (h : Nat) (s : State) : Res :=
  .next (s.onHeat h fun s => if !s.heatUp h || s.qpend || s.pfw || s.mode == .coldstart then s else s.handout h (List.range 9))

/-! Fences (R257, R261, R265) -/

/-- RUNNER_FENCE (R257). -/
def execRunnerFence (r : Rid) (s : State) : Res := .next (s.onRunner r fun s => s.runnerFence r)

/-- HEAT_FENCE (R261). -/
def execHeatFence (h : Nat) (s : State) : Res := .next (s.onHeat h fun s => s.heatFence h)

/-- HEAT_START (R265). -/
def execHeatStart (o : Origin) (h : Nat) (s : State) : Res := .next (s.unitWrite o 16 h (0x10 + h) 8 1)

/-- REMIRROR_END (R265). -/
def execRemirrorEnd (h : Nat) (s : State) : Res := .next (s.onHeat h fun s => if s.heatUp h then s.remirrorEnd h else s)

/-! The Arbiter (R274 to R295) -/

/-- WINDOW_END (R274, R292, R463). -/
def execWindowEnd (temps : List Int) (s : State) : Res := .next (s.windowEnd temps)

/-- MSEL_SNAPSHOT (R275). -/
def execMselSnapshot (o : Origin) (data : Reg) (s : State) : Res := .next (s.regWrite o 7 0x108 data)

/-- PLACE (R281): PCMD with op 0b01. -/
def execPlace (o : Origin) (data : Reg) (s : State) : Res := .next (s.regWrite o 7 0x120 (setFld data 31 30 1))

/-- MIGRATE (R282): PCMD with op 0b10. -/
def execMigrate (o : Origin) (data : Reg) (s : State) : Res := .next (s.regWrite o 7 0x120 (setFld data 31 30 2))

/-- COMMAND_BEGIN (R279). -/
def execCommandBegin (s : State) : Res := .next (s.awake fun s => if s.canBegin then s.beginCmd else s)

/-- MIGRATE_MOVE (R282 steps 2 to 4). -/
def execMigrateMove (q : Nat) (s : State) : Res :=
  .next (s.onRing q fun s =>
    let x := s.ring q
    if x.migMv && x.frozen && !x.fzRun && !x.fzHeat && !s.passPending q then s.moveRing q else s)

/-- PRES_READ (R280). -/
def execPresRead (o : Origin) (s : State) : Res := .next (s.regRead o 7 0x124)

/-- POOL_WRITE (R289). -/
def execPoolWrite (o : Origin) (data : Reg) (s : State) : Res := .next (s.regWrite o 7 0x130 data)

/-- PATHW (R290). -/
def execPathw (o : Origin) (data : Reg) (s : State) : Res := .next (s.regWrite o 7 0x134 data)

/-- The cause of a fallback stands (R294, R295): watchdog, machine check, stopped, fenced. -/
def State.fallbackDue (s : State) (cause : Nat) : Bool :=
  let x := s.arbRun
  match cause with
  | 1 => match x.wdog with | some v => decide (v ≤ s.clkS) | none => false
  | 2 => x.run == .handoff
  | 3 => x.run == .stopped && !x.fenced
  | 4 => x.fenced
  | _ => false

/-- FALLBACK_BEGIN (R294). -/
def execFallbackBegin (cause : Nat) (s : State) : Res := .next (s.awake fun s => if s.fallbackDue cause then s.fallback cause else s)

/-- FALLBACK_PLACE (R294). -/
def execFallbackPlace (q : Nat) (s : State) : Res := .next (s.onRing q fun s => s.fallbackPlace q)

/-- FALLBACK_RESUME (R295). -/
def execFallbackResume (o : Origin) (data : Reg) (s : State) : Res := .next (s.regWrite o 7 0x104 (setFld data 0 0 1))

end Sys2Proof.Machine
end

