-- ==== Sys2Proof/Machine/Dispatch.lean ====
section
/-! DEFINITION. One arm per command: each is one call of its meaning. -/
namespace Sys2Proof.Machine

/-- The meaning of a command. -/
def exec (i : Instr) (s : State) : Host.Outcome State Fault Refusal :=
  match i with
  | .coldReset winbase c => Sys2Proof.Machine.execColdReset winbase c s
  | .warmReset c => Sys2Proof.Machine.execWarmReset c s
  | .pfwNFall => Sys2Proof.Machine.execPfwNFall s
  | .tamper => Sys2Proof.Machine.execTamper s
  | .lifeChange code c => Sys2Proof.Machine.execLifeChange code c s
  | .safeReq => Sys2Proof.Machine.execSafeReq s
  | .safeReqRelease => Sys2Proof.Machine.execSafeReqRelease s
  | .winRd link custody off size => Sys2Proof.Machine.execWinRd link custody off size s
  | .winWr link custody off size data => Sys2Proof.Machine.execWinWr link custody off size data s
  | .scratchpadWindowAccess link custody write off size data refused => Sys2Proof.Machine.execScratchpadWindowAccess link custody write off size data refused s
  | .doorbell link off data => Sys2Proof.Machine.execDoorbell link off data s
  | .snpInv link addr => Sys2Proof.Machine.execSnpInv link addr s
  | .snpCleanInv link addr => Sys2Proof.Machine.execSnpCleanInv link addr s
  | .tapAccess op => Sys2Proof.Machine.execTapAccess op s
  | .registerWrite o page off data => Sys2Proof.Machine.execRegisterWrite o page off data s
  | .moveWord r upset extFull => Sys2Proof.Machine.execMoveWord r upset extFull s
  | .wordRetry r upset extFull rom => Sys2Proof.Machine.execWordRetry r upset extFull rom s
  | .trapEntry r rom => Sys2Proof.Machine.execTrapEntry r rom s
  | .machineCheck r rom => Sys2Proof.Machine.execMachineCheck r rom s
  | .runnerStart o r => Sys2Proof.Machine.execRunnerStart o r s
  | .runnerStop o r => Sys2Proof.Machine.execRunnerStop o r s
  | .pctlFence o page => Sys2Proof.Machine.execPctlFence o page s
  | .unitResultDelivery r u => Sys2Proof.Machine.execUnitResultDelivery r u s
  | .residueRerun r u => Sys2Proof.Machine.execResidueRerun r u s
  | .loadReplay r u win => Sys2Proof.Machine.execLoadReplay r u win s
  | .storeDrain r refused => Sys2Proof.Machine.execStoreDrain r refused s
  | .frameDrain r refused => Sys2Proof.Machine.execFrameDrain r refused s
  | .reservationExpiry r => Sys2Proof.Machine.execReservationExpiry r s
  | .extResultTimeout r => Sys2Proof.Machine.execExtResultTimeout r s
  | .hauResponse r id resp data => Sys2Proof.Machine.execHauResponse r id resp data s
  | .hauRequestTimeout r id => Sys2Proof.Machine.execHauRequestTimeout r id s
  | .aluAdd r one v => Sys2Proof.Machine.execAluAdd r one v s
  | .aluSub r one v => Sys2Proof.Machine.execAluSub r one v s
  | .aluRsub r one v => Sys2Proof.Machine.execAluRsub r one v s
  | .aluAnd r one v => Sys2Proof.Machine.execAluAnd r one v s
  | .aluOr r one v => Sys2Proof.Machine.execAluOr r one v s
  | .aluXor r one v => Sys2Proof.Machine.execAluXor r one v s
  | .aluAndn r one v => Sys2Proof.Machine.execAluAndn r one v s
  | .aluNeg r one v => Sys2Proof.Machine.execAluNeg r one v s
  | .aluAbs r one v => Sys2Proof.Machine.execAluAbs r one v s
  | .aluMin r one v => Sys2Proof.Machine.execAluMin r one v s
  | .aluMax r one v => Sys2Proof.Machine.execAluMax r one v s
  | .aluMinu r one v => Sys2Proof.Machine.execAluMinu r one v s
  | .aluMaxu r one v => Sys2Proof.Machine.execAluMaxu r one v s
  | .aluPop r one v => Sys2Proof.Machine.execAluPop r one v s
  | .aluClz r one v => Sys2Proof.Machine.execAluClz r one v s
  | .aluCtz r one v => Sys2Proof.Machine.execAluCtz r one v s
  | .shfShl r v => Sys2Proof.Machine.execShfShl r v s
  | .shfShr r v => Sys2Proof.Machine.execShfShr r v s
  | .shfSar r v => Sys2Proof.Machine.execShfSar r v s
  | .shfRol r v => Sys2Proof.Machine.execShfRol r v s
  | .shfRor r v => Sys2Proof.Machine.execShfRor r v s
  | .shfExt r v => Sys2Proof.Machine.execShfExt r v s
  | .shfExts r v => Sys2Proof.Machine.execShfExts r v s
  | .shfDep r v => Sys2Proof.Machine.execShfDep r v s
  | .shfBswap r v => Sys2Proof.Machine.execShfBswap r v s
  | .mulMul r v => Sys2Proof.Machine.execMulMul r v s
  | .mulMulu r v => Sys2Proof.Machine.execMulMulu r v s
  | .mulMac r v => Sys2Proof.Machine.execMulMac r v s
  | .mulMac2 r v => Sys2Proof.Machine.execMulMac2 r v s
  | .mulDiv r v => Sys2Proof.Machine.execMulDiv r v s
  | .mulDivu r v => Sys2Proof.Machine.execMulDivu r v s
  | .cmpEq r v => Sys2Proof.Machine.execCmpEq r v s
  | .cmpNe r v => Sys2Proof.Machine.execCmpNe r v s
  | .cmpLt r v => Sys2Proof.Machine.execCmpLt r v s
  | .cmpLe r v => Sys2Proof.Machine.execCmpLe r v s
  | .cmpGt r v => Sys2Proof.Machine.execCmpGt r v s
  | .cmpGe r v => Sys2Proof.Machine.execCmpGe r v s
  | .cmpLtu r v => Sys2Proof.Machine.execCmpLtu r v s
  | .cmpLeu r v => Sys2Proof.Machine.execCmpLeu r v s
  | .cmpGtu r v => Sys2Proof.Machine.execCmpGtu r v s
  | .cmpGeu r v => Sys2Proof.Machine.execCmpGeu r v s
  | .cmpTst r v => Sys2Proof.Machine.execCmpTst r v s
  | .cmpTstz r v => Sys2Proof.Machine.execCmpTstz r v s
  | .lsuLd r one v => Sys2Proof.Machine.execLsuLd r one v s
  | .lsuLd32 r one v => Sys2Proof.Machine.execLsuLd32 r one v s
  | .lsuLd16 r one v => Sys2Proof.Machine.execLsuLd16 r one v s
  | .lsuLd8 r one v => Sys2Proof.Machine.execLsuLd8 r one v s
  | .lsuSt r one v => Sys2Proof.Machine.execLsuSt r one v s
  | .lsuSt32 r one v => Sys2Proof.Machine.execLsuSt32 r one v s
  | .lsuSt16 r one v => Sys2Proof.Machine.execLsuSt16 r one v s
  | .lsuSt8 r one v => Sys2Proof.Machine.execLsuSt8 r one v s
  | .lsuSync r one v => Sys2Proof.Machine.execLsuSync r one v s
  | .hauLd r v => Sys2Proof.Machine.execHauLd r v s
  | .hauLd32 r v => Sys2Proof.Machine.execHauLd32 r v s
  | .hauLdnc r v => Sys2Proof.Machine.execHauLdnc r v s
  | .hauSt r v => Sys2Proof.Machine.execHauSt r v s
  | .hauSt32 r v => Sys2Proof.Machine.execHauSt32 r v s
  | .hauStnc r v => Sys2Proof.Machine.execHauStnc r v s
  | .hauCpy r v => Sys2Proof.Machine.execHauCpy r v s
  | .hauPref r v => Sys2Proof.Machine.execHauPref r v s
  | .hauFence r v => Sys2Proof.Machine.execHauFence r v s
  | .strCopy r => Sys2Proof.Machine.execStrCopy r s
  | .strFill r => Sys2Proof.Machine.execStrFill r s
  | .strCmp r => Sys2Proof.Machine.execStrCmp r s
  | .strScan r => Sys2Proof.Machine.execStrScan r s
  | .stringElement r => Sys2Proof.Machine.execStringElement r s
  | .stringDone r => Sys2Proof.Machine.execStringDone r s
  | .atmTas r v => Sys2Proof.Machine.execAtmTas r v s
  | .atmLr r v => Sys2Proof.Machine.execAtmLr r v s
  | .atmSc r v => Sys2Proof.Machine.execAtmSc r v s
  | .atmClr r v => Sys2Proof.Machine.execAtmClr r v s
  | .ringPop r v => Sys2Proof.Machine.execRingPop r v s
  | .ringAdv r v => Sys2Proof.Machine.execRingAdv r v s
  | .ringRel r v => Sys2Proof.Machine.execRingRel r v s
  | .ringStat r v => Sys2Proof.Machine.execRingStat r v s
  | .ringHandout h => Sys2Proof.Machine.execRingHandout h s
  | .sigClaim r v => Sys2Proof.Machine.execSigClaim r v s
  | .sigEoi r v => Sys2Proof.Machine.execSigEoi r v s
  | .sigPend r v => Sys2Proof.Machine.execSigPend r v s
  | .sigHmsg r v => Sys2Proof.Machine.execSigHmsg r v s
  | .timSnap r v => Sys2Proof.Machine.execTimSnap r v s
  | .timArm0 r v => Sys2Proof.Machine.execTimArm0 r v s
  | .timArm1 r v => Sys2Proof.Machine.execTimArm1 r v s
  | .timDis r v => Sys2Proof.Machine.execTimDis r v s
  | .timWdog r v => Sys2Proof.Machine.execTimWdog r v s
  | .timWait r v => Sys2Proof.Machine.execTimWait r v s
  | .timerFire r one => Sys2Proof.Machine.execTimerFire r one s
  | .watchdogExpiry r => Sys2Proof.Machine.execWatchdogExpiry r s
  | .batPass r v late => Sys2Proof.Machine.execBatPass r v late s
  | .batGet r v => Sys2Proof.Machine.execBatGet r v s
  | .batFree r v => Sys2Proof.Machine.execBatFree r v s
  | .batonTimeout r => Sys2Proof.Machine.execBatonTimeout r s
  | .pcrPush r v => Sys2Proof.Machine.execPcrPush r v s
  | .pcrPull r v => Sys2Proof.Machine.execPcrPull r v s
  | .prdFlush r v => Sys2Proof.Machine.execPrdFlush r v s
  | .prdBar r v => Sys2Proof.Machine.execPrdBar r v s
  | .prdSnap r v => Sys2Proof.Machine.execPrdSnap r v s
  | .prdClrc r v => Sys2Proof.Machine.execPrdClrc r v s
  | .trpCall r v => Sys2Proof.Machine.execTrpCall r v s
  | .trpGate r v => Sys2Proof.Machine.execTrpGate r v s
  | .trpSret r v => Sys2Proof.Machine.execTrpSret r v s
  | .trpEret r v => Sys2Proof.Machine.execTrpEret r v s
  | .seqJmpi r v => Sys2Proof.Machine.execSeqJmpi r v s
  | .seqCalli r v => Sys2Proof.Machine.execSeqCalli r v s
  | .seqCallm r v => Sys2Proof.Machine.execSeqCallm r v s
  | .seqRetm r v => Sys2Proof.Machine.execSeqRetm r v s
  | .seqRep r v => Sys2Proof.Machine.execSeqRep r v s
  | .seqRspush r v => Sys2Proof.Machine.execSeqRspush r v s
  | .seqRspop r v => Sys2Proof.Machine.execSeqRspop r v s
  | .seqRsclr r v => Sys2Proof.Machine.execSeqRsclr r v s
  | .seqRsrd r v => Sys2Proof.Machine.execSeqRsrd r v s
  | .lineFetch r => Sys2Proof.Machine.execLineFetch r s
  | .cstoreScrubRead st => Sys2Proof.Machine.execCstoreScrubRead st s
  | .reload hdr seg => Sys2Proof.Machine.execReload hdr seg s
  | .imgGo o hdr => Sys2Proof.Machine.execImgGo o hdr s
  | .imgAbort o => Sys2Proof.Machine.execImgAbort o s
  | .imgSegment d => Sys2Proof.Machine.execImgSegment d s
  | .ringEnable o data => Sys2Proof.Machine.execRingEnable o data s
  | .ringDisable o data => Sys2Proof.Machine.execRingDisable o data s
  | .ringDisableEffect q => Sys2Proof.Machine.execRingDisableEffect q s
  | .rselSnapshot o data => Sys2Proof.Machine.execRselSnapshot o data s
  | .runnerFence r => Sys2Proof.Machine.execRunnerFence r s
  | .heatFence h => Sys2Proof.Machine.execHeatFence h s
  | .heatStart o h => Sys2Proof.Machine.execHeatStart o h s
  | .remirrorEnd h => Sys2Proof.Machine.execRemirrorEnd h s
  | .windowEnd temps => Sys2Proof.Machine.execWindowEnd temps s
  | .mselSnapshot o data => Sys2Proof.Machine.execMselSnapshot o data s
  | .place o data => Sys2Proof.Machine.execPlace o data s
  | .migrate o data => Sys2Proof.Machine.execMigrate o data s
  | .commandBegin => Sys2Proof.Machine.execCommandBegin s
  | .migrateMove q => Sys2Proof.Machine.execMigrateMove q s
  | .presRead o => Sys2Proof.Machine.execPresRead o s
  | .poolWrite o data => Sys2Proof.Machine.execPoolWrite o data s
  | .pathw o data => Sys2Proof.Machine.execPathw o data s
  | .fallbackBegin cause => Sys2Proof.Machine.execFallbackBegin cause s
  | .fallbackPlace q => Sys2Proof.Machine.execFallbackPlace q s
  | .fallbackResume o data => Sys2Proof.Machine.execFallbackResume o data s
  | .eccWriteback h word => Sys2Proof.Machine.execEccWriteback h word s
  | .scrubRead h refused => Sys2Proof.Machine.execScrubRead h refused s
  | .wipeEnd st => Sys2Proof.Machine.execWipeEnd st s
  | .fillResponse h line resp data err => Sys2Proof.Machine.execFillResponse h line resp data err s
  | .lockedFill o h data => Sys2Proof.Machine.execLockedFill o h data s
  | .rangeInvalidate o h data => Sys2Proof.Machine.execRangeInvalidate o h data s
  | .cacheClean o h => Sys2Proof.Machine.execCacheClean o h s
  | .cacheEnable o h => Sys2Proof.Machine.execCacheEnable o h s
  | .seedWrite o h data => Sys2Proof.Machine.execSeedWrite o h data s
  | .strideDetectorAssign o h k data => Sys2Proof.Machine.execStrideDetectorAssign o h k data s
  | .sourceEvent sl src level => Sys2Proof.Machine.execSourceEvent sl src level s
  | .sourcePresent r => Sys2Proof.Machine.execSourcePresent r s
  | .offerWithdraw r => Sys2Proof.Machine.execOfferWithdraw r s
  | .spendWrite o h k data => Sys2Proof.Machine.execSpendWrite o h k data s
  | .messageForward r => Sys2Proof.Machine.execMessageForward r s
  | .coalesceTimeout q => Sys2Proof.Machine.execCoalesceTimeout q s
  | .msgIntDelivery => Sys2Proof.Machine.execMsgIntDelivery s
  | .qack o data => Sys2Proof.Machine.execQack o data s
  | .lapSet o data => Sys2Proof.Machine.execLapSet o data s
  | .lapCntRead o => Sys2Proof.Machine.execLapCntRead o s
  | .pacerStart o n => Sys2Proof.Machine.execPacerStart o n s
  | .pacerStop o n => Sys2Proof.Machine.execPacerStop o n s
  | .pacerResume o n => Sys2Proof.Machine.execPacerResume o n s
  | .pmdataWrite o n data => Sys2Proof.Machine.execPmdataWrite o n data s
  | .idle n => Sys2Proof.Machine.execIdle n s
  | .emit n => Sys2Proof.Machine.execEmit n s
  | .capt n => Sys2Proof.Machine.execCapt n s
  | .take n => Sys2Proof.Machine.execTake n s
  | .give n => Sys2Proof.Machine.execGive n s
  | .drive n => Sys2Proof.Machine.execDrive n s
  | .await n => Sys2Proof.Machine.execAwait n s
  | .goto n => Sys2Proof.Machine.execGoto n s
  | .latch n => Sys2Proof.Machine.execLatch n s
  | .flag n => Sys2Proof.Machine.execFlag n s
  | .sched n => Sys2Proof.Machine.execSched n s
  | .untilI n => Sys2Proof.Machine.execUntilI n s
  | .bump n => Sys2Proof.Machine.execBump n s
  | .stamp n => Sys2Proof.Machine.execStamp n s
  | .halt n => Sys2Proof.Machine.execHalt n s
  | .illop n => Sys2Proof.Machine.execIllop n s
  | .timedAction n => Sys2Proof.Machine.execTimedAction n s
  | .short n pin => Sys2Proof.Machine.execShort n pin s
  | .linkTrained p rate width flit rev inv => Sys2Proof.Machine.execLinkTrained p rate width flit rev inv s
  | .laneNarrow p lane => Sys2Proof.Machine.execLaneNarrow p lane s
  | .containment p cause => Sys2Proof.Machine.execContainment p cause s
  | .surpriseDown p => Sys2Proof.Machine.execSurpriseDown p s
  | .aerMessage p kind => Sys2Proof.Machine.execAerMessage p kind s
  | .contain o p => Sys2Proof.Machine.execContain o p s
  | .release o p => Sys2Proof.Machine.execRelease o p s
  | .trainTimeout p => Sys2Proof.Machine.execTrainTimeout p s
  | .completionTimeout p id => Sys2Proof.Machine.execCompletionTimeout p id s
  | .inboundWrite p addr data busy other => Sys2Proof.Machine.execInboundWrite p addr data busy other s
  | .inboundNotification p addr data => Sys2Proof.Machine.execInboundNotification p addr data s
  | .cfgRead o p => Sys2Proof.Machine.execCfgRead o p s
  | .cfgWrite o p => Sys2Proof.Machine.execCfgWrite o p s
  | .cfgCompletion p res data => Sys2Proof.Machine.execCfgCompletion p res data s
  | .marginGo o p data => Sys2Proof.Machine.execMarginGo o p data s
  | .jobPost h k idx => Sys2Proof.Machine.execJobPost h k idx s
  | .carrierElement h k refused => Sys2Proof.Machine.execCarrierElement h k refused s
  | .jobEnd h k idx => Sys2Proof.Machine.execJobEnd h k idx s
  | .xformTimeout h k idx => Sys2Proof.Machine.execXformTimeout h k idx s
  | .carrierEnable o h data => Sys2Proof.Machine.execCarrierEnable o h data s
  | .reportArrival n => Sys2Proof.Machine.execReportArrival n s
  | .reportTake => Sys2Proof.Machine.execReportTake s
  | .entryClose src unit elem => Sys2Proof.Machine.execEntryClose src unit elem s
  | .sevClear o data => Sys2Proof.Machine.execSevClear o data s
  | .faultOutUpdate => Sys2Proof.Machine.execFaultOutUpdate s
  | .injectReport o data => Sys2Proof.Machine.execInjectReport o data s
  | .injectSingleBit o data => Sys2Proof.Machine.execInjectSingleBit o data s
  | .injectDoubleBit o data => Sys2Proof.Machine.execInjectDoubleBit o data s
  | .injectCsParity o data => Sys2Proof.Machine.execInjectCsParity o data s
  | .injectResidue o data => Sys2Proof.Machine.execInjectResidue o data s
  | .recordCommit => Sys2Proof.Machine.execRecordCommit s
  | .flush bad => Sys2Proof.Machine.execFlush bad s
  | .flushBeatAck => Sys2Proof.Machine.execFlushBeatAck s
  | .optimeTick => Sys2Proof.Machine.execOptimeTick s
  | .flushRequest o => Sys2Proof.Machine.execFlushRequest o s
  | .clear o => Sys2Proof.Machine.execClear o s
  | .windowFetch o data bad => Sys2Proof.Machine.execWindowFetch o data bad s
  | .nvPathDown => Sys2Proof.Machine.execNvPathDown s
  | .modeReqFactory o => Sys2Proof.Machine.execModeReqFactory o s
  | .modeReqService o => Sys2Proof.Machine.execModeReqService o s
  | .modeReqQuiesce o => Sys2Proof.Machine.execModeReqQuiesce o s
  | .wakeTimer => Sys2Proof.Machine.execWakeTimer s
  | .wake => Sys2Proof.Machine.execWake s
  | .hostLinkLost k => Sys2Proof.Machine.execHostLinkLost k s
  | .hostLinkUp k => Sys2Proof.Machine.execHostLinkUp k s
  | .linkErrorCorrected k => Sys2Proof.Machine.execLinkErrorCorrected k s
  | .tamperFall => Sys2Proof.Machine.execTamperFall s
  | .vddCoreLoss => Sys2Proof.Machine.execVddCoreLoss s
  | .writebackAck h line => Sys2Proof.Machine.execWritebackAck h line s
  | .carrierHostResponse h k idx resp data => Sys2Proof.Machine.execCarrierHostResponse h k idx resp data s
  | .adapterCompletion h k idx code data => Sys2Proof.Machine.execAdapterCompletion h k idx code data s
  | .imgRequestTimeout link => Sys2Proof.Machine.execImgRequestTimeout link s
  | .windowReadResponse recs => Sys2Proof.Machine.execWindowReadResponse recs s
  | .windowFetchTimeout => Sys2Proof.Machine.execWindowFetchTimeout s
  | .lateMirrorWrite r => Sys2Proof.Machine.execLateMirrorWrite r s
  | .pinClockEdge n rising => Sys2Proof.Machine.execPinClockEdge n rising s
  | .pinLevelChange pin level => Sys2Proof.Machine.execPinLevelChange pin level s
  | .untilReached n => Sys2Proof.Machine.execUntilReached n s
  | .tWaitTimeReached r => Sys2Proof.Machine.execTWaitTimeReached r s
  | .pacerTestsEnd n samples => Sys2Proof.Machine.execPacerTestsEnd n samples s
  | .linkPartnerPresent p => Sys2Proof.Machine.execLinkPartnerPresent p s
  | .portErrorDetected p uncorrectable bit => Sys2Proof.Machine.execPortErrorDetected p uncorrectable bit s
  | .marginingEnd p result => Sys2Proof.Machine.execMarginingEnd p result s
  | .extResultReady r port v parity => Sys2Proof.Machine.execExtResultReady r port v parity s
  | .transformEnd h k idx fin out => Sys2Proof.Machine.execTransformEnd h k idx fin out s

end Sys2Proof.Machine
end

