-- ==== Sys2Proof/Machine/Tick.lean ====
section
/-! DEFINITION. What one tick of the clocks does by itself: the lap counter, the pacers' cycle, the measurement of busy runners, the watchdog's hold, the reports that wait to be admitted (R39, R184, R276, R351, R352, R357, R361). -/
namespace Sys2Proof.Machine

/-- Two CLK_R cycles of a runner: it counts as busy (R276), and its watchdog does not run while it waits for a line to be reloaded (R184). -/
def State.runnerTick (s : State) (k : Nat) (r : Rid) : State :=
  let x := s.runner r
  let s := if x.busyNow && decide (k < 144) then s.updArb fun a => { a with rbusy := tset 0 a.rbusy k (tget 0 a.rbusy k + 2) } else s
  if x.wdog.isSome && x.run == .running && s.fetchWaits r then s.updR r fun x => { x with wdog := x.wdog.map fun v => v + 1 } else s

/-- One tick: a CLK_S cycle, or a CLK_A cycle, which is 16 of them, in QUIESCE (R351, R352, R406, notes/assumptions/10.md). -/
def State.tick (s : State) : State :=
  if s.mode = .quiesce then { s with lap := s.lap + 16, clkS := s.clkS + 16 }
  else
    let s := { s with lap := s.lap + 1, clkS := s.clkS + 1 }
    let s := s.each ((List.range 16).filter s.pacerPresent) State.pacTick
    let s := s.when (decide (s.clkS % 4 = 0)) State.offerAll
    s.each s.allRids fun s e => s.runnerTick e.1 e.2

end Sys2Proof.Machine
end

