-- ==== Sys2Proof/Safety.lean ====
section
/-! DEFINITION. What counts as a well-formed state, in the terms the statements use. -/
namespace Sys2Proof.Machine

/-- The addressed memories of the complex are in canonical form: the scratchpads, the Arbiter data memory, the control stores. -/
structure State.MemOk (s : State) : Prop where
  spads  : Memory.wf s.spads = true
  arbMem : Memory.wf s.arbMem = true
  cwords : twf 0 s.cwords = true

/-- The tables of the complex are in canonical form (notes/assumptions/3.md); the keys of the page registers rise. -/
structure State.TablesOk (s : State) : Prop where
  runners : twf {} s.runners = true
  slices  : twf {} s.slices = true
  memUp   : twf {} s.memUp = true
  caches  : twf {} s.caches = true
  cstores : twf {} s.cstores = true
  rings   : twf {} s.rings = true
  hq      : twf {} s.hq = true
  ports   : twf {} s.ports = true
  jobs    : twf {} s.jobs = true
  pacers  : twf {} s.pacers = true
  pins    : twf {} s.pins = true
  mstate  : twf 0 s.mstate = true
  carFen  : twf false s.carFen = true
  regs    : s.regs.Pairwise fun a b => a.1 < b.1

/-- A runner that executes words meets no fault at the port `p` from its world and level (R73, R74). -/
def State.portOpen (s : State) (r : Rid) (p : Nat) : Prop := ∃ i, s.portInfo r p = some i ∧ s.portFault r p i = none

/-- A runner that takes a trigger, or a word of it, now: it executes words, none of them is being executed again, no throttle holds it, and no
residue of an earlier result failed (R71, R104, R464). -/
abbrev State.executes (s : State) (r : Rid) : Prop := s.canTrig r = true ∧ (s.runner r).resFail = false

/-- What is left once a unit has taken a trigger whose effect is `f`: CTL's fields are taken as the word begins, a stall that was running is counted
and over, and a runner that was told to stop stops here, at the end of its word (R48, R65, R75, R474). -/
def State.took (s : State) (r : Rid) (f : State → State) : State :=
  let s := s.beginWord r
  (f (s.updR r fun x => x.stallEnd s.clkS)).thenStop s r

/-- An operand port of a runner. -/
def State.operand (s : State) (r : Rid) (p : Nat) : Word := (s.runner r).op p

/-- `n` bytes at `a` may be accessed by a runner now: aligned, inside its memory, and where they lie in the secure part the runner is in the
Custody world and no wipe runs (R93, R271, R307). -/
abbrev State.dataOk (s : State) (r : Rid) (a n : Nat) : Prop :=
  a % n = 0 ∧ a < memLen r.home ∧ (inSecure r.home a = true → (s.runner r).cust = true ∧ (s.up r.home).wipe = false)

/-- No buffered store or frame word holds a byte of the `n` at `a`, and no word they touch is in error. -/
abbrev State.plainRead (s : State) (r : Rid) (a n : Nat) : Prop :=
  (∀ k < n, bufByte (s.runner r).writes (a + k) = none) ∧ ∀ e ∈ (s.up r.home).ecc, e.1 < a / 8 ∨ (a + n - 1) / 8 < e.1

/-- The 8 bytes at `a` of a runner's memory, little-endian. -/
def State.wordAt (s : State) (r : Rid) (a : Nat) : Word := BitVec.ofNat 64 (leNat ((List.range 8).map fun k => s.byteAt r.home (a + k)))

/-- A host request of a runner outside the complex window, aligned, with an identifier free for it, while its heat cache is not being cleared
(R26, R96, R98, R321). -/
abbrev State.hostOk (s : State) (r : Rid) (a n : Nat) : Prop :=
  a % n = 0 ∧ a < 2 ^ 52 ∧ a / 2 ^ 28 ≠ s.winbase.toNat ∧ (s.runner r).hau.length < 16 ∧ (r = .arb ∨ (s.cache r.home).init = false)

/-- No earlier access of the runner waits for the line of `a` (R34). -/
abbrev State.lineFree (s : State) (r : Rid) (a : Nat) : Prop := ∀ f ∈ (s.cache r.home).fills, f.line = a / 256 → ∀ w ∈ f.wait, w.source ≠ .inl r

/-- The lowest identifier that no outstanding request of the runner has. -/
def Runner.freeId (x : Runner) (id : Nat) : Prop := (∀ e ∈ x.hau, e.id ≠ id) ∧ ∀ k < id, ∃ e ∈ x.hau, e.id = k

/-- A runner without what only speeds its fetching up: opening book, history, return predictor, path, fetch buffer, and the two counts of
what was predicted wrongly (R139 to R149, R178). -/
def Runner.plain (x : Runner) : Runner :=
  { x with book := [], hist := [], rpred := [], ahead := [], fnext := none, latent := 0, mpred := 0, fbuf := [] }

/-- The end of a word that began at `pc`: the runner is left as `y`, RUN.PC shows the word, and a runner told to stop stops (R66, R474). -/
def State.wordEnds (s : State) (r : Rid) (y : Runner) : State :=
  ((s.setRunner r y).setReg r.page 0x10C (BitVec.ofNat 32 (2 ^ 31 + (s.runner r).pc.toNat))).thenStop s r

/-! What the statements about register rows share -/

/-- The register pages take writes of an origin: the clocks run, an AUDIT record finds room, and the TAP is admitted (R32, R429, R456). -/
abbrev State.takesWrites (s : State) (o : Origin) : Prop :=
  s.mode ≠ .quiesce ∧ s.auditRoom = true ∧ (o = .tap → s.life = 0 ∨ s.life = 3)

/-- A write of `d` at offset `off` of page `p` has been accepted, its own effect apart: PSEQ counts it and, where the register is audited, its AUDIT
record with that number waits in the Scoresheet's ingest FIFO (R24, R428, R431). -/
def State.accepted (s : State) (o : Origin) (p off : Nat) (d : Reg) (audited : Bool := true) : State :=
  let t := s.wrapInc p 0x18 31 0
  if audited then t.audit o false false p off d (t.reg p 0x18) else t

/-- A host link and the TAP get OK for their access; a runner gets it with the access itself (R32, R33, R99). -/
def State.replied (s : State) (o : Origin) : State :=
  match o with
  | .link _ _ => s.put (.resp o .ok 0)
  | .tap => s.put (.tap true 0)
  | .runner _ _ _ => s

end Sys2Proof.Machine
end

