-- ==== Sys2Proof/WellFormed.lean ====
section
/-! DEFINITION. Well-formed commands: operands that name something the page map, the signals and the layouts have. A command that is not well formed
still has a meaning: it changes nothing, or is answered as R5, R6 and R22 say. -/
namespace Sys2Proof

/-- A runner of the page map (R470). -/
def Rid.wf : Rid → Bool
  | .heat h i => decide (h < 16 ∧ i < 9)
  | .arb => true

/-- An origin: host links are 0 to 3 (R33). -/
def Origin.wf : Origin → Bool
  | .link k _ => decide (k < 4)
  | .runner r _ _ => r.wf
  | .tap => true

/-- An offset of a register: a word of a 4 KiB page (R22). -/
def pageOff (page off : Nat) : Bool := decide (page < 512 ∧ off < 4096) && off % 4 == 0

/-- A carrier job ring: heat, carrier, ring (R386). -/
def jobWf (h k i : Nat) : Bool := decide (h < 16 ∧ k < 4 ∧ i < 9)

/-- Operands in the ranges the spec gives them. -/
def Instr.wf : Instr → Bool
  | .winRd link _ off size | .winWr link _ off size _ => decide (link < 4 ∧ off < 2 ^ 28 ∧ 0 < size ∧ size ≤ 256)
  | .scratchpadWindowAccess link _ _ off _ _ _ => decide (link < 4 ∧ 0x8000000 ≤ off ∧ off < 0xE000000)
  | .doorbell link off _ => decide (link < 4 ∧ 0x2000000 ≤ off ∧ off < 0x2040000) && off % 8 == 0
  | .snpInv link addr | .snpCleanInv link addr => decide (link < 4 ∧ addr < 2 ^ 52)
  | .tapAccess (.access _ page off _) => pageOff page off
  | .registerWrite o page off _ => o.wf && pageOff page off
  | .moveWord r _ _ | .wordRetry r _ _ _ | .trapEntry r _ | .machineCheck r _ | .unitResultDelivery r _ | .residueRerun r _ | .loadReplay r _ _ | .storeDrain r _
  | .frameDrain r _ | .reservationExpiry r | .extResultTimeout r | .hauResponse r _ _ _ | .hauRequestTimeout r _ | .aluAdd r _ _ | .aluSub r _ _
  | .aluRsub r _ _ | .aluAnd r _ _ | .aluOr r _ _ | .aluXor r _ _ | .aluAndn r _ _ | .aluNeg r _ _ | .aluAbs r _ _ | .aluMin r _ _ | .aluMax r _ _
  | .aluMinu r _ _ | .aluMaxu r _ _ | .aluPop r _ _ | .aluClz r _ _ | .aluCtz r _ _ | .shfShl r _ | .shfShr r _ | .shfSar r _ | .shfRol r _ | .shfRor r _
  | .shfExt r _ | .shfExts r _ | .shfDep r _ | .shfBswap r _ | .mulMul r _ | .mulMulu r _ | .mulMac r _ | .mulMac2 r _ | .mulDiv r _ | .mulDivu r _
  | .cmpEq r _ | .cmpNe r _ | .cmpLt r _ | .cmpLe r _ | .cmpGt r _ | .cmpGe r _ | .cmpLtu r _ | .cmpLeu r _ | .cmpGtu r _ | .cmpGeu r _ | .cmpTst r _
  | .cmpTstz r _ | .lsuLd r _ _ | .lsuLd32 r _ _ | .lsuLd16 r _ _ | .lsuLd8 r _ _ | .lsuSt r _ _ | .lsuSt32 r _ _ | .lsuSt16 r _ _ | .lsuSt8 r _ _
  | .lsuSync r _ _ | .hauLd r _ | .hauLd32 r _ | .hauLdnc r _ | .hauSt r _ | .hauSt32 r _ | .hauStnc r _ | .hauCpy r _ | .hauPref r _ | .hauFence r _
  | .strCopy r | .strFill r | .strCmp r | .strScan r | .stringElement r | .stringDone r | .atmTas r _ | .atmLr r _ | .atmSc r _ | .atmClr r _
  | .ringPop r _ | .ringAdv r _ | .ringRel r _ | .ringStat r _ | .sigClaim r _ | .sigEoi r _ | .sigPend r _ | .sigHmsg r _ | .timSnap r _ | .timArm0 r _
  | .timArm1 r _ | .timDis r _ | .timWdog r _ | .timWait r _ | .timerFire r _ | .watchdogExpiry r | .batPass r _ _ | .batGet r _ | .batFree r _
  | .batonTimeout r | .pcrPush r _ | .pcrPull r _ | .prdFlush r _ | .prdBar r _ | .prdSnap r _ | .prdClrc r _ | .trpCall r _ | .trpGate r _ | .trpSret r _
  | .trpEret r _ | .seqJmpi r _ | .seqCalli r _ | .seqCallm r _ | .seqRetm r _ | .seqRep r _ | .seqRspush r _ | .seqRspop r _ | .seqRsclr r _
  | .seqRsrd r _ | .lineFetch r | .runnerFence r | .sourcePresent r | .offerWithdraw r | .messageForward r | .lateMirrorWrite r | .tWaitTimeReached r
  | .extResultReady r _ _ _ => r.wf
  | .runnerStart o r | .runnerStop o r => o.wf && r.wf
  | .pctlFence o page => o.wf && decide (page < 512)
  | .ringHandout h | .heatFence h | .remirrorEnd h | .scrubRead h _ | .fillResponse h _ _ _ _ | .writebackAck h _ => decide (h < 16)
  | .eccWriteback h _ | .wipeEnd h | .cstoreScrubRead h => decide (h ≤ 16)
  | .imgGo o _ | .imgAbort o | .ringEnable o _ | .ringDisable o _ | .rselSnapshot o _ | .mselSnapshot o _ | .place o _ | .migrate o _ | .presRead o
  | .poolWrite o _ | .pathw o _ | .fallbackResume o _ | .qack o _ | .lapSet o _ | .lapCntRead o | .sevClear o _ | .injectReport o _
  | .injectSingleBit o _ | .injectDoubleBit o _ | .injectCsParity o _ | .injectResidue o _ | .flushRequest o | .clear o | .windowFetch o _ _
  | .modeReqFactory o | .modeReqService o | .modeReqQuiesce o => o.wf
  | .ringDisableEffect q | .migrateMove q | .fallbackPlace q => decide (q < 32768)
  | .heatStart o n | .lockedFill o n _ | .rangeInvalidate o n _ | .cacheClean o n | .cacheEnable o n | .seedWrite o n _ | .pacerStart o n | .pacerStop o n
  | .pacerResume o n | .pmdataWrite o n _ | .contain o n | .release o n | .cfgRead o n | .cfgWrite o n | .marginGo o n _
  | .carrierEnable o n _ => o.wf && decide (n < 16)
  | .fallbackBegin cause => decide (1 ≤ cause ∧ cause ≤ 4)
  | .strideDetectorAssign o h k _ => o.wf && decide (h < 16 ∧ k < 4)
  | .spendWrite o h k _ => o.wf && decide (h < 16 ∧ k < 8)
  | .sourceEvent sl src _ => decide (sl ≤ 16 ∧ src < 256 ∧ (sl = 16 ∨ 64 ≤ src))
  | .coalesceTimeout q => decide (q < 64)
  | .idle n | .emit n | .capt n | .take n | .give n | .drive n | .await n | .goto n | .latch n | .flag n | .sched n | .untilI n | .bump n | .stamp n
  | .halt n | .illop n | .timedAction n | .pinClockEdge n _ | .untilReached n | .pacerTestsEnd n _ => decide (n < 16)
  | .short n pin => decide (n < 16 ∧ pin < 64)
  | .pinLevelChange pin _ => decide (pin < 64)
  | .linkTrained p _ _ _ _ _ | .surpriseDown p | .trainTimeout p | .completionTimeout p _ | .cfgCompletion p _ _ | .linkPartnerPresent p
  | .marginingEnd p _ => decide (p < 16)
  | .laneNarrow p lane => decide (p < 16 ∧ lane < 8)
  | .containment p cause => decide (p < 16 ∧ 1 ≤ cause ∧ cause ≤ 6)
  | .aerMessage p kind => decide (p < 16 ∧ kind < 3)
  | .inboundWrite p _ data _ _ | .inboundNotification p _ data => decide (p < 16 ∧ 0 < data.length)
  | .portErrorDetected p unc bit => decide (p < 16) && decide (bit < if unc then 13 else 8)
  | .jobPost h k i | .jobEnd h k i | .xformTimeout h k i | .carrierHostResponse h k i _ _ | .adapterCompletion h k i _ _
  | .transformEnd h k i _ _ => jobWf h k i
  | .carrierElement h k _ => decide (h < 16 ∧ k < 4)
  | .reportArrival n => decide (n < 512)
  | .entryClose src unit elem => decide (src < 512 ∧ unit < 512 ∧ elem < 65536)
  | .hostLinkLost k | .hostLinkUp k | .linkErrorCorrected k | .imgRequestTimeout k => decide (k < 4)
  | .tapAccess .bypass | .tapAccess .idcode | .tapAccess .other | .coldReset _ _ | .warmReset _ | .pfwNFall | .tamper | .lifeChange _ _ | .safeReq
  | .safeReqRelease | .reload _ _ | .imgSegment _ | .windowEnd _ | .commandBegin | .msgIntDelivery | .reportTake | .faultOutUpdate | .recordCommit
  | .flush _ | .flushBeatAck | .optimeTick | .nvPathDown | .wakeTimer | .wake | .tamperFall | .vddCoreLoss | .windowReadResponse _
  | .windowFetchTimeout => true

end Sys2Proof
end

