-- ==== Sys2Proof/Certificates/Slice0/Obligations.lean ====
section
/-! DEFINITION. The statements about the complex: what each command does, what a step keeps, what reset leaves.

A completion statement says that `exec` ANSWERS A NEXT STATE, and which: `s.took r f` is the state in which a unit has taken a trigger whose effect is `f`, `s.wordEnds r y` the one after a word, `s.accepted o p off d`
the one in which a register write has been counted and recorded, `replied` and `put` say what leaves the complex. An equation of states says the frame too: everything the right side does not name is as it was. -/
open Sys2Proof Sys2Proof.Machine

/-! The block: its queue, its tick, its reset state, what every step keeps -/

/-- A step takes the command at the front of the queue and runs it on the state with the rest of the queue. -/
def Obligations.StepRunsTheFrontOfTheQueue : Prop :=
  ∀ (s : State) (c : Instr) (rest : List Instr), s.pending = c :: rest → step s = exec c { s with pending := rest }

/-- The model's choice (notes/assumptions/10.md): on an empty queue a step is one tick: one CLK_S cycle, and 16 of them in QUIESCE. -/
def Obligations.AnEmptyQueueTicks : Prop :=
  ∀ s : State, s.pending = [] → ∃ t, step s = .next t ∧ t.pending = []
    ∧ (s.mode = .quiesce → t = { s with lap := s.lap + 16, clkS := s.clkS + 16 })
    ∧ (s.mode ≠ .quiesce → t.lap = s.lap + 1 ∧ t.clkS = s.clkS + 1 ∧ t.mode = s.mode ∧ t.spads = s.spads ∧ t.arbMem = s.arbMem ∧ t.out = s.out
      ∧ (s.TablesOk → ∀ r, (t.runner r).g = (s.runner r).g ∧ (t.runner r).pc = (s.runner r).pc ∧ (t.runner r).ops = (s.runner r).ops))

/-- Every command is carried out in every state: none stops the block. -/
def Obligations.EveryCommandAnswersANextState : Prop :=
  ∀ (c : Instr) (s : State), ∃ t, exec c s = .next t

/-- The invariant of the tables holds right after reset. -/
def Obligations.ResetMeetsTheInvariants : Prop :=
  State.reset.TablesOk ∧ State.reset.MemOk

/-- Every step keeps every table and every addressed memory of the complex in canonical form: keys strictly rising, no entry that reads as an unlisted one
does. A step takes nothing but the front of the queue from it, and no step changes a fuse or strap but a cold reset (a warm one, or a change of the
lifecycle, in FACTORY acts as one): that loads what the fuse read bus gives, and the chip's variant stands (R2, R29, R189, R309, R436, R452, R455). -/
def Obligations.EveryStepKeepsTheTablesAndFuses : Prop :=
  (∀ s t : State, step s = .next t → (s.TablesOk → t.TablesOk) ∧ (s.MemOk → t.MemOk))
  ∧ (∀ s t : State, step s = .next t → t.pending = s.pending.tail ∧ (t.fuses = s.fuses ∨ ∃ c, t.fuses = { c.fuses.getD s.fuses with variant := s.fuses.variant }
      ∧ ((∃ w rest, s.pending = .coldReset w c :: rest) ∨ s.mode = .factory ∧ ∃ code rest, s.pending = .warmReset c :: rest ∨ s.pending = .lifeChange code c :: rest)))

/-- What reset leaves where the spec gives the value: R13, R446 and R452 (COLDSTART, sequence at step 1, not complete), R47 and R82 (runners), R151 (first
world and level), R207 and R209 (rings disabled), R213 (credits), R277 (affinity), R294 (fallback in force), R313 (replacement seed), R345 (queue
served last), R355 (pacers safe), R377 (ports disabled), R405 (class N), R467 (MODE.LAST). -/
def Obligations.ResetValues : Prop :=
  let s := State.reset
  s.mode = .coldstart ∧ s.cstep = 1 ∧ s.hwdone = false ∧ s.qpend = false ∧ s.pfw = false ∧ s.reg 1 0x108 = 0x00010100
  ∧ (∀ r, (s.runner r).run = .stopped ∧ (s.runner r).fenced = false ∧ (s.runner r).grd = 0 ∧ (s.runner r).flgV = false ∧ (s.runner r).flgDZ = false
      ∧ (s.runner r).cust = true ∧ (s.runner r).sup = true ∧ (s.runner r).rs = [] ∧ (s.runner r).ops = [] ∧ (s.runner r).stores = [] ∧ (s.runner r).resv = none)
  ∧ (∀ q, (s.ring q).en = false ∧ (s.ring q).placed = false ∧ (s.ring q).held = false ∧ (s.ring q).frozen = false ∧ (s.ring q).aff = 0xFFFF)
  ∧ (∀ h c, s.queue h c = [] ∧ s.creditOf h c = 1 ∧ s.ptrOf h = 2)
  ∧ s.arb.fb = true ∧ s.arb.cmds = [] ∧ s.arb.res = []
  ∧ (∀ h, (s.cache h).lfsr = 0xACE1 ∧ (s.cache h).lines = [] ∧ (s.reg (0x40 + h % 16) 0x100).getLsbD 0 = true)
  ∧ s.hlast = 63 ∧ (∀ q, (s.hqueue q).en = false) ∧ (∀ n, (s.pacer n).st = .safe ∧ (s.pacer n).started = false)
  ∧ (∀ p, (s.port p).ls = .disabled) ∧ (s.cls 0x0C).cfg.toNat / 2 ^ 24 = 64 ∧ s.ref.fifo = [] ∧ s.ref.fo = 0 ∧ s.scs.fifo = [] ∧ s.scs.pend = []

/-! Memory -/

/-- R67, R271, R296: bytes written into a scratchpad or the Arbiter data memory are read back, and every other byte of every memory stands. R240, R288,
R303, R304, R106: a write of a runner's unit, of a frame or of the host window changes exactly the bytes it stores to; one that begins or ends in a
range that only the baton path and the publication write is discarded and reported (RMISUSE cause 4), and no byte changes. Reservations on the
granules written are lost. -/
def Obligations.WritesStoreTheirBytes : Prop :=
  (∀ (s : State) (m a : Nat) (bs : List Byte), s.MemOk → m ≤ 16 → a + bs.length ≤ memLen m →
      ∀ m' k, m' ≤ 16 → k < memLen m' →
        (s.setBytes m a bs).byteAt m' k = if m' = m ∧ a ≤ k ∧ k < a + bs.length then bs.getD (k - a) 0 else s.byteAt m' k)
  ∧ (∀ (s : State) (m a who : Nat) (bs : List Byte), s.MemOk → s.TablesOk → m ≤ 16 → 0 < bs.length → a + bs.length ≤ memLen m →
      let t := s.userWrite m a bs who
      let kept := m ≠ 16 ∧ (0x36E000 ≤ a ∧ a < 0x580000 ∨ 0x36E000 ≤ a + bs.length - 1 ∧ a + bs.length - 1 < 0x580000)
      (∀ m' k, m' ≤ 16 → k < memLen m' →
        t.byteAt m' k = if m' = m ∧ a ≤ k ∧ k < a + bs.length ∧ ¬kept then bs.getD (k - a) 0 else s.byteAt m' k)
      ∧ (kept → t = s.report 0x04 4 (0x30 + m) who (a / 8 % 32) a)
      ∧ (¬kept → ∀ r g n, r.wf = true → r.home = m → (t.runner r).resv = some (g, n) → (s.runner r).resv = some (g, n) ∧ (64 * g + 64 ≤ a ∨ a + bs.length ≤ 64 * g)))

/-- Triggers that act on their runner alone change nothing else of the complex, whether they are taken, stall, fault or find the runner not executing: no
byte of memory, no register page, no other runner; and of their own runner neither the general registers, nor the address, world, level, banks, return
stack, nor any buffered frame word. -/
def Obligations.RegisterTriggersFrame : Prop :=
  ∀ (s t : State) (r : Rid) (one : Bool) (v : Word) (c : Instr), s.TablesOk → r.wf = true → (s.runner r).run ≠ .stopping →
    c ∈ [Instr.aluAdd r one v, .aluSub r one v, .aluRsub r one v, .aluAnd r one v, .aluOr r one v, .aluXor r one v, .aluAndn r one v, .aluNeg r one v,
      .aluAbs r one v, .aluMin r one v, .aluMax r one v, .aluMinu r one v, .aluMaxu r one v, .aluPop r one v, .aluClz r one v, .aluCtz r one v, .shfShl r v,
      .shfShr r v, .shfSar r v, .shfRol r v, .shfRor r v, .shfExt r v, .shfExts r v, .shfDep r v, .shfBswap r v, .mulMul r v, .mulMulu r v, .mulMac r v,
      .mulDiv r v, .mulDivu r v, .cmpEq r v, .cmpNe r v, .cmpLt r v, .cmpLe r v, .cmpGt r v, .cmpGe r v, .cmpLtu r v, .cmpLeu r v, .cmpGtu r v, .cmpGeu r v,
      .cmpTst r v, .cmpTstz r v, .lsuSt r one v, .lsuSt32 r one v, .lsuSt16 r one v, .lsuSt8 r one v, .lsuSync r one v, .hauFence r v, .atmClr r v,
      .sigHmsg r v, .timSnap r v, .timArm0 r v, .timArm1 r v, .timDis r v, .timWdog r v, .timWait r v, .prdFlush r v, .prdBar r v, .prdSnap r v, .prdClrc r v] →
    exec c s = .next t →
    t = { s with runners := t.runners, arbRun := t.arbRun }
    ∧ (∀ r', r'.wf = true → r' ≠ r → t.runner r' = s.runner r')
    ∧ (t.runner r).g = (s.runner r).g ∧ (t.runner r).pc = (s.runner r).pc ∧ (t.runner r).cust = (s.runner r).cust ∧ (t.runner r).sup = (s.runner r).sup
    ∧ (t.runner r).bankS = (s.runner r).bankS ∧ (t.runner r).bankC = (s.runner r).bankC ∧ (t.runner r).rs = (s.runner r).rs
    ∧ (t.runner r).frame = (s.runner r).frame ∧ (t.runner r).rep = (s.runner r).rep ∧ (t.runner r).oport = (s.runner r).oport
    ∧ (t.runner r).flgV = (s.runner r).flgV ∧ (t.runner r).flgDZ = (s.runner r).flgDZ ∧ (t.runner r).wcnt = (s.runner r).wcnt

/-! Units of a runner that compute -/

/-- R83, R90: t_add, t_sub, t_rsub, t_neg and t_abs of ALU0 and ALU1. The low 64 bits of the exact result go to q_r, the carry or borrow (0 for t_neg and
t_abs) to q_c, and V is raised with them exactly on signed overflow. Nothing else changes. R83: the bitwise triggers and the minima and maxima of ALU0
and ALU1; q_c becomes 0 and no flag is raised. R83, R90: t_pop counts the ones of v; t_clz and t_ctz count the zeros above the highest and below the
lowest one, 64 for v = 0. -/
def Obligations.AluComplete : Prop :=
  (∀ (s : State) (r : Rid) (one : Bool) (v : Word), s.TablesOk → s.executes r →
      let a := s.operand r (aluBase one)
      let gives (x : Int) (c : Bool) : Res := .next (s.took r fun t => t.start r
        { unit := aluUnit one, v := decide (x < -2 ^ 63 ∨ 2 ^ 63 ≤ x),
          res := [(aluBase one + 0x1C, { val := BitVec.ofInt 64 x }), (aluBase one + 0x1D, { val := if c then 1 else 0 })] })
      exec (.aluAdd r one v) s = gives (a.toInt + v.toInt) (decide (2 ^ 64 ≤ a.toNat + v.toNat))
      ∧ exec (.aluSub r one v) s = gives (a.toInt - v.toInt) (decide (a.toNat < v.toNat))
      ∧ exec (.aluRsub r one v) s = gives (v.toInt - a.toInt) (decide (v.toNat < a.toNat))
      ∧ exec (.aluNeg r one v) s = gives (-v.toInt) false
      ∧ exec (.aluAbs r one v) s = gives |v.toInt| false)
  ∧ (∀ (s : State) (r : Rid) (one : Bool) (v : Word), s.TablesOk → s.executes r →
      let a := s.operand r (aluBase one)
      let gives (q : Word) : Res := .next (s.took r fun t => t.start r
        { unit := aluUnit one, res := [(aluBase one + 0x1C, { val := q }), (aluBase one + 0x1D, { val := 0 })] })
      exec (.aluAnd r one v) s = gives (a &&& v)
      ∧ exec (.aluOr r one v) s = gives (a ||| v)
      ∧ exec (.aluXor r one v) s = gives (a ^^^ v)
      ∧ exec (.aluAndn r one v) s = gives (a &&& ~~~v)
      ∧ exec (.aluMin r one v) s = gives (BitVec.ofInt 64 (min a.toInt v.toInt))
      ∧ exec (.aluMax r one v) s = gives (BitVec.ofInt 64 (max a.toInt v.toInt))
      ∧ exec (.aluMinu r one v) s = gives (BitVec.ofNat 64 (min a.toNat v.toNat))
      ∧ exec (.aluMaxu r one v) s = gives (BitVec.ofNat 64 (max a.toNat v.toNat)))
  ∧ (∀ (s : State) (r : Rid) (one : Bool) (v : Word), s.TablesOk → s.executes r →
      let gives (n : Nat) : Res := .next (s.took r fun t => t.start r
        { unit := aluUnit one, res := [(aluBase one + 0x1C, { val := BitVec.ofNat 64 n }), (aluBase one + 0x1D, { val := 0 })] })
      exec (.aluPop r one v) s = gives ((List.range 64).map fun k => (v.getLsbD k).toNat).sum
      ∧ (∃ n ≤ 64, exec (.aluClz r one v) s = gives n ∧ (∀ k < n, v.getLsbD (63 - k) = false) ∧ (n < 64 → v.getLsbD (63 - n) = true))
      ∧ ∃ n ≤ 64, exec (.aluCtz r one v) s = gives n ∧ (∀ k < n, v.getLsbD k = false) ∧ (n < 64 → v.getLsbD n = true))

/-- R84, R90: every bit of SHF's result. The count is v[6:0]; a field lies at v[5:0] with width v[14:8], 0 meaning 64, and ends at bit 63. -/
def Obligations.ShiftsComplete : Prop :=
  ∀ (s : State) (r : Rid) (v : Word), s.TablesOk → s.executes r →
    let a := s.operand r 0xC0
    let b := s.operand r 0xC2
    let n := v.toNat % 128
    let p := v.toNat % 64
    let w := min (if v.toNat / 256 % 128 = 0 then 64 else v.toNat / 256 % 128) (64 - p)
    let gives (c : Instr) (bit : Nat → Bool) : Prop := ∃ q : Word, (∀ k < 64, q.getLsbD k = bit k)
      ∧ exec c s = .next (s.took r fun t => t.start r { unit := .shf, res := [(0xDC, { val := q })] })
    gives (.shfShl r v) (fun k => decide (n ≤ k) && a.getLsbD (k - n))
    ∧ gives (.shfShr r v) (fun k => a.getLsbD (k + n))
    ∧ gives (.shfSar r v) (fun k => a.getLsbD (min (k + n) 63))
    ∧ gives (.shfRol r v) (fun k => a.getLsbD ((k + 64 - n % 64) % 64))
    ∧ gives (.shfRor r v) (fun k => a.getLsbD ((k + n) % 64))
    ∧ gives (.shfExt r v) (fun k => decide (k < w) && a.getLsbD (p + k))
    ∧ gives (.shfExts r v) (fun k => a.getLsbD (p + min k (w - 1)))
    ∧ gives (.shfDep r v) (fun k => if p ≤ k ∧ k < p + w then b.getLsbD (k - p) else a.getLsbD k)
    ∧ gives (.shfBswap r v) (fun k => a.getLsbD (8 * (7 - k / 8) + k % 8))

/-- R85, R87, R90: the products and quotients of MUL, whenever no division occupies it. t_mul and t_mulu give both halves of the exact 128-bit product.
t_div truncates toward zero, its remainder has the sign of a; a divisor of 0 gives 0 and a with DZ, and MIN divided by −1 gives MIN and 0 with V.
t_mac goes into flight with the low half of its product, which its delivery adds to the accumulator. -/
def Obligations.MulComplete : Prop :=
  ∀ (s : State) (r : Rid) (v : Word), s.TablesOk → s.executes r → (s.runner r).dividing = false →
    let a := s.operand r 0xE0
    let gives (q hi : Word) (fv dz : Bool) (k : OpKind) : Res := .next (s.took r fun t => t.start r
      { unit := .mul, res := [(0xFC, { val := q }), (0xFD, { val := hi })], v := fv, dz := dz, kind := k })
    exec (.mulMul r v) s = gives (BitVec.ofInt 64 (a.toInt * v.toInt)) (BitVec.ofInt 64 (a.toInt * v.toInt / 2 ^ 64)) false false .plain
    ∧ exec (.mulMulu r v) s = gives (BitVec.ofNat 64 (a.toNat * v.toNat)) (BitVec.ofNat 64 (a.toNat * v.toNat / 2 ^ 64)) false false .plain
    ∧ exec (.mulMac r v) s = gives 0 0 false false (.mac (BitVec.ofNat 64 (a.toNat * v.toNat)) false)
    ∧ exec (.mulDiv r v) s = (if v = 0 then gives 0 a false true .div
        else gives (BitVec.ofInt 64 (Int.tdiv a.toInt v.toInt)) (BitVec.ofInt 64 (Int.tmod a.toInt v.toInt))
          (decide (a.toInt = -2 ^ 63 ∧ v.toInt = -1)) false .div)
    ∧ exec (.mulDivu r v) s = (if v = 0 then gives 0 a false true .div
        else gives (BitVec.ofNat 64 (a.toNat / v.toNat)) (BitVec.ofNat 64 (a.toNat % v.toNat)) false false .div)

/-- R14: the two-fetch multiply-accumulate works in FACTORY, COLDSTART and RECOVERY: t_mac2 takes both words, advances o_p and o_q by v and puts its MAC
in flight. In every other mode it raises the mode fault. Fault injection and the writes of the heat-cache LFSR seed work in FACTORY: INJCTL and INJDET
take their writes, an injected report goes to the Referee, the seed is loaded. In every other mode the injection registers read zero, and a write of
them or of the seed is rejected with reason MODE. -/
def Obligations.TestFeaturesKeepToTheirModes : Prop :=
  (∀ (s : State) (r : Rid) (v : Word), s.TablesOk → s.executes r →
    let p := s.operand r 0xE3
    let q := s.operand r 0xE4
    let on : Prop := s.mode ∈ [.factory, .coldstart, .recovery]
    (on → s.dataOk r p.toNat 8 → s.dataOk r q.toNat 8 → (s.runner r).dividing = false →
      s.plainRead r p.toNat 8 → s.plainRead r q.toNat 8 →
      exec (.mulMac2 r v) s = .next (s.took r fun t => (t.updR r fun x => (x.setOp 0xE3 (p + v)).setOp 0xE4 (q + v)).start r
        { unit := .mul, res := [(0xFC, {}), (0xFD, {})], kind := .mac (s.wordAt r p.toNat * s.wordAt r q.toNat) false }))
    ∧ (¬on → s.dataOk r p.toNat 8 → s.dataOk r q.toNat 8 →
      exec (.mulMac2 r v) s = .next ((s.beginWord r).faultNow r { code := 4, sv := true, slot := 0, detail := 0xEB })))
  ∧ ∀ (s : State) (o : Origin) (h : Nat) (d : Reg), s.TablesOk → s.takesWrites o → h < s.nHeats →
    let gives (p off : Nat) (t : State) : Prop := exec (.registerWrite o p off d) s = .next (t.replied o)
    let seed := 0x40 + h
    (s.mode ≠ .factory →
      (∀ off ∈ [0x300, 0x304, 0x700, 0x704, 0xB00, 0xB04], (s.pageRead o 9 off).1 = 0 ∧ gives 9 off (s.pwerr o 9 off 5 d))
      ∧ ∀ off ∈ [0x120, 0x520, 0x920], gives seed off (s.pwerr o seed off 5 d))
    ∧ (s.mode = .factory →
      (∀ off ∈ [0x300, 0x304], (s.pageRead o 9 off).1 = s.reg 9 off)
      ∧ gives 9 0x304 ((s.accepted o 9 0x304 d).setReg 9 0x304 d)
      ∧ (d.getLsbD 31 = true → fld d 30 28 = 0 → (pageType s.fuses.variant (fld d 24 16)).isSome = true → srcListed (fld d 8 0) = true → ∃ t : State, gives 9 0x300 t ∧ t.ref.arriving = s.ref.arriving ++
          [{ src := fld d 8 0, reporter := 9, suspect := fld d 24 16, elem := fld (s.reg 9 0x304) 15 0, live := false, detail := 0, stamp := 0, held := true }])
      ∧ (fld d 15 0 ≠ 0 → gives seed 0x120 (((s.accepted o seed 0x120 d).setRfld seed 0x120 15 0 (fld d 15 0)).updCache h fun c => { c with lfsr := BitVec.ofNat 16 (fld d 15 0) })))

/-- R88, R89: the twelve relations of CMP. q_r shows 1 or 0 after the latency; the guard o_gsel[2:0] takes the result and the guard o_gsel[5:3] its
complement at the commit, 0 naming none, and the result's guard wins where both fields name the same one. The other guards stand. -/
def Obligations.ComparisonsComplete : Prop :=
  ∀ (s : State) (r : Rid) (v : Word), s.TablesOk → s.executes r →
    let a := s.operand r 0x100
    let gr := (s.operand r 0x102).toNat % 8
    let gc := (s.operand r 0x102).toNat / 8 % 8
    let gives (c : Instr) (p : Prop) [Decidable p] : Prop := ∃ g : BitVec 8,
      (∀ k < 8, g.getLsbD k = if k = gr ∧ gr ≠ 0 then decide p else if k = gc ∧ gc ≠ 0 then !decide p else (s.runner r).grd.getLsbD k)
      ∧ exec c s = .next (s.took r fun t => (t.updR r fun x => { x with grd := g }).start r
          { unit := .cmp, res := [(0x11C, { val := if p then 1 else 0 })] })
    gives (.cmpEq r v) (a = v) ∧ gives (.cmpNe r v) (a ≠ v)
    ∧ gives (.cmpLt r v) (a.toInt < v.toInt) ∧ gives (.cmpLe r v) (a.toInt ≤ v.toInt)
    ∧ gives (.cmpGt r v) (v.toInt < a.toInt) ∧ gives (.cmpGe r v) (v.toInt ≤ a.toInt)
    ∧ gives (.cmpLtu r v) (a.toNat < v.toNat) ∧ gives (.cmpLeu r v) (a.toNat ≤ v.toNat)
    ∧ gives (.cmpGtu r v) (v.toNat < a.toNat) ∧ gives (.cmpGeu r v) (v.toNat ≤ a.toNat)
    ∧ gives (.cmpTst r v) (a &&& v ≠ 0) ∧ gives (.cmpTstz r v) (a &&& v = 0)

/-! Memory accesses of a runner -/

/-- R67, R92 to R95: the loads of LSU0 and LSU1 from `o_addr + v`. A load takes its value at once: the newest buffered bytes where the runner's own stores
and frame hold all of them, the memory's where they hold none; bytes are little-endian and the value is zero-extended. A word of the memory that is
uncorrectable poisons the result. The load changes no memory. R67, R92: a store enters the store buffer with its address and width, no byte of the
memory changes until the entry drains; with eight entries waiting the word stalls. t_sync counts the stores it waits for. -/
def Obligations.LoadsAndStoresComplete : Prop :=
  (∀ (s : State) (r : Rid) (one : Bool) (v : Word) (n : Nat) (c : Instr), s.TablesOk → s.executes r →
      (n, c) ∈ [(8, Instr.lsuLd r one v), (4, .lsuLd32 r one v), (2, .lsuLd16 r one v), (1, .lsuLd8 r one v)] →
      let a := (s.operand r (lsuBase one) + v).toNat
      s.dataOk r a n → (s.runner r).loads (lsuUnit one) < 4 →
      let ws := (s.runner r).writes
      let op (q : QVal) : Op := { unit := lsuUnit one, res := [(lsuBase one + 0x1C, q)], kind := .load a n }
      exec c s = .next (s.took r fun t => (t.loadAt r a n).1.start r (op (t.loadAt r a n).2))
      ∧ ((∀ k < n, (bufByte ws (a + k)).isSome = true) → exec c s = .next (s.took r fun t => t.start r
          (op { val := BitVec.ofNat 64 (leNat ((List.range n).map fun k => (bufByte ws (a + k)).getD 0)) })))
      ∧ (s.plainRead r a n → exec c s = .next (s.took r fun t => t.start r
          (op { val := BitVec.ofNat 64 (leNat ((List.range n).map fun k => s.byteAt r.home (a + k))) })))
      ∧ ((∀ k < n, bufByte ws (a + k) = none) → (s.up r.home).ecc.find? (fun e => e.1 == a / 8) = some (a / 8, .double) →
          (s.loadAt r a n).2.poison = true))
  ∧ (∀ (s : State) (r : Rid) (one : Bool) (v : Word) (n : Nat) (c : Instr), s.TablesOk → s.executes r →
      (n, c) ∈ [(8, Instr.lsuSt r one v), (4, .lsuSt32 r one v), (2, .lsuSt16 r one v), (1, .lsuSt8 r one v)] →
      let a := (s.operand r (lsuBase one)).toNat
      (s.dataOk r a n → (s.runner r).stores.length < 8 → exec c s = .next (s.took r fun t => t.updR r fun x =>
          { x with stores := x.stores ++ [{ addr := a, size := n, data := v }] }))
      ∧ (s.dataOk r a n → 8 ≤ (s.runner r).stores.length → exec c s = .next ((s.beginWord r).stallNow r))
      ∧ exec (.lsuSync r one v) s = .next (s.took r fun t => t.start r
          { unit := lsuUnit one, res := [(lsuBase one + 0x1D, {})], kind := .sync (s.runner r).stores.length }))

/-- R105, R106: the ATM triggers once the buffers have drained (`d`), on a word that is not in error. t_tas gives the old word and sets its bit 0; t_lr
gives the word and takes the reservation of its granule; t_sc stores only under a reservation of the same granule, gives 0 where it does and 1 where
it does not, and ends the reservation; t_clr ends it. -/
def Obligations.AtomicsComplete : Prop :=
  ∀ (s : State) (r : Rid) (v : Word), s.TablesOk → s.executes r →
    let d := s.drainAll r
    let b := (s.operand r 0x1A0 + v).toNat
    let a := (s.operand r 0x1A0).toNat
    let gives (f : State → State) (q : Word) : Res := .next (s.took r fun t => (f (t.drainAll r)).start r { unit := .atm, res := [(0x1BC, { val := q })] })
    (s.dataOk r b 8 → (∀ e ∈ (d.up r.home).ecc, e.1 ≠ b / 8) →
      exec (.atmTas r v) s = gives (fun t => t.userWrite r.home b (leBytes 8 (d.wordAt r b ||| 1).toNat) r.page) (d.wordAt r b)
      ∧ exec (.atmLr r v) s = gives (fun t => t.updR r fun x => { x with resv := some (b / 64, t.clkS) }) (d.wordAt r b))
    ∧ (s.dataOk r a 8 →
      exec (.atmSc r v) s = match (d.runner r).resv with
        | none => gives id 1
        | some (g, _) => if g = a / 64
          then gives (fun t => (t.userWrite r.home a (leBytes 8 v.toNat) r.page).updR r fun x => { x with resv := none }) 0
          else gives (fun t => t.updR r fun x => { x with resv := none }) 1)
    ∧ exec (.atmClr r v) s = .next (s.took r fun t => (t.updR r fun x => { x with resv := none }).start r { unit := .atm, res := [(0x1BC, {})] })

/-- R33, R34, R96, R98, R272: an access to host memory that is not cached leaves at once as RD_NC or WR_NC under the lowest free identifier, with the
world of its runner, on the link of its address: the first of bits [9:8] and those after them, modulo 4, that does not show down. So go every access
of the Arbiter runner, t_ldnc and t_stnc, and the others while their heat cache is off and does not hold the line, where no earlier access of the
runner waits for that line. A read names the 8 bytes that hold its own. A load waits in flight for its response. -/
def Obligations.HostUncachedComplete : Prop :=
  ∀ (s : State) (r : Rid) (v : Word), s.TablesOk → s.executes r → (s.runner r).sup = true → s.linkLive = true →
    let x := s.runner r
    let off (a : Nat) : Prop := r = .arb ∨ (s.cacheOn r.home = false ∧ (s.cache r.home).find (a / 256) = none)
    let b := (s.operand r 0x160 + v).toNat
    let a := (s.operand r 0x160).toNat
    let live (k : Nat) : Prop := s.linkUp.getLsbD k = true ∧ s.linkDown.getLsbD k = false
    ∃ id, (x.hau.length < 16 → id < 16 ∧ x.freeId id)
    ∧ (∀ a i, i < 4 → live ((a / 256 + i) % 4) → (∀ j < i, ¬live ((a / 256 + j) % 4)) → s.linkOf a = (a / 256 + i) % 4)
    ∧ (∀ n c, (n, c) ∈ [(8, Instr.hauLd r v), (4, .hauLd32 r v), (8, .hauLdnc r v)] → s.hostOk r b n → s.lineFree r b →
        (c = .hauLdnc r v ∨ off b) → exec c s = .next (s.took r fun t => (t.updR r fun x =>
          { x with hau := x.hau ++ [{ id := id, load := true, size := n, addr := b, cust := x.cust }],
                   ops := x.ops ++ [{ unit := .hau, res := [(0x17C, {})], kind := .host id }] }).put (.rdNc (s.linkOf b) x.cust r id (b / 8 * 8) 8)))
    ∧ ∀ n c, (n, c) ∈ [(8, Instr.hauSt r v), (4, .hauSt32 r v), (8, .hauStnc r v)] → s.hostOk r a n → s.lineFree r a →
        (c = .hauStnc r v ∨ off a) → exec c s = .next (s.took r fun t => (t.updR r fun x =>
          { x with hau := x.hau ++ [{ id := id, load := false, size := n, addr := a, cust := x.cust }] }).put
            (.wrNc (s.linkOf a) x.cust r id a n (BitVec.ofNat 2048 (v.toNat % 2 ^ (8 * n)))))

/-- R311, R96, R34: t_ld, t_ld32, t_st and t_st32 that hit their heat cache while it is on, with no stride detector assigned and no earlier access of the
runner waiting for the line: the hit is counted, a load takes the line's bytes, a store to an owned line writes them and marks the line dirty. Nothing
leaves the complex. R322: t_ld and t_ld32 that hit a line with an error: a single error is corrected and reported as class MCORR cause 1, and the load
goes on; a double error in a dirty line poisons it, reported as class MUE cause 1, and the load's result is poisoned; a clean line with a double error
is dropped and filled again, and the load waits for it (which way it is filled into, and that the access counts as neither hit nor miss, is the
model's choice: notes/assumptions/51.md). R311, R313: t_ld, t_ld32, t_st and t_st32 that miss their heat cache while it is on, where a way of the set
is unlocked, holds no line and is not being filled, no stride detector is assigned and the next line is held or asked for: the replacement register
advances, the miss is counted, a fill of the line is asked for (RD_SHARED for a load, RD_UNIQUE for a store) and the access waits for it. The way
chosen is the lowest such way. -/
def Obligations.CachedAccessesComplete : Prop :=
  (∀ (s : State) (h i : Nat) (v : Word) (k : Nat) (l : Line), s.TablesOk →
      let r := Rid.heat h i
      let ld := (s.operand r 0x160 + v).toNat
      let st := (s.operand r 0x160).toNat
      let hit (a : Nat) : Prop := (s.cache h).find (a / 256) = some (k, l) ∧ s.lineFree r a
      s.executes r → (s.runner r).sup = true → s.cacheOn h = true → (∀ j < 4, (s.reg (0x40 + h) (0x130 + 4 * j)).getLsbD 31 = false) →
      l.poison = false → l.err = none →
      (∀ n c, (n, c) ∈ [(8, Instr.hauLd r v), (4, .hauLd32 r v)] → s.hostOk r ld n → hit ld →
        exec c s = .next (s.took r fun t => (t.wrapInc (0x40 + h) 0x150 31 0).updR r fun x => { x with ops := x.ops ++
          [{ unit := .hau, res := [(0x17C, { val := BitVec.ofNat 64 (l.data.toNat / 2 ^ (8 * (ld % 256)) % 2 ^ (8 * n)) })] }] }))
      ∧ ∀ n c, (n, c) ∈ [(8, Instr.hauSt r v), (4, .hauSt32 r v)] → s.hostOk r st n → hit st → l.owned = true →
        ∃ d : LineData, (∀ j < 2048, d.getLsbD j = if 8 * (st % 256) ≤ j ∧ j < 8 * (st % 256 + n) then v.getLsbD (j - 8 * (st % 256)) else l.data.getLsbD j)
          ∧ exec c s = .next (s.took r fun t => (t.wrapInc (0x40 + h) 0x150 31 0).updCache h fun c => c.store k { l with dirty := true, data := d }))
  ∧ (∀ (s : State) (h i : Nat) (v : Word) (k : Nat) (l : Line), s.TablesOk →
      let r := Rid.heat h i
      let p := 0x40 + h
      let a := (s.operand r 0x160 + v).toNat
      let ln := a / 256
      s.executes r → (s.runner r).sup = true → s.cacheOn h = true → (∀ j < 4, (s.reg (0x40 + h) (0x130 + 4 * j)).getLsbD 31 = false) →
      (s.cache h).find ln = some (k, l) → s.lineFree r a → l.poison = false → ∀ n c, (n, c) ∈ [(8, Instr.hauLd r v), (4, .hauLd32 r v)] → s.hostOk r a n →
        let loads (t : State) (q : QVal) : State := (t.wrapInc p 0x150 31 0).updR r fun x => { x with ops := x.ops ++ [{ unit := .hau, res := [(0x17C, q)] }] }
        (l.err = some .single → exec c s = .next (s.took r fun t => loads ((t.updCache h fun c => c.store k { l with err := none }).report 0x0C 1 p p 0 (256 * ln))
          { val := BitVec.ofNat 64 (l.data.toNat / 2 ^ (8 * (a % 256)) % 2 ^ (8 * n)) }))
        ∧ (l.err = some .double → l.dirty = true → exec c s = .next (s.took r fun t => loads ((t.updCache h fun c => c.store k { l with err := none, poison := true }).report 0x0D 1 p p 0 (256 * ln)) { poison := true }))
        ∧ (l.err = some .double → l.dirty = false → s.linkLive = true → (s.cache h).fillOf ln = none → (∀ e ∈ (s.cache h).lines, e.2.line = ln → e.1 = k) → exec c s = .next (s.took r fun t =>
          ((t.updCache h fun c => { c.drop k with fills := c.fills ++ [{ line := ln, way := some (k % 8), unique := false, kind := .demand, cust := (s.runner r).cust, wait := [.hauLoad r (s.runner r).hauId a n] }] }).put (.rdShared (s.linkOf (256 * ln)) ln (s.runner r).cust)).updR r fun x =>
            { x with hau := x.hau ++ [{ id := x.hauId, load := true, size := n, addr := a, cust := x.cust }], ops := x.ops ++ [{ unit := .hau, res := [(0x17C, {})], kind := .host x.hauId }] })))
  ∧ (∀ (s : State) (h i : Nat) (v : Word) (w : Nat), s.TablesOk →
      let r := Rid.heat h i
      let free (a w : Nat) : Prop := (s.reg (0x40 + h) 0x104).getLsbD w = false
        ∧ (∀ e ∈ (s.cache h).lines, e.1 ≠ 8 * (a / 256 % 512) + w) ∧ ∀ f ∈ (s.cache h).fills, f.way = some w → f.line % 512 ≠ a / 256 % 512
      let miss (a : Nat) : Prop := (s.cache h).find (a / 256) = none ∧ (s.cache h).fillOf (a / 256) = none
        ∧ (((s.cache h).find (a / 256 + 1)).isSome = true ∨ ((s.cache h).fillOf (a / 256 + 1)).isSome = true) ∧ w < 8 ∧ free a w ∧ ∀ k < w, ¬free a k
      let asks (a n : Nat) (load : Bool) (who : Nat → Waiter) : Res := .next (s.took r fun t =>
        (((t.updR r fun x => { x with hau := x.hau ++ [{ id := x.hauId, load := load, size := n, addr := a, cust := x.cust }], ops := if load then x.ops ++ [{ unit := .hau, res := [(0x17C, {})], kind := .host x.hauId }] else x.ops }).wrapInc (0x40 + h) 0x154 31 0).updCache h
          fun c => { c with lfsr := lfsrNext c.lfsr, fills := c.fills ++
            [{ line := a / 256, way := some w, unique := !load, kind := .demand, cust := (s.runner r).cust, wait := [who (s.runner r).hauId] }] }).put
          (if load then .rdShared (s.linkOf (256 * (a / 256))) (a / 256) (s.runner r).cust else .rdUnique (s.linkOf (256 * (a / 256))) (a / 256) (s.runner r).cust))
      let ld := (s.operand r 0x160 + v).toNat
      let st := (s.operand r 0x160).toNat
      s.executes r → (s.runner r).sup = true → s.cacheOn h = true → s.linkLive = true →
      (∀ j < 4, (s.reg (0x40 + h) (0x130 + 4 * j)).getLsbD 31 = false) →
      (∀ n c, (n, c) ∈ [(8, Instr.hauLd r v), (4, .hauLd32 r v)] → s.hostOk r ld n → miss ld →
        exec c s = asks ld n true fun id => .hauLoad r id ld n)
      ∧ ∀ n c, (n, c) ∈ [(8, Instr.hauSt r v), (4, .hauSt32 r v)] → s.hostOk r st n → miss st →
        exec c s = asks st n false fun id => .hauStore r id st n (BitVec.ofNat 64 (v.toNat % 2 ^ (8 * n))))

/-- R34, R96, R97, R257, R313, R317, R320: t_pref asks for the line while the heat cache is on and neither holds nor awaits it, filling the lowest way
that is unlocked, empty and not being filled; it is nothing where the line is held or awaited, the cache is off, or the runner is the Arbiter's.
t_fence waits for the writes of its span and of this run, and gives 0, or 1 where one of them has failed; t_cpy writes `v[8:0]` bytes of the
scratchpad to the host. -/
def Obligations.HostOrderComplete : Prop :=
  ∀ (s : State) (r : Rid) (v : Word), s.TablesOk → s.executes r → (s.runner r).sup = true →
    let b := (s.operand r 0x160 + v).toNat
    let a := (s.operand r 0x160).toNat
    let sp := (s.operand r 0x161).toNat
    let n := v.toNat % 512
    let ids := ((s.runner r).hau.filter fun e => !e.load && !e.dead).map (·.id)
    let nothing : Prop := exec (.hauPref r v) s = .next (s.took r id)
    (s.hostOk r b 1 → (r = .arb → nothing)
      ∧ ∀ h i, r = .heat h i →
        let c := s.cache h
        let free (w : Nat) : Prop := (s.reg (0x40 + h) 0x104).getLsbD w = false ∧ (∀ e ∈ c.lines, e.1 ≠ 8 * (b / 256 % 512) + w) ∧ ∀ f ∈ c.fills, f.way = some w → f.line % 512 ≠ b / 256 % 512
        (s.cacheOn h = false ∨ (c.find (b / 256)).isSome = true ∨ (c.fillOf (b / 256)).isSome = true → nothing)
        ∧ ∀ w < 8, s.cacheOn h = true → c.find (b / 256) = none → c.fillOf (b / 256) = none → s.linkLive = true → free w → (∀ k < w, ¬free k) →
          exec (.hauPref r v) s = .next (s.took r fun t => (t.updCache h fun c => { c with lfsr := lfsrNext c.lfsr, fills := c.fills ++
            [{ line := b / 256, way := some w, unique := false, kind := .pref, cust := (s.runner r).cust }] }).put (.rdShared (s.linkOf (256 * (b / 256))) (b / 256) (s.runner r).cust)))
    ∧ exec (.hauFence r v) s = .next (s.took r fun t => t.updR r fun x => { x with spanBad := false, ops := x.ops ++
        [{ unit := .hau, res := [(0x17D, if ids = [] ∧ x.spanBad = true then { val := 1 } else {})], kind := .fence ids x.spanBad }] })
    ∧ (n % 8 = 0 → 8 ≤ n → n ≤ 256 → a % 256 + n ≤ 256 → s.hostOk r a 8 → s.lineFree r a → s.dataOk r sp 8 → s.dataOk r (sp + n - 8) 8 →
        (s.runner r).stores = [] → (s.runner r).frame = [] → s.plainRead r sp n → s.linkLive = true →
        exec (.hauCpy r v) s = .next (s.took r fun t => (t.updR r fun x =>
          { x with hau := x.hau ++ [{ id := x.hauId, load := false, size := n, addr := a, cust := x.cust }] }).put
            (.wrNc (s.linkOf a) (s.runner r).cust r (s.runner r).hauId a n (BitVec.ofNat 2048 (leNat ((List.range n).map fun k => s.byteAt r.home (sp + k)))))))

/-! The other units of a runner -/

/-- R107 to R109, R209, R283: the RING triggers of a heat runner, none while a t_pop waits. q_ring carries valid (63), pend (62), held (61), cons (47:32),
prod (31:16) and the ring (14:0); q_desc the address of the descriptor at cons. An empty class mask gives no ring. A held ring is given again, marked.
With an interrupt pending the wait ends at once; else the pop waits for the handout. t_rel gives the ring back; t_stat reads word `v[2:0]` of an
entry. -/
def Obligations.RingsComplete : Prop :=
  ∀ (s : State) (h i : Nat) (v : Word), s.TablesOk →
    let r := Rid.heat h i
    s.executes r → (s.runner r).sup = true → (s.runner r).popping = false →
    let q := (s.runner r).ring.getD 0
    let y := s.ring q
    let op (ring desc : Nat) (k : OpKind) : Op :=
      { unit := .ring, res := [(0x1FC, { val := BitVec.ofNat 64 ring }), (0x1FD, { val := BitVec.ofNat 64 desc })], kind := k }
    let shows (y : Ring) (held : Nat) : Op :=
      op (2 ^ 63 + held * 2 ^ 61 + y.cons.toNat * 2 ^ 32 + y.prod.toNat * 2 ^ 16 + q % 2 ^ 15)
        (y.base.toNat * 4096 + y.cons.toNat % 2 ^ (y.lsz.toNat + 4) * 64) .plain
    let pops (o : Op) : Prop := exec (.ringPop r v) s = .next (s.took r fun t => t.start r o)
    (v.toNat % 256 = 0 → pops (op 0 0 .plain))
    ∧ (v.toNat % 256 ≠ 0 → (s.runner r).ring.isSome = true → pops (shows y 1))
    ∧ (v.toNat % 256 ≠ 0 → (s.runner r).ring = none → s.intrPending r = true → pops (op (2 ^ 62) 0 .plain))
    ∧ (v.toNat % 256 ≠ 0 → (s.runner r).ring = none → s.intrPending r = false → pops (op 0 0 (.pop (BitVec.ofNat 8 v.toNat))))
    ∧ (1 ≤ v.toNat → v.toNat ≤ (y.prod - y.cons).toNat → (s.runner r).ring.isSome = true → exec (.ringAdv r v) s = .next (s.took r fun t =>
        (t.updRing q fun y => { y with cons := y.cons + BitVec.ofNat 16 v.toNat, taken := y.taken + BitVec.ofNat 32 v.toNat }).start r
          (shows { y with cons := y.cons + BitVec.ofNat 16 v.toNat } 0)))
    ∧ ((y.prod - y.cons).toNat < v.toNat → v.toNat ≤ 65535 → (s.runner r).ring.isSome = true → exec (.ringAdv r v) s = .next (s.took r fun t =>
        ((t.report 0x04 0 r.page r.page 0 q).updRing q fun y =>
          { y with cons := y.prod, taken := y.taken + BitVec.ofNat 32 (y.prod - y.cons).toNat }).start r (shows { y with cons := y.prod } 0)))
    ∧ ((s.runner r).ring = none → ∀ c ∈ [Instr.ringAdv r v, .ringRel r v], (1 ≤ v.toNat ∧ v.toNat ≤ 65535) → exec c s = .next (s.took r fun t =>
        (t.updR r fun x => { x with wdrawn := false }).start r (op 0 0 .plain)))
    ∧ ((s.runner r).ring.isSome = true → y.migTo = none → exec (.ringRel r v) s = .next (s.took r fun t =>
        ((t.updR r fun x => { x with ring := none }).modRing q fun y => { y with held := false }).start r (op 0 0 .plain)))
    ∧ ((s.runner r).ring.isSome = true → y.migTo.isSome = true → exec (.ringRel r v) s = .next (s.took r fun t =>
        ((t.updR r fun x => { x with ring := none }).modRing q fun y => { y with held := false, frozen := true, migMv := true }).start r (op 0 0 .plain)))
    ∧ ((s.operand r 0x1E0).toNat < 32768 → exec (.ringStat r v) s = .next (s.took r fun t => t.start r
        { unit := .ring, res := [(0x1FE, { val := s.ringWord (s.operand r 0x1E0).toNat (v.toNat % 8) })] }))
    ∧ (32768 ≤ (s.operand r 0x1E0).toNat → ∃ w, exec (.ringStat r v) s = .next (s.took r fun t =>
        { t with fresh := t.fresh + 1 }.start r { unit := .ring, res := [(0x1FE, { val := w })] }))

/-- R110, R332 to R334, R336, R343: the SIG triggers. t_claim gives the best source that is deliverable above the running priority, or the best one still
offered where no deliverable one has a higher priority: it becomes active for the runner and no longer pending, and its priority is pushed; where
there is neither it gives 0x3FF. Each claim ends the entry hold. t_eoi ends a source that is active for the runner; of another it is reported (RMISUSE
cause 1) and changes no source. q_prio then shows the stack depth (from bit 4) over the running priority. t_pend sets a source pending, HANDOFF for
the live runners of BATCTL.take; of a source that does not exist it is reported (RMISUSE cause 2). t_hmsg puts a message behind the HAU writes that
are outstanding; with four waiting it stalls. -/
def Obligations.SignalsComplete : Prop :=
  ∀ (s : State) (r : Rid) (v : Word), s.TablesOk → s.executes r → (s.runner r).sup = true →
    let x := s.slice r.home
    let p := x.rprio r.idx
    let src := v.toNat % 1024
    let hand (c : Nat) : Bool := srcHand r.home c
    let prio (stack : List (Nat × Nat)) : Nat × QVal := (0x21D, { val := BitVec.ofNat 64 (stack.length * 16 + (stack.head?.map (·.2)).getD 0) })
    let op (c pr : Nat) (stack : List (Nat × Nat)) : Op := { unit := .sig, res := [(0x21C, { val := BitVec.ofNat 64 (pr * 2 ^ 16 + c) }), prio stack] }
    let best (c pr : Nat) : Prop := s.canDeliver r p.cur c = true ∧ s.srcPrio r.home c = pr ∧ ∀ d, s.canDeliver r p.cur d = true → s.srcPrio r.home d < pr ∨ (s.srcPrio r.home d = pr ∧ c ≤ d)
    let offer (c pr : Nat) : Prop := (c, pr) ∈ x.offersOf r.home r.idx ∧ ∀ o ∈ x.offersOf r.home r.idx, o.2 < pr ∨ (o.2 = pr ∧ c ≤ o.1)
    let claimed (c pr : Nat) : Prop := (s.runner r).run = .running → twf {} x.rp = true → ∃ t : State, exec (.sigClaim r v) s = .next t
      ∧ (t.runner r).ops = (s.runner r).ops ++ [op c pr ((c, pr) :: p.stack)] ∧ ((t.slice r.home).rprio r.idx).stack = (c, pr) :: p.stack ∧ ((t.slice r.home).rprio r.idx).ehold = none
      ∧ (t.slice r.home).line = x.line ∧ (∀ k, k ≠ r.home → t.slice k = s.slice k)
      ∧ (if hand c then (t.slice r.home).handP = tset false x.handP r.idx false ∧ (t.slice r.home).handA = tset false x.handA r.idx true ∧ (t.slice r.home).pend = x.pend ∧ (t.slice r.home).act = x.act
        else (t.slice r.home).pend = tset false x.pend c false ∧ (t.slice r.home).act = tset 0 x.act c (r.idx + 1) ∧ (t.slice r.home).handP = x.handP ∧ (t.slice r.home).handA = x.handA)
    let page := if r = .arb then 7 else 0x20 + r.home
    (∀ c pr, best c pr → (∀ o ∈ x.offersOf r.home r.idx, o.2 < pr) → claimed c pr)
    ∧ (∀ c pr, offer c pr → (∀ d, s.canDeliver r p.cur d = true → s.srcPrio r.home d ≤ pr) → claimed c pr)
    ∧ ((∀ c, s.canDeliver r p.cur c = false) → x.offersOf r.home r.idx = [] → exec (.sigClaim r v) s = .next (s.took r fun t =>
        (t.updSl r.home fun x => x.updRp r.idx fun p => { p with ehold := none }).start r (op 0x3FF 0 p.stack)))
    ∧ (x.isAct r.home src r.idx = true → (∃ e ∈ p.stack, e.1 = src) → let left := p.stack.filter fun e => e.1 != src
        exec (.sigEoi r v) s = .next (s.took r fun t => (t.updSl r.home fun x =>
          (if hand src then { x with handA := tset false x.handA r.idx false } else { x with act := tset 0 x.act src 0 }).updRp r.idx fun p => { p with stack := left }).start r { unit := .sig, res := [prio left] }))
    ∧ (x.isAct r.home src r.idx = false ∨ (∀ e ∈ p.stack, e.1 ≠ src) → exec (.sigEoi r v) s = .next (s.took r fun t =>
        (t.report 0x04 1 page r.page src src).start r { unit := .sig, res := [prio p.stack] }))
    ∧ (v.toNat < 256 → s.srcOk r.home v.toNat = true → hand v.toNat = false → exec (.sigPend r v) s = .next (s.took r fun t => t.updSl r.home fun x => { x with pend := tset false x.pend v.toNat true }))
    ∧ (v.toNat < 256 → s.srcOk r.home v.toNat = true → hand v.toNat = true → (s.runner r).run = .running → twf false x.handP = true → ∃ t : State, exec (.sigPend r v) s = .next t ∧ t.slice r.home = { x with handP := (t.slice r.home).handP }
        ∧ ∀ i < 9, tget false (t.slice r.home).handP i = (tget false x.handP i || (s.takes r.home i && s.liveR (.heat r.home i))))
    ∧ (256 ≤ v.toNat ∨ s.srcOk r.home v.toNat = false → exec (.sigPend r v) s = .next (s.took r fun t => t.report 0x04 2 page r.page (v.toNat % 256) (v.toNat % 2 ^ 32)))
    ∧ ((s.runner r).msgs.length < 4 → exec (.sigHmsg r v) s = .next (s.took r fun t => t.updR r fun x =>
        { x with msgs := x.msgs ++ [{ queue := v.toNat % 64, data := s.operand r 0x200, ids := (x.hau.filter fun e => !e.load).map (·.id) }] }))
    ∧ (4 ≤ (s.runner r).msgs.length → exec (.sigHmsg r v) s = .next ((s.beginWord r).stallNow r))

/-- R111: the TIM triggers. t_snap takes the lap count; t_arm0 and t_arm1 arm a timer and t_dis disarms those its bits name; t_wdog sets the watchdog at
most 10,000 CLK_S cycles ahead, or off for 0; t_wait is over at once where its time has come (1) or an interrupt is pending (0). q_tstat follows at
once. -/
def Obligations.TimersComplete : Prop :=
  ∀ (s : State) (r : Rid) (v : Word), s.TablesOk → s.executes r →
    let armed (x : Runner) : Nat := (if x.wdog.isSome then 4 else 0) + (if x.tim1.isSome then 2 else 0) + if x.tim0.isSome then 1 else 0
    let ends (t : State) : State := t.updR r fun x => x.setQ 0x23E { val := BitVec.ofNat 64 (armed x) }
    let sets (c : Instr) (f : Runner → Runner) : Prop := exec c s = .next (s.took r fun t => ends (t.updR r f))
    let gives (c : Instr) (p : Nat) (q : Word) (k : OpKind) : Prop :=
      exec c s = .next (s.took r fun t => ends (t.start r { unit := .tim, res := [(p, { val := q })], kind := k }))
    gives (.timSnap r v) 0x23C s.lap .plain
    ∧ ((s.runner r).sup = true → sets (.timArm0 r v) (fun x => { x with tim0 := some v })
      ∧ sets (.timArm1 r v) (fun x => { x with tim1 := some v })
      ∧ sets (.timDis r v) (fun x => { x with tim0 := if v.getLsbD 0 then none else x.tim0, tim1 := if v.getLsbD 1 then none else x.tim1 })
      ∧ sets (.timWdog r v) (fun x => { x with wdog := if v = 0 then none else some (s.clkS + min v.toNat 10000) })
      ∧ (if v.toNat ≤ s.lap.toNat then gives (.timWait r v) 0x23D 1 .plain
        else if s.intrPending r then gives (.timWait r v) 0x23D 0 .plain else gives (.timWait r v) 0x23D 1 (.wait v)))

/-- R112, R113, R240 to R249, R266, R268: the BAT triggers of a heat runner, none while a pass waits, whose own stores have drained. t_pass copies the 256
bytes at o_src with their CRC into the local slot, then into the partner's mirror slot, and both directory entries name the runner as owner and the
time; status 0, or 3 where the partner is fenced. Until the mirror write is acknowledged the pass is in flight. t_get gives 4 for an empty slot, 0
with the record where it passes its CRC, from the mirror where only that one does, and 2 where none does. t_free clears the entry's bits 63 and 62 and
its mirror's: 0, 3 without a partner; of a mirror slot it needs a fenced partner (else 5, reported). -/
def Obligations.BatonsComplete : Prop :=
  ∀ (s : State) (h i : Nat) (v : Word), s.TablesOk →
    let r := Rid.heat h i
    s.executes r → (s.runner r).sup = true → (s.runner r).passing = false →
    let x := s.runner r
    let a := (s.operand r 0x240).toNat
    let k := v.toNat % 4096
    let mir := v.getLsbD 12
    let p := h ^^^ 1
    let loc := 0x380000 + 256 * k
    let far := 0x480000 + 256 * k
    let ld := 0x378000 + 8 * k
    let md := 0x370000 + 8 * k
    let st (n : Nat) : Op := { unit := .bat, res := [(0x25C, { val := BitVec.ofNat 64 n })] }
    let free (t : State) : Prop := ∀ n, (t.up n).ecc = [] ∧ (t.up n).inj = []
    let calm : Prop := s.MemOk ∧ h < 16 ∧ i < 9 ∧ x.stores = [] ∧ x.frame = [] ∧ free s ∧ x.run = .running
    let good (m b : Nat) : Bool := recordGood (s.bytesAt m b 256)
    let gives (c : Instr) (n : Nat) (f : State → Prop) : Prop := ∃ t : State, exec c s = .next t ∧ (t.runner r).ops = x.ops ++ [st n] ∧ f t
    let stands (t : State) (f : Nat → Nat → Prop) : Prop := ∀ m b, m ≤ 16 → b < memLen m → ¬f m b → t.byteAt m b = s.byteAt m b
    let within (b lo n : Nat) : Prop := lo ≤ b ∧ b < lo + n
    let passed (t : State) (m b d : Nat) (mok : Bool) : Prop := (∀ j < 252, t.byteAt m (b + j) = s.byteAt h (a + j)) ∧ recordGood (t.bytesAt m b 256) = true
      ∧ (t.dirAt m d).getLsbD 63 = true ∧ (t.dirAt m d).getLsbD 62 = false ∧ (t.dirAt m d).getLsbD 61 = mok ∧ fld (t.dirAt m d) 60 57 = i ∧ fld (t.dirAt m d) 31 0 = s.lap.toNat % 2 ^ 32 ∧ fld (t.dirAt m (d ^^^ 8)) 60 57 = i
    let kept := 0x36E000 ≤ a ∧ a < 0x370000
    let copied (t : State) (b : Nat) (m : Nat) : Prop := (¬kept → ∀ j < 256, t.byteAt h (a + j) = s.byteAt m (b + j)) ∧ stands t fun m' b' => ¬kept ∧ m' = h ∧ within b' a 256
    let unorph (m d : Nat) : Prop := (s.dirAt m d).getLsbD 62 = false ∧ (s.dirAt m (d ^^^ 8)).getLsbD 62 = false
    (s.dataOk r a 256 → calm → x.late = none → x.ring = none → unorph h ld → unorph p md →
      (s.heatUp p = true → gives (.batPass r v false) 0 fun t => passed t h loc ld true ∧ passed t p far md true ∧ (t.runner r).late = none
        ∧ stands t fun m b => (m = h ∧ (within b loc 256 ∨ within b (ld / 16 * 16) 16)) ∨ (m = p ∧ (within b far 256 ∨ within b (md / 16 * 16) 16)))
      ∧ (s.heatUp p = false → gives (.batPass r v false) 3 fun t => passed t h loc ld false ∧ (t.runner r).late = none ∧ stands t fun m b => m = h ∧ (within b loc 256 ∨ within b (ld / 16 * 16) 16))
      ∧ ∃ t : State, exec (.batPass r v true) s = .next t ∧ (t.runner r).ops = x.ops ++ [{ st 0 with kind := .baton }] ∧ passed t h loc ld false ∧ (t.runner r).late.isSome = true
        ∧ stands t fun m b => m = h ∧ (within b loc 256 ∨ within b (ld / 16 * 16) 16))
    ∧ (s.dataOk r a 256 → calm → mir = false →
      ((s.dirAt h ld).getLsbD 63 = false → gives (.batGet r v) 4 fun t => stands t fun _ _ => False)
      ∧ ((s.dirAt h ld).getLsbD 63 = true → good h loc = true → gives (.batGet r v) 0 fun t => copied t loc h)
      ∧ ((s.dirAt h ld).getLsbD 63 = true → good h loc = false → s.heatUp p = true → good p far = true → gives (.batGet r v) 0 fun t => copied t far p)
      ∧ ((s.dirAt h ld).getLsbD 63 = true → good h loc = false → s.heatUp p = false ∨ good p far = false → gives (.batGet r v) 2 fun t => stands t fun _ _ => False))
    ∧ (s.dataOk r a 256 → calm → mir = true →
      ((s.dirAt h md).getLsbD 63 = false → gives (.batGet r v) 4 fun t => stands t fun _ _ => False)
      ∧ ((s.dirAt h md).getLsbD 63 = true → good h far = true → gives (.batGet r v) 0 fun t => copied t far h)
      ∧ ((s.dirAt h md).getLsbD 63 = true → good h far = false → gives (.batGet r v) 2 fun t => stands t fun _ _ => False))
    ∧ (calm → unorph h ld → unorph p md → mir = false →
      let clear (t : State) (m d : Nat) : Prop := ∀ j < 64, (t.dirAt m d).getLsbD j = ((s.dirAt m d).getLsbD j && decide (j < 62))
      (s.heatUp p = true → gives (.batFree r v) 0 fun t => clear t h ld ∧ clear t p md ∧ stands t fun m b => (m = h ∧ within b ld 8) ∨ (m = p ∧ within b md 8))
      ∧ (s.heatUp p = false → gives (.batFree r v) 3 fun t => clear t h ld ∧ stands t fun m b => m = h ∧ within b ld 8))
    ∧ (calm → unorph h md → mir = true →
      (s.heatUp p = true → exec (.batFree r v) s = .next (s.took r fun t => (t.report 0x0E 2 r.page r.page 0 k).start r (st 5)))
      ∧ (s.heatUp p = false → gives (.batFree r v) 0 fun t => t.dirAt h md = 0 ∧ stands t fun m b => m = h ∧ within b md 8))
    ∧ (s.dataOk r a 256 → exec (.batPass r v true) s = .next (s.took r fun t => (t.drainAll r).passLocal h i k a)
      ∧ exec (.batGet r v) s = .next (s.took r fun t => ((t.drainAll r).batGet h k mir a r.page).1.start r (st ((t.drainAll r).batGet h k mir a r.page).2)))
    ∧ exec (.batFree r v) s = .next (s.took r fun t => (t.batFree h k mir r.page).1.start r (st (t.batFree h k mir r.page).2))

/-- R114, R360, R363, R364: t_push and t_pull act on the mailbox of the pacer named by o_pacer. A word pushed enters its inbound FIFO of 8, and a pacer
stalled in a TAKE takes the oldest and goes on; a word pulled is the oldest of its outbound FIFO, and a pacer stalled in a GIVE adds its own and goes
on. Status 1 where a word went, 2 where the FIFO was full or empty, 0 with a report (RMISUSE cause 3) where the number is above 15. -/
def Obligations.MailboxComplete : Prop :=
  ∀ (s : State) (h i : Nat) (v : Word), s.TablesOk →
    let r := Rid.heat h i
    s.executes r → (s.runner r).sup = true → s.fuses.variant.full = true →
    let n := (s.operand r 0x260).toNat
    let x := s.pacer n
    let w : BitVec 32 := BitVec.ofNat 32 v.toNat
    let op (st : Nat) (d : List (Nat × QVal)) : Op := { unit := .pcr, res := d ++ [(0x27D, { val := BitVec.ofNat 64 st })] }
    let goes (x : Pacer) : Pacer := { x with st := .running, wait := .none, pc := x.pc + 1 }
    let pushed (f : Pacer → Pacer) : Prop := exec (.pcrPush r v) s = .next (s.took r fun t => (t.updPacer n f).start r (op 1 []))
    let pulled (w : BitVec 32) (f : Pacer → Pacer) : Prop := exec (.pcrPull r v) s = .next (s.took r fun t => (t.updPacer n f).start r (op 1 [(0x27C, { val := BitVec.ofNat 64 w.toNat })]))
    (15 < n → ∀ c ∈ [Instr.pcrPush r v, .pcrPull r v], exec c s = .next (s.took r fun t => (t.report 0x04 3 r.page r.page 0 n).start r (op 0 [])))
    ∧ (n ≤ 15 → 8 ≤ x.inq.length → exec (.pcrPush r v) s = .next (s.took r fun t => t.start r (op 2 [])))
    ∧ (n ≤ 15 → x.inq.length < 8 → x.wait ≠ .take → pushed fun x => { x with inq := x.inq ++ [w] })
    ∧ (n ≤ 15 → x.wait = .take → x.inq = [] → pushed fun x => goes { x with sr := w, lastTake := w, stale := false })
    ∧ (n ≤ 15 → x.outq = [] → exec (.pcrPull r v) s = .next (s.took r fun t => t.start r (op 2 [(0x27C, {})])))
    ∧ (∀ e rest, n ≤ 15 → x.outq = e :: rest → x.wait ≠ .give → pulled e fun x => { x with outq := rest })
    ∧ (∀ e rest, n ≤ 15 → x.outq = e :: rest → rest ≠ [] → x.wait = .give → pulled e fun x => goes { x with outq := rest ++ [x.sr] })

/-- R115, R128, R134 to R136, R145, R146, R149: the PRD triggers and the return-stack triggers. t_flush empties the prediction tables and the fetch
buffer, t_bar stops prediction and drops what was fetched; words decoded on the path that failed their check and are dropped count in q_latent. t_snap
reads the two counts and t_clrc clears them. t_rspush at depth 16 loses the oldest entry, or raises cause 0x07 where CTL.rs_ovf is 1; t_rspop of an
empty stack raises cause 0x08; t_rsrd reads the entry `v[3:0]` from the top, and says where there is none. Each of the four empties the return
predictor, t_rsrd apart, and shows depth and entry in q_rs; which entry t_rspush and t_rsclr show is left open, some value `e`
(notes/assumptions/24.md). -/
def Obligations.PredictionAndReturnStackComplete : Prop :=
  ∀ (s : State) (r : Rid) (v : Word), s.TablesOk → s.executes r → (s.runner r).sup = true →
    let x := s.runner r
    let sets (c : Instr) (f : Runner → Runner) : Prop := exec c s = .next (s.took r fun t => t.updR r f)
    let bad := x.ahead.filter x.badWord
    let drops (f : Runner → Runner) (y : Runner) : Runner := f { y with ahead := [], fnext := none, fbuf := [], latent := y.latent + BitVec.ofNat 32 bad.length }
    let q (e : CAddr) (depth out : Nat) : Op := { unit := .seq, res := [(0x1DC, { val := BitVec.ofNat 64 (out * 2 ^ 21 + depth * 2 ^ 16 + e.toNat) })] }
    let shows (c : Instr) (f : Runner → Runner) (e : CAddr) (depth out : Nat) : Prop := exec c s = .next (s.took r fun t => (t.updR r f).start r (q e depth out))
    let some' (c : Instr) (f : Runner → Runner) (depth : Nat) : Prop := ∃ e : CAddr, exec c s = .next (s.took r fun t => ({ t with fresh := t.fresh + 1 }.updR r f).start r (q e depth 0))
    let ovf := ((s.beginWord r).runner r).ctlEff.getLsbD 2 = true
    sets (.prdFlush r v) (drops fun y => { y with book := [], hist := [], rpred := [] })
    ∧ sets (.prdBar r v) (drops fun y => { y with barStop := true })
    ∧ exec (.prdSnap r v) s = .next (s.took r fun t => t.start r
        { unit := .prd, res := [(0x29C, { val := BitVec.ofNat 64 x.latent.toNat }), (0x29D, { val := BitVec.ofNat 64 x.mpred.toNat })] })
    ∧ sets (.prdClrc r v) (fun x => { x with latent := 0, mpred := 0 })
    ∧ (x.rs.length < 16 ∨ (x.rs.length = 16 ∧ ¬ovf) → some' (.seqRspush r v) (fun x => { x with rs := (BitVec.ofNat 15 v.toNat :: x.rs).take 16, rpred := [] }) (min (x.rs.length + 1) 16))
    ∧ (x.rs.length = 16 → ovf → exec (.seqRspush r v) s = .next ((s.beginWord r).faultNow r { code := 7, sv := true }))
    ∧ (∀ e l, x.rs = e :: l → shows (.seqRspop r v) (fun x => { x with rs := l, rpred := [] }) e l.length 0)
    ∧ (x.rs = [] → exec (.seqRspop r v) s = .next ((s.beginWord r).faultNow r { code := 8, sv := true }))
    ∧ some' (.seqRsclr r v) (fun x => { x with rs := [], rpred := [] }) 0
    ∧ (∀ e, x.rs[v.toNat % 16]? = some e → shows (.seqRsrd r v) id e x.rs.length 0)
    ∧ (x.rs.length ≤ v.toNat % 16 → shows (.seqRsrd r v) id 0 x.rs.length 1)
    ∧ ((s.beginWord r).runner r).ctlEff = if x.stallAt = none then s.reg r.page 0x100 else x.ctlEff

/-! Words, flow, traps -/

/-- R101, R102, R124, R130: a string trigger enters the string hold with its word's address and the next address, which its commit decides: the address
after it, or inside a repeat whose last address it is the block's first, one iteration fewer remaining. -/
def Obligations.StringsComplete : Prop :=
  ∀ (s : State) (r : Rid) (k : StrKind) (c : Instr), s.TablesOk → s.executes r →
    (k, c) ∈ [(.copy, Instr.strCopy r), (.fill, .strFill r), (.cmp, .strCmp r), (.scan, .strScan r)] →
    let x := s.runner r
    let last := x.rep.act && x.pc == x.rep.rend
    let again := last && decide (1 < x.rep.count.toNat)
    let next := if again then x.rep.rbeg else x.pc + 1
    ∃ y, exec c s = .next (s.wordEnds r y) ∧ y.plain = { ({ x with ctlEff := if x.stallAt = none then s.reg r.page 0x100 else x.ctlEff }.beginCommit false s.clkS) with
      pc := next, hold := some { kind := k, rpc := x.pc, npc := next, slot := 0 }, rep := if again then { x.rep with count := x.rep.count - 1 } else if last then { x.rep with act := false, count := 0 } else x.rep }.plain

/-- R124, R128 to R131, R134, R135, R137, R138: the flow triggers of SEQ. Addresses are 15 bits wide, modulo 8,192 on the Arbiter runner. t_jmpi ends a
repeat whose block it leaves; an address that is the one after the word, inside a repeat whose last address the word has, begins the next iteration or
ends the repeat; t_calli pushes the next address, or raises cause 0x07 at depth 16 where CTL says so; t_callm puts it on the stack at G63; t_retm
takes it from there; t_rep starts a repeat, or skips the block for a count of 0. -/
def Obligations.JumpsComplete : Prop :=
  ∀ (s : State) (r : Rid) (v : Word), s.TablesOk → s.executes r →
    let x := s.runner r
    let b := { x with ctlEff := if x.stallAt = none then s.reg r.page 0x100 else x.ctlEff }.beginCommit false s.clkS
    let at' (a : CAddr) : CAddr := if r = .arb then BitVec.ofNat 15 (a.toNat % 8192) else a
    let a := at' (BitVec.ofNat 15 v.toNat)
    let ends (c : Instr) (z : Runner) : Prop := ∃ y, exec c s = .next (s.wordEnds r y) ∧ y.plain = z.plain
    let outside := (x.rep.rend - x.rep.rbeg).toNat < (a - x.rep.rbeg).toNat
    let loop (a : CAddr) : Bool := x.rep.act && a == x.pc + 1 && x.pc == x.rep.rend
    let lands (y : Runner) (a : CAddr) (rep : Rep) : Runner :=
      if loop a then (if 1 < x.rep.count.toNat then { y with pc := x.rep.rbeg, rep := { x.rep with count := x.rep.count - 1 } } else { y with pc := a, rep := { x.rep with act := false, count := 0 } })
      else { y with pc := a, rep := rep }
    let n := v.toNat % 65536
    let len := v.toNat / 65536 % 256 + 1
    ends (.seqJmpi r v) (lands b a (if x.rep.act = true ∧ outside then { x.rep with act := false } else x.rep))
    ∧ (x.rs.length = 16 ∧ b.ctlEff.getLsbD 2 = true → exec (.seqCalli r v) s = .next ((s.beginWord r).faultNow r { code := 7, sv := true }))
    ∧ (x.rs.length < 16 ∨ (x.rs.length = 16 ∧ b.ctlEff.getLsbD 2 = false) → ends (.seqCalli r v) (lands { b with rs := ((x.pc + 1) :: x.rs).take 16 } a x.rep))
    ∧ (s.dataOk r (x.gr 63 - 8).toNat 8 → x.stores.length < 8 → ends (.seqCallm r v) (lands { (b.setG 63 (x.gr 63 - 8)) with
        stores := x.stores ++ [{ addr := (x.gr 63 - 8).toNat, size := 8, data := BitVec.ofNat 64 (x.pc + 1).toNat }] } a x.rep))
    ∧ (s.dataOk r (x.gr 63).toNat 8 → s.plainRead r (x.gr 63).toNat 8 → ends (.seqRetm r v) (lands { (b.setG 63 (x.gr 63 + 8)) with noTrap := true }
        (at' (BitVec.ofNat 15 (s.wordAt r (x.gr 63).toNat).toNat)) x.rep))
    ∧ ends (.seqRep r v) (if n = 0 then { b with pc := x.pc + 1 + BitVec.ofNat 15 len, rep := { x.rep with act := false } }
        else { b with pc := x.pc + 1, rep := { act := true, count := BitVec.ofNat 16 n, rend := x.pc + BitVec.ofNat 15 len, rbeg := x.pc + 1 } })

/-- R155 to R161, R335: t_call and t_gate through an entry whose valid bit is 1 into a bank that is free: the bank takes the return address, the guards,
the world, the level and the repeat state; the runner is in the supervisor level, t_gate's in the Custody world. t_sret gives all of it back and ends
the entry hold. t_gate from the Custody world raises cause 0x02, a bad entry or a busy bank cause 0x06, t_sret from a free bank cause 0x05. R171,
R172, R174, R335, R340: t_eret with no interrupt to chain to, from a frame in the runner's own world and at no higher level: guards, flags, repeat,
level, address and resume mark come from the frame's words 0 to 3, the frame is released, and the entry hold ends. A frame of the other world, or of a
higher level, raises cause 0x05. -/
def Obligations.CallsAndReturnsComplete : Prop :=
  (∀ (s : State) (r : Rid) (v : Word), s.TablesOk → s.executes r →
      let x := s.runner r
      let b := { x with ctlEff := if x.stallAt = none then s.reg r.page 0x100 else x.ctlEff }.beginCommit false s.clkS
      let at' (a : CAddr) : CAddr := if r = .arb then BitVec.ofNat 15 (a.toNat % 8192) else a
      let ends (t : State) (c : Instr) (z : Runner) : Prop := ∃ y, exec c s = .next (t.wordEnds r y) ∧ y.plain = z.plain
      let e := tget (0 : BitVec 16) x.entry ((if x.cust then 8 else 0) + v.toNat % 8)
      let g := tget (0 : BitVec 16) x.gates (v.toNat % 4)
      let bank := if x.cust then x.bankC else x.bankS
      let saved (gate : Bool) : Bank :=
        { spc := x.pc + 1, sgrd := x.grd &&& 0xFE, gate := gate, busy := true, world := x.cust, level := x.sup, srep := x.rep }
      (if e.getLsbD 15 = true ∧ bank.busy = false then ends s (.trpCall r v) { (b.setBank x.cust (saved false)) with
            rep := { x.rep with act := false }, sup := true, pc := at' (BitVec.ofNat 15 e.toNat) }
        else exec (.trpCall r v) s = .next ((s.beginWord r).faultNow r { code := 6, sv := true }))
      ∧ (if x.cust = true then exec (.trpGate r v) s = .next ((s.beginWord r).faultNow r { code := 2, sv := true, detail := 0x2B5 })
        else if g.getLsbD 15 = true ∧ x.bankC.busy = false then ends s (.trpGate r v) { b with
            bankC := saved true, rep := { x.rep with act := false }, cust := true, sup := true, pc := at' (BitVec.ofNat 15 g.toNat) }
        else exec (.trpGate r v) s = .next ((s.beginWord r).faultNow r { code := 6, sv := true }))
      ∧ (x.sup = true → if bank.busy = true then ends (s.endHold r) (.trpSret r v) { (b.setBank x.cust { bank with busy := false }) with
            grd := bank.sgrd, rep := bank.srep, cust := bank.world, sup := bank.level, pc := at' bank.spc }
        else exec (.trpSret r v) s = .next ((s.beginWord r).faultNow r { code := 5, sv := true })))
  ∧ (∀ (s : State) (r : Rid) (v : Word), s.TablesOk → s.executes r → (s.runner r).sup = true →
      let x := s.runner r
      let b := { x with ctlEff := if x.stallAt = none then s.reg r.page 0x100 else x.ctlEff }.beginCommit false s.clkS
      let at' (a : Nat) : CAddr := if r = .arb then BitVec.ofNat 15 (a % 8192) else BitVec.ofNat 15 a
      let a := if x.cust then x.fspC else x.fspS
      let w (k : Nat) : Word := s.wordAt r (a + 8 * k)
      s.dataOk r a 64 → s.plainRead r a 64 → x.frame = [] → s.chainSource r = none →
      if (w 0).getLsbD 13 = x.cust then
        ∃ y, exec (.trpEret r v) s = .next ((s.endHold r).wordEnds r y) ∧ y.plain = { (b.setFsp x.cust ((a + 64) % 2 ^ 23 / 64 * 64)) with
          grd := BitVec.ofNat 8 ((w 2).toNat % 256 / 2 * 2), flgV := (w 2).getLsbD 8, flgDZ := (w 2).getLsbD 9,
          rep := repOf (w 3), sup := (w 0).getLsbD 14, pc := at' ((w 1).toNat % 2 ^ 15), resume := if (w 0).getLsbD 11 then some (at' ((w 1).toNat / 2 ^ 16 % 2 ^ 15)) else none }.plain
      else exec (.trpEret r v) s = .next ((s.beginWord r).faultNow r { code := 5, sv := true }))

/-- R50, R52 to R56, R60, R66, R71, R72, R130: a word of sequential mode whose slots move immediates and general registers to general registers. Every
source is read before any destination is written, the width of SIZE is kept with zeros above, a slot whose guard is false does nothing, and the next
address is the one after, or inside a repeat whose last address this is, the block's first. STL counts the cycles of a stall whatever becomes of the
word. A word that fails a check leaves everything but the count of its tries; the third failure is a machine check. A retry counts in RTY and RTYCNT
and is reported; after a parity failure the word is fetched anew, once its line is not being reloaded. -/
def Obligations.WordsComplete : Prop :=
  ∀ (s : State) (r : Rid) (full : Bool) (raw : MoveWord), s.TablesOk → s.canStep r = true → s.throttled r = false →
    let x := s.runner r
    let bits (hi lo : Nat) : Nat := raw.toNat / 2 ^ lo % 2 ^ (hi - lo + 1)
    let guard (k : Nat) : Nat := bits (32 * k + 31) (32 * k + 28)
    let imm (k : Nat) : Prop := bits (32 * k + 27) (32 * k + 27) = 1
    let src (k : Nat) : Nat := bits (32 * k + 26) (32 * k + 16)
    let dst (k : Nat) : Nat := bits (32 * k + 15) (32 * k + 5)
    let size (k : Nat) : Nat := bits (32 * k + 4) (32 * k + 3)
    let done (k : Nat) : Prop := k < 4 ∧ (guard k = 0 ∨ (guard k < 8 ∧ x.grd.getLsbD (guard k) = true) ∨ (8 < guard k ∧ x.grd.getLsbD (guard k - 8) = false))
    let slotOk (k : Nat) : Prop :=
      if guard k = 8 then bits (32 * k + 27) (32 * k) = 0 else bits (32 * k + 2) (32 * k) = 0 ∧ dst k < 64 ∧ (imm k ∨ src k < 64)
    let good : Prop := bits 159 159 = 0 ∧ bits 157 156 < 3 ∧ bits 155 154 = 0 ∧ bits 151 149 = 0 ∧ bits 148 143 < 24 ∧ (∀ k < 4, slotOk k)
      ∧ ∀ j k, done j → done k → dst j = dst k → j = k
    let value (k : Nat) : Nat := (if bits (32 * k + 27) (32 * k + 27) = 1 then (BitVec.ofNat 11 (src k)).signExtend 64 else x.gr (src k)).toNat
    let moved (k : Nat) : Word := BitVec.ofNat 64 (value k % 2 ^ (64 / 2 ^ size k))
    let regs (y : Runner) : Prop := ∀ n < 64, (∀ k, done k → dst k = n → y.gr n = moved k) ∧ ((∀ k, done k → dst k ≠ n) → y.gr n = x.gr n)
    let last := x.rep.act && x.pc == x.rep.rend
    let again := last && decide (1 < x.rep.count.toNat)
    let ctl := if x.tries = 0 ∧ x.stallAt = none then s.reg r.page 0x100 else x.ctlEff
    let stl := match x.stallAt with | none => x.stl | some t => x.stl + BitVec.ofNat 64 (2 * (s.clkS - t))
    let ends (t : State) (b : Runner) (i : Instr) : Prop := ∃ y, exec i s = .next (t.wordEnds r y) ∧ regs y
      ∧ y.plain = { b with stl := stl, stallAt := none, wcnt := x.wcnt + 1, tries := 0, failPar := false, first := false, noTrap := false, barStop := x.barStop && bits 158 158 == 0, g := y.g, pc := if again then x.rep.rbeg else x.pc + 1, rep := if again then { x.rep with count := x.rep.count - 1 } else if last then { x.rep with act := false, count := 0 } else x.rep }.plain
    let fails (t : State) (b : Runner) (par : Bool) (i : Instr) : Prop := ∃ y, exec i s = .next ((t.setRunner r y).thenStop s r)
      ∧ y.plain = { b with stl := stl, stallAt := none, tries := x.tries + 1, failPar := par, resFail := false, pendM := if 2 ≤ x.tries then some 0x30 else none, pendMCS := if 2 ≤ x.tries then par else x.pendMCS }.plain
    let first := x.tries = 0 ∨ x.stallAt ≠ none
    let again' := 0 < x.tries ∧ x.stallAt = none
    let u := (s.wrapInc r.page 0x104 31 0).report 0x00 0 r.page r.page 0 x.pc.toNat
    let z : Runner := { x with rty := x.rty + 1 }
    let stored := (s.lineWords r.home (x.pc.toNat / 4))[x.pc.toNat % 4]? = some raw
    x.pc.toNat < (s.cstore r.home).count →
    (parityOk raw = true → good → x.resume = none → x.resFail = false → twf 0 x.g = true → (∀ o ∈ x.ops, ∀ e ∈ o.res, 64 ≤ e.1) →
        (x.fetched x.pc = some raw → first → ends s { x with ctlEff := ctl } (.moveWord r false full) ∧ fails s { x with ctlEff := ctl } false (.moveWord r true full))
        ∧ (x.fetched x.pc = some raw → again' → x.failPar = false → ends u z (.wordRetry r false full false) ∧ fails u z false (.wordRetry r true full false))
        ∧ (x.fetched x.pc ≠ none → stored → again' → x.failPar = true → x.injPar = false →
            (s.fenceOf r.home (x.pc.toNat / 4) = 0 → ends u z (.wordRetry r false full false) ∧ fails u z false (.wordRetry r true full false))
            ∧ (s.fenceOf r.home (x.pc.toNat / 4) = 1 → exec (.wordRetry r false full false) s = .next s)))
    ∧ (parityOk raw = true → good → x.resume = none → x.resFail = true → twf 0 x.g = true → (∀ o ∈ x.ops, ∀ e ∈ o.res, 64 ≤ e.1) → x.fetched x.pc = some raw → first → ∀ upset,
        fails s { x with ctlEff := ctl } false (.moveWord r upset full))
    ∧ (parityOk raw = false → x.fetched x.pc = some raw → first → ∀ upset,
        fails (s.updCs r.home fun c => { c with errors := BitVec.ofNat 16 (min (c.errors.toNat + 1) 0xFFFF) }) { x with ctlEff := ctl } true (.moveWord r upset full))

/-- R103, R162 to R173, R176, R193, R335: a trap is entered: a fault of kind W that a word raised, at a word boundary the trap of kind D with the lowest
code, else an interrupt source that the slice delivers. The frame's eight words wait in the frame buffer below o_fsp, the supervisor level is entered
in the same world, the next address is the vector of the cause's group, and an interrupt begins the entry hold. A frame that has no room is a machine
condition (0x31) and nothing else changes. Where the routine's own words cannot be fetched the runner stops for handoff and its heat's fault is
reported. -/
def Obligations.TrapsComplete : Prop :=
  ∀ (s : State) (r : Rid) (f : FaultRec), s.TablesOk → s.ridPresent r = true → s.mode ≠ .quiesce → (s.runner r).run = .running → (s.runner r).pendM = none →
    (s.runner r).frame = [] →
    let x := s.runner r
    let top := if x.cust then x.fspC else x.fspS
    let a := top - 64
    let full := top < 64 ∨ a < (if x.cust then x.flimC else x.flimS) ∨ memLen r.home ≤ a ∨ inSecure r.home a ≠ x.cust
    let rpc := match x.hold with | some h => h.rpc | none => x.pc
    let npc := match x.hold, x.resume with | some h, _ => h.npc | none, some n => n | none, none => (0 : CAddr)
    let resumes := x.hold.isSome || x.resume.isSome
    let bit (b : Bool) (k : Nat) : Nat := if b then 2 ^ k else 0
    let w (k : Nat) : Word := match k with
      | 0 => BitVec.ofNat 64 (bit x.sup 14 + bit x.cust 13 + bit resumes 11 + bit f.sv 10 + f.slot % 4 * 2 ^ 8 + f.code)
      | 1 => BitVec.ofNat 64 (npc.toNat * 2 ^ 16 + rpc.toNat)
      | 2 => BitVec.ofNat 64 (bit x.flgDZ 9 + bit x.flgV 8 + x.grd.toNat / 2 * 2)
      | 3 => BitVec.ofNat 64 (bit x.rep.act 63 + x.rep.count.toNat * 2 ^ 32 + x.rep.rend.toNat * 2 ^ 16 + x.rep.rbeg.toNat)
      | 4 => f.detail | 5 => BitVec.ofNat 64 top | 6 => s.lap | _ => BitVec.ofNat 64 x.rs.length
    let base := (s.reg r.page (if x.cust then 0x114 else 0x110)).toNat / 64 % 512 * 64
    let stl := match x.stallAt with | none => x.stl | some t => x.stl + BitVec.ofNat 64 (2 * (s.clkS - t))
    let enters (b : Runner) (group : Nat) (g : State → State) : Prop := ∃ y, exec (.trapEntry r false) s = .next (g (s.setRunner r y))
      ∧ if full then y = { b with pendM := some 0x31 } else y.plain = Runner.plain { (b.setFsp x.cust a) with frame := (List.range 8).map fun k => (a + 8 * k, w k), frameOld := x.stores.length, qcause := w 0, sup := true, rep := { x.rep with act := false }, resv := none, fbuf := [], pc := BitVec.ofNat 15 (base + 16 * group), first := true, noTrap := false, tries := 0, failPar := false, stl := stl, stallAt := none, hold := none, resume := none, pendW := none }
    let reported (t : State) : State :=
      if full ∨ ¬(1 ≤ f.code ∧ f.code ≤ 5 ∨ 0xB ≤ f.code ∧ f.code ≤ 0xD) then t
      else t.report 0x03 (if f.code ≤ 5 then f.code - 1 else f.code - 6) r.page r.page 0 f.detail.toNat
    let boundary := x.pendW = none ∧ x.first = false ∧ x.noTrap = false ∧ x.tries = 0 ∧ x.stallAt = none
    let plainOf (n : Nat) : Prop := f = { code := n }
    let lost := ∃ t, exec (.trapEntry r true) s = .next t ∧ (t.runner r).run = .handoff ∧ (t.runner r).pc = x.pc ∧ t.spads = s.spads
      ∧ ∃ e ∈ t.ref.arriving, e.src = 0x50 ∧ e.reporter = r.page ∧ e.suspect = (match r with | .heat h _ => 0x10 + h | .arb => r.page)
    (x.pendW = some f → f.code < 0x10 → enters x 0 reported ∧ lost)
    ∧ (boundary → x.pendBat = true → plainOf 0x10 → enters { x with pendBat := false } 1 id ∧ lost)
    ∧ (boundary → x.pendBat = false → x.pendV = true → plainOf 0x11 → enters { x with pendV := false } 1 id ∧ lost)
    ∧ (boundary → x.pendBat = false → x.pendV = false → x.pendDZ = true → plainOf 0x12 → enters { x with pendDZ := false } 1 id ∧ lost)
    ∧ (boundary → x.pendBat = false → x.pendV = false → x.pendDZ = false → x.cust = false ∨ (s.reg r.page 0x114).getLsbD 31 = true →
        (∀ src pr, s.intrSource r = some (src, pr) → f = { code := 0x20, detail := BitVec.ofNat 64 src } →
          enters x 2 (fun t => if full then t else t.entryHold r pr) ∧ lost)
        ∧ (s.intrSource r = none → ∀ rom, exec (.trapEntry r rom) s = .next s))

/-- R72, R176, R182, R193, R294: machine check and stack exhaustion: the runner commits nothing further and its work waits for handoff. A machine check
counts in MCCNT, stack exhaustion does not; the code is reported to the Referee, for the Arbiter runner as the class that begins the static fallback.
No byte of a memory changes. Where the routine's own words cannot be fetched the runner stops in the same way and its heat's fault is reported. -/
def Obligations.MachineChecksComplete : Prop :=
  ∀ (s : State) (r : Rid) (code : Nat), s.TablesOk → s.ridPresent r = true → s.mode ≠ .quiesce → r.wf = true →
    let x := s.runner r
    (x.pendM = some code → x.run = .running ∨ x.run = .stopping → code = 0x30 ∨ code = 0x31 → ∃ (t : State) (l : List Report), exec (.machineCheck r false) s = .next t
      ∧ t.spads = s.spads ∧ t.arbMem = s.arbMem ∧ (∀ r', r'.wf = true → r' ≠ r → t.runner r' = s.runner r')
      ∧ (t.runner r).run = .handoff ∧ (t.runner r).pendM = none ∧ (t.runner r).stores = [] ∧ (t.runner r).frame = [] ∧ (t.runner r).ring = none ∧ (t.runner r).pc = x.pc
      ∧ t.rfld r.page 0x108 15 0 = (if code = 0x30 then min (s.rfld r.page 0x108 15 0 + 1) 0xFFFF else s.rfld r.page 0x108 15 0)
      ∧ t.ref.arriving = s.ref.arriving ++ l ∧ (∃ e ∈ l, e.suspect = r.page ∧ e.detail = BitVec.ofNat 32 code ∧ e.src = (if r = .arb then 0x29 else if code = 0x30 then 8 else 9))
      ∧ (r = .arb → t.arb.fb = true) ∧ (∀ q, x.ring = some q → (t.ring q).held = false ∧ (t.ring q).frozen = true))
    ∧ (x.pendM ≠ none → ∃ t, exec (.machineCheck r true) s = .next t ∧ t.spads = s.spads ∧ (t.runner r).run = .handoff ∧ (t.runner r).stores = [] ∧ (t.runner r).pc = x.pc
      ∧ ∃ e ∈ t.ref.arriving, e.src = 0x50 ∧ e.reporter = r.page ∧ e.suspect = (match r with | .heat h _ => 0x10 + h | .arb => r.page))
    ∧ (x.pendM = none → ∀ rom, exec (.machineCheck r rom) s = .next s)

/-- R62, R64, R68, R71, R87, R91, R194, R195: a unit delivers its oldest finished operation: its results stand at the ports with their flags, and pending
traps rise where CTL asks for them; older operations of the unit no longer show those ports; a MAC adds to the accumulator as it is delivered. A
residue failure is charged to the next word, the result stays. -/
def Obligations.ResultsComplete : Prop :=
  ∀ (s : State) (r : Rid) (u : FUnit) (older newer : List Op) (o : Op), s.TablesOk → s.ridPresent r = true → s.mode ≠ .quiesce →
    let x := s.runner r
    let plain (k : OpKind) : Prop := k = .plain ∨ k = .div ∨ (∃ a n, k = .load a n) ∨ k = .sync 0 ∨ ∃ b, k = .fence [] b
    let mac (k : OpKind) : Prop := ∃ p b, k = .mac p b
    let due (k : OpKind) : Prop := plain k ∨ mac k
    let hidden (e : Op) : Op := { e with res := e.res.filter fun q => !o.res.any fun p => p.1 == q.1 }
    let left (l : List Op) : Prop := l.length = older.length ∧ ∀ j (h : j < older.length), ∃ e, l[j]? = some e ∧ (older[j].unit = u → ¬mac older[j].kind → e = hidden older[j]) ∧
      (older[j].unit ≠ u ∨ mac older[j].kind → e = older[j])
    x.ops = older ++ o :: newer → o.unit = u → (∀ e ∈ older, e.unit = u → ¬due e.kind) →
    (u ≠ .alu0 ∨ x.injRes = false → ∃ l, left l
      ∧ (plain o.kind → exec (.unitResultDelivery r u) s = .next (s.setRunner r { x with ops := l ++ newer, qport := o.res.foldl (fun t e => tset {} t e.1 e.2) x.qport, flgV := x.flgV || o.v, flgDZ := x.flgDZ || o.dz, pendV := x.pendV || (o.v && x.ctlEff.getLsbD 0), pendDZ := x.pendDZ || (o.dz && x.ctlEff.getLsbD 1) }))
      ∧ ∀ p b, o.kind = .mac p b →
          let acc := x.op 0xE2
          let over' := decide ((acc + p).toInt ≠ acc.toInt + p.toInt)
          exec (.unitResultDelivery r u) s = .next (s.setRunner r { x with ops := l ++ newer, oport := tset 0 x.oport 0xE2 (acc + p), accBad := b || x.accBad, qport := tset {} (tset {} x.qport 0xFC { val := acc + p, poison := b || x.accBad }) 0xFD {}, flgV := x.flgV || over', pendV := x.pendV || (over' && x.ctlEff.getLsbD 0) }))
    ∧ (due o.kind → u = .alu0 → x.injRes = true → exec (.unitResultDelivery r u) s = .next (s.setRunner r { x with injRes := false, resFail := true }))
    ∧ (due o.kind → u ∈ [FUnit.alu0, .alu1, .mul, .shf] → exec (.residueRerun r u) s = .next (s.setRunner r { x with resFail := true }))

/-- R67, R106, R121, R170, R240, R302, R307: stores and frames of a runner reach its memory in order, none into the secure part while it is wiped; an
access that collides is counted and issued again, a load then takes the bytes that stand; every other access of a runner is counted and stands as it
was performed. A reservation lasts 2,048 CLK_S cycles. An extension's result becomes ready, or its absence for 25,000 CLK_R cycles raises cause 0x0D
at the slot that waits for it, with the port's number as detail, which is the model's choice (log entry 64). -/
def Obligations.DrainsComplete : Prop :=
  ∀ (s : State) (r : Rid), s.TablesOk → s.ridPresent r = true → s.mode ≠ .quiesce →
    let x := s.runner r
    let counted (t : State) : State := match r with
      | .heat h _ => (t.satInc (0x30 + h) 0x110 31 16).satInc (0x30 + h) 0x110 15 0
      | .arb => t
    let settled (e : StoreEnt) (o : Op) : Op := match o.kind with
      | .sync n => { o with kind := .sync (n - 1) }
      | .load a n => if a < e.addr + e.size ∧ e.addr < a + n then { o with kind := .load a 0 } else o
      | _ => o
    let clear (a : Nat) : Prop := inSecure r.home a = true → (s.up r.home).wipe = false
    let bytes (n : Nat) (d : Word) : List Byte := (List.range n).map fun j => BitVec.ofNat 8 (d.toNat / 2 ^ (8 * j))
    let frames (t : State) (f : List (Nat × Word)) : State := f.foldl (fun t e => t.userWrite r.home e.1 (bytes 8 e.2) r.page) t
    (∀ e rest, x.stores = e :: rest → x.frame = [] ∨ 0 < x.frameOld → clear e.addr →
        exec (.storeDrain r false) s = .next ((s.setRunner r { x with stores := rest, frameOld := x.frameOld - 1, ops := x.ops.map (settled e) }).userWrite
          r.home e.addr (bytes e.size e.data) r.page)
        ∧ exec (.storeDrain r true) s = .next (counted s))
    ∧ (∀ e rest, x.stores = e :: rest → inSecure r.home e.addr = true → (s.up r.home).wipe = true → ∀ b, exec (.storeDrain r b) s = .next s)
    ∧ (x.frame ≠ [] → x.frameOld = 0 → (∀ e ∈ x.frame, clear e.1) →
        exec (.frameDrain r false) s = .next (frames (s.setRunner r { x with frame := [] }) x.frame) ∧ exec (.frameDrain r true) s = .next (counted s))
    ∧ (x.frame = [] ∨ x.frameOld ≠ 0 ∨ (∃ e ∈ x.frame, ¬clear e.1) → ∀ b, exec (.frameDrain r b) s = .next s)
    ∧ (∀ older newer o a n u, x.ops = older ++ o :: newer → o.unit = u → u = .lsu0 ∨ u = .lsu1 → o.kind = .load a n → 0 < n → (∀ e ∈ older, e.unit = u → ∀ a' n', e.kind ≠ .load a' n') →
        (∀ k < n, bufByte x.writes (a + k) = none) →
        let q : QVal := { val := BitVec.ofNat 64 (leNat ((List.range n).map fun k => s.byteAt r.home (a + k))), poison := s.spadBad r.home a n }
        exec (.loadReplay r u none) s = .next (counted (s.setRunner r { x with ops := older ++ { o with res := o.res.map fun e => (e.1, q) } :: newer })))
    ∧ (∀ g t, x.resv = some (g, t) → exec (.reservationExpiry r) s = .next (if 2048 ≤ s.clkS - t then s.setRunner r { x with resv := none } else s))
    ∧ (∀ u, (∀ o ∈ x.ops, o.unit = u → ∀ a n, o.kind ≠ .load a n) →
        (u = .atm ∧ ∃ o ∈ x.ops, o.unit = .atm) ∨ (u = .mul ∧ ∃ o ∈ x.ops, ∃ p b, o.kind = .mac p b) ∨ (u = .str ∧ x.hold ≠ none) ∨ (u = .seq ∧ x.run ≠ .stopped)
          ∨ (u = .hau ∧ ∃ e ∈ x.hau, e.load = false ∧ e.dead = false) →
        exec (.loadReplay r u none) s = .next (counted s))
    ∧ (∀ u h, s.heatPresent h = true → exec (.loadReplay r u (some h)) s = .next (s.satInc (0x30 + h) 0x110 31 16))
    ∧ (∀ port v o, o ∈ x.ops → o.kind = .ext port →
        let t := s.setRunner r { x with ops := x.ops.filter (fun o => o.kind != .ext port), qport := tset {} x.qport port { val := v } }
        exec (.extResultReady r port v false) s = .next t ∧ exec (.extResultReady r port v true) s = .next (t.report 0x19 0 (0x90 + r.home) (0x90 + r.home) ((port - 0x600) / 128)))
    ∧ (∀ port v b, (∀ o ∈ x.ops, o.kind ≠ .ext port) → exec (.extResultReady r port v b) s = .next s)
    ∧ (∀ (raw : MoveWord) (k t0 : Nat), k < 4 → s.canStep r = true → x.resume = none → x.stallAt = some t0 → x.fetched x.pc = some raw → raw.toNat / 2 ^ 154 % 4 = 0 →
        let guard (j : Nat) : Nat := raw.toNat / 2 ^ (32 * j + 28) % 16
        let src (j : Nat) : Nat := raw.toNat / 2 ^ (32 * j + 16) % 2048
        let waits (j : Nat) : Prop := (guard j = 0 ∨ (guard j < 8 ∧ x.grd.getLsbD (guard j) = true) ∨ (8 < guard j ∧ x.grd.getLsbD (guard j - 8) = false))
          ∧ raw.toNat / 2 ^ (32 * j + 27) % 2 = 0 ∧ 0x600 ≤ src j ∧ ∃ o ∈ x.ops, ∃ e ∈ o.res, e.1 = src j
        waits k → (∀ j < k, ¬waits j) → exec (.extResultTimeout r) s = .next (if t0 + 12500 ≤ s.clkS then
          (s.setRunner r { x with pendW := some { code := 0x0D, sv := true, slot := k, detail := BitVec.ofNat 64 (src k) }, tries := 0, failPar := false, stl := x.stl + BitVec.ofNat 64 (2 * (s.clkS - t0)), stallAt := none }).report
            0x19 1 r.page (0x90 + r.home) ((src k - 0x600) / 128) else s))
    ∧ (x.stallAt = none → exec (.extResultTimeout r) s = .next s)

/-- R33, R34, R96, R98, R257, R343: a response to a host request that left uncached. OK completes a load with its bytes, any other answer or none in time
gives a poisoned result; a write is settled, and one that failed marks the fence span; BUSY asks for the request again on the link that now serves its
address, or ends it as an error where none does. A missing response is reported as a host fault. What is answered to a request of earlier work is
discarded. -/
def Obligations.HostResponsesComplete : Prop :=
  ∀ (s : State) (r : Rid) (id : Nat) (d : Word) (e : HauReq), s.TablesOk → s.ridPresent r = true → s.mode ≠ .quiesce → (s.runner r).hau.find? (fun e => e.id == id) = some e →
    s.hauCached r id = false →
    let x := s.runner r
    let hau := x.hau.filter fun e => e.id != id
    let late (t : State) : State := t.report 0x10 0 r.page r.page (s.linkOf e.addr)
    let lost (t : State) : State := t.report 0x10 5 0 0 0 e.addr
    let msgs := x.msgs.map fun m => { m with ids := m.ids.filter fun i => i != id }
    (∀ older newer, e.dead = false → e.load = true → e.size ∈ [1, 2, 4, 8] → e.addr % e.size = 0 → x.ops = older ++ { unit := .hau, res := [(0x17C, {})], kind := .host id } :: newer → (∀ o ∈ older, o.unit ≠ .hau ∧ o.kind ≠ .host id) →
        let y (q : QVal) : Runner := { x with hau := hau, ops := older ++ newer, qport := tset {} x.qport 0x17C q }
        exec (.hauResponse r id .ok d) s = .next (s.setRunner r (y { val := BitVec.ofNat 64 (d.toNat / 2 ^ (8 * (e.addr % 8)) % 2 ^ (8 * e.size)) }))
        ∧ (∀ resp, resp ≠ .ok → resp ≠ .busy → exec (.hauResponse r id resp d) s = .next (s.setRunner r (y { poison := true, host := true })))
        ∧ (s.linkLive = false → exec (.hauResponse r id .busy d) s = .next (lost (s.setRunner r (y { poison := true, host := true }))))
        ∧ exec (.hauRequestTimeout r id) s = .next (late (s.setRunner r (y { poison := true, host := true }))))
    ∧ (e.dead = false → e.load = false → (∀ o ∈ x.ops, ∀ ids b, o.kind = .fence ids b → id ∉ ids) →
        let y (bad : Bool) : Runner := { x with hau := hau, spanBad := x.spanBad || bad, msgs := msgs }
        exec (.hauResponse r id .ok d) s = .next (s.setRunner r (y false))
        ∧ (∀ resp, resp ≠ .ok → resp ≠ .busy → exec (.hauResponse r id resp d) s = .next (s.setRunner r (y true)))
        ∧ (s.linkLive = false → exec (.hauResponse r id .busy d) s = .next (lost (s.setRunner r (y true))))
        ∧ exec (.hauRequestTimeout r id) s = .next (late (s.setRunner r (y true))))
    ∧ (e.dead = true → ∀ resp, resp ≠ .busy → exec (.hauResponse r id resp d) s = .next (s.setRunner r { x with hau := hau, msgs := msgs }))
    ∧ (∀ older newer l c a n, s.linkLive = true → s.out = older ++ .rdNc l c r id a n :: newer → (∀ o ∈ newer, isRequest r id o = false) →
        exec (.hauResponse r id .busy d) s = .next (s.put (.rdNc (s.linkOf a) c r id a n)))
    ∧ (∀ older newer l c a n v, s.linkLive = true → s.out = older ++ .wrNc l c r id a n v :: newer → (∀ o ∈ newer, isRequest r id o = false) →
        exec (.hauResponse r id .busy d) s = .next (s.put (.wrNc (s.linkOf a) c r id a n v)))

/-- R101 to R103, R111, R113, R246, R294, R464, R474: what comes to a runner with time: one element of a string, in no throttle cycle, and the string's
end, a timer, the watchdog, whose limit counts CLK_S cycles, the end of a t_wait, a baton pass that exceeds its limit, and the mirror write of that
pass when it comes late, which changes exactly the mirror record and its pair of directory entries. -/
def Obligations.TimeEventsComplete : Prop :=
  ∀ (s : State) (r : Rid), s.TablesOk → s.ridPresent r = true → s.mode ≠ .quiesce →
    let x := s.runner r
    let src := x.op 0x180
    let dst := x.op 0x181
    let cnt := x.op 0x182
    let at' (a : Word) : Word := s.wordAt r a.toNat
    let ok (a : Word) : Prop := s.dataOk r a.toNat 8
    let calm (a : Word) : Prop := ok a ∧ s.plainRead r a.toNat 8
    let element (y : Runner) : Prop := exec (.stringElement r) s = .next (s.setRunner r y)
    let put (d : Word) : List StoreEnt := x.stores ++ [{ addr := dst.toNat, size := 8, data := d }]
    let stepped (a b : Bool) : Runner := let y := if a then x.setOp 0x180 (src + 8) else x; (if b then y.setOp 0x181 (dst + 8) else y).setOp 0x182 (cnt - 1)
    (∀ h, x.hold = some h → x.pendW = none → h.done = none → cnt ≠ 0 → s.throttled r = false →
        (h.kind = .copy → calm src → ok dst → x.stores.length < 8 → element { (stepped true true) with stores := put (at' src) })
        ∧ (h.kind = .fill → ok dst → x.stores.length < 8 → element { (stepped false true) with stores := put (x.op 0x183) })
        ∧ (h.kind = .cmp → calm src → calm dst → element (if at' src = at' dst then stepped true true else { x with hold := some { h with done := some 1 } }))
        ∧ (h.kind = .scan → calm src → element (if at' src = x.op 0x183 then { x with hold := some { h with done := some 1 } } else stepped true false)))
    ∧ (s.throttled r = true → exec (.stringElement r) s = .next s)
    ∧ (∀ h, x.hold = some h → x.pendW = none → h.done.isSome = true ∨ cnt = 0 →
        let t := s.setRunner r { x with hold := none, qport := tset {} x.qport 0x19C { val := h.done.getD 0 } }
        exec (.stringDone r) s = .next (if x.run = .stopping then t.settleStop r else t))
    ∧ (∀ one v, (if one then x.tim1 else x.tim0) = some v → exec (.timerFire r one) s = .next (if v.toNat ≤ s.lap.toNat then
        (s.setRunner r (if one then { x with tim1 := none } else { x with tim0 := none })).raise r.home ((match r with | .heat _ i => 0xC0 + 2 * i | .arb => 6) + if one then 1 else 0) else s))
    ∧ (∀ v, x.wdog = some v → exec (.watchdogExpiry r) s = .next (if v ≤ s.clkS then
        let t := s.setRunner r { x with wdog := none }
        if r = .arb then (t.report 0x05 0 r.page r.page 0).fallback 1 else t.report 0x02 0 r.page r.page 0 else s))
    ∧ (∀ older newer q v, x.ops = older ++ { unit := .tim, res := q, kind := .wait v } :: newer → (∀ o ∈ older ++ newer, o.unit ≠ .tim ∧ ∀ w, o.kind ≠ .wait w) →
        exec (.tWaitTimeReached r) s = .next (if v.toNat ≤ s.lap.toNat then s.setRunner r { x with ops := older ++ newer, qport := tset {} x.qport 0x23D { val := 1 } } else s))
    ∧ (∀ h i, r = .heat h i → (∃ o ∈ x.ops, o.kind = .baton) → exec (.batonTimeout r) s = .next (((s.setRunner r { x with pendBat := true, ops := x.ops.filter (fun o => o.kind != .baton), qport := tset {} x.qport 0x25C { val := 1 } }).satInc (0x10 + h) 0x14C 31 24).report 0x0E 0 (0x10 + h) (0x10 + (h ^^^ 1)) 0))
    ∧ (∀ h i m, r = .heat h i → x.late = some m → (∀ o ∈ x.ops, o.kind ≠ .baton) → s.MemOk → m.heat < 16 → m.slot < 4096 → m.bytes.length = 256 →
        ∃ t : State, exec (.lateMirrorWrite r) s = .next t ∧ (t.runner r).late = none
        ∧ (∀ k < 256, t.byteAt m.heat (0x480000 + 256 * m.slot + k) = m.bytes.getD k 0)
        ∧ (∀ k < 8, t.byteAt m.heat (0x370000 + 8 * m.slot + k) = BitVec.ofNat 8 (m.dir.toNat / 2 ^ (8 * k)))
        ∧ ∀ h' a, h' ≤ 16 → a < memLen h' → h' ≠ m.heat ∨ ((a < 0x480000 + 256 * m.slot ∨ 0x480000 + 256 * m.slot + 256 ≤ a) ∧ (a < 0x370000 + 16 * (m.slot / 2) ∨ 0x370000 + 16 * (m.slot / 2) + 16 ≤ a)) →
            t.byteAt h' a = s.byteAt h' a)

/-! Register pages and the window -/

/-- R3, R5, R7: the present heats and root ports are those of the variant, and partners are present together; CPX.HEATMAP and CPX.HEATLIVE show the
present and the live heats in bits [15:0], zero above, and no write changes them; every register of an absent unit's page reads zero, and a host-link
write to it is answered OK and changes nothing. -/
def Obligations.PresenceIsAsFused : Prop :=
  ∀ (s : State) (o : Origin) (k p off h : Nat) (c : Bool) (d : Reg), s.TablesOk → s.mode ≠ .quiesce →
    (s.heatPresent h = decide (h < s.fuses.variant.heats)) ∧ (s.portPresent p = decide (p < s.fuses.variant.rps)) ∧ partner h = h ^^^ 1 ∧ s.heatPresent (partner h) = s.heatPresent h
    ∧ (∀ j < 32, ((s.pageRead o 0 0x104).1.getLsbD j = s.heatPresent j) ∧ ((s.pageRead o 0 0x108).1.getLsbD j = (s.heatPresent j && !s.heatFen.getLsbD j)))
    ∧ (off ∈ [0x104, 0x108] → ∃ t : State, exec (.registerWrite o 0 off d) s = .next t ∧ (t.pageRead o 0 0x104).1 = (s.pageRead o 0 0x104).1 ∧ (t.pageRead o 0 0x108).1 = (s.pageRead o 0 0x108).1)
    ∧ (pageType s.fuses.variant p = none → (s.pageRead o p off) = (0, s) ∧ exec (.registerWrite (.link k c) p off d) s = .next (s.put (.resp (.link k c) .ok 0)))

/-- R7, R17, R20 to R24, R428, R473, R476: REGISTER_WRITE from any origin. A reserved page or an absent unit takes nothing; a Custody-owned page rejects
the Service world with reason 2 and an offset that holds no register is rejected with reason 7, which only PWERR shows; else the write is counted,
recorded and leaves its fields, through the set and clear aliases too. The registers named here are PWR.WAKEC, HEAT.BATCTL, SPAD.CTL, RP.NOTE and
RP.AERM. -/
def Obligations.RegisterWritesComplete : Prop :=
  ∀ (s : State) (o : Origin) (p off : Nat) (d : Reg), s.TablesOk → s.takesWrites o →
    let gives (t : State) : Prop := exec (.registerWrite o p off d) s = .next t
    let pwerr (reason : Nat) : State := (s.setReg p 0x10 (BitVec.ofNat 32 (2 ^ 31 + (if o.cust then 2 ^ 30 else 0) + o.code * 2 ^ 28 + reason * 2 ^ 24 + off))).setReg p 0x14 d
    off < 0x1000 →
    (pageType s.fuses.variant p = none → gives (s.replied o))
    ∧ (o.cust = false → p = 4 ∨ p = 5 ∨ p = 6 ∨ p = 8 → gives ((pwerr 2).replied o))
    ∧ (p ∈ [0, 1, 2] → off ∈ [0xFC, 0x200, 0x3FC, 0x400, 0x4FC, 0x800, 0xC00, 0xFFC] → gives ((pwerr 7).replied o))
    ∧ ∀ mask, (p, off, mask) ∈ [(2, 0x188, 0x1)] ∨ (s.heatPresent (p - 0x10) = true ∧ 0x10 ≤ p ∧ p < 0x20 ∧ off = 0x140 ∧ mask = 0x1FF)
        ∨ (s.heatPresent (p - 0x30) = true ∧ 0x30 ≤ p ∧ p < 0x40 ∧ off = 0x100 ∧ mask = 0xF)
        ∨ (s.portPresent (p - 0x60) = true ∧ 0x60 ≤ p ∧ p < 0x70 ∧ (off = 0x138 ∧ mask = 0xFFFF ∨ off ∈ [0x114, 0x514, 0x914] ∧ mask = 0x1FFF)) →
      let u := off % 0x400
      let old := s.reg p u
      let m : Reg := BitVec.ofNat 32 mask
      gives (((s.accepted o p off d).setReg p u (if off < 0x400 then (old &&& ~~~m) ||| (d &&& m) else if off < 0x800 then old ||| (d &&& m) else old &&& ~~~(d &&& m))).replied o)

/-- R353, R280, R32, R40, R41: reads that have an effect, and reads and writes of pages from outside. A read of LAP.CNT_LO gives bits [31:0] of the lap
counter and latches the others for its requester; a read of ARB.PRES takes the oldest result, 0 where there is none. A window access of a page that is
not 4 bytes wide and aligned is answered UR; the TAP answers only in FACTORY states of the lifecycle, and loads BYPASS for other instructions. -/
def Obligations.PageReadsComplete : Prop :=
  ∀ (s : State) (k : Nat) (c : Bool), k < 4 → s.mode ≠ .quiesce →
    let o := Origin.link k c
    let lo : LineData := BitVec.ofNat 2048 (s.lap.toNat % 2 ^ 32)
    exec (.lapCntRead o) s = .next ({ s with latch := tset 0 s.latch (latchKey o 0xD 0x104) (BitVec.ofNat 32 (s.lap.toNat / 2 ^ 32)) }.put (.resp o .ok lo))
    ∧ (∀ (p : PRes) (rest : List PRes), s.arb.res = p :: rest → exec (.presRead o) s = .next ((s.updArb fun a => { a with res := rest }).put
        (.resp o .ok (BitVec.ofNat 2048 ((2 ^ 31 + p.ctag.toNat * 2 ^ 20 + p.code * 2 ^ 16 + p.ring) % 2 ^ 32)))))
    ∧ (s.arb.res = [] → exec (.presRead o) s = .next (s.put (.resp o .ok 0)))
    ∧ (∀ off size, off < 0x200000 → size ≠ 4 ∨ off % 4 ≠ 0 → exec (.winRd k c off size) s = .next (s.put (.resp o .ur 0)))
    ∧ (∀ off size d, pageType s.fuses.variant (off / 4096) = none → off < 0x200000 → (if size = 4 ∧ off % 4 = 0 then
          exec (.winWr k c off size d) s = .next (s.put (.resp o .ok 0)) else exec (.winWr k c off size d) s = .next (s.put (.resp o .ur 0))))
    ∧ (s.life ≠ 0 → s.life ≠ 3 → ∀ w p off d, exec (.tapAccess (.access w p off d)) s = .next (s.put (.tap false 0)) ∧ exec (.registerWrite .tap p off d) s = .next (s.put (.tap false 0)))
    ∧ (∀ op ∈ [TapOp.bypass, .idcode], exec (.tapAccess op) s = .next (s.put (.tap true 0)))

/-- R33, R40 to R42, R210, R240, R302, R303, R307, R458: the complex window. A scratchpad access of a size and alignment of R42 reads or writes its bytes;
the Service world's accesses to a secure part are discarded, one that meets a collision or a wipe is answered BUSY. A doorbell of the right layout
moves the ring's prod forward; one that would pass the ring's limit is an overflow, one that would move it back is stale. In QUIESCE every access is
answered BUSY and wakes the complex. -/
def Obligations.WindowComplete : Prop :=
  ∀ (s : State) (k off size : Nat) (c : Bool) (d : LineData) (w : Word), s.TablesOk → s.MemOk → k < 4 →
    let h := (off - 0x8000000) / 0x600000
    let a := (off - 0x8000000) % 0x600000
    let o := Origin.link k c
    let answer (t : State) (r : Resp) : State := t.put (.resp o r 0)
    let spad := 0x8000000 ≤ off ∧ off < 0xE000000
    let formed := size ∈ [8, 16, 32, 64, 256] ∧ off % size = 0
    let allowed := a < 0x580000 ∨ c = true
    let reads (f : Bool) (t : State) : Prop := exec (if f then .winRd k c off size else .scratchpadWindowAccess k c false off size d false) s = .next t
    let writes (f : Bool) (t : State) : Prop := exec (if f then .winWr k c off size d else .scratchpadWindowAccess k c true off size d false) s = .next t
    let bytes := (List.range size).map fun j => BitVec.ofNat 8 (d.toNat / 2 ^ (8 * j))
    let q := (off - 0x2000000) / 8
    let x := s.ring q
    let new : BitVec 16 := BitVec.ofNat 16 w.toNat
    let rung (t : State) : Prop := exec (.doorbell k off w) s = .next (t.put (.resp (.link k false) .ok 0))
    let bell := 0x2000000 ≤ off ∧ off < 0x2040000 ∧ off % 8 = 0 ∧ s.mode ≠ .quiesce
    let good := w.toNat / 2 ^ 16 = q
    let limit := if x.lsz.toNat < 12 then 2 ^ (x.lsz.toNat + 4) else 65535
    (s.mode ≠ .quiesce → spad → formed → s.heatPresent h = true → allowed → (0x580000 ≤ a → (s.up h).wipe = false) → ∀ f,
        writes f (answer (s.userWrite h a bytes 0) .ok)
        ∧ ((∀ e ∈ (s.up h).ecc, e.1 < a / 8 ∨ (a + size - 1) / 8 < e.1) → reads f (s.put (.resp o .ok (BitVec.ofNat 2048 (leNat ((List.range size).map fun j => s.byteAt h (a + j)))))))
        ∧ ∀ wr, exec (.scratchpadWindowAccess k c wr off size d true) s = .next (answer (s.satInc (0x30 + h) 0x110 31 16) .busy))
    ∧ (s.mode ≠ .quiesce → spad → formed → s.heatPresent h = true → c = true → 0x580000 ≤ a → (s.up h).wipe = true → ∀ f, writes f (answer s .busy) ∧ reads f (answer s .busy))
    ∧ (s.mode ≠ .quiesce → spad → formed → s.heatPresent h = true → ¬allowed → ∀ f, writes f (answer (s.report 0x10 2 0 0 k off) .ok) ∧ reads f (answer (s.report 0x10 2 0 0 k off) .ok))
    ∧ (s.mode ≠ .quiesce → spad → ¬formed → ∀ f, writes f (answer s .ur) ∧ reads f (answer s .ur))
    ∧ (s.mode = .quiesce → s.qpend = false → ∀ i ∈ [Instr.winRd k c off size, .winWr k c off size d], exec i s = .next (answer s .busy).wakeUp)
    ∧ (bell → ¬good → rung (s.satInc 0xC 0x118 15 0))
    ∧ (bell → good → x.en = false → rung (s.satInc 0xC 0x118 31 16))
    ∧ (bell → good → x.en = true → limit < (new - x.cons).toNat → ∃ t : State, rung t ∧ t.ring q = { x with ovf := BitVec.ofNat 16 (min (x.ovf.toNat + 1) 0xFFFF), err := true } ∧ t.rfld 0xC 0x11C 31 16 = min (s.rfld 0xC 0x11C 31 16 + 1) 0xFFFF)
    ∧ (bell → good → x.en = true → (new - x.cons).toNat ≤ limit → (new - x.cons).toNat < (x.prod - x.cons).toNat → ∃ t : State, rung t ∧ t.ring q = { x with stale := BitVec.ofNat 16 (min (x.stale.toNat + 1) 0xFFFF) })
    ∧ (bell → good → x.en = true → new = x.prod → (new - x.cons).toNat ≤ limit → rung s)
    ∧ (bell → good → x.en = true → (new - x.cons).toNat ≤ limit → (x.prod - x.cons).toNat < (new - x.cons).toNat → ∃ (t : State) (j : Nat), rung t ∧ t.ring q = { x with prod := new, rung := x.rung + 1, lapDb := s.lap, joined := j }
        ∧ (∀ q' ≠ q, t.ring q' = s.ring q') ∧ (x.placed = true → x.held = false → x.frozen = false → q ∈ t.queue x.heat x.cls.toNat))

/-! Runners, control stores, rings, the Arbiter -/

/-- R151, R191, R193, R257, R261, R262, R265, R308, R416, R447, R474: the controls of runners and heats. RUNNER_START and HEAT_START are rejected with
reason STATE where the store holds no image, the heat is fenced or its orphans are not yet taken up; a runner that stands still starts, at once or
once its heat's memory is wiped; a running one stops, at the end of its word or at once. A fence stops the runner, drops its work and releases its
ring; where no other live runner of the heat is named in take, the heat is fenced. A heat fence fences each of its runners, empties its cache and
takes the mode to RECOVERY, or DEGRADED where no mirror holds orphans. A heat that starts is live again, its directories empty, its memory being wiped
and its partner re-mirroring. A fence of what is fenced has no further effect. R47, R82, R151, R155, R193, R257, R343: what a start leaves of a
runner: general registers, guards, flags, ports, return stack, operations and counts as at reset, in Custody supervisor at the Custody start vector,
with the Custody bank preset to return to the Service start vector. Messages of earlier work go on; what the host still answers to it is discarded. No
other runner changes. -/
def Obligations.RunnerControlsComplete : Prop :=
  (∀ (s : State) (o : Origin) (h i : Nat), s.TablesOk → s.takesWrites o → h < s.nHeats → i < 9 →
      let r := Rid.heat h i
      let x := s.runner r
      let p := h ^^^ 1
      let gives (c : Instr) (p : Nat) (d : Reg) (f : State → State) : Prop := exec c s = .next ((f (s.accepted o p 8 d)).replied o)
      let does (c : Instr) (f : State → Prop) : Prop := ∃ t : State, exec c s = .next (t.replied o) ∧ f t
      let idle (y : Runner) : Prop := y.run = .stopped ∧ y.ring = none ∧ y.ops = []
      let dropped (t : State) : Prop := idle (t.runner r) ∧ (∀ q, x.ring = some q → (t.ring q).held = false)
        ∧ ((∀ j < 9, j ≠ i → s.takes h j = true → s.liveR (.heat h j) = false) → x.late = none → t.heatFen.getLsbD h = true)
      let fenced (t : State) : Prop := dropped t ∧ (t.runner r).fenced = true ∧ (t.runner r).stores = [] ∧ (t.runner r).frame = [] ∧ (t.runner r).resv = none
      let still := x.run = .stopped ∨ x.run = .handoff
      let ready := (s.cstore h).valid = true ∧ s.heatFen.getLsbD h = false ∧ s.lorph h = 0
      (ready → still → (s.up h).restart = false → does (.runnerStart o r) fun t => (t.runner r).run = .running ∧ (t.runner r).cust = true ∧ (t.runner r).sup = true ∧ (t.runner r).fenced = false ∧ (t.runner r).starting = false
          ∧ (t.runner r).pc = BitVec.ofNat 15 ((s.reg r.page 0x114).toNat / 64 % 512 * 64) + 48 ∧ (t.runner r).g = [] ∧ (t.runner r).ops = [] ∧ ∀ r', r'.wf = true → r' ≠ r → t.runner r' = s.runner r')
      ∧ (ready → still → (s.up h).restart = true → gives (.runnerStart o r) r.page 1 fun t => t.updR r fun y => { y with starting := true })
      ∧ (ready → ¬still → gives (.runnerStart o r) r.page 1 id)
      ∧ (¬ready → exec (.runnerStart o r) s = .next ((s.pwerr o r.page 8 3 1).replied o))
      ∧ (x.starting = true → gives (.runnerStop o r) r.page 0 fun t => t.updR r fun y => { y with starting := false })
      ∧ (x.starting = false → x.run ≠ .running → gives (.runnerStop o r) r.page 0 id)
      ∧ (x.starting = false → x.run = .running → x.hold.isSome = true ∨ x.stallAt.isSome = true ∨ x.tries ≠ 0 → gives (.runnerStop o r) r.page 0 fun t => t.updR r fun y => { y with run := .stopping })
      ∧ (x.starting = false → x.run = .running → x.hold = none → x.stallAt = none → x.tries = 0 → x.fenced = false → does (.runnerStop o r) dropped)
      ∧ (x.starting = false → x.run ≠ .running ∨ ready → x.fenced = false → s.heatFen.getLsbD h = false → does (.pctlFence o r.page) fenced)
      ∧ (x.fenced = false → s.heatFen.getLsbD h = false → ∃ t : State, exec (.runnerFence r) s = .next t ∧ fenced t)
      ∧ (x.fenced = true ∨ s.heatFen.getLsbD h = true → exec (.runnerFence r) s = .next s)
      ∧ (s.heatFen.getLsbD h = false → gives (.heatStart o h) (0x10 + h) 1 id)
      ∧ (s.heatFen.getLsbD h = true → s.morph p = 0 → s.MemOk → does (.heatStart o h) fun t => t.heatFen = putBit s.heatFen h false ∧ (t.up h).wipe = true ∧ (t.up h).restart = true ∧ t.lorph h = 0 ∧ t.morph h = 0
          ∧ (∀ k < 4096, t.dirAt h (0x378000 + 8 * k) = 0 ∧ t.dirAt h (0x370000 + 8 * k) = 0) ∧ (t.cache h).lines = [] ∧ (t.cache h).init = false
          ∧ (if s.heatUp p then t.mstateOf h = 0 ∧ t.mstateOf p = 2 else t.mstateOf h = 1))
      ∧ (s.heatFen.getLsbD h = true → s.morph p ≠ 0 → exec (.heatStart o h) s = .next ((s.pwerr o (0x10 + h) 8 3 1).replied o))
      ∧ (s.heatFen.getLsbD h = true → exec (.heatFence h) s = .next s)
      ∧ (s.heatFen.getLsbD h = false → ∃ t : State, exec (.heatFence h) s = .next t ∧ t.heatFen = putBit s.heatFen h true ∧ (t.cache h).lines = [] ∧ (t.cache h).fills = []
          ∧ (∀ j < 9, idle (t.runner (.heat h j)) ∧ (t.runner (.heat h j)).fenced = true ∧ (t.runner (.heat h j)).stores = [])
          ∧ (s.mode = .service ∨ s.mode = .degraded → t.mode = if ∀ g < s.nHeats, t.heatFen.getLsbD g = true ∨ t.morph g = 0 then .degraded else .recovery)))
  ∧ (∀ (s : State) (r : Rid), s.TablesOk → r.wf = true →
      let x := s.runner r
      let vec (off : Nat) : CAddr := BitVec.ofNat 15 ((s.reg r.page off).toNat / 64 % 512 * 64)
      let bank : Bank := { spc := vec 0x110 + 48, gate := true, busy := true, world := false, level := true }
      let fresh : Runner := { run := .running, cycBase := s.clkS, ctlEff := s.reg r.page 0x100, pc := vec 0x114 + 48, bankC := bank }
      (s.startRunner r).runner r = { fresh with hau := x.hau.map fun e => { e with dead := true }, msgs := x.msgs, late := x.late, injPar := x.injPar, injRes := x.injRes }
      ∧ (∀ r', r'.wf = true → r' ≠ r → (s.startRunner r).runner r' = s.runner r')
      ∧ (twf {} (s.slice r.home).rp = true → ((s.startRunner r).slice r.home).rprio r.idx = {}))

/-- R184 to R186, R190, R201, R203, R204: IMG. A go is accepted only when IMG is idle; it takes the targets and the address in effect, counted from
IMG.TGT and IMG.SRC, and its header is read and checked. A target that runs ends the load with code 1, a failed check with its code, a request that
fails or is not answered with 9, a segment of the wrong digest with 7, a word of it that fails parity with 8, an abort with 0x0A at the end of the
segment; none of these changes a store. BUSY makes the reads again. A reload that is not answered makes its line permanent. R185, R188, R190, R191,
R201: a segment of a load that passes its digest and whose words all pass parity is written word by word into each target store, and nowhere else.
After the last one each target store is valid with the header's count and digest, its fence table empty and its reloads no longer asked for, and the
load ends with code 0; before, the stores are not valid, and the load goes on to the next segment, paused there while a reload waits. An abort ends it
with code 0x0A. -/
def Obligations.ImageCommandsComplete : Prop :=
  (∀ (s : State) (o : Origin) (hdr d : HostData) (k : Nat), s.TablesOk → s.takesWrites o → o.cust = true →
      let m := s.img
      let heats : BitVec 16 := BitVec.ofNat 16 ((s.reg 6 0x104).toNat % 2 ^ s.nHeats)
      let arb := (s.reg 6 0x104).getLsbD 16
      let src : BitVec 40 := BitVec.ofNat 40 ((s.reg 6 0x108).toNat / 2 ^ 12 + (s.reg 6 0x10C).toNat % 2 ^ 20 * 2 ^ 20)
      let stands (x : Runner) : Prop := x.fenced = true ∨ x.run = .stopped ∨ x.run = .handoff
      let free := s.mode = .coldstart ∨ (∀ h < s.nHeats, heats.getLsbD h = true → ∀ i < 9, stands (s.runner (.heat h i))) ∧ (arb = true → stands s.arbRun)
      let loads (t : State) (l : List Byte) : Prop := t.img = { m with state := 1, paused := false, seg := 0, abort := false, hdr := l, heats := heats, arb := arb, src := src }
      let keeps (t : State) : Prop := t.cwords = s.cwords ∧ t.cstores = s.cstores
      let goes (f : State → Prop) : Prop := ∃ t : State, exec (.imgGo o hdr) s = .next t ∧ keeps t ∧ f t
      let ended (c : Instr) (code : BitVec 8) : Prop := ∃ t : State, exec c s = .next t ∧ keeps t ∧ t.img.state = 0 ∧ t.img.code = code ∧ t.img.hdr = [] ∧ t.img.abort = false ∧ t.img.rq = m.rq
      let idle := m.state = 0 ∧ m.rq = []
      let n := min 2048 (bnat m.hdr 0x10 4 - 2048 * m.seg)
      let waits := m.state = 1 ∧ m.hdr ≠ [] ∧ m.paused = false ∧ s.mode ≠ .quiesce
      let right := d.resp = .ok ∧ Config.sha384 (d.bytes.take (32 * n)) = digestOf m.hdr (0x100 + 48 * m.seg)
      (idle → ¬free → goes fun t => t.img.state = 0 ∧ t.img.code = 1)
      ∧ (idle → free → s.linkLive = true → hdr.resp = .busy → goes fun t => loads t [])
      ∧ (idle → free → s.linkLive = true → hdr.resp ≠ .busy → s.imgCheck heats arb hdr ≠ 0 → goes fun t => t.img.state = 0 ∧ t.img.code = BitVec.ofNat 8 (s.imgCheck heats arb hdr))
      ∧ (idle → free → s.linkLive = true → hdr.resp ≠ .busy → hdr.bytes ≠ [] → s.imgCheck heats arb hdr = 0 → goes fun t => loads t hdr.bytes)
      ∧ (idle → free → s.linkLive = false → goes fun t => t.img.state = 0 ∧ t.img.code = 9)
      ∧ (m.state = 1 → m.hdr ≠ [] → exec (.imgGo o hdr) s = .next ((s.pwerr o 6 0x100 3 1).replied o))
      ∧ exec (.imgAbort o) s = .next (((s.accepted o 6 0x100 2).updImg fun m => { m with abort := m.abort || decide (m.state = 1) }).replied o)
      ∧ (waits → d.resp = .busy → ∃ t : State, exec (.imgSegment d) s = .next t ∧ keeps t ∧ t.img = m)
      ∧ (waits → d.resp ≠ .busy → d.resp ≠ .ok → ended (.imgSegment d) 9)
      ∧ (waits → d.resp = .ok → ¬right → ended (.imgSegment d) 7)
      ∧ (waits → right → (∃ j < n, segWordOk d.bytes j = false) → ended (.imgSegment d) 8)
      ∧ (waits → ended (.imgRequestTimeout k) 9)
      ∧ ∀ st line rest, s.mode ≠ .quiesce → m.state ≠ 1 ∨ m.paused = true → m.rq = (st, line) :: rest → ∃ t : State, exec (.imgRequestTimeout k) s = .next t ∧ t.cwords = s.cwords ∧ t.img.rq = rest ∧ t.img.rcode = 9
          ∧ t.img.rstore = BitVec.ofNat 5 st ∧ t.img.rcount.toNat = min (m.rcount.toNat + 1) 0xFFFF ∧ ∀ e ∈ (t.cstore st).fence, e.2.line = line → e.2.state = 2)
  ∧ (∀ (s : State) (d : HostData), s.TablesOk → s.MemOk → s.mode ≠ .quiesce →
      let m := s.img
      let n := min 2048 (bnat m.hdr 0x10 4 - 2048 * m.seg)
      let last := bnat m.hdr 0x14 4 ≤ m.seg + 1
      m.state = 1 → m.hdr ≠ [] → m.paused = false → d.resp = .ok → Config.sha384 (d.bytes.take (32 * n)) = digestOf m.hdr (0x100 + 48 * m.seg) →
      (∀ j < n, segWordOk d.bytes j = true) → m.seg < 16 → ∃ t, exec (.imgSegment d) s = .next t
        ∧ (m.abort = true → t.img.state = 0 ∧ t.img.code = 0x0A)
        ∧ (m.abort = false → last → t.img.state = 0 ∧ t.img.code = 0)
        ∧ (m.abort = false → ¬last → s.linkLive = true ∨ m.rq ≠ [] → t.img = { m with seg := m.seg + 1, paused := !m.rq.isEmpty })
        ∧ ∀ st a, st ≤ 16 → a < 32768 →
          let hit := (st < 16 ∧ m.heats.getLsbD st = true) ∨ (st = 16 ∧ m.arb = true)
          t.cword st a = (if hit ∧ 2048 * m.seg ≤ a ∧ a < 2048 * m.seg + n then segWord d.bytes (a - 2048 * m.seg) else s.cword st a)
          ∧ (hit → last → m.abort = false → (t.cstore st).valid = true ∧ (t.cstore st).count = bnat m.hdr 0x10 4 ∧ (t.cstore st).fence = []
              ∧ (t.cstore st).digest = some (Config.sha384 (bslice m.hdr 0 0x400)) ∧ (t.cstore st).gold = m.src ∧ ∀ e ∈ t.img.rq, e.1 ≠ st)
          ∧ (hit → ¬last ∨ m.abort = true → t.cstore st = { s.cstore st with valid := false })
          ∧ (¬hit → t.cstore st = s.cstore st))

/-- R177, R178, R182 to R186, R204: LINE_FETCH brings the line of the word at pc into the fetch buffer, an injected parity error with it; from a line
marked RELOAD it waits, from one marked PERM it is a machine check. What is fetched ahead changes nothing else. The scrub reads the next line of an
enabled, valid store; one that fails is counted, reported, entered in the fence table and its reload asked for. A reload that passes both digests puts
the line back and frees its entry; one that fails leaves it PERM and is reported. -/
def Obligations.ControlStoreUpkeepComplete : Prop :=
  ∀ (s : State) (r : Rid) (st : Nat) (hdr seg : HostData), s.TablesOk → s.MemOk → s.mode ≠ .quiesce → s.ridPresent r = true → (s.heatPresent st = true ∨ st = 16) →
    let x := s.runner r
    let c := s.cstore st
    let line := if c.count / 4 ≤ c.line then 0 else c.line
    let next (t : State) : State := if c.count / 4 ≤ line + 1 then t.updCs st fun c => { c with line := 0, passes := c.passes + 1 } else t.updCs st fun c => { c with line := line + 1 }
    let counted (t : State) : State := (t.updCs st fun c => { c with errors := satCount16 c.errors }).report 0x08 0 (storePage st) (storePage st) (line % 65536) line
    let bad := ∃ j < 4, parityOk (s.cword st (4 * line + j)) = false
    let scrubs := (s.reg (storePage st) (storeOff st)).getLsbD 0 = true ∧ c.valid = true
    let at' := x.pc.toNat / 4
    (x.ahead = [] → x.fetched x.pc = none →
      (s.fenceOf r.home at' = 0 → ∃ y, exec (.lineFetch r) s = .next (s.setRunner r y) ∧ y.plain = { x with injPar := false }.plain
        ∧ y.fetched x.pc = some (if x.injPar then s.cword r.home x.pc.toNat ^^^ (1 <<< 160 : MoveWord) else s.cword r.home x.pc.toNat))
      ∧ (s.fenceOf r.home at' = 1 → exec (.lineFetch r) s = .next s)
      ∧ (2 ≤ s.fenceOf r.home at' → exec (.lineFetch r) s = .next (s.updR r fun x => { x with pendM := some 0x30 })))
    ∧ ((x.fetched x.pc).isSome = true → x.ahead.headD x.pc = x.pc → ∃ y, exec (.lineFetch r) s = .next (s.setRunner r y) ∧ { y with pendM := none, injPar := false }.plain = { x with pendM := none, injPar := false }.plain)
    ∧ (scrubs → ¬bad → exec (.cstoreScrubRead st) s = .next (next s))
    ∧ (scrubs → bad → s.fenceOf st line ≠ 0 → exec (.cstoreScrubRead st) s = .next (next (counted s)))
    ∧ (∀ k < 4, scrubs → bad → s.fenceOf st line = 0 → (tget {} c.fence k).state = 0 → (∀ j < k, (tget {} c.fence j).state ≠ 0) → exec (.cstoreScrubRead st) s = .next (next
        (((counted s).updCs st fun c => { c with fence := tset {} c.fence k { state := 1, line := line } }).updImg fun m => { m with rq := m.rq ++ [(st, line)] })))
    ∧ (scrubs → bad → s.fenceOf st line = 0 → (∀ k < 4, (tget {} c.fence k).state ≠ 0) → exec (.cstoreScrubRead st) s = .next (next
        ((counted s).report 0x09 0 (storePage st) (storePage st) (line % 65536) line)))
    ∧ (¬scrubs → exec (.cstoreScrubRead st) s = .next s)
    ∧ ∀ k line' rest, s.img.rq = (k, line') :: rest → s.img.state ≠ 1 ∨ s.img.paused = true → s.linkLive = true →
        let g := 4 * line' / 2048
        let n := min 2048 ((s.cstore k).count - 2048 * g)
        let code := if hdr.resp ≠ .ok then 9
          else if (s.cstore k).digest ≠ some (Config.sha384 (bslice hdr.bytes 0 0x400)) then 7 else if seg.resp ≠ .ok then 9
          else if Config.sha384 (seg.bytes.take (32 * n)) ≠ digestOf hdr.bytes (0x100 + 48 * g) then 7 else 0
        (hdr.resp = .busy ∨ seg.resp = .busy → ∃ t : State, exec (.reload hdr seg) s = .next t ∧ t.img = s.img ∧ t.cwords = s.cwords ∧ t.cstores = s.cstores)
        ∧ (hdr.resp ≠ .busy → seg.resp ≠ .busy → ∃ t : State, exec (.reload hdr seg) s = .next t ∧ t.img.rq = rest ∧ t.img.rcode = BitVec.ofNat 8 code ∧ t.img.rstore = BitVec.ofNat 5 k
          ∧ t.img.rcount.toNat = min (s.img.rcount.toNat + 1) 0xFFFF ∧ (code ≠ 0 → t.cwords = s.cwords ∧ ∀ e ∈ (t.cstore k).fence, e.2.line = line' → e.2.state = 2)
          ∧ (code = 0 → (∀ j < 4, t.cword k (4 * line' + j) = segWord seg.bytes ((4 * line' + j) % 2048)) ∧ (∀ a < 32768, a / 4 ≠ line' → t.cword k a = s.cword k a) ∧ (∀ e ∈ (t.cstore k).fence, e.2.line ≠ line')))

/-- R209, R215, R234, R235: the ring table's commands. RSEL takes a snapshot of the ring it selects. RCTL_HI commits word 0 of a disabled ring whole, and
a set en starts the ring anew and leaves it to be placed; of an enabled one it may only clear en, which waits while the ring is held or frozen; any
other change is rejected with reason STATE. Only the selected ring changes. -/
def Obligations.RingTableComplete : Prop :=
  ∀ (s : State) (o : Origin) (data : Reg) (e : Nat), s.TablesOk → s.takesWrites o →
    let q := s.rfld 0xC 0x100 14 0
    let x := s.ring q
    let w := (s.ringWord q 0).toNat
    let lo := s.loHalf 0xC 0x108 (BitVec.ofNat 32 w)
    let worldOk := o.cust = true ∨ x.world = false ∧ lo.getLsbD 4 = false
    let word : Ring := { x with burst := BitVec.ofNat 12 (fld data 31 20), base := BitVec.ofNat 40 (fld lo 31 12 + fld data 19 0 * 2 ^ 20), lsz := BitVec.ofNat 4 (fld lo 11 8), cls := BitVec.ofNat 3 (fld lo 7 5), world := lo.getLsbD 4, en := true }
    let off (x : Ring) : Ring := if x.held = true ∨ x.frozen = true then { x with clrEn := true } else { x with en := false, clrEn := false }
    (let t := (s.accepted o 0xC 0x100 data (decide (o = .tap))).setRfld 0xC 0x100 14 0 (fld data 14 0);
      exec (.rselSnapshot o data) s = .next (State.replied { t with rent := s.rentOf (fld data 14 0) } o))
    ∧ (worldOk → x.en = false → lo.getLsbD 3 = true → ∃ t : State, exec (.ringEnable o data) s = .next (t.replied o)
        ∧ t.ring q = { word with prod := 0, cons := 0, rung := 0, taken := 0, stale := 0, ovf := 0, err := false, placed := false, clrEn := false, told := false }
        ∧ (∀ q' ≠ q, t.ring q' = s.ring q') ∧ (∀ h c, q ∉ t.queue h c) ∧ t.lohold.find? (fun e => e.1 == regKey 0xC 0x108) = none)
    ∧ (worldOk → x.en = true → lo.getLsbD 3 = false → data = BitVec.ofNat 32 (w / 2 ^ 32) → putBit lo 3 false = putBit (BitVec.ofNat 32 w) 3 false →
        ∃ t : State, exec (.ringDisable o data) s = .next (t.replied o) ∧ t.ring q = off x ∧ (∀ q' ≠ q, t.ring q' = s.ring q'))
    ∧ (worldOk → x.en = true → lo.getLsbD 3 = false → data ≠ BitVec.ofNat 32 (w / 2 ^ 32) ∨ putBit lo 3 false ≠ putBit (BitVec.ofNat 32 w) 3 false →
        exec (.ringDisable o data) s = .next ((s.pwerr o 0xC 0x10C 3 data).replied o))
    ∧ (e < 32768 → (s.ring e).clrEn = true → ∃ t : State, exec (.ringDisableEffect e) s = .next t ∧ t.ring e = off (s.ring e) ∧ (∀ q' ≠ e, t.ring q' = s.ring q'))

/-- R213: the scheduler's choice for a runner of heat `h` with class mask `m`: classes 0 and 1 come first; else the first class in cyclic order from ptr
that the mask names, whose queue holds a ring and whose credit is left, all credits being replenished from the weights where no such class has one.
The ring at the head is chosen, one credit is spent, and ptr moves past a class whose credit is spent. The weights are what RSCH.WGT0 and RSCH.WGT1
hold then; right after reset credits equal them and ptr is 2. A t_pop that waits waits with the mask v[7:0]. R109, R213, R214, R447: RING_HANDOUT
gives the scheduler's choice to the waiting runner of the lowest index that some ring satisfies: the ring is held by it and named in q_ring and
q_desc, in its t_pop's place; where no runner waits, or no ring satisfies one, nothing changes. -/
def Obligations.HandoutComplete : Prop :=
  ((∀ (s : State) (r : Rid) (v : Word), s.TablesOk → s.executes r → r ≠ .arb → (s.runner r).run = .running → (s.runner r).sup = true → (s.runner r).popping = false → v.toNat % 256 ≠ 0 → (s.runner r).ring = none → s.intrPending r = false →
      ∃ t : State, exec (.ringPop r v) s = .next t ∧ (t.runner r).popMask = some (BitVec.ofNat 8 v.toNat))
    ∧ (∀ h c, 2 ≤ c → c < 8 → State.reset.creditOf h c = fld (State.reset.reg 0xC (0x110 + c / 6 * 4)) (8 * ((c - 2) % 4) + 7) (8 * ((c - 2) % 4)) ∧ State.reset.ptrOf h = 2)
    ∧ ∀ (s : State) (h : Nat) (m : BitVec 8), twf (1 : Nat) s.credit = true → twf (2 : Nat) s.qptr = true →
      let weight (c : Nat) : Nat := fld (s.reg 0xC (0x110 + c / 6 * 4)) (8 * ((c - 2) % 4) + 7) (8 * ((c - 2) % 4))
      let some' (c : Nat) : Prop := m.getLsbD c = true ∧ s.queue h c ≠ []
      let cand (c : Nat) : Prop := 2 ≤ c ∧ c < 8 ∧ some' c
      (some' 0 → s.chooseRing h m = ((s.queue h 0).head?, s))
      ∧ (¬some' 0 → some' 1 → s.chooseRing h m = ((s.queue h 1).head?, s))
      ∧ (¬some' 0 → ¬some' 1 → (∀ c, ¬cand c) → s.chooseRing h m = (none, s))
      ∧ ∀ (left : Nat → Nat) (c : Nat), ¬some' 0 → ¬some' 1 → (∀ c', 2 ≤ c' → c' < 8 → ((∃ c, cand c ∧ 0 < s.creditOf h c) → left c' = s.creditOf h c') ∧ ((∀ c, cand c → s.creditOf h c = 0) → left c' = weight c')) →
          2 ≤ s.ptrOf h → s.ptrOf h < 8 → cand c → 0 < left c → (∀ c', cand c' → 0 < left c' → (c + 6 - s.ptrOf h) % 6 ≤ (c' + 6 - s.ptrOf h) % 6) →
          ∃ t : State, s.chooseRing h m = ((s.queue h c).head?, t)
            ∧ (∀ h' c', c' < 8 → t.creditOf h' c' = if h' = h ∧ 2 ≤ c' then (if c' = c then left c - 1 else left c') else s.creditOf h' c')
            ∧ (∀ h', t.ptrOf h' = if h' = h ∧ left c = 1 then (if c = 7 then 2 else c + 1) else s.ptrOf h')
            ∧ t = { s with credit := t.credit, qptr := t.qptr })
  ∧ (∀ (s : State) (h i q : Nat) (m : BitVec 8) (u : State), s.TablesOk → twf [] s.queues = true → s.heatUp h = true → s.qpend = false → s.pfw = false → s.mode ≠ .coldstart → s.mode ≠ .quiesce → h < 16 → i < 9 →
      let waits (j : Nat) : Option (BitVec 8) := (s.runner (.heat h j)).popMask
      let served (j : Nat) : Prop := ∃ m, waits j = some m ∧ (s.chooseRing h m).1 ≠ none
      ((∀ j < 9, ¬served j) → exec (.ringHandout h) s = .next s)
      ∧ (waits i = some m → s.chooseRing h m = (some q, u) → (∀ j < i, ¬served j) → ∃ t : State, exec (.ringHandout h) s = .next t
          ∧ t.ring q = { s.ring q with held := true, runner := i, lapPop := s.lap } ∧ (∀ q' ≠ q, t.ring q' = s.ring q') ∧ (∀ h' c', t.queue h' c' = (s.queue h' c').filter fun a => a != q)
          ∧ (∀ h' c', t.creditOf h' c' = u.creditOf h' c') ∧ (∀ h', t.ptrOf h' = u.ptrOf h')
          ∧ (t.runner (.heat h i)).ring = some q ∧ (t.runner (.heat h i)).popMask = none
          ∧ (∀ r, r.wf = true → r ≠ .heat h i → t.runner r = s.runner r)
          ∧ (∀ a, (s.runner (.heat h i)).ops = [a] → a.unit = .ring → twf {} (s.runner (.heat h i)).qport = true → (t.runner (.heat h i)).ops = [] ∧ (t.runner (.heat h i)).q 0x1FC = { val := ringState q (s.ring q) false } ∧ (t.runner (.heat h i)).q 0x1FD = { val := ringDesc (s.ring q) })))

/-- R279 to R282, R294, R295: placement commands. PLACE and MIGRATE wait in the FIFO, and the oldest begins when the migrations and the result FIFO leave
it room, one that finds the FIFO empty at once; the checks of R281 are made in order and the first that fails is the result, with nothing changed. A
placement is done at once. A migration freezes an unheld ring, which then moves; it waits for the withdrawal of a held one and for the orphans of one
that a fence froze; the move makes the checks again. The fallback cancels what waits, and places each waiting ring on the first heat from its SMAP
entry that passes. -/
def Obligations.PlacementCommandsComplete : Prop :=
  ∀ (s : State) (o : Origin) (data : Reg) (c : PCmd) (rest : List PCmd) (q dest ctag cause code : Nat), s.TablesOk → s.mode ≠ .quiesce →
    let fails (t : State) (mig : Bool) (q dest k : Nat) : Prop := match k with
      | 1 => ¬((t.ring q).en = true ∧ (t.ring q).placed = mig ∧ (mig = true → (t.ring q).heat ≠ dest))
      | 2 => t.heatPresent dest = false
      | 3 => t.heatFen.getLsbD dest = true
      | 4 => (t.reg 8 0x108).getLsbD dest = true
      | 5 => (t.ring q).aff.getLsbD dest = false
      | 6 => (t.ring q).world = true ∧ t.arb.secok.getLsbD dest = false
      | 7 => t.arb.excl.getLsbD dest = true
      | 8 => t.mirrorOk dest = false
      | 9 => t.rfld 8 0x100 11 0 * t.liveCount dest ≤ (t.ringsOn dest).length
      | _ => False
    let first (mig : Bool) (q dest code : Nat) : Prop := (code = 0 ∧ ∀ k, ¬fails s mig q dest k) ∨ (1 ≤ code ∧ fails s mig q dest code ∧ ∀ j, 1 ≤ j → j < code → ¬fails s mig q dest j)
    let moved (x : Ring) (dest j : Nat) : Ring := { x with heat := dest, frozen := false, migs := x.migs + 1, migTo := none, migMv := false, joined := j, unprot := s.mstateOf dest == 1 || (x.unprot && s.mstateOf x.heat == 1) }
    let placed (x : Ring) (dest j : Nat) : Ring := { x with heat := dest, placed := true, unprot := x.unprot || s.mstateOf dest == 1, told := false, joined := j }
    let mayBegin (c : PCmd) : Prop := s.migsOpen < 4 ∧ (s.ring c.ring).migTo = none ∧ s.arb.res.length < 16
    let begins (t : State) (c : PCmd) (rest : List PCmd) (code : Nat) : Prop :=
      let x := s.ring c.ring
      let withdrawn : Prop := x.held = true ∨ x.fzRun = true ∨ x.fzHeat = true
      let result : Prop := t.arb.res = s.arb.res ++ [{ ctag := c.ctag, code := code, ring := c.ring }]
      t.arb.cmds = rest ∧ (∀ q' ≠ c.ring, t.ring q' = s.ring q')
      ∧ (code ≠ 0 → t.ring c.ring = x ∧ result ∧ t.reg 8 0x110 = s.reg 8 0x110 + (if code = 1 then 0 else 1))
      ∧ (code = 0 → c.mig = true → withdrawn → t.ring c.ring = { x with migTo := some (c.dest, c.ctag.toNat) } ∧ t.arb.res = s.arb.res)
      ∧ (code = 0 → c.mig = true → ¬withdrawn → t.ring c.ring = { x with migTo := some (c.dest, c.ctag.toNat), frozen := true, migMv := true } ∧ t.arb.res = s.arb.res)
      ∧ (code = 0 → c.mig = false → result ∧ ∃ j, t.ring c.ring = placed x c.dest j)
    let cmd (mig : Bool) : PCmd := { mig := mig, ctag := BitVec.ofNat 8 (fld data 27 20), dest := fld data 19 16, ring := fld data 14 0 }
    let word (mig : Bool) : Reg := setFld data 31 30 (if mig then 2 else 1)
    let sent (mig : Bool) : Instr := if mig then .migrate o data else .place o data
    (∀ mig k, 1 ≤ k → k ≤ 9 → fails s mig q dest k → (∀ j, 1 ≤ j → j < k → ¬fails s mig q dest j) → s.placeCheck mig q dest = k)
    ∧ (∀ mig, (∀ k, ¬fails s mig q dest k) → s.placeCheck mig q dest = 0)
    ∧ (∀ mig, s.takesWrites o → s.arb.fb = false → s.arb.cmds.length < 16 →
        (s.arb.cmds ≠ [] ∨ ¬mayBegin (cmd mig) → exec (sent mig) s = .next (((s.accepted o 7 0x120 (word mig)).updArb fun a => { a with cmds := a.cmds ++ [cmd mig] }).replied o))
        ∧ (s.arb.cmds = [] → mayBegin (cmd mig) → first mig (cmd mig).ring (cmd mig).dest code → ∃ t : State, exec (sent mig) s = .next (t.replied o) ∧ begins t (cmd mig) [] code))
    ∧ (∀ mig, s.takesWrites o → s.arb.fb = true ∨ 16 ≤ s.arb.cmds.length → exec (sent mig) s = .next ((s.pwerr o 7 0x120 3 (word mig)).replied o))
    ∧ (s.arb.cmds = c :: rest → mayBegin c → first c.mig c.ring c.dest code → ∃ t : State, exec .commandBegin s = .next t ∧ begins t c rest code)
    ∧ (s.arb.cmds = [] ∨ ¬mayBegin (s.arb.cmds.headD c) → exec .commandBegin s = .next s)
    ∧ (q < 32768 → (s.ring q).migTo = some (dest, ctag) → (s.ring q).migMv = true → (s.ring q).frozen = true → (s.ring q).fzRun = false → (s.ring q).fzHeat = false → s.passPending q = false → first true q dest code →
        ∃ (t : State) (j : Nat), exec (.migrateMove q) s = .next t ∧ t.arb.res = s.arb.res ++ [{ ctag := BitVec.ofNat 8 ctag, code := code, ring := q }] ∧ (∀ q' ≠ q, t.ring q' = s.ring q')
          ∧ t.ring q = if code = 0 then moved (s.ring q) dest j else { s.ring q with frozen := false, migTo := none, migMv := false, joined := j })
    ∧ (cause ∈ [1, 2, 3, 4] → s.fallbackDue cause = true → s.arb.fb = false → ∃ t : State, exec (.fallbackBegin cause) s = .next t ∧ t.rings = s.rings
        ∧ t.arb = { s.arb with fb := true, fbCause := BitVec.ofNat 3 cause, fbCnt := BitVec.ofNat 8 (min (s.arb.fbCnt.toNat + 1) 255), cmds := [], res := s.arb.res ++ s.arb.cmds.map fun c => { ctag := c.ctag, code := 0xA, ring := c.ring } })
    ∧ (q < 32768 → s.arb.fb = true → (s.ring q).en = true → (s.ring q).placed = false →
        let home (i : Nat) : Nat := (s.smap (q % 64) + i) % 16
        let bars (i : Nat) : Prop := ∃ k, 2 ≤ k ∧ fails s false q (home i) k
        (∀ i < 16, ¬bars i → (∀ j < i, bars j) → ∃ (t : State) (j : Nat), exec (.fallbackPlace q) s = .next t ∧ t.ring q = placed (s.ring q) (home i) j ∧ ∀ q' ≠ q, t.ring q' = s.ring q')
        ∧ ((∀ i < 16, bars i) → exec (.fallbackPlace q) s = .next (if (s.ring q).told then s else (s.updRing q fun x => { x with told := true }).report 0x05 2 7 7 q)))

/-- R274 to R276, R288 to R290, R292, R295, R463: the Arbiter's registers and its windows. MSEL copies a heat's last snapshot; a pool or path entry is
stored, published in every live heat and counted in the generation; the fallback ends only while the Arbiter runner runs; a window, which ends once
where the lap is a multiple of 1,250, takes each heat's temperature, moves its throttle level by one and sets or ends its thermal exclusion. -/
def Obligations.ArbiterRegistersComplete : Prop :=
  ∀ (s : State) (o : Origin) (data : Reg), s.TablesOk → s.MemOk → s.takesWrites o →
    twf (0, 0) s.arb.pools = true → twf 0 s.arb.paths = true → twf 0 s.arb.temp = true → twf 0 s.arb.throt = true →
    let h := fld data 3 0
    let k := s.rfld 7 0x128 5 0
    let lo := s.loHalf 7 0x12C (s.poolAt k).1
    let hi := setFld (s.poolAt k).2 10 0 (fld data 10 0)
    let n := fld data 27 16
    (∃ t : State, exec (.mselSnapshot o data) s = .next (t.replied o) ∧ t.reg 7 0x10C = (if s.heatPresent h then BitVec.ofNat 32 s.arb.window else 0)
      ∧ ∀ off, (∃ i < 13, off = 0x140 + 4 * i) ∨ (∃ i < 32, off = 0x180 + 4 * i) → t.reg 7 off = if s.heatPresent h then BitVec.ofNat 32 (tget 0 s.arb.snaps (2048 * h + off)) else 0)
    ∧ (o.cust = true ∨ lo.getLsbD 24 = false ∧ (s.poolAt k).1.getLsbD 24 = false → s.poolBad k (lo, hi) = false →
        ∃ t : State, exec (.poolWrite o data) s = .next (t.replied o) ∧ t.poolAt k = (lo, hi) ∧ (∀ k' ≠ k, t.poolAt k' = s.poolAt k') ∧ t.arb.gen = s.arb.gen + 1
          ∧ ∀ g < 16, s.heatUp g = true → ∀ j < 16, t.byteAt g (poolAddr k + j) = (poolBytes (lo, hi)).getD j 0)
    ∧ (o.cust = true → s.poolBad k (lo, hi) = true → exec (.poolWrite o data) s = .next ((s.pwerr o 7 0x130 3 data).replied o))
    ∧ (∃ t : State, exec (.pathw o data) s = .next (t.replied o) ∧ tget 0 t.arb.paths n = BitVec.ofNat 4 (fld data 3 0) ∧ (∀ n' ≠ n, tget 0 t.arb.paths n' = tget 0 s.arb.paths n') ∧ t.arb.gen = s.arb.gen + 1
        ∧ ∀ g < 16, s.heatUp g = true → t.byteAt g (0x36E000 + n) = BitVec.ofNat 8 (fld data 3 0))
    ∧ (let d := setFld data 0 0 1;
        exec (.fallbackResume o data) s = .next (State.replied (if s.arbRun.run = .running then (s.accepted o 7 0x104 d).updArb fun a => { a with fb := false } else s.pwerr o 7 0x104 3 d) o))
    ∧ ∀ temps : List Int, s.lap.toNat % 1250 = 0 → s.arb.winAt ≠ some s.clkS → ∃ t : State, exec (.windowEnd temps) s = .next t
        ∧ t.arb.window = s.lap.toNat / 1250 ∧ t.arb.winAt = some s.clkS ∧ t.arb.hist = [] ∧ t.arb.rbusy = [] ∧ t.rings = s.rings
        ∧ ∀ h < s.nHeats,
          let trim := max (-128) (min 127 ((tget (0 : BitVec 8) s.fuses.toff h).toInt + max (-32) (min 32 (BitVec.ofNat 8 (s.rfld 4 (0x100 + 4 * h) 7 0)).toInt)))
          let T := max (-1024) (min 1023 (temps[h]?.getD 0 + trim)); let k := tget 0 s.arb.throt h
          tget 0 t.arb.temp h = T ∧ tget 0 t.arb.throt h = (if 0x190 ≤ T ∧ k < 8 then k + 1 else if T < 0x188 ∧ 0 < k then k - 1 else k)
          ∧ t.arb.excl.getLsbD h = if s.arb.excl.getLsbD h then !decide (T < temp11 (s.rfld 8 0x104 26 16)) else decide (temp11 (s.rfld 8 0x104 10 0) ≤ T)

/-- R274, R463: at a window end, which comes where the lap is a multiple of 1,250 and none has come in this cycle, each heat's throttle level, 0 to 8,
rises by one at an effective temperature of 100.0 °C or more, falls by one below 98.0 °C, and stands otherwise; a rise from 0 to 1, and no other
change, reports class SYS cause 3 as a condition that begins, with the heat's page as suspect. The effective temperature is what the heat's
temperature register shows after it. -/
def Obligations.ThrottleFollowsTheTemperature : Prop :=
  ∀ (s : State) (temps : List Int), s.TablesOk → s.mode ≠ .quiesce → twf 0 s.arb.throt = true → (∀ h, tget 0 s.arb.throt h ≤ 8) →
    (s.lap.toNat % 1250 ≠ 0 ∨ s.arb.winAt = some s.clkS → exec (.windowEnd temps) s = .next s) ∧ (s.lap.toNat % 1250 = 0 → s.arb.winAt ≠ some s.clkS →
    ∃ (t : State) (l : List Report), exec (.windowEnd temps) s = .next t ∧ t.ref.arriving = s.ref.arriving ++ l
      ∧ (∀ h, tget 0 t.arb.throt h ≤ 8) ∧ (∀ h, s.nHeats ≤ h → tget 0 t.arb.throt h = tget 0 s.arb.throt h)
      ∧ ∀ h < s.nHeats,
          let k := tget 0 s.arb.throt h
          let v := t.rfld 2 (0x1C0 + 4 * h) 10 0
          let temp : Int := if v < 1024 then v else (v : Int) - 2048
          tget 0 t.arb.throt h = (if 0x190 ≤ temp ∧ k < 8 then k + 1 else if temp < 0x188 ∧ 0 < k then k - 1 else k)
          ∧ ((∃ e ∈ l, e.src = 8 * 0x20 + 3 ∧ e.suspect = 0x10 + h ∧ e.live = true) ↔ k = 0 ∧ tget 0 t.arb.throt h = 1))

/-! Scratchpads, heat caches, the Starter -/

/-- R265, R303, R305 to R308: upkeep of the memories: a held correction is stored; one interval of the scrub reads the next word of each of the 32 banks
and moves on; the end of a wipe leaves the secure part zero and everything else as it was; and a runner that waited for it starts; the end of a
re-mirroring leaves every occupied local slot with its copy and its entry at the partner. -/
def Obligations.MemoryUpkeepComplete : Prop :=
  ∀ (s : State) (h m w refused : Nat), s.TablesOk → s.MemOk → s.mode ≠ .quiesce → s.heatPresent h = true → s.heatPresent m = true ∨ m = 16 →
    let page := 0x30 + h
    let pos := s.rfld page 0x114 14 0
    let moved (t : State) : State := if pos + 1 < 24576 then t.setRfld page 0x114 14 0 (pos + 1) else (t.setRfld page 0x114 14 0 0).wrapInc page 0x114 31 16
    let scrubs (t : State) : Prop := exec (.scrubRead h refused) s = .next (t.satInc page 0x110 31 16 refused)
    let on := (s.reg page 0x100).getLsbD 0 = true
    let p := h ^^^ 1
    exec (.eccWriteback m w) s = .next (if tget false (s.up m).held w = true then
        s.updUp m fun u => { u with ecc := u.ecc.filter fun e => e.1 != w, held := tset false u.held w false } else s)
    ∧ (on → (∀ e ∈ (s.up h).ecc, e.1 / 32 ≠ pos) → scrubs (moved s))
    ∧ (on → w / 32 = pos → (s.up h).ecc = [(w, .single)] → (s.up h).held = [] → scrubs (moved (((s.updUp h fun u => { u with held := [(w, true)] }).satInc page 0x108 15 0).report
        0x0C 0 page page (w % 32) (8 * w))))
    ∧ (¬on → exec (.scrubRead h refused) s = .next s)
    ∧ ((s.up m).wipe = true → ∃ t : State, exec (.wipeEnd m) s = .next t ∧ (t.up m).wipe = false
        ∧ (∀ h' a, h' ≤ 16 → a < memLen h' → t.byteAt h' a = if h' = m ∧ secBase m ≤ a then 0 else s.byteAt h' a)
        ∧ (m < 16 → t.rfld (0x30 + m) 0x104 30 30 = 1 ∧ t.arb.secok.getLsbD m = true)
        ∧ ∀ r : Rid, r.wf = true → r.home = m → (s.runner r).starting = true → (t.runner r).run = .running ∧ (t.runner r).starting = false)
    ∧ ((s.up m).wipe = false → exec (.wipeEnd m) s = .next s)
    ∧ (s.heatUp h = true → s.mstateOf h = 2 → ∃ t : State, exec (.remirrorEnd h) s = .next t ∧ t.mstateOf h = 0 ∧ (∀ q ∈ s.ringsOn h, (t.ring q).unprot = false)
        ∧ (∀ a < 0x600000, t.byteAt h a = s.byteAt h a)
        ∧ ∀ slot < 4096, (s.byteAt h (0x378000 + 8 * slot + 7)).getLsbD 7 = true →
            (∀ k < 256, t.byteAt p (0x480000 + 256 * slot + k) = s.byteAt h (0x380000 + 256 * slot + k))
            ∧ ∀ j < 64, (t.dirAt p (0x370000 + 8 * slot)).getLsbD j = (j == 61 || (s.dirAt h (0x378000 + 8 * slot)).getLsbD j))
    ∧ (s.mstateOf h ≠ 2 → exec (.remirrorEnd h) s = .next s)

/-- R314, R315, R318, R320, R325, R326: the heat cache's registers. A locked fill whose way is locked and empty asks the host for its line; one whose way
is not locked ends at once with its result code. A range invalidation and a clean drop the lines they name, a range in ascending order, write the
dirty ones back, but for poisoned and damaged ones, and stay in progress until the writebacks are acknowledged; they are rejected with reason STATE
while one is in progress. The seed is written in FACTORY only; an assigned stride detector begins anew. -/
def Obligations.HeatCacheRegistersComplete : Prop :=
  ∀ (s : State) (o : Origin) (h k : Nat) (data : Reg), s.TablesOk → s.takesWrites o → h < s.nHeats → (s.cache h).lines.Pairwise (fun a b => a.1 < b.1) →
    let p := 0x40 + h
    let c := s.cache h
    let on := (s.reg p 0x100).getLsbD 0 = true
    let pairAt (u : Nat) : Nat := fld (s.loHalf p u (s.reg p u)) 31 8 + fld data 19 0 * 2 ^ 24
    let w := fld (s.loHalf p 0x108 (s.reg p 0x108)) 2 0
    let line := pairAt 0x108
    let first := pairAt 0x110
    let hit (l : Line) : Bool := decide (first ≤ l.line ∧ l.line < first + (s.rfld p 0x118 15 0 + 1))
    let saved (l : List (Nat × Line)) : List (Nat × Line) := l.filter fun e => e.2.dirty && !e.2.poison && e.2.err != some .double
    let back (l : List (Nat × Line)) : List Out := (saved l).map fun e => .wrBack (s.linkOf (256 * e.2.line)) e.2.line e.2.data
    let wbs (l : List (Nat × Line)) : List Nat := c.wbs ++ (saved l).map fun e => e.2.line
    (on → c.lfill = false → c.draining = false → lockedWay s h w = false → ∃ t : State, exec (.lockedFill o h data) s = .next (t.replied o) ∧ t.cache h = c ∧ t.rfld p 0x11C 28 27 = 1)
    ∧ (on → c.lfill = false → c.draining = false → lockedWay s h w = true → s.linkLive = true → c.find line = none → c.fillOf line = none → (∀ e ∈ c.lines, e.1 ≠ 8 * (line % 512) + w) →
        ∃ t : State, exec (.lockedFill o h data) s = .next (t.replied o) ∧ t.out = s.out ++ [.rdShared (s.linkOf (256 * line)) line false]
          ∧ t.cache h = { c with lfill := true, fills := c.fills ++ [{ line := line, way := some w, unique := false, kind := .locked, locked := true }] })
    ∧ (on → c.lfill = false → c.draining = false → lockedWay s h w = true → c.find line = none → c.fillOf line ≠ none → (∀ e ∈ c.lines, e.1 ≠ 8 * (line % 512) + w) →
        ∃ t : State, exec (.lockedFill o h data) s = .next (t.replied o) ∧ t.out = s.out
          ∧ t.cache h = { c with lfill := true, fills := c.fills.map fun f => if f.line = line then { f with way := some w, locked := true } else f })
    ∧ (¬on ∨ c.lfill = true ∨ c.draining = true → exec (.lockedFill o h data) s = .next ((s.pwerr o p 0x10C 3 data).replied o))
    ∧ (on → c.rinv = false → c.draining = false → s.linkLive = true → ∃ (t : State) (l : List (Nat × Line)), exec (.rangeInvalidate o h data) s = .next (t.replied o)
        ∧ l.Perm (c.lines.filter fun e => hit e.2) ∧ l.Pairwise (fun a b => a.2.line ≤ b.2.line) ∧ t.out = s.out ++ back l
        ∧ t.cache h = { c with lines := c.lines.filter (fun e => !hit e.2), wbs := wbs l, rinv := !(wbs l).isEmpty })
    ∧ (¬on ∨ c.rinv = true ∨ c.draining = true → exec (.rangeInvalidate o h data) s = .next ((s.pwerr o p 0x114 3 data).replied o))
    ∧ (on → c.draining = false → s.linkLive = true → let all := wbs c.lines
        ∃ t : State, exec (.cacheClean o h) s = .next (t.replied o) ∧ t.out = s.out ++ back c.lines ∧ t.rfld p 0x100 0 0 = b2n (!all.isEmpty)
        ∧ t.cache h = { c with lines := [], fills := c.fills.map (fun f => { f with snooped := true }), wbs := all, draining := !all.isEmpty, rinv := c.rinv && !all.isEmpty })
    ∧ (c.draining = false → exec (.cacheEnable o h) s = .next (((s.accepted o p 0x100 1).setRfld p 0x100 0 0 1).replied o))
    ∧ (s.mode = .factory → fld data 15 0 ≠ 0 → exec (.seedWrite o h data) s = .next
        ((((s.accepted o p 0x120 data).setRfld p 0x120 15 0 (fld data 15 0)).updCache h fun c => { c with lfsr := BitVec.ofNat 16 (fld data 15 0) }).replied o))
    ∧ (s.mode ≠ .factory → fld data 15 0 ≠ 0 → exec (.seedWrite o h data) s = .next ((s.pwerr o p 0x120 5 data).replied o))
    ∧ (k < 4 → (if data.getLsbD 29 then fld data 27 24 < 4 else fld data 27 24 < 9) → s.fuses.variant.full = true →
        ∃ t : State, exec (.strideDetectorAssign o h k data) s = .next (t.replied o) ∧ t.cache h = { c with sd := tset {} c.sd k {} }
          ∧ (t.reg p (0x130 + 4 * k)).getLsbD 31 = data.getLsbD 31 ∧ (t.reg p (0x130 + 4 * k)).getLsbD 29 = data.getLsbD 29 ∧ t.rfld p (0x130 + 4 * k) 27 24 = fld data 27 24)

/-- R33, R34, R37, R311, R314, R319, R320, R458: what comes to the heat caches from the host. A fill is installed in its way and given to the load that
waits; BUSY asks again; another answer fails the access, and counts a prefetch as dropped. A locked fill ends with its code. The last acknowledged
writeback ends a clean. A snoop of either kind takes the line away everywhere and returns its data where it was dirty; a poisoned or damaged one
(R322) is answered ERR, and a clean copy whose fill is outstanding is answered not present. -/
def Obligations.HeatCacheEventsComplete : Prop :=
  ∀ (s : State) (h line addr link id size : Nat) (r : Rid) (d : LineData) (er : Option Ecc) (f : Fill), s.TablesOk → s.mode ≠ .quiesce → h < s.nHeats → h < 16 → s.ridPresent r = true → r.wf = true →
    let c := s.cache h
    let fills := c.fills.filter fun g => g.line != line
    let again : Out := if f.unique then .rdUnique (s.linkOf (256 * f.line)) f.line f.cust else .rdShared (s.linkOf (256 * f.line)) f.line f.cust
    let dropped := f.kind = .pref ∨ f.kind = .next ∨ ∃ k, f.kind = .stride k
    let x := s.runner r
    let waits : Prop := f.kind = .demand ∧ f.wait = [.hauLoad r id addr size] ∧ x.ops = [{ unit := .hau, res := [(0x17C, {})], kind := .host id }]
      ∧ ∃ e, x.hau.find? (fun e => e.id == id) = some e ∧ e.dead = false ∧ e.load = true
    let given (t : State) (v : QVal) : Prop := t.runner r = { x with ops := [], hau := x.hau.filter (fun e => e.id != id), qport := tset {} x.qport 0x17C v }
    let stored (w : Nat) : List (Nat × Line) := c.lines.filter (fun e => decide (e.1 < 8 * (line % 512) + w)) ++ (8 * (line % 512) + w, { line := line, owned := f.unique, err := er, data := d })
      :: c.lines.filter (fun e => decide (8 * (line % 512) + w < e.1))
    (c.fillOf line = none → ∀ resp, exec (.fillResponse h line resp d er) s = .next s)
    ∧ (c.fillOf line = some f → s.linkLive = true → exec (.fillResponse h line .busy d er) s = .next (s.put again))
    ∧ (∀ w, c.fillOf line = some f → f.snooped = false → f.way = some w → f.wait = [] → ∃ t : State, exec (.fillResponse h line .ok d er) s = .next t
        ∧ t.cache h = { c with fills := fills, lines := stored w, lfill := c.lfill && !f.locked } ∧ (f.locked = true → t.rfld (0x40 + h) 0x11C 28 27 = 0) ∧ t.runners = s.runners)
    ∧ (∀ w, c.fillOf line = some f → f.snooped = false → f.way = some w → f.locked = false → waits → ∃ t : State, exec (.fillResponse h line .ok d er) s = .next t
        ∧ t.cache h = { c with fills := fills, lines := stored w } ∧ given t { val := BitVec.ofNat 64 (d.toNat / 2 ^ (8 * (addr % 256)) % 2 ^ (8 * size)) })
    ∧ (∀ resp ∈ [Resp.err, .ur], c.fillOf line = some f → (f.wait = [] ∨ waits) → ∃ t : State, exec (.fillResponse h line resp d er) s = .next t
        ∧ t.cache h = { c with fills := fills, lfill := c.lfill && !f.locked } ∧ (f.locked = true → f.wait = [] → t.rfld (0x40 + h) 0x11C 28 27 = 2)
        ∧ (waits → given t { poison := true, host := true })
        ∧ (dropped → f.wait = [] → t.rfld (0x40 + h) 0x158 15 0 = min (s.rfld (0x40 + h) 0x158 15 0 + 1) 65535))
    ∧ (line ∈ c.wbs → s.qpend = false → ∃ t : State, exec (.writebackAck h line) s = .next t
        ∧ t.cache h = { c with wbs := c.wbs.erase line, rinv := c.rinv && !(c.wbs.erase line).isEmpty, draining := c.draining && !(c.wbs.erase line).isEmpty }
        ∧ t.rfld (0x40 + h) 0x100 0 0 = if c.draining && (c.wbs.erase line).isEmpty then 0 else s.rfld (0x40 + h) 0x100 0 0)
    ∧ ∀ e ∈ [Instr.snpInv link addr, .snpCleanInv link addr], link < 4 →
        let l := addr / 256
        let absent (g : Nat) : Prop := (s.cache g).init = true ∨ (s.cache g).find l = none
        let no : Out := .snoop link .ok false none
        ((∀ g < s.nHeats, absent g) → ∃ t : State, exec e s = .next t ∧ t.out = s.out ++ [no] ∧ ∀ g < s.nHeats, (t.cache g).lines = (s.cache g).lines)
        ∧ (∀ k (x : Line), c.init = false → c.find l = some (k, x) → (∀ g < s.nHeats, g ≠ h → absent g) →
            ∃ t : State, exec e s = .next t ∧ t.out = s.out ++ [if c.fillOf l ≠ none ∧ x.dirty = false then no
              else if x.poison = true ∨ (x.dirty = true ∧ x.err = some .double) then .snoop link .err true none else .snoop link .ok true (if x.dirty then some x.data else none)]
              ∧ (t.cache h).lines = c.lines.filter (fun e => e.1 != k) ∧ ∀ g < s.nHeats, g ≠ h → (t.cache g).lines = (s.cache g).lines)

/-- R327, R328, R330, R331, R336, R338, R346: sources of a slice. An edge sets its pending bit, and HANDOFF that of each live runner named in BATCTL.take;
a level follows its input; SW0 to SW63 have none. A write of SPEND sets the bits it names. The best deliverable source is presented to its runner and
offered to it, and ends its waiting t_wait with whether the time has come; the oldest offer is withdrawn. R343 to R345, R349: messages to the host.
The oldest message of a runner reaches its queue once the writes before it are acknowledged; a disabled queue counts it as lost. The first of an
accumulation starts the queue's time. The ready queue that comes next after the one served last is sent, with its count and sequence number; a queue
in acknowledge mode then waits for QACK. -/
def Obligations.SourcesAndMessagesComplete : Prop :=
  (∀ (s : State) (o : Origin) (h k sl src : Nat) (data : Reg) (level : Bool) (r : Rid), s.TablesOk → s.mode ≠ .quiesce → s.ridPresent r = true →
      let x := s.slice sl
      let known := (s.heatPresent sl = true ∨ sl = 16) ∧ s.srcOk sl src = true ∧ (sl < 16 → 64 ≤ src)
      let p := (s.slice r.home).rprio r.idx
      let offered (t : State) (c : Nat × Nat) : State := t.updSl r.home fun x => x.updRp r.idx fun p =>
        { p with offers := p.offers.filter (fun o => o.1 != c.1) ++ [c], seen := p.seen.filter (fun a => a != c.1) ++ [c.1] }
      let best := s.deliverable r p.thr
      (s.takesWrites o → h < s.nHeats → k < 8 → twf false (s.slice h).pend = true → twf {} (s.slice h).rp = true → ∃ t : State, exec (.spendWrite o h k data) s = .next (t.replied o)
        ∧ (∀ src, src ≠ 0xF0 → tget false (t.slice h).pend src = (tget false (s.slice h).pend src || (decide (src / 32 = k) && data.getLsbD (src % 32) && s.srcOk h src)))
        ∧ t.slice h = { s.slice h with pend := (t.slice h).pend, handP := (t.slice h).handP, rp := (t.slice h).rp } ∧ (∀ g ≠ h, t.slice g = s.slice g)
        ∧ ∀ i, (t.slice h).rprio i = { (s.slice h).rprio i with seen := ((t.slice h).rprio i).seen })
      ∧ (sl < s.nHeats → src < 64 → exec (.sourceEvent sl src level) s = .next s)
      ∧ (known → srcLevel sl src = true → exec (.sourceEvent sl src level) s = .next (s.updSl sl fun x => { x with line := tset false x.line src level }))
      ∧ (known → srcLevel sl src = false → srcHand sl src = false → exec (.sourceEvent sl src level) s = .next (if level then s.updSl sl fun x => { x with pend := tset false x.pend src true } else s))
      ∧ (known → srcHand sl src = true → twf false x.handP = true → ∃ t : State, exec (.sourceEvent sl src true) s = .next t ∧ t.slice sl = { x with handP := (t.slice sl).handP }
          ∧ ∀ i < 9, tget false (t.slice sl).handP i = (tget false x.handP i || (s.takes sl i && s.liveR (.heat sl i))))
      ∧ (∀ c, best = some c → (∀ a ∈ (s.runner r).ops, ∀ v m, a.kind ≠ .wait v ∧ a.kind ≠ .pop m) → exec (.sourcePresent r) s = .next (offered s c))
      ∧ (∀ c a v, best = some c → (s.runner r).ops = [a] → a.unit = .tim → a.kind = .wait v → twf {} (s.runner r).qport = true → r.wf = true → ∃ t : State, exec (.sourcePresent r) s = .next t
          ∧ t.slice r.home = (offered s c).slice r.home ∧ (t.runner r).ops = [] ∧ (t.runner r).q 0x23D = { val := if v.toNat ≤ s.lap.toNat then 1 else 0 })
      ∧ (best = none → exec (.sourcePresent r) s = .next s)
      ∧ exec (.offerWithdraw r) s = .next (s.updSl r.home fun x => x.updRp r.idx fun p => { p with offers := p.offers.drop 1 }))
  ∧ (∀ (s : State) (o : Origin) (r : Rid) (m : Msg) (rest : List Msg) (q i : Nat) (data : Reg), s.TablesOk → s.mode ≠ .quiesce → s.ridPresent r = true → r.wf = true →
      let took := s.updR r fun x => { x with msgs := rest }
      let x := s.hqueue m.queue
      let nth (j : Nat) : Nat := (s.hlast + 1 + j) % 64
      let y := s.hqueue (nth i)
      let a : BitVec 52 := BitVec.ofNat 52 (16 * y.addr.toNat)
      ((s.runner r).msgs = m :: rest → m.ids ≠ [] → exec (.messageForward r) s = .next s)
      ∧ ((s.runner r).msgs = m :: rest → m.ids = [] → x.en = false → exec (.messageForward r) s = .next (took.satInc 0xB 0x118 15 0))
      ∧ ((s.runner r).msgs = m :: rest → m.ids = [] → x.en = true → ∃ t : State, exec (.messageForward r) s = .next t ∧ t.runner r = { s.runner r with msgs := rest } ∧ t.hqueue m.queue =
          (if x.acc = 0 then { x with t0 := s.clkA, due := false, tmoEff := x.tmo, cntEff := x.cnt, data := m.data, acc := 1 } else { x with data := m.data, acc := min (x.acc + 1) 0xFFFF })
          ∧ ∀ q ≠ m.queue, t.hqueue q = s.hqueue q)
      ∧ (q < 64 → exec (.coalesceTimeout q) s = .next (if (s.hqueue q).en = true ∧ 1 ≤ (s.hqueue q).acc ∧ (s.hqueue q).tmoEff ≤ s.clkA - (s.hqueue q).t0
          then s.updQ q fun x => { x with due := true } else s))
      ∧ (i < 64 → s.qReady (nth i) = true → (∀ j < i, s.qReady (nth j) = false) → ∃ t : State, exec .msgIntDelivery s = .next t ∧ t.hlast = nth i
          ∧ t.hqueue (nth i) = { y with seq := y.seq + 1, acc := 0, due := false, hold := y.ackmode } ∧ (∀ q ≠ nth i, t.hqueue q = s.hqueue q)
          ∧ t.out = if s.linkLive then s.out ++ [.msgInt (s.linkOf a.toNat) a (BitVec.ofNat 128 (y.data.toNat + y.acc % 2 ^ 16 * 2 ^ 64 + y.seq.toNat * 2 ^ 96 + nth i * 2 ^ 112 + (if y.acc < y.cntEff then 2 ^ 120 else 0)))] else s.out)
      ∧ ((∀ j < 64, s.qReady (nth j) = false) → exec .msgIntDelivery s = .next s)
      ∧ (s.takesWrites o → exec (.qack o data) s = .next (((s.accepted o 0xB 0x114 data).updQ (fld data 5 0) fun x => { x with hold := false }).replied o)))

/-! Pacers, root ports, carriers -/

/-- R353, R365 to R367, R370: the lap counter's and the pacers' registers. LAP.SET acts in FACTORY only. START, which is rejected while the pacer runs or
a safe-state request stands, begins at address 0 with everything cleared; STOP lets a bit in progress end, and discards and counts the timed queue;
RESUME continues where a STOP left off; PMDATA fills the program memory of a stopped pacer word by word. R357, R358, R361, R362, R368 to R370: what
comes to a pacer from its clock, its pins and the lap counter. A timed action drives its pins; a driven edge is checked 6 CLK_S cycles later, and a
level that differed at two checks is a SHORT. An edge of the clock pin in the configured direction, 4 CLK_S cycles or more after the last, gives a
shift its next bit or its end; a level change ends the AWAIT for it. The tests of START fault with OPEN or TRAIN at the lowest pin that fails, else
the pacer begins. -/
def Obligations.PacerControlsAndEventsComplete : Prop :=
  (∀ (s : State) (o : Origin) (n : Nat) (data : Reg), s.TablesOk → s.takesWrites o → s.fuses.variant.full = true → n < 16 →
      let p := 0x80 + n
      let x := s.pacer n
      let idle := x.st = .stopped ∨ x.st = .faulted ∨ x.st = .safe
      let lo := (s.loHalf 0xD 0x108 (s.reg 0xD 0x108)).toNat
      let halted (t : State) : State := (t.satInc p 0x124 15 0 x.tq.length).updPacer n fun x => { x with tq := [], st := .stopped, wait := .none, test := false }
      let w (v : Reg) : State := s.accepted o p 0x100 v
      let a := s.rfld p 0x130 5 0
      (s.mode = .factory → ∃ t : State, exec (.lapSet o data) s = .next (t.replied o) ∧ t.lap = BitVec.ofNat 64 (lo + data.toNat * 2 ^ 32) ∧ t.clkS = s.clkS)
      ∧ (s.mode ≠ .factory → exec (.lapSet o data) s = .next ((s.pwerr o 0xD 0x10C 5 data).replied o))
      ∧ (idle → s.safeNow = false → ∃ (t : State) (test : Bool), exec (.pacerStart o n) s = .next (t.replied o)
          ∧ t.pacer n = { st := .running, wait := if test then .none else .start 4, test := test, started := true, pm := x.pm }
          ∧ (∀ m ≠ n, t.pacer m = s.pacer m)
          ∧ ((∀ k < 64, k / 32 = n / 8 → s.ownsPin n k = false ∧ ((s.reg 0xE (0x100 + 4 * k)).getLsbD 31 = false ∨ s.rfld 0xE (0x100 + 4 * k) 30 28 ≠ n % 8)) → test = false))
      ∧ (¬idle ∨ s.safeNow = true → exec (.pacerStart o n) s = .next ((s.pwerr o p 0x100 3 1).replied o))
      ∧ (x.st = .stalled ∨ x.st = .running ∧ (∀ b, x.wait ≠ .shift b) → exec (.pacerStop o n) s = .next ((halted (w 2)).replied o))
      ∧ (∀ b, x.st = .running → x.wait = .shift b → exec (.pacerStop o n) s = .next (((w 2).updPacer n fun x => { x with st := .stopping }).replied o))
      ∧ (idle → exec (.pacerStop o n) s = .next ((w 2).replied o))
      ∧ exec (.pacerResume o n) s = .next (State.replied (if x.st = .stopped then (w 3).updPacer n fun x => { x with st := .running, resumed := true } else s.pwerr o p 0x100 3 3) o)
      ∧ (idle → exec (.pmdataWrite o n data) s = .next ((((s.accepted o p 0x134 data).updPacer n fun x => { x with pm := tset 0 x.pm a (BitVec.ofNat 24 data.toNat) }).setRfld p 0x130 5 0 (a + 1)).replied o))
      ∧ (¬idle → exec (.pmdataWrite o n data) s = .next ((s.pwerr o p 0x134 6 data).replied o)))
  ∧ (∀ (s : State) (n k : Nat) (e : Timed) (rest : List Timed) (lvl : Bool) (samples : List (Nat × List Bool)), s.TablesOk → s.mode ≠ .quiesce → s.fuses.variant.full = true → n < 16 → k < 64 →
      let p := 0x80 + n
      let x := s.pacer n
      let busy := x.st = .running ∨ x.st = .stalled ∨ x.st = .stopping
      let next (t : State) : State := t.updPacer n fun x => { x with st := .running, wait := .none, pc := x.pc + 1 }
      let faulted (t : State) (code pin : Nat) : Prop := t.rfld 0xE (0x100 + 4 * pin) 27 26 = code
        ∧ t.pacer n = { x with st := .faulted, wait := .none, test := false, tq := [], fcode := BitVec.ofNat 3 code, fpin := BitVec.ofNat 6 pin }
      let drive (t : State) (k : Nat) (oe lvl : Bool) : State := if t.ownsPin n k && !t.pairOdd k then t.updPin k fun x =>
        { x with oe := oe, lvl := lvl, drvn := true, chk := if oe = true ∧ (x.oe = false ∨ x.drvn = false ∨ x.lvl ≠ lvl) then some s.clkS else if oe then x.chk else none } else t
      let level (k : Nat) (b : Bool) : State := s.updPin k fun x => { x with sense := b, diff := x.diff && x.sense == b }
      let noAwait (m : Nat) : Prop := ∀ j l, (s.pacer m).wait ≠ .await j l
      let due := busy ∧ s.ownsPin n k = true ∧ (s.pin k).oe = true ∧ ∃ t, (s.pin k).chk = some t ∧ t + 6 ≤ s.clkS
      let near (j : Nat) : Prop := s.pad j = some (s.pin k).sense
      let cfg := s.reg p 0x108
      let msb := cfg.getLsbD 29
      let u := level (gpin n (fld cfg 28 24)) (!cfg.getLsbD 30)
      let edge (t : State) : State := t.updPacer n fun x => { x with edgeAt := some s.clkS }
      let far : Prop := ∀ c, x.edgeAt = some c → 4 ≤ s.clkS - c
      let acc := x.divAcc.toNat + s.rfld p 0x110 15 0
      let bit (t : State) (sr : BitVec 32) : State := t.updPacer n fun x => { x with sr := sr, bits := x.bits - 1, divAcc := BitVec.ofNat 16 acc, divLeft := s.rfld p 0x110 31 16 + acc / 65536 }
      let inp := u.sensed (gpin n (fld cfg 12 8))
      let clear (k : Nat) : Prop := if fld (s.pin k).eff 7 6 = 1 then (s.pin k).sense = true else (s.pin k).sense = false
      let seen (l : List Bool) (j : Nat) : BitVec 32 := BitVec.ofNat 32 (((List.range 32).map fun i => if l.getD (j + i) false then 2 ^ (if msb then 31 - i else i) else 0).sum)
      let hit (k j : Nat) (inv : Bool) : Prop := ∃ l, samples.find? (fun e => e.1 == k) = some (k, l) ∧ j + 32 ≤ min l.length 4096
        ∧ seen l j = (if inv then ~~~(s.reg p 0x138) else s.reg p 0x138) ∧ ∀ j' < j, seen l j' ≠ s.reg p 0x138 ∧ seen l j' ≠ ~~~(s.reg p 0x138)
      let testing := x.st = .running ∧ x.test = true
      (busy → x.tq = e :: rest → s.reached e.t = true → x.wait ≠ .sched →
          let t := e.pins.foldl (fun t e => drive t e.1 true e.2) (s.updPacer n fun x => { x with tq := rest })
          exec (.timedAction n) s = .next (if e.ev then t.updSl (t.rfld p 0x128 3 0) fun x => { x with pend := tset false x.pend (0x60 + 2 * n) true } else t))
      ∧ ((∀ e ∈ x.tq, s.reached e.t = false) → exec (.timedAction n) s = .next s)
      ∧ (due → (s.pin k).diff = true → ∃ t : State, exec (.short n k) s = .next t ∧ faulted t 1 k
          ∧ (t.rfld 0xE (0x100 + 4 * k) 25 25 = 1 ↔ (k % 32 ≠ 0 ∧ near (k - 1)) ∨ (k % 32 ≠ 31 ∧ near (k + 1))))
      ∧ (due → (s.pin k).diff = false → exec (.short n k) s = .next (s.updPin k fun y => { y with chk := none, diff := y.sense != y.lvl }))
      ∧ (¬due → exec (.short n k) s = .next s)
      ∧ (cfg.getLsbD 31 = true → (∀ m < 16, noAwait m) →
          exec (.pinClockEdge n (cfg.getLsbD 30)) s = .next (level (gpin n (fld cfg 28 24)) (cfg.getLsbD 30))
          ∧ (¬far ∨ (∀ b, x.wait ≠ .shift b) → exec (.pinClockEdge n (!cfg.getLsbD 30)) s = .next (edge u))
          ∧ (far → x.st = .running → (x.wait = .shift true ∨ x.wait = .shift false) → x.bits = 0 → exec (.pinClockEdge n (!cfg.getLsbD 30)) s = .next (next (edge u)))
          ∧ (far → x.st = .running → x.bits ≠ 0 → x.wait = .shift true → exec (.pinClockEdge n (!cfg.getLsbD 30)) s = .next
              (bit (drive (edge u) (gpin n (fld cfg 20 16)) true (x.sr.getLsbD (if msb then 31 else 0))) (if msb then x.sr <<< 1 else x.sr >>> 1)))
          ∧ (far → x.st = .running → x.bits ≠ 0 → x.wait = .shift false → exec (.pinClockEdge n (!cfg.getLsbD 30)) s = .next
              (bit (edge u) (if msb then putBit (x.sr <<< 1) 0 inp else putBit (x.sr >>> 1) 31 inp)))
          ∧ (far → x.st = .stopping → x.bits ≠ 0 → (x.wait = .shift true ∨ x.wait = .shift false) → exec (.pinClockEdge n (!cfg.getLsbD 30)) s = .next
              (((edge u).satInc p 0x124 15 0 x.tq.length).updPacer n fun x => { x with tq := [], st := .stopped, wait := .none, test := false })))
      ∧ (cfg.getLsbD 31 = false → ∀ b, exec (.pinClockEdge n b) s = .next s)
      ∧ ((∀ m < 16, noAwait m) → exec (.pinLevelChange k lvl) s = .next (level k lvl))
      ∧ (∀ l, x.wait = .await k l → (∀ m < 16, m ≠ n → noAwait m) →
          exec (.pinLevelChange k lvl) s = .next (if (lvl != (s.reg 0xE (0x100 + 4 * k)).getLsbD 24) = l then next (level k lvl) else level k lvl))
      ∧ (x.wait = .until → exec (.untilReached n) s = .next (if s.reached x.sr then next s else s))
      ∧ (testing → (∀ k ∈ s.openPins n, clear k) → (∀ k ∈ s.trainPins n, ∃ j inv, hit k j inv) →
          ∃ t : State, exec (.pacerTestsEnd n samples) s = .next t ∧ t.pacer n = { x with test := false, wait := .start 4 }
            ∧ ∀ k ∈ s.trainPins n, ∀ j inv, hit k j inv → t.rfld 0xE (0x100 + 4 * k) 24 24 = if inv then 1 else 0)
      ∧ (testing → k ∈ s.openPins n → (∀ j ∈ s.openPins n, j < k → clear j) → ¬clear k → ∃ t : State, exec (.pacerTestsEnd n samples) s = .next t ∧ faulted t 2 k)
      ∧ (testing → (∀ j ∈ s.openPins n, clear j) → k ∈ s.trainPins n → (∀ j ∈ s.trainPins n, j < k → ∃ i inv, hit j i inv) → (∀ i inv, ¬hit k i inv) →
          ∃ t : State, exec (.pacerTestsEnd n samples) s = .next t ∧ faulted t 3 k))

/-- R358 to R364: each instruction of a pacer, at its address, where it is well-formed and the pacer runs and waits for nothing: its pattern is applied to
the pins the pacer owns, SCHED's apart, which waits with its action; then its own effect, and the next instruction in sequence. Another word of
program memory faults with ILLOP. -/
def Obligations.PacerInstructionsComplete : Prop :=
  ∀ (s : State) (n : Nat), s.TablesOk → s.mode ≠ .quiesce → s.fuses.variant.full = true → n < 16 →
    let p := 0x80 + n
    let x := s.pacer n
    let w := s.pinstr n
    let a := fld w 15 0
    let cfg := s.reg p 0x108
    let outp := gpin n (fld cfg 20 16)
    let now (op : Nat) : Prop := x.st = .running ∧ x.wait = .none ∧ x.test = false ∧ fld w 23 19 = op ∧ pacOk w = true
    let drive (t : State) (k : Nat) (oe lvl : Bool) : State := if t.ownsPin n k && !t.pairOdd k then t.updPin k fun x =>
      { x with oe := oe, lvl := lvl, drvn := true, chk := if oe = true ∧ (x.oe = false ∨ x.drvn = false ∨ x.lvl ≠ lvl) then some s.clkS else if oe then x.chk else none } else t
    let b := (s.pattern n w).foldl (fun t e => drive t e.1 true e.2) s
    let new (x : Pacer) : Pacer := { x with resumed := false, bits := 0 }
    let does (t : State) (f : Pacer → Pacer) : State := t.updPacer n fun x => f (new x)
    let next (t : State) (f : Pacer → Pacer) : State := does t fun x => { f x with pc := x.pc + 1 }
    let evt (c : Bool) (t : State) : State := if c then t.updSl (t.rfld p 0x128 3 0) fun x => { x with pend := tset false x.pend (0x60 + 2 * n) true } else t
    let left := if x.resumed = true ∧ x.bits ≠ 0 then x.bits else a
    let acc := x.divAcc.toNat + s.rfld p 0x110 15 0
    let shifts (isOut : Bool) (sr : BitVec 32) (x : Pacer) : Pacer := { x with bits := left - 1, wait := .shift isOut, sr := sr, divAcc := BitVec.ofNat 16 acc, divLeft := s.rfld p 0x110 31 16 + acc / 65536 }
    let inp := b.sensed (gpin n (fld cfg 12 8))
    let holds (c : Nat) : Prop := match c with
      | 0 => True
      | 1 => x.sr = s.reg p 0x114
      | 2 => x.sr ≠ s.reg p 0x114
      | 3 => x.inq ≠ []
      | 4 => x.outq.length < 8
      | 5 => inp = true
      | 6 => inp = false
      | _ => x.stale = true
    (now 0x00 → exec (.idle n) s = .next (does b fun x => { x with wait := .idle (a + 1) }))
    ∧ (now 0x01 → exec (.emit n) s = .next (does (drive b outp true (x.sr.getLsbD (if cfg.getLsbD 29 then 31 else 0))) (shifts true (if cfg.getLsbD 29 then x.sr <<< 1 else x.sr >>> 1))))
    ∧ (now 0x02 → exec (.capt n) s = .next (does b (shifts false (if cfg.getLsbD 29 then putBit (x.sr <<< 1) 0 inp else putBit (x.sr >>> 1) 31 inp))))
    ∧ (now 0x03 → ∀ v rest, x.inq = v :: rest → exec (.take n) s = .next (next b fun x => { x with sr := v, lastTake := v, stale := false, inq := rest }))
    ∧ (now 0x03 → x.inq = [] → exec (.take n) s = .next (if a = 0 then does b fun x => { x with st := .stalled, wait := .take } else next (b.satInc p 0x120 31 16) fun x => { x with sr := x.lastTake, stale := true }))
    ∧ (now 0x04 → x.outq.length < 8 → exec (.give n) s = .next (next (evt (x.outq.isEmpty && s.rfld p 0x128 31 31 == 1) b) fun x => { x with outq := x.outq ++ [x.sr] }))
    ∧ (now 0x04 → 8 ≤ x.outq.length → exec (.give n) s = .next (if a = 0 then does b fun x => { x with st := .stalled, wait := .give } else next (b.satInc p 0x120 15 0) id))
    ∧ (now 0x05 → exec (.drive n) s = .next (next (drive b outp (a.testBit 1) (a.testBit 0)) id))
    ∧ (now 0x06 → let k := gpin n (a % 32)
        exec (.await n) s = .next (if b.sensed k = a.testBit 6 then next b id else does b fun x => { x with wait := .await k (a.testBit 6) }))
    ∧ (now 0x07 → (holds (a / 64) → exec (.goto n) s = .next (does b fun x => { x with pc := BitVec.ofNat 6 a })) ∧ (¬holds (a / 64) → exec (.goto n) s = .next (next b id)))
    ∧ (now 0x08 → exec (.latch n) s = .next (next (b.setReg p 0x114 x.sr) id))
    ∧ (now 0x09 → exec (.flag n) s = .next (next (evt (decide (a = 0 ∨ x.sr = s.reg p 0x114)) b) id))
    ∧ (now 0x0A → exec (.sched n) s = .next (if 4 ≤ x.tq.length then does s fun x => { x with st := .stalled, wait := .sched }
        else next (if s.reached x.sr then s.satInc p 0x124 15 0 else s) fun x => { x with tq := x.tq ++ [{ t := x.sr, pins := s.pattern n w, ev := a.testBit 0 }] }))
    ∧ (now 0x0B → exec (.untilI n) s = .next (if (BitVec.ofNat 32 s.lap.toNat - x.sr).toNat < 2 ^ 31 then next b id else does b fun x => { x with wait := .until }))
    ∧ (now 0x0C → exec (.bump n) s = .next (next b fun x => { x with sr := x.sr + BitVec.ofNat 32 a }))
    ∧ (now 0x0D → exec (.stamp n) s = .next (next b fun x => { x with sr := BitVec.ofNat 32 s.lap.toNat + BitVec.ofNat 32 a }))
    ∧ (now 0x0E → exec (.halt n) s = .next (evt (a.testBit 0) (next (b.satInc p 0x124 15 0 x.tq.length) fun x => { x with tq := [], st := .stopped })))
    ∧ (x.st = .running → x.wait = .none → x.test = false → pacOk w = false → ∃ t : State, exec (.illop n) s = .next t ∧ (∀ m ≠ n, t.pacer m = s.pacer m) ∧ t.pins = s.pins
        ∧ t.pacer n = { x with st := .faulted, wait := .none, test := false, tq := [], fcode := 4, fpin := 0 }
        ∧ t.rfld p 0x124 15 0 = min (s.rfld p 0x124 15 0 + x.tq.length) 0xFFFF ∧ t.ref.arriving.length = s.ref.arriving.length + 1)

/-- R378 to R381, R385, R395 to R399: the root ports' registers. CONTAIN takes a port out of use with cause SW; RELEASE, which is rejected unless the port
is contained and no safe-state request stands, makes it live again, in the link state its controls allow. CFGCMD sends a configuration request, of
Type 0 to bus 1, under the lowest free tag or when one is free; a port that is not live answers it with PORT, and it is rejected while one is in
progress. MARG begins margining, and CAR.EN enables carriers. -/
def Obligations.RootPortRegistersComplete : Prop :=
  ∀ (s : State) (o : Origin) (p h : Nat) (data : Reg), s.TablesOk → s.takesWrites o → p < s.nPorts → h < s.nHeats →
    let g := 0x60 + p
    let x := s.port p
    let ctl := s.reg g 0x100
    let sound := fld ctl 23 22 ≠ 3 ∧ fld ctl 21 19 < 6 ∧ fld ctl 18 16 < 6 ∧ ctl.getLsbD 30 = false ∧ ctl.getLsbD 31 = false ∧ ctl.getLsbD 29 = s.perst.getLsbD p
    let tags : Nat × Nat := if ctl.getLsbD 25 then (768, 256) else (256, 0)
    let lowest (tag : Nat) : Prop := tags.2 ≤ tag ∧ tag < tags.2 + tags.1 ∧ (∀ e ∈ x.np, e.1 ≠ tag) ∧ ∀ a, tags.2 ≤ a → a < tag → ∃ e ∈ x.np, e.1 = a
    let row (write : Bool) : Instr := if write then .cfgWrite o p else .cfgRead o p
    (sound → x.ls ≠ .contained → ∃ t : State, exec (.contain o p) s = .next (t.replied o) ∧ t.port p = { x with ls := .contained, relAt := none, np := [], tagq := [], hold := [], live := false } ∧ t.rfld g 0x104 18 16 = 1)
    ∧ (sound → x.ls = .contained → s.safeNow = false → ∃ t : State, exec (.release o p) s = .next (t.replied o)
        ∧ t.port p = { x with live := true, fenced := false, relAt := some s.clkS, ls := if s.portMay p = false then .disabled else if s.rfld g 0x104 20 20 = 1 then .training else .detect }
        ∧ t.rfld g 0x104 18 16 = 0 ∧ t.rfld g 0x104 22 22 = 0 ∧ t.rfld g 0x108 15 8 = 0)
    ∧ (sound → x.ls ≠ .contained ∨ s.safeNow = true → exec (.release o p) s = .next ((s.pwerr o g 0x100 3 (setFld ctl 30 30 1)).replied o))
    ∧ (∀ write tag, s.rfld g 0x12C 31 31 = 0 → x.live = true → ∃ t : State, exec (row write) s = .next (t.replied o) ∧ t.reg g 0x12C = 0x80000000
        ∧ let req := Out.cfgReq p (ctl.getLsbD 26) (s.rfld g 0x120 27 20 != 1) write (s.reg g 0x120) (s.reg g 0x124)
          let y : Port := { x with np := x.np ++ [(tag, .cfg write)] }
          (x.np.length < tags.1 → lowest tag → if x.ls = .up then t.port p = y ∧ t.out = s.out ++ [req] else t.port p = { y with hold := x.hold ++ [req] } ∧ t.out = s.out)
          ∧ (tags.1 ≤ x.np.length → t.port p = { x with tagq := x.tagq ++ [(.cfg write, req)] } ∧ t.out = s.out))
    ∧ (∀ write, s.rfld g 0x12C 31 31 = 0 → x.live = false → ∃ t : State, exec (row write) s = .next (t.replied o) ∧ t.reg g 0x12C = 5 ∧ t.port p = x ∧ t.out = s.out)
    ∧ (∀ write, s.rfld g 0x12C 31 31 = 1 → exec (row write) s = .next ((s.pwerr o g 0x128 3 (if write then 2 else 1)).replied o))
    ∧ (∃ t : State, exec (.marginGo o p data) s = .next (t.replied o) ∧ t.rfld g 0x148 30 30 = 1 ∧ t.rfld g 0x148 29 26 = fld data 29 26 ∧ t.rfld g 0x148 25 20 = fld data 25 20)
    ∧ (∃ t : State, exec (.carrierEnable o h data) s = .next (t.replied o) ∧ t.rfld (0x70 + h) 0x104 3 0 = fld data 3 0
        ∧ ∀ k < 4, tget false t.carFen (4 * h + k) = (tget false s.carFen (4 * h + k) && !data.getLsbD k))

/-- R377 to R385, R396 to R399: what comes to a root port from its link and its adapter. Errors set their AERU or AERC bit and count; an unmasked
uncorrectable one, a surprise down and a training that takes too long contain the port with their cause. A link comes up within the controls' limits
and sends what was held. An inbound write that passes the checks is stored, and a notification raises its source; another is an error. -/
def Obligations.RootPortEventsComplete : Prop :=
  ∀ (s : State) (p bit cause id : Nat) (e : NpReq) (rate : BitVec 3) (width : BitVec 2) (flit rev : Bool) (inv : BitVec 8) (res : BitVec 3) (mres : BitVec 4) (d : Reg) (addr : Word) (data : List Byte) (busy : Nat),
    s.TablesOk → s.mode ≠ .quiesce → p < s.nPorts →
    let g := 0x60 + p
    let x := s.port p
    let on := x.ls = .up ∨ x.ls = .training
    let gone (t : State) (cause : Nat) : Prop := t.port p = { x with ls := .contained, relAt := none, np := [], tagq := [], hold := [], live := false } ∧ t.rfld g 0x104 18 16 = cause
    let ue (t : State) (bit : Nat) : Prop := (t.reg g 0x110).getLsbD bit = true ∧ t.rfld g 0x11C 31 16 = min (s.rfld g 0x11C 31 16 + 1) 0xFFFF
      ∧ if (s.reg g 0x114).getLsbD bit = true ∧ bit ≠ 11 then t.port p = x else gone t (if bit = 1 then 5 else if bit = 11 then 4 else 3)
    let masked (bit : Nat) : Prop := (s.reg g 0x114).getLsbD bit = true
    let lanes : Prop := ∀ j < 8, laneUsed width.toNat rev j = true → (s.reg g 0x108).getLsbD (8 + j) = false
    let ce (bit : Nat) (i : Instr) : Prop := exec i s = .next (((s.setReg g 0x118 (putBit (s.reg g 0x118) bit true)).satInc g 0x11C 15 0).report 0x14 0 g g bit)
    let h := fld addr 27 24
    let a := fld addr 22 0
    let n := data.length
    let window := fld addr 63 28 = s.rfld g 0x130 31 28 + 16 * s.rfld g 0x134 31 0 ∧ s.heatUp h = true ∧ (s.reg g 0x138).getLsbD h = true ∧ 4 ≤ n ∧ n ≤ 64 ∧ n % 4 = 0 ∧ fld addr 1 0 = 0 ∧ addr.toNat % 64 + n ≤ 64
    (x.ls = .training → rate.toNat ≤ s.rfld g 0x100 18 16 → rate.toNat ≤ 5 → width.toNat ≤ s.rfld g 0x100 15 14 → (rate = 5 → flit = true) → (rate ≠ 5 → flit = true → s.rfld g 0x100 27 27 = 1) → lanes →
        ∃ t : State, exec (.linkTrained p rate width flit rev inv) s = .next t ∧ t.port p = { x with ls := .up, relAt := none, hold := [], live := true } ∧ t.out = s.out ++ x.hold
          ∧ t.rfld g 0x104 28 26 = rate.toNat ∧ t.rfld g 0x104 25 24 = width.toNat ∧ t.rfld g 0x104 23 23 = b2n flit ∧ t.rfld g 0x104 21 21 = b2n rev ∧ t.rfld g 0x108 7 0 = inv.toNat)
    ∧ (¬lanes → exec (.linkTrained p rate width flit rev inv) s = .next s)
    ∧ (∃ t : State, exec (.linkPartnerPresent p) s = .next t ∧ t.rfld g 0x104 20 20 = 1 ∧ (t.port p).ls = (if x.ls = .contained then .contained
        else if x.ls = .up then (if (s.reg g 8).getLsbD 0 = false ∧ x.np = [] then .disabled else .up) else if s.portMay p then .training else .disabled))
    ∧ (on → bit = 8 → s.rfld g 0x100 26 26 = 0 → exec (.portErrorDetected p true bit) s = .next s)
    ∧ (on → bit < 13 → (bit = 8 → s.rfld g 0x100 26 26 = 1) → ∃ t : State, exec (.portErrorDetected p true bit) s = .next t ∧ ue t bit)
    ∧ (on → bit < 8 → ce bit (.portErrorDetected p false bit))
    ∧ (x.ls = .up → ce 7 (.aerMessage p 0) ∧ (∃ t : State, exec (.aerMessage p 1) s = .next t ∧ ue t 12) ∧ ∃ t : State, exec (.aerMessage p 2) s = .next t ∧ ue t 11)
    ∧ (x.ls = .up ∨ x.ls ≠ .contained ∧ s.rfld g 0x104 20 20 = 1 → ∃ t : State, exec (.surpriseDown p) s = .next t ∧ gone t 5 ∧ t.rfld g 0x104 20 20 = 0 ∧ (on → (t.reg g 0x110).getLsbD 1 = true))
    ∧ (1 ≤ cause → cause ≤ 6 → x.ls ≠ .contained → ∃ t : State, exec (.containment p cause) s = .next t ∧ gone t cause)
    ∧ (x.ls = .contained → exec (.containment p cause) s = .next s)
    ∧ (x.relAt ≠ none → x.ls ≠ .up → x.ls ≠ .contained → ∃ t : State, exec (.trainTimeout p) s = .next t ∧ gone t 6)
    ∧ (x.np = [(id, e)] → x.tagq = [] → x.ls = .up → (s.reg g 0x114).getLsbD 3 = true → (s.reg g 8).getLsbD 0 = true →
        ∃ t : State, exec (.completionTimeout p id) s = .next t ∧ (t.reg g 0x110).getLsbD 3 = true ∧ t.port p = { x with np := [] } ∧ ∀ w, e = .cfg w → t.reg g 0x12C = 4)
    ∧ (∀ w, x.np = [(id, .cfg w)] → x.tagq = [] → x.ls = .up → (s.reg g 8).getLsbD 0 = true → res.toNat ≤ 3 →
        let err := if res = 1 then 9 else 4
        ∃ t : State, exec (.cfgCompletion p res d) s = .next t ∧ (res = 0 ∨ res = 2 ∨ masked err → t.port p = { x with np := [] })
          ∧ (res = 1 ∨ res = 3 → (t.reg g 0x110).getLsbD err = true ∧ (¬masked err → gone t 3)) ∧ t.reg g 0x12C = BitVec.ofNat 32 res.toNat ∧ t.reg g 0x124 = if res = 0 ∧ w = false then d else s.reg g 0x124)
    ∧ (s.rfld g 0x148 30 30 = 1 → mres.toNat ≤ 2 → ∃ t : State, exec (.marginingEnd p mres) s = .next t ∧ t.rfld g 0x148 30 30 = 0 ∧ t.rfld g 0x148 19 16 = mres.toNat)
    ∧ (x.ls = .up → bit < 8 →
        let w := s.rfld g 0x104 25 24
        let r := s.rfld g 0x104 21 21 == 1
        let bad (j : Nat) : Prop := j = bit ∨ (s.reg g 0x108).getLsbD (8 + j) = true
        let fits (v : Nat) (r : Bool) : Prop := ∀ j < 8, laneUsed v r j = true → ¬bad j
        ∃ t : State, exec (.laneNarrow p bit) s = .next t ∧ t.rfld g 0x108 15 8 = (s.rfld g 0x108 15 8 ||| 2 ^ bit) ∧ (laneUsed w r bit = false → t.rfld g 0x104 25 24 = w)
          ∧ ∀ v r', laneUsed w r bit = true → v < w → fits v r' → (∀ v' r', v' < w → fits v' r' → v' ≤ v) → (r' ≠ r → ¬fits v r) → t.rfld g 0x104 25 24 = v ∧ t.rfld g 0x104 21 21 = b2n r' ∧ t.rfld g 0x104 22 22 = 1)
    ∧ (x.ls = .up → window → addr.getLsbD 23 = false → a + n ≤ 0x36E000 →
        exec (.inboundWrite p addr data busy false) s = .next (((s.satInc (0x30 + h) 0x110 31 16 busy).memWrite h a data).wrapInc (0x70 + h) 0x148 31 0))
    ∧ (x.ls = .up → ¬window ∨ 0x36E000 < a + n → addr.getLsbD 23 = false → ∃ t : State, exec (.inboundWrite p addr data busy false) s = .next t ∧ ue t 9)
    ∧ (x.ls = .up → ∃ t : State, exec (.inboundWrite p addr data busy true) s = .next t ∧ t.out = s.out ++ [.cplUr p] ∧ ue t 9)
    ∧ (x.ls = .up → window → addr.getLsbD 23 = true → a = 0 → n = 4 → leNat data < 64 →
        exec (.inboundNotification p addr data) s = .next (s.updSl h fun x => { x with pend := tset false x.pend (0x80 + leNat data) true }))

/-- R390 to R395: the job rings of the carriers. A doorbell is accepted within 32 entries. The element of a job from scratchpad to scratchpad moves up to
256 bytes that cross no 256-byte boundary, and counts them; one refused by a collision moves none. A host response, an adapter completion or the
transform's end settles what the ring waits for; the job's end writes its status and its byte counts and advances cons. -/
def Obligations.CarriersComplete : Prop :=
  ∀ (s : State) (h k i n l m code : Nat) (bs out : List Byte) (d : LineData), s.TablesOk → s.MemOk → s.mode ≠ .quiesce → h < s.nHeats → h < 16 → k < 4 → i < 9 →
    let key := jkey h k i
    let j := s.job key
    let e := j.ent'
    let runs := s.carRuns h k = true ∧ s.carThrottled h = false
    let turn := (∃ m < 9, i = (tget 0 s.carLast (4 * h + k) + 1 + m) % 9 ∧ ∀ m' < m, s.carReady h k ((tget 0 s.carLast (4 * h + k) + 1 + m') % 9) = false) ∧ s.carReady h k i = true
    let plain := j.active = true ∧ e.sspc = 0 ∧ e.dspc = 0 ∧ e.slist = false ∧ e.dlist = false ∧ e.xform = false ∧ e.disc = false ∧ j.obuf = [] ∧ j.rbuf = [] ∧ j.rcode = 0 ∧ j.rd = 0 ∧ 0 < j.src.left ∧ 0 < j.dst.left
    let a := j.src.addr
    let b := j.dst.addr
    let len := min (min (256 - a % 256) j.src.left) (min (256 - b % 256) j.dst.left)
    let sound := j.active = true ∧ j.stop = false
    let ended (f : Job → Job) : Job := f { j with st := .idle, req := none, outp := false }
    let counted (j : Job) : Job := if e.xform = false then { j with moved := j.moved + n, outlen := j.outlen + n } else j
    let failed (c : Nat) (j : Job) : Job := { j with code := if j.code = 0 then c else j.code, rd := 0, rbuf := [] }
    let noGone : Prop := ∀ p < s.nPorts, ∀ q ∈ (s.port p).np, ∀ z, q.2 ≠ .gone h k i z
    let new : BitVec 16 := BitVec.ofNat 16 (s.numAt h (s.jctl h k i) 2)
    let x := s.runner (.heat h i)
    let at' := s.jentAddr h k i j.cons
    (s.heatUp h = true → exec (.jobPost h k i) s = .next (if (new - j.cons).toNat ≤ 32 then s.updJob key fun j => { j with prod := new, who := j.who ++ List.replicate (new - j.prod).toNat (x.cust, x.sup) }
        else s.report 0x04 5 (0x70 + h) (0x100 + 9 * h + i) k new.toNat))
    ∧ (¬runs ∨ (∀ m < 9, s.carReady h k m = false) → ∀ r, exec (.carrierElement h k r) s = .next s)
    ∧ (runs → turn → plain → exec (.carrierElement h k true) s = .next ((s.satInc (0x70 + h) 0x144 15 0).satInc (0x30 + h) 0x110 31 16))
    ∧ (runs → turn → plain → j.stop = false → a + len ≤ 0x580000 → b + len ≤ 0x36E000 → (∀ x ∈ (s.up h).ecc, x.1 < a / 8 ∨ (a + len - 1) / 8 < x.1) →
        ∃ t : State, exec (.carrierElement h k false) s = .next t
          ∧ t.job key = ended (fun j => { j with src := { j.src with addr := a + len, left := j.src.left - len }, dst := { j.dst with addr := b + len, left := j.dst.left - len }, rAt := a + len, moved := j.moved + len, outlen := j.outlen + len })
          ∧ ∀ c < 0x600000, t.byteAt h c = if b ≤ c ∧ c < b + len then s.byteAt h (a + (c - b)) else s.byteAt h c)
    ∧ (runs → turn → plain → j.stop = false → 0x580000 < a + len ∨ 0x36E000 < b + len → ∃ t : State, exec (.carrierElement h k false) s = .next t ∧ t.spads = s.spads ∧ t.job key = ended (failed 2))
    ∧ (s.heatUp h = true → j.active = true → j.st = .idle → j.code ≠ 0 ∨ j.rd = 0 ∧ e.len ≤ j.moved ∧ (e.xform = true → j.xend = true ∧ j.obuf = []) → at' + 64 ≤ 0x36E000 → s.jctl h k i + 64 ≤ 0x36E000 → at' + 64 ≤ s.jctl h k i →
        ∃ t : State, exec (.jobEnd h k i) s = .next t ∧ t.job key = { prod := j.prod, cons := j.cons + 1, who := j.who, failed := j.failed || j.code != 0, late := j.late }
          ∧ t.numAt h (at' + 0x20) 8 = (2 ^ 63 + j.code * 2 ^ 40 + j.moved) % 2 ^ 64 ∧ t.numAt h (at' + 0x28) 4 = j.outlen % 2 ^ 32 ∧ t.numAt h (s.jctl h k i + 8) 8 = (j.cons + 1).toNat)
    ∧ (sound → e.xform = true → j.xend = false → j.code = 0 → ∃ t : State, exec (.xformTimeout h k i) s = .next t ∧ t.job key = if j.st = .idle then ended (failed 0x0A) else failed 0x0A j)
    ∧ (j.late = 0 → s.linkLive = true → j.req = some (.rdNcCar l h k i m n) → exec (.carrierHostResponse h k i .busy d) s = .next (s.put (.rdNcCar (s.linkOf m) h k i m n)))
    ∧ (j.late = 0 → s.linkLive = true → j.req = some (.wrNcCar l h k i m bs) → exec (.carrierHostResponse h k i .busy d) s = .next (s.put (.wrNcCar (s.linkOf m) h k i m bs)))
    ∧ (j.late = 0 → j.req ≠ none → j.st = .src n → j.code = 0 → exec (.carrierHostResponse h k i .ok d) s = .next (s.updJob key fun j =>
        { j with st := .idle, req := none, rbuf := leBytes n (d.toNat / 2 ^ (8 * (j.rAt - (ncBlock j.rAt n).1)) % 2 ^ (8 * n)) }))
    ∧ (j.late = 0 → j.req ≠ none → j.st = .dst n → j.stop = false → ∃ t : State, exec (.carrierHostResponse h k i .ok d) s = .next t
        ∧ t.job key = ended fun y => if e.xform = true ∧ j.outp = true then { y with outlen := y.outlen + n, obuf := y.obuf.drop n } else if e.xform then { y with moved := y.moved + n } else counted y)
    ∧ (∀ r ∈ [Resp.err, .ur], j.late = 0 → j.req ≠ none → j.st = .dst n ∨ j.st = .src n → j.stop = false → ∃ t : State, exec (.carrierHostResponse h k i r d) s = .next t ∧ t.job key = ended (failed 4))
    ∧ (noGone → sound → j.rd = 0 → j.st = .dst n → j.req = none → e.dspc = 3 → e.xform = false → ∃ t : State, exec (.adapterCompletion h k i code d) s = .next t ∧ t.job key = ended (if code = 0 then counted else failed 6))
    ∧ (noGone → sound → 0 < j.rd → ∃ t : State, exec (.adapterCompletion h k i 0 d) s = .next t ∧ t.job key = { j with rd := j.rd - min 256 j.rd, rbuf := j.rbuf ++ leBytes (min 256 j.rd) d.toNat })
    ∧ (sound → e.xform = true → j.xend = false → j.code = 0 → let y := { j with obuf := j.obuf ++ out }
        exec (.transformEnd h k i none out) s = .next (s.updJob key fun _ => y) ∧ (e.len ≤ j.moved → exec (.transformEnd h k i (some true) out) s = .next (s.updJob key fun _ => { y with xend := true }))
        ∧ ∃ t : State, exec (.transformEnd h k i (some false) out) s = .next t ∧ t.job key = if j.st = .idle then { ended (failed 8) with obuf := y.obuf } else { failed 8 j with obuf := y.obuf })

/-! The Referee, the Scoresheet, modes and resets -/

/-- R403, R404, R406 to R408, R410 to R412, R414, R417, R419: the Referee. A report is stamped and admitted, four in a CLK_C cycle, while its FIFO has
room, held grade to the last entry; one of normal grade beyond 896 entries is discarded and counted; another waits. The oldest is taken and counted
against its suspect's entry, and the N-th of a window is a severe event, which sets the class's CSTAT; its entry closes after the merge interval with
its record. CSTAT.live follows the condition; CSTAT is cleared by writing sev 1. FAULT_OUT changes once its value has stood for 4 CLK_A cycles.
Injections act in FACTORY only. -/
def Obligations.RefereeComplete : Prop :=
  ∀ (s : State) (o : Origin) (data : Reg) (r : Report) (e : Suspect) (rest : List Report) (others : List Suspect), s.TablesOk → s.takesWrites o → s.ref.cls.Pairwise (fun a b => a.1 < b.1) →
    let f := s.ref
    let taken := (s.updRef fun f => { f with arriving := rest }).setPflt r.suspect r.src
    let c := r.src / 8
    let cfg := (s.cls c).cfg
    let counted := condSource r.src = false ∨ r.live = true
    let new : Suspect := { src := r.src, unit := r.suspect, elem := r.elem, count := 1, t0 := r.stamp, tev := r.stamp, nrep := 1, stamp := r.stamp, detail := r.detail }
    let sel := s.rfld 9 0x10C 5 0
    let word (kind : Nat) : Reg := setFld (setFld data 31 31 1) 30 28 kind
    let det := s.reg 9 0x304
    let unit := fld data 24 16
    let row (kind : Nat) : Instr := match kind with
      | 0 => .injectReport o data
      | 1 => .injectSingleBit o data
      | 2 => .injectDoubleBit o data
      | 3 => .injectCsParity o data
      | _ => .injectResidue o data
    let n := if f.admAt = s.clkS / 4 then f.admN else 0
    let stamped : Report := { r with stamp := s.lap.toNat }
    let admitted (t : State) (r : Report) : State := t.updRef fun f => { f with offered := [], fifo := f.fifo ++ [r], admAt := s.clkS / 4, admN := n + 1 }
    let room := n < 4 ∧ f.fifo.length < (if r.held then 1024 else 896)
    let waits := 4 ≤ n ∧ (r.held = false → f.fifo.length < 896) ∨ r.held = true ∧ 1024 ≤ f.fifo.length
    (f.offered = [] → f.arriving = r :: rest → room → exec (.reportArrival r.reporter) s = .next (admitted taken stamped))
    ∧ (f.offered = [] → f.arriving = r :: rest → waits → exec (.reportArrival r.reporter) s = .next (taken.updRef fun f => { f with offered := [stamped] }))
    ∧ (f.offered = [] → f.arriving = r :: rest → r.held = false → 896 ≤ f.fifo.length →
        let t := taken.satInc 9 0x108 31 16
        exec (.reportArrival r.reporter) s = .next (if f.episode then t else (t.updRef fun f => { f with episode := true }).report 0x3F 0 9 9 0))
    ∧ (f.offered = [r] → room → exec (.reportArrival r.reporter) s = .next (admitted s r))
    ∧ (f.offered = [r] → waits → exec (.reportArrival r.reporter) s = .next s)
    ∧ (f.fifo = r :: rest → counted → (∀ x ∈ f.susp, sameKey x r = false) → (f.susp.filter fun x => s.inUse x r.stamp).length < 256 → 1 < fld cfg 31 24 → ∃ t : State, exec .reportTake s = .next t
        ∧ t.ref.fifo = rest ∧ t.ref.susp = new :: (f.susp.filter fun x => s.inUse x r.stamp) ∧ (t.cls c).ccnt = (s.cls c).ccnt + 1 ∧ (t.cls c).sev = (s.cls c).sev)
    ∧ (f.fifo = r :: rest → counted → (∀ x ∈ f.susp, sameKey x r = false) → (f.susp.filter fun x => s.inUse x r.stamp).length < 256 → fld cfg 31 24 ≤ 1 → fld cfg 5 2 = 0 → (s.cls c).sev = false →
        ∃ t : State, exec .reportTake s = .next t ∧ t.ref.fifo = rest ∧ t.ref.susp = { new with count := 0, sev := true, latched := true, logAt := f.logHead.toNat } :: (f.susp.filter fun x => s.inUse x r.stamp)
          ∧ (t.cls c).sev = true ∧ (t.cls c).first = BitVec.ofNat 3 r.src ∧ (t.cls c).unit = BitVec.ofNat 9 r.suspect ∧ (t.cls c).elem = BitVec.ofNat 16 r.elem
          ∧ (t.cls c).sevcnt.toNat = min ((s.cls c).sevcnt.toNat + 1) 0xFFFF ∧ t.ref.logHead = f.logHead + 1)
    ∧ (f.fifo = r :: rest → condSource r.src = true → r.live = false → ∃ t : State, exec .reportTake s = .next t ∧ t.ref.fifo = rest ∧ t.ref.susp = f.susp
        ∧ let x := s.cls c; (x.nrep ≠ 0 → x.unit.toNat = r.suspect → x.elem.toNat = r.elem → (t.cls c).live = false ∧ (t.cls c).trans = (x.trans || (x.sev && x.live && !x.rd))))
    ∧ (f.susp = e :: others → e.sev = true → s.mrg ≤ lapSub s.lap.toNat e.tev → (∀ x ∈ f.fifo, sameKey e x = false) → ∃ t : State, exec (.entryClose e.src e.unit e.elem) s = .next t
        ∧ t.ref.susp = { e with sev := false, latched := false } :: others ∧ ((s.cls (e.src / 8)).eff.getLsbD 1 = true → s.pfw = false → s.scs.fifo.length ≤ 447 → t.scs.fifo.length = s.scs.fifo.length + 1))
    ∧ ((classRow sel).isSome = true → ∃ t : State, exec (.sevClear o data) s = .next (t.replied o) ∧ t.cls sel = { s.cls sel with sev := false, trans := false, rd := false, causes := 0, intrAt := [], safeOn := false }
        ∧ t.ref.susp = f.susp.map fun x => if x.src / 8 = sel then { x with latched := false } else x)
    ∧ (∀ m lv, (∀ x ∈ f.cls, x.2.sev = true → fld x.2.eff 23 20 ≤ m) → (m = 0 ∨ ∃ x ∈ f.cls, x.2.sev = true ∧ fld x.2.eff 23 20 = m) →
        lv = (if (s.cls 0x3F).causes.getLsbD 2 then 15 else if (s.cls 0x20).causes.getLsbD 2 then max m 12 else m) →
        exec .faultOutUpdate s = .next (if f.fo.toNat ≠ lv ∧ f.foAt + 64 ≤ s.clkS then s.updRef fun f => { f with fo := BitVec.ofNat 4 lv, foAt := s.clkS } else s))
    ∧ (s.mode ≠ .factory → ∀ kind < 5, exec (row kind) s = .next ((s.pwerr o 9 0x300 5 (word kind)).replied o))
    ∧ (s.mode = .factory →
        ((pageType s.fuses.variant unit).isSome = true → srcListed (fld data 8 0) = true → ∃ t : State, exec (row 0) s = .next (t.replied o) ∧ t.ref.arriving = f.arriving ++
          [{ src := fld data 8 0, reporter := 9, suspect := unit, elem := fld det 15 0, live := false, detail := 0, stamp := 0, held := true }])
        ∧ (∀ b : Bool, 0x30 ≤ unit → unit < 0x40 → s.heatPresent (unit - 0x30) = true → fld det 22 3 * 8 < 0x600000 → ∃ t : State, exec (row (if b then 2 else 1)) s = .next (t.replied o)
          ∧ (t.up (unit - 0x30)).inj = ((s.up (unit - 0x30)).inj.filter fun x => x.1 != fld det 22 3) ++ [(fld det 22 3, if b then .double else .single)])
        ∧ (∀ h i, h < s.nHeats → i < 9 → unit = 0x100 + 9 * h + i → (∃ t : State, exec (row 3) s = .next (t.replied o) ∧ t.runner (.heat h i) = { s.runner (.heat h i) with injPar := true })
          ∧ ∃ t : State, exec (row 4) s = .next (t.replied o) ∧ t.runner (.heat h i) = { s.runner (.heat h i) with injRes := true }))

/-- R426, R427, R430, R431, R434 to R437, R439, R442, R443: the Scoresheet. The oldest record of the ingest FIFO commits with the next sequence number
into the next slot of the buffer. A flush writes the pending records to their slots of the region and then the header; what is acknowledged is no
longer pending. CLEAR empties it but for its own record, and zeroes the region. A window fetch shows the buffered records and reads the others; a
service memory that fails takes the path down. -/
def Obligations.ScoresheetComplete : Prop :=
  ∀ (s : State) (o : Origin) (data : Reg) (r : Rec) (rest : List Rec) (k j : Nat) (recs : List Rec), s.TablesOk → s.takesWrites o →
    let x := s.scs
    let q := x.next % 2 ^ 48
    let n := s.fuses.nvSize.toNat * 32768 - 128
    let lo := (s.loHalf 0xA 0x140 (s.reg 0xA 0x140)).toNat
    let c := lo + fld data 15 0 * 2 ^ 32
    let bytes (r : Rec) : List Byte :=
      let w0 := r.seq % 2 ^ 48 * 2 ^ 16 + r.origin % 2 ^ 12 * 16 + r.kind % 16
      let w1 := r.pcc % 2 ^ 24 * 2 ^ 40 + r.optime % 2 ^ 40
      [w0 % 2 ^ 32, w0 / 2 ^ 32 % 2 ^ 32, w1 % 2 ^ 32, w1 / 2 ^ 32 % 2 ^ 32, r.lap % 2 ^ 32, r.p0.toNat, r.p1.toNat, r.p2.toNat].flatMap (leBytes 4)
    let base := s.fuses.nvBase.toNat * 4096
    let slot (q : Nat) : Nat := base + 0x1000 + 32 * (q % n)
    let header (next old : Nat) : Out :=
      let body := [0x53, 0x43, 0x53, 0x48] ++ leBytes 4 (x.hdrGen + 1) ++ leBytes 8 (next % 2 ^ 48) ++ leBytes 8 (old % 2 ^ 48) ++ leBytes 4 (x.pcc.toNat + if s.pfw then 2 ^ 31 else 0)
        ++ leBytes 4 0 ++ leBytes 8 x.optime.toNat ++ leBytes 4 s.fuses.nvSize.toNat ++ leBytes 16 0
      .header (base + (x.hdrGen + 1) % 2 * 0x40) (body ++ leBytes 4 (crc32c body).toNat)
    let held (j : Nat) : Option Rec := (x.buf.find? fun e => e.2.seq == j).map (·.2)
    let away (j : Nat) : Bool := decide (x.old ≤ c + j ∧ c + j < x.next) && (held (c + j)).isNone
    (x.fifo = r :: rest → s.pfw = false → x.nvdown = true ∨ x.pend.length < x.limit → x.slot = some k → (∀ e ∈ x.pend, e.2 ≠ k) → x.lost = none → ∃ t : State, exec .recordCommit s = .next t
        ∧ t.scs = { (x.putRec k { r with seq := q }) with fifo := rest, pos := (k + 1) % 2048, pend := x.pend ++ [(q, k)], next := x.next + 1, flushing := x.flushing || r.kind == 1 || decide (x.limit ≤ x.pend.length + 1) } ∧ t.out = s.out)
    ∧ (x.flushing = true → x.beat = [] → x.pend = [] → exec (.flush []) s = .next ((if 0 < x.fcount ∨ s.pfw = true then
        (s.put (header x.next x.old)).updScs fun x => { x with hdrGen := x.hdrGen + 1, fcount := 0 } else s).updScs fun x => { x with flushing := false }))
    ∧ (x.flushing = true → x.beat = [] → x.pend = [(j, k)] → x.at' k = some r → ∃ t : State, exec (.flush []) s = .next t ∧ t.out = s.out ++ [.beat (slot j) (bytes r)]
        ∧ t.scs = { x with beat := [j], fcount := x.fcount + 1, old := if n ≤ j then max x.old (j - n + 1) else x.old })
    ∧ (∀ k' r' more, x.flushing = true → x.beat = [] → x.pend = (j, k) :: (j + 1, k') :: more → j % n % 2 = 0 → x.at' k = some r → x.at' k' = some r' →
        ∃ t : State, exec (.flush []) s = .next t ∧ t.out = s.out ++ [.beat (slot j) (bytes r ++ bytes r')] ∧ t.scs.beat = [j, j + 1] ∧ t.scs.pend = x.pend)
    ∧ (x.beat = [j] → x.nvdown = false → x.segw = 0 → x.fcount < 256 → exec .flushBeatAck s = .next (s.updScs fun x => { x with beat := [], pend := x.pend.filter fun e => e.1 != j, flushed := max x.flushed j }))
    ∧ (x.beat = [] → exec .flushBeatAck s = .next (s.updScs fun x => { x with clearing := false }))
    ∧ exec .optimeTick s = .next (s.updScs fun x => { x with optime := x.optime + 1, flushing := x.flushing || decide ((x.optime + 1).toNat % 1024 = 0) })
    ∧ exec (.flushRequest o) s = .next (((s.accepted o 0xA 0x100 1).updScs fun x => { x with flushing := true }).replied o)
    ∧ (clearFrom o = true → x.clearing = false → x.slot = some k → 2 ≤ x.limit → ∃ t : State, exec (.clear o) s = .next (t.replied o) ∧ t.scs.pend = [(q, k)] ∧ t.scs.next = x.next + 1 ∧ t.scs.old = x.next ∧ t.scs.clearing = true
        ∧ (∀ e ∈ t.scs.buf, e.1 = k ∧ e.2.seq = q ∧ e.2.kind = 9) ∧ t.out = s.out ++ [header (x.next + 1) x.next, .zero x.next])
    ∧ (clearFrom o = false → exec (.clear o) s = .next ((s.pwerr o 0xA 0x100 2 0x80000000).replied o))
    ∧ (clearFrom o = true → x.clearing = true → exec (.clear o) s = .next ((s.pwerr o 0xA 0x100 3 0x80000000).replied o))
    ∧ (∃ t : State, exec (.windowFetch o data []) s = .next (t.replied o) ∧ t.scs.win = (List.range 8).map (fun j => if x.old ≤ c + j then held (c + j) else none) ∧ t.scs.wcur = c
        ∧ ((∃ j < 8, away j = true) → t.scs.wbusy = true ∧ t.out = s.out ++ [.svcRead (((List.range 8).filter away).map fun j => slot (c + j))]) ∧ ((∀ j < 8, away j = false) → t.scs.wbusy = false ∧ t.out = s.out))
    ∧ (x.wbusy = true → ∃ t : State, exec (.windowReadResponse recs) s = .next t ∧ t.scs.wbusy = false ∧ ∀ j < 8, (t.scs.win[j]?).join =
        match (x.win[j]?).join with
        | some r => some r
        | none => if x.old ≤ x.wcur + j then recs.find? (fun r => r.seq == x.wcur + j) else none)
    ∧ exec .windowFetchTimeout s = .next (s.updScs fun x => { x with wbusy := false })
    ∧ (x.beat ≠ [] ∨ x.clearing = true →
        let t := s.updScs fun x => { x with beat := [], flushing := false, nvdown := true, nvlost := true }
        exec .nvPathDown s = .next (if x.nvdown then t else t.report 0x24 1 0xA 0xA 0 0 true))

/-- R446 to R449, R457 to R459, R468: mode requests and wake. FACTORY and SERVICE are entered from a complete COLDSTART, FACTORY by the Custody world in a
factory state of the lifecycle, SERVICE once every image is in place; QUIESCE from SERVICE or DEGRADED when all work has ended: caches clean, runners
stopped. Other requests are rejected. A wake event or the wake timer ends QUIESCE, and the runners that ran start again; it abandons an entry in
progress. -/
def Obligations.ModeRequestsComplete : Prop :=
  ∀ (s : State) (o : Origin), s.TablesOk →
    let ready := s.mode = .coldstart ∧ s.hwdone = true ∧ s.pfw = false
    let images := (∀ h < s.nHeats, s.heatFen.getLsbD h = true ∨ (s.cstore h).valid = true) ∧ ((s.cstore 16).valid = true ∨ s.arbRun.fenced = true) ∧ s.img.state = 0 ∧ s.img.rq = []
    let ended := (s.mode = .service ∨ s.mode = .degraded) ∧ (∀ e ∈ s.rings, e.2.en = true → e.2.cons = e.2.prod ∧ e.2.held = false) ∧ (∀ e ∈ s.jobs, e.2.active = false) ∧ (∀ n < 16, (s.pacer n).stopped = true)
      ∧ s.img.state = 0 ∧ s.img.rq = [] ∧ (∀ h < s.nHeats, (s.cache h).rinv = false ∧ (s.cache h).lfill = false) ∧ s.scs.clearing = false ∧ s.qpend = false
    let up := if s.degradedNow then Mode.degraded else .service
    let timer := (s.reg 2 0x188).getLsbD 0 = true ∧ (s.reg 2 0x180).toNat + (s.reg 2 0x184).toNat * 2 ^ 32 ≤ s.lap.toNat
    let dark : Prop := ∀ p < s.nPorts, (s.port p).live = false
    let req (target : Nat) : State := s.accepted o 1 0x104 (BitVec.ofNat 32 target)
    let rejected (i : Instr) (target reason : Nat) : Prop := exec i s = .next ((s.pwerr o 1 0x104 reason (BitVec.ofNat 32 target)).replied o)
    (s.takesWrites o → ready → s.life = 0 ∨ s.life = 3 → o.cust = true → exec (.modeReqFactory o) s = .next (((req 0).setMode .factory 0x10).replied o))
    ∧ (s.takesWrites o → o.cust = false → rejected (.modeReqFactory o) 0 2)
    ∧ (s.takesWrites o → o.cust = true → ¬(ready ∧ (s.life = 0 ∨ s.life = 3)) → rejected (.modeReqFactory o) 0 3)
    ∧ (s.takesWrites o → ready → images → exec (.modeReqService o) s = .next (((req 2).setMode up 0x10).replied o))
    ∧ (s.takesWrites o → ¬(ready ∧ images) → rejected (.modeReqService o) 2 3)
    ∧ (s.takesWrites o → ended → (∀ h < s.nHeats, (s.reg (0x40 + h) 0x100).getLsbD 0 = false ∧ (s.cache h).draining = false) → ∃ t : State, exec (.modeReqQuiesce o) s = .next (t.replied o)
        ∧ t.mode = .quiesce ∧ t.prevMode = s.mode ∧ t.qpend = false ∧ (dark → t.spads = s.spads) ∧ t.cwords = s.cwords
        ∧ ∀ r, s.ridPresent r = true → t.runner r = { fenced := (s.runner r).fenced, hoff := (s.runner r).hoff, run := if (s.runner r).run = .handoff then .handoff else .stopped })
    ∧ (s.takesWrites o → ¬ended → rejected (.modeReqQuiesce o) 5 3)
    ∧ (s.qpend = true → exec .wake s = .next ({ s with qpend := false }.setMode s.mode 0x31))
    ∧ (s.qpend = false → s.mode = .quiesce → s.safeNow = false → dark → ∃ t : State, exec .wake s = .next t ∧ t.mode = up ∧ t.gateRun = [] ∧ t.spads = s.spads
        ∧ ∀ h i, h < s.nHeats → i < 9 → (tget false s.gateRun (9 * h + i) = true → (t.runner (.heat h i)).run = .running) ∧ (tget false s.gateRun (9 * h + i) = false → t.runner (.heat h i) = s.runner (.heat h i)))
    ∧ (s.qpend = false → s.mode ≠ .quiesce → exec .wake s = .next s)
    ∧ (timer → exec .wakeTimer s = exec .wake s)
    ∧ (¬timer → exec .wakeTimer s = .next s)

/-- R28, R44, R213, R447, R452 to R455: resets. A cold reset reads the fuses and leaves every register and memory at its reset value, the pins' levels
apart, and runs the cold-start sequence to its end; a warm reset keeps scratchpads, images, the lap counter, the register log and the counts since
cold reset, and returns the rest; either publishes anew in every heat, which raises its source 0xF2; in FACTORY it acts as a cold one. The mode is
then COLDSTART, waiting for a request. (No test failure, no safe-state request; for the cold reset, no header in non-volatile memory.) -/
def Obligations.ResetsComplete : Prop :=
  ∀ (s : State) (w : BitVec 24) (c : ColdIn), c.bist = 0 → c.arbFail = false → s.safeReq = false →
    let outside (a : Nat) : Prop := ¬(0x36E000 ≤ a ∧ a < 0x370000)
    let published (t : State) : Prop := ∀ h < s.nHeats, t.slice h = { pend := [(0xF2, true)] } ∧ t.numAt h 0x36F404 4 = t.arb.gen.toNat
    let done (t : State) : Prop := t.mode = .coldstart ∧ t.hwdone = true ∧ t.cstep = 5 ∧ t.qpend = false ∧ t.pending = s.pending ∧ t.runners = [] ∧ published t ∧ t.ports = [] ∧ t.jobs = [] ∧ t.credit = [] ∧ t.qptr = []
    let cold (t : State) (cause : Nat) : Prop := done t ∧ t.out = s.out ∧ t.fuses = { c.fuses.getD s.fuses with variant := s.fuses.variant } ∧ t.rings = [] ∧ (∀ h < 16, ∀ a < 0x600000, outside a → t.byteAt h a = 0) ∧ t.arbMem = [] ∧ t.cwords = [] ∧ t.lap = 0
      ∧ t.pfw = false ∧ t.life = s.life ∧ t.scs.pcc = 1 ∧ t.scs.next = 257 ∧ t.reg 1 0x108 = BitVec.ofNat 32 (cause * 2 ^ 16 + 0x100 + s.mode.code)
    (c.hdrs = [] → ∃ t : State, exec (.coldReset w c) s = .next t ∧ cold t 1 ∧ t.winbase = w ∧ t.vddLow = false)
    ∧ (c.hdrs = [] → s.mode = .factory → ∃ t : State, exec (.warmReset c) s = .next t ∧ cold t 3 ∧ t.winbase = s.winbase)
    ∧ (s.mode ≠ .factory → s.pfw = false → s.TablesOk → s.MemOk → ∃ t : State, exec (.warmReset c) s = .next t ∧ done t ∧ t.fuses = s.fuses ∧ (∀ h < 16, ∀ a < 0x600000, outside a → t.byteAt h a = s.byteAt h a) ∧ t.arbMem = s.arbMem
        ∧ t.cwords = s.cwords ∧ t.cstores = s.cstores ∧ t.lap = s.lap ∧ t.ref.log = s.ref.log ∧ t.img.state = 0 ∧ t.heatFen = 0 ∧ t.linkDown = 0 ∧ t.perst = 0 ∧ (∀ q, t.ring q = { migs := (s.ring q).migs })
        ∧ t.arb.fbCnt = s.arb.fbCnt ∧ t.reg 8 0x110 = s.reg 8 0x110 ∧ ∀ n < 16, s.pacerPresent n = true → (t.pacer n).st = .safe)

/-- R27, R29, R30, R34, R43 to R45, R306, R380, R403, R405, R425, R435, R451, R460: what comes in at the pins. PFW_N and SAFE_REQ_N bring every pacer and
root port to its safe state, PFW_N starts the flush; TAMPER and a change of LIFE wipe every secure part; a lost host link and its return are reported.
A level that stands already changes nothing. -/
def Obligations.EdgeEventsComplete : Prop :=
  ∀ (s : State) (code : BitVec 3) (c : ColdIn) (k : Nat), s.TablesOk → s.mode ≠ .quiesce →
    let safe (t : State) : Prop := (∀ n < 16, s.pacerPresent n = true → (t.pacer n).st = .safe) ∧ ∀ p < s.nPorts, (t.port p).ls = .contained
    let wiped (t : State) : Prop := ∀ m, m < s.nHeats ∨ m = 16 → (t.up m).wipe = true
    let lost := s.linkLost.getLsbD k = true
    (s.pfw = false → ∃ t : State, exec .pfwNFall s = .next t ∧ t.pfw = true ∧ t.scs.flushing = true ∧ safe t)
    ∧ (s.pfw = true → exec .pfwNFall s = .next s)
    ∧ (s.safeReq = false → ∃ t : State, exec .safeReq s = .next t ∧ t.safeReq = true ∧ safe t)
    ∧ (s.safeReq = true → exec .safeReq s = .next s ∧ exec .safeReqRelease s = .next ({ s with safeReq := false }.report 0x20 0 0 0 0 0 false))
    ∧ (s.tamper = false → ∃ t : State, exec .tamper s = .next t ∧ t.tamper = true ∧ wiped t ∧ ∃ r, t.ref.arriving = s.ref.arriving ++ [r] ∧ r.src = 8 * 0x20 + 2 ∧ r.live = true)
    ∧ (s.tamper = true → exec .tamper s = .next s ∧ exec .tamperFall s = .next ({ s with tamper := false }.report 0x20 2 0 0 0 0 false))
    ∧ (exec (.lifeChange s.life c) s = .next s)
    ∧ (code ≠ s.life → s.mode ≠ .factory ∨ code = 0 ∨ code = 3 → ∃ t : State, exec (.lifeChange code c) s = .next t ∧ t.life = code ∧ t.mode = s.mode ∧ wiped t ∧ t.rfld 5 0x100 31 16 = min (s.rfld 5 0x100 31 16 + 1) 0xFFFF)
    ∧ (code ≠ s.life → s.mode = .factory → code ≠ 0 → code ≠ 3 → c.bist = 0 → c.arbFail = false → ∃ t : State, exec (.lifeChange code c) s = .next t ∧ t.life = code ∧ t.mode = .coldstart ∧ ∀ h < 16, ∀ a < 0x600000, a < 0x36E000 ∨ 0x370000 ≤ a → t.byteAt h a = 0)
    ∧ (k < 4 → s.linkUp.getLsbD k = true → exec (.hostLinkLost k) s = .next ({ s with linkUp := putBit s.linkUp k false, linkLost := putBit s.linkLost k true }.report 0x11 1 0 0 k 0 true)
        ∧ exec (.linkErrorCorrected k) s = .next (s.report 0x11 0 0 0 k))
    ∧ (k < 4 → let t := { s with linkUp := putBit s.linkUp k true, linkLost := putBit s.linkLost k false }
        exec (.hostLinkUp k) s = .next (if lost then t.report 0x11 1 0 0 k 0 false else t))
    ∧ exec .vddCoreLoss s = .next { s with vddLow := true }
end

