-- ==== Sys2Proof/Laws/Table.lean ====
section
/-! SUPPORT. The laws of the sparse tables: a read after a write, a write elsewhere, and the canonical form that every table operation keeps. -/
namespace Sys2Proof.Machine

theorem tget_nil {α : Type} (d : α) (k : Nat) : tget d [] k = d := rfl

theorem tget_cons {α : Type} (d : α) (k' k : Nat) (v : α) (t : Table α) : tget d ((k', v) :: t) k = if k' = k then v else tget d t k := rfl

theorem twfFrom_cons {α : Type} [DecidableEq α] (d : α) (lo : Option Nat) (k : Nat) (v : α) (t : Table α) :
    twfFrom d lo ((k, v) :: t) = true ↔ (∀ l, lo = some l → l < k) ∧ v ≠ d ∧ twfFrom d (some k) t = true := by
  cases lo <;> simp [twfFrom, and_assoc]

theorem twfFrom_mono {α : Type} [DecidableEq α] {d : α} {lo lo' : Option Nat} {t : Table α} (h : twfFrom d lo t = true)
    (hl : ∀ l', lo' = some l' → ∃ l, lo = some l ∧ l' ≤ l) : twfFrom d lo' t = true := by
  cases t with
  | nil => rfl
  | cons e t =>
    obtain ⟨k, v⟩ := e
    rw [twfFrom_cons] at h ⊢
    refine ⟨fun l' e => ?_, h.2⟩
    obtain ⟨l, e1, e2⟩ := hl l' e
    exact Nat.lt_of_le_of_lt e2 (h.1 l e1)

theorem twfFrom_none {α : Type} [DecidableEq α] {d : α} {lo : Option Nat} {t : Table α} (h : twfFrom d lo t = true) : twf d t = true :=
  twfFrom_mono h (by simp)

theorem twfFrom_tset {α : Type} [DecidableEq α] {d : α} {lo : Option Nat} {t : Table α} {k : Nat} {v : α} (h : twfFrom d lo t = true)
    (hl : ∀ l, lo = some l → l < k) : twfFrom d lo (tset d t k v) = true := by
  induction t generalizing lo with
  | nil =>
    unfold tset
    split
    · rfl
    · exact (twfFrom_cons ..).2 ⟨hl, ‹_›, rfl⟩
  | cons e t ih =>
    obtain ⟨k', v'⟩ := e
    have h0 := h
    rw [twfFrom_cons] at h
    obtain ⟨h1, h2, h3⟩ := h
    unfold tset
    split
    · split
      · exact h0
      · exact (twfFrom_cons ..).2 ⟨hl, ‹_›, (twfFrom_cons ..).2 ⟨by simpa, h2, h3⟩⟩
    · split
      · subst k'
        split
        · exact twfFrom_mono h3 fun l e => ⟨k, rfl, Nat.le_of_lt (hl l e)⟩
        · exact (twfFrom_cons ..).2 ⟨hl, ‹_›, h3⟩
      · exact (twfFrom_cons ..).2 ⟨h1, h2, ih h3 (by simp; omega)⟩

/-- A write keeps the canonical form. -/
theorem twf_tset {α : Type} [DecidableEq α] {d : α} {t : Table α} {k : Nat} {v : α} (h : twf d t = true) : twf d (tset d t k v) = true :=
  twfFrom_tset h (by simp)

theorem twfFrom_tkeep {α : Type} [DecidableEq α] {d : α} {lo : Option Nat} {t : Table α} {p : Nat → Bool} (h : twfFrom d lo t = true) :
    twfFrom d lo (tkeep p t) = true := by
  induction t generalizing lo with
  | nil => rfl
  | cons e t ih =>
    obtain ⟨k, v⟩ := e
    rw [twfFrom_cons] at h
    unfold tkeep at ih ⊢
    rw [List.filter_cons]
    split
    · exact (twfFrom_cons ..).2 ⟨h.1, h.2.1, ih h.2.2⟩
    · exact twfFrom_mono (ih h.2.2) fun l e => ⟨k, rfl, Nat.le_of_lt (h.1 l e)⟩

/-- Dropping keys keeps the canonical form. -/
theorem twf_tkeep {α : Type} [DecidableEq α] {d : α} {t : Table α} {p : Nat → Bool} (h : twf d t = true) : twf d (tkeep p t) = true :=
  twfFrom_tkeep h

theorem tget_tkeep {α : Type} (d : α) (p : Nat → Bool) (t : Table α) (k : Nat) : tget d (tkeep p t) k = if p k = true then tget d t k else d := by
  induction t with
  | nil => simp [tkeep, tget]
  | cons e t ih =>
    obtain ⟨k', v⟩ := e
    unfold tkeep at ih ⊢
    rw [List.filter_cons]
    by_cases hp : p k' = true
    · simp only [hp, if_true, tget_cons, ih]
      by_cases hk : k' = k
      · subst hk; simp [hp]
      · simp [hk]
    · simp only [Bool.not_eq_true] at hp
      simp only [hp, Bool.false_eq_true, if_false, ih, tget_cons]
      by_cases hk : k' = k
      · subst hk; simp [hp]
      · simp [hk]

theorem twfFrom_iff {α : Type} [DecidableEq α] {d : α} {lo : Option Nat} {t : Table α} :
    twfFrom d lo t = true ↔ (∀ l, lo = some l → ∀ e ∈ t, l < e.1) ∧ t.Pairwise (fun a b => a.1 < b.1) ∧ ∀ e ∈ t, e.2 ≠ d := by
  induction t generalizing lo with
  | nil => simp [twfFrom]
  | cons e t ih =>
    obtain ⟨k, v⟩ := e
    rw [twfFrom_cons, ih, List.pairwise_cons]
    constructor
    · rintro ⟨h1, h2, h3, h4, h5⟩
      refine ⟨fun l e x hx => ?_, ⟨fun x hx => h3 k rfl x hx, h4⟩, fun x hx => ?_⟩
      · rcases List.mem_cons.1 hx with rfl | hx
        · exact h1 l e
        · exact Nat.lt_trans (h1 l e) (h3 k rfl x hx)
      · rcases List.mem_cons.1 hx with rfl | hx
        · exact h2
        · exact h5 x hx
    · rintro ⟨h1, ⟨h2, h3⟩, h4⟩
      refine ⟨fun l e => h1 l e _ (List.mem_cons_self ..), h4 _ (List.mem_cons_self ..), ?_, h3, fun x hx => h4 x (List.mem_cons_of_mem _ hx)⟩
      intro l e
      cases e
      exact h2

/-- The canonical form, said of the list: keys strictly rising, no entry equal to what an unlisted key reads as. -/
theorem twf_iff {α : Type} [DecidableEq α] {d : α} {t : Table α} :
    twf d t = true ↔ t.Pairwise (fun a b => a.1 < b.1) ∧ ∀ e ∈ t, e.2 ≠ d := by
  unfold twf
  rw [twfFrom_iff]
  simp

theorem keysRise_tset_from {α : Type} [DecidableEq α] {d : α} {t : Table α} {k l : Nat} {v : α} (h : ∀ e ∈ t, l < e.1) (hl : l < k) :
    ∀ e ∈ tset d t k v, l < e.1 := by
  induction t with
  | nil =>
    unfold tset
    split <;> simp [hl]
  | cons e t ih =>
    obtain ⟨k', v'⟩ := e
    have h1 := h _ (List.mem_cons_self ..)
    have h2 : ∀ e ∈ t, l < e.1 := fun x hx => h x (List.mem_cons_of_mem _ hx)
    unfold tset
    split
    · split
      · exact h
      · intro x hx
        rcases List.mem_cons.1 hx with rfl | hx
        · exact hl
        · exact h x hx
    · split
      · split
        · exact h2
        · intro x hx
          rcases List.mem_cons.1 hx with rfl | hx
          · exact hl
          · exact h2 x hx
      · intro x hx
        rcases List.mem_cons.1 hx with rfl | hx
        · exact h1
        · exact ih h2 x hx

/-- A write keeps the keys strictly rising, whatever the table's default is. -/
theorem keysRise_tset {α : Type} [DecidableEq α] {d : α} {t : Table α} {k : Nat} {v : α} (h : t.Pairwise fun a b => a.1 < b.1) :
    (tset d t k v).Pairwise fun a b => a.1 < b.1 := by
  induction t with
  | nil =>
    unfold tset
    split <;> simp
  | cons e t ih =>
    obtain ⟨k', v'⟩ := e
    obtain ⟨h1, h2⟩ := List.pairwise_cons.1 h
    unfold tset
    split
    · split
      · exact h
      · refine List.pairwise_cons.2 ⟨fun x hx => ?_, h⟩
        rcases List.mem_cons.1 hx with rfl | hx
        · assumption
        · exact Nat.lt_trans ‹k < k'› (h1 x hx)
    · split
      · subst k'
        split
        · exact h2
        · exact List.pairwise_cons.2 ⟨h1, h2⟩
      · exact List.pairwise_cons.2 ⟨keysRise_tset_from h1 (by omega), ih h2⟩

theorem tget_below {α : Type} {d : α} {k : Nat} {t : Table α} (h : ∀ e ∈ t, k < e.1) : tget d t k = d := by
  induction t with
  | nil => rfl
  | cons e t ih =>
    obtain ⟨k', v⟩ := e
    have := h _ (List.mem_cons_self ..)
    rw [tget_cons, if_neg (by simp at this; omega)]
    exact ih fun x hx => h x (List.mem_cons_of_mem _ hx)

/-- A read after a write, where only the order of the keys is known. -/
theorem tget_tset_rise {α : Type} [DecidableEq α] {d : α} {t : Table α} (h : t.Pairwise fun a b => a.1 < b.1) (k j : Nat) (v : α) :
    tget d (tset d t k v) j = if j = k then v else tget d t j := by
  induction t with
  | nil =>
    unfold tset
    by_cases hj : j = k
    · subst hj
      by_cases hv : v = d <;> simp [hv, tget]
    · by_cases hv : v = d
      · simp [hv, hj, tget]
      · simp [hv, hj, Ne.symm hj, tget]
  | cons e t ih =>
    obtain ⟨k', v'⟩ := e
    obtain ⟨h1, h2⟩ := List.pairwise_cons.1 h
    unfold tset
    by_cases hk : k < k'
    · rw [if_pos hk]
      have hb : tget d t k = d := tget_below fun e he => Nat.lt_trans hk (h1 e he)
      by_cases hv : v = d
      · rw [if_pos hv]
        by_cases hj : j = k
        · subst hj; rw [if_pos rfl, tget_cons, if_neg (by omega), hb, hv]
        · rw [if_neg hj]
      · rw [if_neg hv, tget_cons]
        by_cases hj : j = k
        · rw [if_pos hj, if_pos hj.symm]
        · rw [if_neg hj, if_neg (Ne.symm hj)]
    · rw [if_neg hk]
      by_cases hk2 : k = k'
      · rw [if_pos hk2]
        subst hk2
        have hb : tget d t k = d := tget_below h1
        by_cases hv : v = d
        · rw [if_pos hv]
          by_cases hj : j = k
          · subst hj; rw [if_pos rfl, hb, hv]
          · rw [if_neg hj, tget_cons, if_neg (Ne.symm hj)]
        · rw [if_neg hv, tget_cons, tget_cons]
          by_cases hj : j = k
          · rw [if_pos hj.symm, if_pos hj]
          · rw [if_neg (Ne.symm hj), if_neg hj, if_neg (Ne.symm hj)]
      · rw [if_neg hk2, tget_cons, tget_cons, ih h2]
        by_cases hj : j = k
        · subst hj; simp [Ne.symm hk2]
        · simp [hj]

/-- A read after a write: the written key gives the value, every other key what it gave. -/
theorem tget_tset {α : Type} [DecidableEq α] {d : α} {t : Table α} (h : twf d t = true) (k j : Nat) (v : α) :
    tget d (tset d t k v) j = if j = k then v else tget d t j := tget_tset_rise (twf_iff.1 h).1 k j v

/-- Entries dropped or given another value under the same key: the keys stay in order. -/
theorem keysRise_filterMap {α β : Type} {t : Table α} {f : Nat × α → Option (Nat × β)} (hf : ∀ e e', f e = some e' → e'.1 = e.1)
    (h : t.Pairwise fun a b => a.1 < b.1) : (t.filterMap f).Pairwise fun a b => a.1 < b.1 := by
  refine List.Pairwise.filterMap f (fun a a' hl b hb b' hb' => ?_) h
  rw [hf a b hb, hf a' b' hb']
  exact hl

end Sys2Proof.Machine
end

