-- ==== Sys2Proof/Laws/Access.lean ====
section
/-! SUPPORT. What a part of the state reads as after one part of its kind is written, in states whose tables are canonical. -/
namespace Sys2Proof.Machine

theorem State.runner_setRunner {s : State} (h : s.TablesOk) (r : Rid) (x : Runner) : (s.setRunner r x).runner r = x := by
  cases r with
  | arb => rfl
  | heat a i =>
    show tget {} (tset {} s.runners (9 * a + i) x) (9 * a + i) = x
    rw [tget_tset h.runners, if_pos rfl]

theorem State.runner_setRunner_other {s : State} (h : s.TablesOk) {r r' : Rid} (hr : r.wf = true) (hr' : r'.wf = true) (hn : r' ≠ r) (x : Runner) :
    (s.setRunner r x).runner r' = s.runner r' := by
  cases r with
  | arb => cases r' with
    | arb => exact absurd rfl hn
    | heat b j => rfl
  | heat a i => cases r' with
    | arb => rfl
    | heat b j =>
      show tget {} (tset {} s.runners (9 * a + i) x) (9 * b + j) = tget {} s.runners (9 * b + j)
      rw [tget_tset h.runners, if_neg]
      intro e
      simp only [Rid.wf, decide_eq_true_eq] at hr hr'
      have : b = a := by omega
      have : j = i := by omega
      subst a i
      exact hn rfl

theorem State.runner_updR {s : State} (h : s.TablesOk) (r : Rid) (f : Runner → Runner) : (s.updR r f).runner r = f (s.runner r) :=
  runner_setRunner h r _

theorem State.slice_updSl {s : State} (h : s.TablesOk) (k j : Nat) (f) : (s.updSl k f).slice j = if j = k then f (s.slice k) else s.slice j :=
  tget_tset h.slices k j _

theorem State.up_updUp {s : State} (h : s.TablesOk) (k j : Nat) (f) : (s.updUp k f).up j = if j = k then f (s.up k) else s.up j :=
  tget_tset h.memUp k j _

theorem State.cache_updCache {s : State} (h : s.TablesOk) (k j : Nat) (f) : (s.updCache k f).cache j = if j = k then f (s.cache k) else s.cache j :=
  tget_tset h.caches k j _

theorem State.ring_updRing {s : State} (h : s.TablesOk) (k j : Nat) (f) : (s.updRing k f).ring j = if j = k then f (s.ring k) else s.ring j :=
  tget_tset h.rings k j _

theorem State.port_updPort {s : State} (h : s.TablesOk) (k j : Nat) (f) : (s.updPort k f).port j = if j = k then f (s.port k) else s.port j :=
  tget_tset h.ports k j _

theorem State.job_updJob {s : State} (h : s.TablesOk) (k j : Nat) (f) : (s.updJob k f).job j = if j = k then f (s.job k) else s.job j :=
  tget_tset h.jobs k j _

theorem State.pacer_updPacer {s : State} (h : s.TablesOk) (k j : Nat) (f) : (s.updPacer k f).pacer j = if j = k then f (s.pacer k) else s.pacer j :=
  tget_tset h.pacers k j _

theorem State.pin_updPin {s : State} (h : s.TablesOk) (k j : Nat) (f) : (s.updPin k f).pin j = if j = k then f (s.pin k) else s.pin j :=
  tget_tset h.pins k j _

theorem State.hqueue_updQ {s : State} (h : s.TablesOk) (k j : Nat) (f) : (s.updQ k f).hqueue j = if j = k then f (s.hqueue k) else s.hqueue j :=
  tget_tset h.hq k j _

theorem State.cstore_updCs {s : State} (h : s.TablesOk) (k j : Nat) (f) : (s.updCs k f).cstore j = if j = k then f (s.cstore k) else s.cstore j :=
  tget_tset h.cstores k j _

theorem State.reg_setReg {s : State} (h : s.TablesOk) (p off : Nat) (v : Reg) : (s.setReg p off v).reg p off = v := by
  show tget (resetOf s.fuses.variant p off) (tset (resetOf s.fuses.variant p off) s.regs (regKey p off) v) (regKey p off) = v
  rw [tget_tset_rise h.regs, if_pos rfl]

theorem tget_default {α : Type} [DecidableEq α] {d d' : α} {t : Table α} {k : Nat} (h : k ∈ t.map Prod.fst) : tget d t k = tget d' t k := by
  induction t with
  | nil => cases h
  | cons e t ih =>
    obtain ⟨k', v⟩ := e
    rw [tget_cons, tget_cons]
    split
    · rfl
    · refine ih ?_
      rcases List.mem_cons.1 h with e | h
      · exact absurd e.symm ‹_›
      · exact h

theorem tget_absent {α : Type} {d : α} {t : Table α} {k : Nat} (h : k ∉ t.map Prod.fst) : tget d t k = d := by
  induction t with
  | nil => rfl
  | cons e t ih =>
    obtain ⟨k', v⟩ := e
    rw [List.map_cons, List.mem_cons, not_or] at h
    rw [tget_cons, if_neg (Ne.symm h.1)]
    exact ih h.2

theorem mem_keys_tset {α : Type} [DecidableEq α] {d : α} {t : Table α} {k j : Nat} {v : α} (hn : j ≠ k) :
    j ∈ (tset d t k v).map Prod.fst ↔ j ∈ t.map Prod.fst := by
  induction t with
  | nil =>
    unfold tset
    split <;> simp [hn]
  | cons e t ih =>
    obtain ⟨k', v'⟩ := e
    unfold tset
    split
    · split <;> simp [hn]
    · split
      · subst k'
        split <;> simp [hn]
      · simp [ih]

theorem tget_tset_other {α : Type} [DecidableEq α] {d d' : α} {t : Table α} (h : t.Pairwise fun a b => a.1 < b.1) {k j : Nat} (hn : j ≠ k) (v : α) :
    tget d' (tset d t k v) j = tget d' t j := by
  by_cases hj : j ∈ t.map Prod.fst
  · rw [tget_default (d := d') (d' := d) ((mem_keys_tset hn).2 hj), tget_tset_rise h, if_neg hn]
    exact tget_default hj
  · rw [tget_absent (fun h => hj ((mem_keys_tset hn).1 h)), tget_absent hj]

/-- Another register: another page, or another word of the page. -/
theorem State.reg_setReg_other {s : State} (h : s.TablesOk) {p off p' off' : Nat} (hn : regKey p' off' ≠ regKey p off) (v : Reg) :
    (s.setReg p off v).reg p' off' = s.reg p' off' := tget_tset_other h.regs hn v

end Sys2Proof.Machine
end

