-- ==== Sys2Proof/Laws/State.lean ====
section
/-! SUPPORT. The fields of the state under each named update: one lemma for each field an update leaves alone, and what it does to its own. -/
namespace Sys2Proof.Machine

@[simp] theorem State.updSl_fuses (s : State) (k : Nat) (f : Slice → Slice) : (s.updSl k f).fuses = s.fuses := rfl
@[simp] theorem State.updSl_lap (s : State) (k : Nat) (f : Slice → Slice) : (s.updSl k f).lap = s.lap := rfl
@[simp] theorem State.updSl_clkS (s : State) (k : Nat) (f : Slice → Slice) : (s.updSl k f).clkS = s.clkS := rfl
@[simp] theorem State.updSl_fresh (s : State) (k : Nat) (f : Slice → Slice) : (s.updSl k f).fresh = s.fresh := rfl
@[simp] theorem State.updSl_mode (s : State) (k : Nat) (f : Slice → Slice) : (s.updSl k f).mode = s.mode := rfl
@[simp] theorem State.updSl_prevMode (s : State) (k : Nat) (f : Slice → Slice) : (s.updSl k f).prevMode = s.prevMode := rfl
@[simp] theorem State.updSl_hwdone (s : State) (k : Nat) (f : Slice → Slice) : (s.updSl k f).hwdone = s.hwdone := rfl
@[simp] theorem State.updSl_cstep (s : State) (k : Nat) (f : Slice → Slice) : (s.updSl k f).cstep = s.cstep := rfl
@[simp] theorem State.updSl_qpend (s : State) (k : Nat) (f : Slice → Slice) : (s.updSl k f).qpend = s.qpend := rfl
@[simp] theorem State.updSl_pfw (s : State) (k : Nat) (f : Slice → Slice) : (s.updSl k f).pfw = s.pfw := rfl
@[simp] theorem State.updSl_life (s : State) (k : Nat) (f : Slice → Slice) : (s.updSl k f).life = s.life := rfl
@[simp] theorem State.updSl_safeReq (s : State) (k : Nat) (f : Slice → Slice) : (s.updSl k f).safeReq = s.safeReq := rfl
@[simp] theorem State.updSl_tamper (s : State) (k : Nat) (f : Slice → Slice) : (s.updSl k f).tamper = s.tamper := rfl
@[simp] theorem State.updSl_vddLow (s : State) (k : Nat) (f : Slice → Slice) : (s.updSl k f).vddLow = s.vddLow := rfl
@[simp] theorem State.updSl_winbase (s : State) (k : Nat) (f : Slice → Slice) : (s.updSl k f).winbase = s.winbase := rfl
@[simp] theorem State.updSl_linkUp (s : State) (k : Nat) (f : Slice → Slice) : (s.updSl k f).linkUp = s.linkUp := rfl
@[simp] theorem State.updSl_linkDown (s : State) (k : Nat) (f : Slice → Slice) : (s.updSl k f).linkDown = s.linkDown := rfl
@[simp] theorem State.updSl_linkLost (s : State) (k : Nat) (f : Slice → Slice) : (s.updSl k f).linkLost = s.linkLost := rfl
@[simp] theorem State.updSl_heatFen (s : State) (k : Nat) (f : Slice → Slice) : (s.updSl k f).heatFen = s.heatFen := rfl
@[simp] theorem State.updSl_mstate (s : State) (k : Nat) (f : Slice → Slice) : (s.updSl k f).mstate = s.mstate := rfl
@[simp] theorem State.updSl_gateRun (s : State) (k : Nat) (f : Slice → Slice) : (s.updSl k f).gateRun = s.gateRun := rfl
@[simp] theorem State.updSl_regs (s : State) (k : Nat) (f : Slice → Slice) : (s.updSl k f).regs = s.regs := rfl
@[simp] theorem State.updSl_lohold (s : State) (k : Nat) (f : Slice → Slice) : (s.updSl k f).lohold = s.lohold := rfl
@[simp] theorem State.updSl_latch (s : State) (k : Nat) (f : Slice → Slice) : (s.updSl k f).latch = s.latch := rfl
@[simp] theorem State.updSl_runners (s : State) (k : Nat) (f : Slice → Slice) : (s.updSl k f).runners = s.runners := rfl
@[simp] theorem State.updSl_arbRun (s : State) (k : Nat) (f : Slice → Slice) : (s.updSl k f).arbRun = s.arbRun := rfl
@[simp] theorem State.updSl_spads (s : State) (k : Nat) (f : Slice → Slice) : (s.updSl k f).spads = s.spads := rfl
@[simp] theorem State.updSl_arbMem (s : State) (k : Nat) (f : Slice → Slice) : (s.updSl k f).arbMem = s.arbMem := rfl
@[simp] theorem State.updSl_memUp (s : State) (k : Nat) (f : Slice → Slice) : (s.updSl k f).memUp = s.memUp := rfl
@[simp] theorem State.updSl_caches (s : State) (k : Nat) (f : Slice → Slice) : (s.updSl k f).caches = s.caches := rfl
@[simp] theorem State.updSl_cwords (s : State) (k : Nat) (f : Slice → Slice) : (s.updSl k f).cwords = s.cwords := rfl
@[simp] theorem State.updSl_cstores (s : State) (k : Nat) (f : Slice → Slice) : (s.updSl k f).cstores = s.cstores := rfl
@[simp] theorem State.updSl_img (s : State) (k : Nat) (f : Slice → Slice) : (s.updSl k f).img = s.img := rfl
@[simp] theorem State.updSl_rings (s : State) (k : Nat) (f : Slice → Slice) : (s.updSl k f).rings = s.rings := rfl
@[simp] theorem State.updSl_queues (s : State) (k : Nat) (f : Slice → Slice) : (s.updSl k f).queues = s.queues := rfl
@[simp] theorem State.updSl_credit (s : State) (k : Nat) (f : Slice → Slice) : (s.updSl k f).credit = s.credit := rfl
@[simp] theorem State.updSl_qptr (s : State) (k : Nat) (f : Slice → Slice) : (s.updSl k f).qptr = s.qptr := rfl
@[simp] theorem State.updSl_rent (s : State) (k : Nat) (f : Slice → Slice) : (s.updSl k f).rent = s.rent := rfl
@[simp] theorem State.updSl_arb (s : State) (k : Nat) (f : Slice → Slice) : (s.updSl k f).arb = s.arb := rfl
@[simp] theorem State.updSl_hq (s : State) (k : Nat) (f : Slice → Slice) : (s.updSl k f).hq = s.hq := rfl
@[simp] theorem State.updSl_hlast (s : State) (k : Nat) (f : Slice → Slice) : (s.updSl k f).hlast = s.hlast := rfl
@[simp] theorem State.updSl_ports (s : State) (k : Nat) (f : Slice → Slice) : (s.updSl k f).ports = s.ports := rfl
@[simp] theorem State.updSl_jobs (s : State) (k : Nat) (f : Slice → Slice) : (s.updSl k f).jobs = s.jobs := rfl
@[simp] theorem State.updSl_carLast (s : State) (k : Nat) (f : Slice → Slice) : (s.updSl k f).carLast = s.carLast := rfl
@[simp] theorem State.updSl_carFen (s : State) (k : Nat) (f : Slice → Slice) : (s.updSl k f).carFen = s.carFen := rfl
@[simp] theorem State.updSl_pacers (s : State) (k : Nat) (f : Slice → Slice) : (s.updSl k f).pacers = s.pacers := rfl
@[simp] theorem State.updSl_pins (s : State) (k : Nat) (f : Slice → Slice) : (s.updSl k f).pins = s.pins := rfl
@[simp] theorem State.updSl_perst (s : State) (k : Nat) (f : Slice → Slice) : (s.updSl k f).perst = s.perst := rfl
@[simp] theorem State.updSl_ref (s : State) (k : Nat) (f : Slice → Slice) : (s.updSl k f).ref = s.ref := rfl
@[simp] theorem State.updSl_scs (s : State) (k : Nat) (f : Slice → Slice) : (s.updSl k f).scs = s.scs := rfl
@[simp] theorem State.updSl_out (s : State) (k : Nat) (f : Slice → Slice) : (s.updSl k f).out = s.out := rfl
@[simp] theorem State.updSl_pending (s : State) (k : Nat) (f : Slice → Slice) : (s.updSl k f).pending = s.pending := rfl

@[simp] theorem State.updUp_fuses (s : State) (k : Nat) (f : MemUp → MemUp) : (s.updUp k f).fuses = s.fuses := rfl
@[simp] theorem State.updUp_lap (s : State) (k : Nat) (f : MemUp → MemUp) : (s.updUp k f).lap = s.lap := rfl
@[simp] theorem State.updUp_clkS (s : State) (k : Nat) (f : MemUp → MemUp) : (s.updUp k f).clkS = s.clkS := rfl
@[simp] theorem State.updUp_fresh (s : State) (k : Nat) (f : MemUp → MemUp) : (s.updUp k f).fresh = s.fresh := rfl
@[simp] theorem State.updUp_mode (s : State) (k : Nat) (f : MemUp → MemUp) : (s.updUp k f).mode = s.mode := rfl
@[simp] theorem State.updUp_prevMode (s : State) (k : Nat) (f : MemUp → MemUp) : (s.updUp k f).prevMode = s.prevMode := rfl
@[simp] theorem State.updUp_hwdone (s : State) (k : Nat) (f : MemUp → MemUp) : (s.updUp k f).hwdone = s.hwdone := rfl
@[simp] theorem State.updUp_cstep (s : State) (k : Nat) (f : MemUp → MemUp) : (s.updUp k f).cstep = s.cstep := rfl
@[simp] theorem State.updUp_qpend (s : State) (k : Nat) (f : MemUp → MemUp) : (s.updUp k f).qpend = s.qpend := rfl
@[simp] theorem State.updUp_pfw (s : State) (k : Nat) (f : MemUp → MemUp) : (s.updUp k f).pfw = s.pfw := rfl
@[simp] theorem State.updUp_life (s : State) (k : Nat) (f : MemUp → MemUp) : (s.updUp k f).life = s.life := rfl
@[simp] theorem State.updUp_safeReq (s : State) (k : Nat) (f : MemUp → MemUp) : (s.updUp k f).safeReq = s.safeReq := rfl
@[simp] theorem State.updUp_tamper (s : State) (k : Nat) (f : MemUp → MemUp) : (s.updUp k f).tamper = s.tamper := rfl
@[simp] theorem State.updUp_vddLow (s : State) (k : Nat) (f : MemUp → MemUp) : (s.updUp k f).vddLow = s.vddLow := rfl
@[simp] theorem State.updUp_winbase (s : State) (k : Nat) (f : MemUp → MemUp) : (s.updUp k f).winbase = s.winbase := rfl
@[simp] theorem State.updUp_linkUp (s : State) (k : Nat) (f : MemUp → MemUp) : (s.updUp k f).linkUp = s.linkUp := rfl
@[simp] theorem State.updUp_linkDown (s : State) (k : Nat) (f : MemUp → MemUp) : (s.updUp k f).linkDown = s.linkDown := rfl
@[simp] theorem State.updUp_linkLost (s : State) (k : Nat) (f : MemUp → MemUp) : (s.updUp k f).linkLost = s.linkLost := rfl
@[simp] theorem State.updUp_heatFen (s : State) (k : Nat) (f : MemUp → MemUp) : (s.updUp k f).heatFen = s.heatFen := rfl
@[simp] theorem State.updUp_mstate (s : State) (k : Nat) (f : MemUp → MemUp) : (s.updUp k f).mstate = s.mstate := rfl
@[simp] theorem State.updUp_gateRun (s : State) (k : Nat) (f : MemUp → MemUp) : (s.updUp k f).gateRun = s.gateRun := rfl
@[simp] theorem State.updUp_regs (s : State) (k : Nat) (f : MemUp → MemUp) : (s.updUp k f).regs = s.regs := rfl
@[simp] theorem State.updUp_lohold (s : State) (k : Nat) (f : MemUp → MemUp) : (s.updUp k f).lohold = s.lohold := rfl
@[simp] theorem State.updUp_latch (s : State) (k : Nat) (f : MemUp → MemUp) : (s.updUp k f).latch = s.latch := rfl
@[simp] theorem State.updUp_runners (s : State) (k : Nat) (f : MemUp → MemUp) : (s.updUp k f).runners = s.runners := rfl
@[simp] theorem State.updUp_arbRun (s : State) (k : Nat) (f : MemUp → MemUp) : (s.updUp k f).arbRun = s.arbRun := rfl
@[simp] theorem State.updUp_slices (s : State) (k : Nat) (f : MemUp → MemUp) : (s.updUp k f).slices = s.slices := rfl
@[simp] theorem State.updUp_spads (s : State) (k : Nat) (f : MemUp → MemUp) : (s.updUp k f).spads = s.spads := rfl
@[simp] theorem State.updUp_arbMem (s : State) (k : Nat) (f : MemUp → MemUp) : (s.updUp k f).arbMem = s.arbMem := rfl
@[simp] theorem State.updUp_caches (s : State) (k : Nat) (f : MemUp → MemUp) : (s.updUp k f).caches = s.caches := rfl
@[simp] theorem State.updUp_cwords (s : State) (k : Nat) (f : MemUp → MemUp) : (s.updUp k f).cwords = s.cwords := rfl
@[simp] theorem State.updUp_cstores (s : State) (k : Nat) (f : MemUp → MemUp) : (s.updUp k f).cstores = s.cstores := rfl
@[simp] theorem State.updUp_img (s : State) (k : Nat) (f : MemUp → MemUp) : (s.updUp k f).img = s.img := rfl
@[simp] theorem State.updUp_rings (s : State) (k : Nat) (f : MemUp → MemUp) : (s.updUp k f).rings = s.rings := rfl
@[simp] theorem State.updUp_queues (s : State) (k : Nat) (f : MemUp → MemUp) : (s.updUp k f).queues = s.queues := rfl
@[simp] theorem State.updUp_credit (s : State) (k : Nat) (f : MemUp → MemUp) : (s.updUp k f).credit = s.credit := rfl
@[simp] theorem State.updUp_qptr (s : State) (k : Nat) (f : MemUp → MemUp) : (s.updUp k f).qptr = s.qptr := rfl
@[simp] theorem State.updUp_rent (s : State) (k : Nat) (f : MemUp → MemUp) : (s.updUp k f).rent = s.rent := rfl
@[simp] theorem State.updUp_arb (s : State) (k : Nat) (f : MemUp → MemUp) : (s.updUp k f).arb = s.arb := rfl
@[simp] theorem State.updUp_hq (s : State) (k : Nat) (f : MemUp → MemUp) : (s.updUp k f).hq = s.hq := rfl
@[simp] theorem State.updUp_hlast (s : State) (k : Nat) (f : MemUp → MemUp) : (s.updUp k f).hlast = s.hlast := rfl
@[simp] theorem State.updUp_ports (s : State) (k : Nat) (f : MemUp → MemUp) : (s.updUp k f).ports = s.ports := rfl
@[simp] theorem State.updUp_jobs (s : State) (k : Nat) (f : MemUp → MemUp) : (s.updUp k f).jobs = s.jobs := rfl
@[simp] theorem State.updUp_carLast (s : State) (k : Nat) (f : MemUp → MemUp) : (s.updUp k f).carLast = s.carLast := rfl
@[simp] theorem State.updUp_carFen (s : State) (k : Nat) (f : MemUp → MemUp) : (s.updUp k f).carFen = s.carFen := rfl
@[simp] theorem State.updUp_pacers (s : State) (k : Nat) (f : MemUp → MemUp) : (s.updUp k f).pacers = s.pacers := rfl
@[simp] theorem State.updUp_pins (s : State) (k : Nat) (f : MemUp → MemUp) : (s.updUp k f).pins = s.pins := rfl
@[simp] theorem State.updUp_perst (s : State) (k : Nat) (f : MemUp → MemUp) : (s.updUp k f).perst = s.perst := rfl
@[simp] theorem State.updUp_ref (s : State) (k : Nat) (f : MemUp → MemUp) : (s.updUp k f).ref = s.ref := rfl
@[simp] theorem State.updUp_scs (s : State) (k : Nat) (f : MemUp → MemUp) : (s.updUp k f).scs = s.scs := rfl
@[simp] theorem State.updUp_out (s : State) (k : Nat) (f : MemUp → MemUp) : (s.updUp k f).out = s.out := rfl
@[simp] theorem State.updUp_pending (s : State) (k : Nat) (f : MemUp → MemUp) : (s.updUp k f).pending = s.pending := rfl

@[simp] theorem State.updCache_fuses (s : State) (k : Nat) (f : Cache → Cache) : (s.updCache k f).fuses = s.fuses := rfl
@[simp] theorem State.updCache_lap (s : State) (k : Nat) (f : Cache → Cache) : (s.updCache k f).lap = s.lap := rfl
@[simp] theorem State.updCache_clkS (s : State) (k : Nat) (f : Cache → Cache) : (s.updCache k f).clkS = s.clkS := rfl
@[simp] theorem State.updCache_fresh (s : State) (k : Nat) (f : Cache → Cache) : (s.updCache k f).fresh = s.fresh := rfl
@[simp] theorem State.updCache_mode (s : State) (k : Nat) (f : Cache → Cache) : (s.updCache k f).mode = s.mode := rfl
@[simp] theorem State.updCache_prevMode (s : State) (k : Nat) (f : Cache → Cache) : (s.updCache k f).prevMode = s.prevMode := rfl
@[simp] theorem State.updCache_hwdone (s : State) (k : Nat) (f : Cache → Cache) : (s.updCache k f).hwdone = s.hwdone := rfl
@[simp] theorem State.updCache_cstep (s : State) (k : Nat) (f : Cache → Cache) : (s.updCache k f).cstep = s.cstep := rfl
@[simp] theorem State.updCache_qpend (s : State) (k : Nat) (f : Cache → Cache) : (s.updCache k f).qpend = s.qpend := rfl
@[simp] theorem State.updCache_pfw (s : State) (k : Nat) (f : Cache → Cache) : (s.updCache k f).pfw = s.pfw := rfl
@[simp] theorem State.updCache_life (s : State) (k : Nat) (f : Cache → Cache) : (s.updCache k f).life = s.life := rfl
@[simp] theorem State.updCache_safeReq (s : State) (k : Nat) (f : Cache → Cache) : (s.updCache k f).safeReq = s.safeReq := rfl
@[simp] theorem State.updCache_tamper (s : State) (k : Nat) (f : Cache → Cache) : (s.updCache k f).tamper = s.tamper := rfl
@[simp] theorem State.updCache_vddLow (s : State) (k : Nat) (f : Cache → Cache) : (s.updCache k f).vddLow = s.vddLow := rfl
@[simp] theorem State.updCache_winbase (s : State) (k : Nat) (f : Cache → Cache) : (s.updCache k f).winbase = s.winbase := rfl
@[simp] theorem State.updCache_linkUp (s : State) (k : Nat) (f : Cache → Cache) : (s.updCache k f).linkUp = s.linkUp := rfl
@[simp] theorem State.updCache_linkDown (s : State) (k : Nat) (f : Cache → Cache) : (s.updCache k f).linkDown = s.linkDown := rfl
@[simp] theorem State.updCache_linkLost (s : State) (k : Nat) (f : Cache → Cache) : (s.updCache k f).linkLost = s.linkLost := rfl
@[simp] theorem State.updCache_heatFen (s : State) (k : Nat) (f : Cache → Cache) : (s.updCache k f).heatFen = s.heatFen := rfl
@[simp] theorem State.updCache_mstate (s : State) (k : Nat) (f : Cache → Cache) : (s.updCache k f).mstate = s.mstate := rfl
@[simp] theorem State.updCache_gateRun (s : State) (k : Nat) (f : Cache → Cache) : (s.updCache k f).gateRun = s.gateRun := rfl
@[simp] theorem State.updCache_regs (s : State) (k : Nat) (f : Cache → Cache) : (s.updCache k f).regs = s.regs := rfl
@[simp] theorem State.updCache_lohold (s : State) (k : Nat) (f : Cache → Cache) : (s.updCache k f).lohold = s.lohold := rfl
@[simp] theorem State.updCache_latch (s : State) (k : Nat) (f : Cache → Cache) : (s.updCache k f).latch = s.latch := rfl
@[simp] theorem State.updCache_runners (s : State) (k : Nat) (f : Cache → Cache) : (s.updCache k f).runners = s.runners := rfl
@[simp] theorem State.updCache_arbRun (s : State) (k : Nat) (f : Cache → Cache) : (s.updCache k f).arbRun = s.arbRun := rfl
@[simp] theorem State.updCache_slices (s : State) (k : Nat) (f : Cache → Cache) : (s.updCache k f).slices = s.slices := rfl
@[simp] theorem State.updCache_spads (s : State) (k : Nat) (f : Cache → Cache) : (s.updCache k f).spads = s.spads := rfl
@[simp] theorem State.updCache_arbMem (s : State) (k : Nat) (f : Cache → Cache) : (s.updCache k f).arbMem = s.arbMem := rfl
@[simp] theorem State.updCache_memUp (s : State) (k : Nat) (f : Cache → Cache) : (s.updCache k f).memUp = s.memUp := rfl
@[simp] theorem State.updCache_cwords (s : State) (k : Nat) (f : Cache → Cache) : (s.updCache k f).cwords = s.cwords := rfl
@[simp] theorem State.updCache_cstores (s : State) (k : Nat) (f : Cache → Cache) : (s.updCache k f).cstores = s.cstores := rfl
@[simp] theorem State.updCache_img (s : State) (k : Nat) (f : Cache → Cache) : (s.updCache k f).img = s.img := rfl
@[simp] theorem State.updCache_rings (s : State) (k : Nat) (f : Cache → Cache) : (s.updCache k f).rings = s.rings := rfl
@[simp] theorem State.updCache_queues (s : State) (k : Nat) (f : Cache → Cache) : (s.updCache k f).queues = s.queues := rfl
@[simp] theorem State.updCache_credit (s : State) (k : Nat) (f : Cache → Cache) : (s.updCache k f).credit = s.credit := rfl
@[simp] theorem State.updCache_qptr (s : State) (k : Nat) (f : Cache → Cache) : (s.updCache k f).qptr = s.qptr := rfl
@[simp] theorem State.updCache_rent (s : State) (k : Nat) (f : Cache → Cache) : (s.updCache k f).rent = s.rent := rfl
@[simp] theorem State.updCache_arb (s : State) (k : Nat) (f : Cache → Cache) : (s.updCache k f).arb = s.arb := rfl
@[simp] theorem State.updCache_hq (s : State) (k : Nat) (f : Cache → Cache) : (s.updCache k f).hq = s.hq := rfl
@[simp] theorem State.updCache_hlast (s : State) (k : Nat) (f : Cache → Cache) : (s.updCache k f).hlast = s.hlast := rfl
@[simp] theorem State.updCache_ports (s : State) (k : Nat) (f : Cache → Cache) : (s.updCache k f).ports = s.ports := rfl
@[simp] theorem State.updCache_jobs (s : State) (k : Nat) (f : Cache → Cache) : (s.updCache k f).jobs = s.jobs := rfl
@[simp] theorem State.updCache_carLast (s : State) (k : Nat) (f : Cache → Cache) : (s.updCache k f).carLast = s.carLast := rfl
@[simp] theorem State.updCache_carFen (s : State) (k : Nat) (f : Cache → Cache) : (s.updCache k f).carFen = s.carFen := rfl
@[simp] theorem State.updCache_pacers (s : State) (k : Nat) (f : Cache → Cache) : (s.updCache k f).pacers = s.pacers := rfl
@[simp] theorem State.updCache_pins (s : State) (k : Nat) (f : Cache → Cache) : (s.updCache k f).pins = s.pins := rfl
@[simp] theorem State.updCache_perst (s : State) (k : Nat) (f : Cache → Cache) : (s.updCache k f).perst = s.perst := rfl
@[simp] theorem State.updCache_ref (s : State) (k : Nat) (f : Cache → Cache) : (s.updCache k f).ref = s.ref := rfl
@[simp] theorem State.updCache_scs (s : State) (k : Nat) (f : Cache → Cache) : (s.updCache k f).scs = s.scs := rfl
@[simp] theorem State.updCache_out (s : State) (k : Nat) (f : Cache → Cache) : (s.updCache k f).out = s.out := rfl
@[simp] theorem State.updCache_pending (s : State) (k : Nat) (f : Cache → Cache) : (s.updCache k f).pending = s.pending := rfl

@[simp] theorem State.updRing_fuses (s : State) (k : Nat) (f : Ring → Ring) : (s.updRing k f).fuses = s.fuses := rfl
@[simp] theorem State.updRing_lap (s : State) (k : Nat) (f : Ring → Ring) : (s.updRing k f).lap = s.lap := rfl
@[simp] theorem State.updRing_clkS (s : State) (k : Nat) (f : Ring → Ring) : (s.updRing k f).clkS = s.clkS := rfl
@[simp] theorem State.updRing_fresh (s : State) (k : Nat) (f : Ring → Ring) : (s.updRing k f).fresh = s.fresh := rfl
@[simp] theorem State.updRing_mode (s : State) (k : Nat) (f : Ring → Ring) : (s.updRing k f).mode = s.mode := rfl
@[simp] theorem State.updRing_prevMode (s : State) (k : Nat) (f : Ring → Ring) : (s.updRing k f).prevMode = s.prevMode := rfl
@[simp] theorem State.updRing_hwdone (s : State) (k : Nat) (f : Ring → Ring) : (s.updRing k f).hwdone = s.hwdone := rfl
@[simp] theorem State.updRing_cstep (s : State) (k : Nat) (f : Ring → Ring) : (s.updRing k f).cstep = s.cstep := rfl
@[simp] theorem State.updRing_qpend (s : State) (k : Nat) (f : Ring → Ring) : (s.updRing k f).qpend = s.qpend := rfl
@[simp] theorem State.updRing_pfw (s : State) (k : Nat) (f : Ring → Ring) : (s.updRing k f).pfw = s.pfw := rfl
@[simp] theorem State.updRing_life (s : State) (k : Nat) (f : Ring → Ring) : (s.updRing k f).life = s.life := rfl
@[simp] theorem State.updRing_safeReq (s : State) (k : Nat) (f : Ring → Ring) : (s.updRing k f).safeReq = s.safeReq := rfl
@[simp] theorem State.updRing_tamper (s : State) (k : Nat) (f : Ring → Ring) : (s.updRing k f).tamper = s.tamper := rfl
@[simp] theorem State.updRing_vddLow (s : State) (k : Nat) (f : Ring → Ring) : (s.updRing k f).vddLow = s.vddLow := rfl
@[simp] theorem State.updRing_winbase (s : State) (k : Nat) (f : Ring → Ring) : (s.updRing k f).winbase = s.winbase := rfl
@[simp] theorem State.updRing_linkUp (s : State) (k : Nat) (f : Ring → Ring) : (s.updRing k f).linkUp = s.linkUp := rfl
@[simp] theorem State.updRing_linkDown (s : State) (k : Nat) (f : Ring → Ring) : (s.updRing k f).linkDown = s.linkDown := rfl
@[simp] theorem State.updRing_linkLost (s : State) (k : Nat) (f : Ring → Ring) : (s.updRing k f).linkLost = s.linkLost := rfl
@[simp] theorem State.updRing_heatFen (s : State) (k : Nat) (f : Ring → Ring) : (s.updRing k f).heatFen = s.heatFen := rfl
@[simp] theorem State.updRing_mstate (s : State) (k : Nat) (f : Ring → Ring) : (s.updRing k f).mstate = s.mstate := rfl
@[simp] theorem State.updRing_gateRun (s : State) (k : Nat) (f : Ring → Ring) : (s.updRing k f).gateRun = s.gateRun := rfl
@[simp] theorem State.updRing_regs (s : State) (k : Nat) (f : Ring → Ring) : (s.updRing k f).regs = s.regs := rfl
@[simp] theorem State.updRing_lohold (s : State) (k : Nat) (f : Ring → Ring) : (s.updRing k f).lohold = s.lohold := rfl
@[simp] theorem State.updRing_latch (s : State) (k : Nat) (f : Ring → Ring) : (s.updRing k f).latch = s.latch := rfl
@[simp] theorem State.updRing_runners (s : State) (k : Nat) (f : Ring → Ring) : (s.updRing k f).runners = s.runners := rfl
@[simp] theorem State.updRing_arbRun (s : State) (k : Nat) (f : Ring → Ring) : (s.updRing k f).arbRun = s.arbRun := rfl
@[simp] theorem State.updRing_slices (s : State) (k : Nat) (f : Ring → Ring) : (s.updRing k f).slices = s.slices := rfl
@[simp] theorem State.updRing_spads (s : State) (k : Nat) (f : Ring → Ring) : (s.updRing k f).spads = s.spads := rfl
@[simp] theorem State.updRing_arbMem (s : State) (k : Nat) (f : Ring → Ring) : (s.updRing k f).arbMem = s.arbMem := rfl
@[simp] theorem State.updRing_memUp (s : State) (k : Nat) (f : Ring → Ring) : (s.updRing k f).memUp = s.memUp := rfl
@[simp] theorem State.updRing_caches (s : State) (k : Nat) (f : Ring → Ring) : (s.updRing k f).caches = s.caches := rfl
@[simp] theorem State.updRing_cwords (s : State) (k : Nat) (f : Ring → Ring) : (s.updRing k f).cwords = s.cwords := rfl
@[simp] theorem State.updRing_cstores (s : State) (k : Nat) (f : Ring → Ring) : (s.updRing k f).cstores = s.cstores := rfl
@[simp] theorem State.updRing_img (s : State) (k : Nat) (f : Ring → Ring) : (s.updRing k f).img = s.img := rfl
@[simp] theorem State.updRing_queues (s : State) (k : Nat) (f : Ring → Ring) : (s.updRing k f).queues = s.queues := rfl
@[simp] theorem State.updRing_credit (s : State) (k : Nat) (f : Ring → Ring) : (s.updRing k f).credit = s.credit := rfl
@[simp] theorem State.updRing_qptr (s : State) (k : Nat) (f : Ring → Ring) : (s.updRing k f).qptr = s.qptr := rfl
@[simp] theorem State.updRing_rent (s : State) (k : Nat) (f : Ring → Ring) : (s.updRing k f).rent = s.rent := rfl
@[simp] theorem State.updRing_arb (s : State) (k : Nat) (f : Ring → Ring) : (s.updRing k f).arb = s.arb := rfl
@[simp] theorem State.updRing_hq (s : State) (k : Nat) (f : Ring → Ring) : (s.updRing k f).hq = s.hq := rfl
@[simp] theorem State.updRing_hlast (s : State) (k : Nat) (f : Ring → Ring) : (s.updRing k f).hlast = s.hlast := rfl
@[simp] theorem State.updRing_ports (s : State) (k : Nat) (f : Ring → Ring) : (s.updRing k f).ports = s.ports := rfl
@[simp] theorem State.updRing_jobs (s : State) (k : Nat) (f : Ring → Ring) : (s.updRing k f).jobs = s.jobs := rfl
@[simp] theorem State.updRing_carLast (s : State) (k : Nat) (f : Ring → Ring) : (s.updRing k f).carLast = s.carLast := rfl
@[simp] theorem State.updRing_carFen (s : State) (k : Nat) (f : Ring → Ring) : (s.updRing k f).carFen = s.carFen := rfl
@[simp] theorem State.updRing_pacers (s : State) (k : Nat) (f : Ring → Ring) : (s.updRing k f).pacers = s.pacers := rfl
@[simp] theorem State.updRing_pins (s : State) (k : Nat) (f : Ring → Ring) : (s.updRing k f).pins = s.pins := rfl
@[simp] theorem State.updRing_perst (s : State) (k : Nat) (f : Ring → Ring) : (s.updRing k f).perst = s.perst := rfl
@[simp] theorem State.updRing_ref (s : State) (k : Nat) (f : Ring → Ring) : (s.updRing k f).ref = s.ref := rfl
@[simp] theorem State.updRing_scs (s : State) (k : Nat) (f : Ring → Ring) : (s.updRing k f).scs = s.scs := rfl
@[simp] theorem State.updRing_out (s : State) (k : Nat) (f : Ring → Ring) : (s.updRing k f).out = s.out := rfl
@[simp] theorem State.updRing_pending (s : State) (k : Nat) (f : Ring → Ring) : (s.updRing k f).pending = s.pending := rfl

@[simp] theorem State.updPort_fuses (s : State) (k : Nat) (f : Port → Port) : (s.updPort k f).fuses = s.fuses := rfl
@[simp] theorem State.updPort_lap (s : State) (k : Nat) (f : Port → Port) : (s.updPort k f).lap = s.lap := rfl
@[simp] theorem State.updPort_clkS (s : State) (k : Nat) (f : Port → Port) : (s.updPort k f).clkS = s.clkS := rfl
@[simp] theorem State.updPort_fresh (s : State) (k : Nat) (f : Port → Port) : (s.updPort k f).fresh = s.fresh := rfl
@[simp] theorem State.updPort_mode (s : State) (k : Nat) (f : Port → Port) : (s.updPort k f).mode = s.mode := rfl
@[simp] theorem State.updPort_prevMode (s : State) (k : Nat) (f : Port → Port) : (s.updPort k f).prevMode = s.prevMode := rfl
@[simp] theorem State.updPort_hwdone (s : State) (k : Nat) (f : Port → Port) : (s.updPort k f).hwdone = s.hwdone := rfl
@[simp] theorem State.updPort_cstep (s : State) (k : Nat) (f : Port → Port) : (s.updPort k f).cstep = s.cstep := rfl
@[simp] theorem State.updPort_qpend (s : State) (k : Nat) (f : Port → Port) : (s.updPort k f).qpend = s.qpend := rfl
@[simp] theorem State.updPort_pfw (s : State) (k : Nat) (f : Port → Port) : (s.updPort k f).pfw = s.pfw := rfl
@[simp] theorem State.updPort_life (s : State) (k : Nat) (f : Port → Port) : (s.updPort k f).life = s.life := rfl
@[simp] theorem State.updPort_safeReq (s : State) (k : Nat) (f : Port → Port) : (s.updPort k f).safeReq = s.safeReq := rfl
@[simp] theorem State.updPort_tamper (s : State) (k : Nat) (f : Port → Port) : (s.updPort k f).tamper = s.tamper := rfl
@[simp] theorem State.updPort_vddLow (s : State) (k : Nat) (f : Port → Port) : (s.updPort k f).vddLow = s.vddLow := rfl
@[simp] theorem State.updPort_winbase (s : State) (k : Nat) (f : Port → Port) : (s.updPort k f).winbase = s.winbase := rfl
@[simp] theorem State.updPort_linkUp (s : State) (k : Nat) (f : Port → Port) : (s.updPort k f).linkUp = s.linkUp := rfl
@[simp] theorem State.updPort_linkDown (s : State) (k : Nat) (f : Port → Port) : (s.updPort k f).linkDown = s.linkDown := rfl
@[simp] theorem State.updPort_linkLost (s : State) (k : Nat) (f : Port → Port) : (s.updPort k f).linkLost = s.linkLost := rfl
@[simp] theorem State.updPort_heatFen (s : State) (k : Nat) (f : Port → Port) : (s.updPort k f).heatFen = s.heatFen := rfl
@[simp] theorem State.updPort_mstate (s : State) (k : Nat) (f : Port → Port) : (s.updPort k f).mstate = s.mstate := rfl
@[simp] theorem State.updPort_gateRun (s : State) (k : Nat) (f : Port → Port) : (s.updPort k f).gateRun = s.gateRun := rfl
@[simp] theorem State.updPort_regs (s : State) (k : Nat) (f : Port → Port) : (s.updPort k f).regs = s.regs := rfl
@[simp] theorem State.updPort_lohold (s : State) (k : Nat) (f : Port → Port) : (s.updPort k f).lohold = s.lohold := rfl
@[simp] theorem State.updPort_latch (s : State) (k : Nat) (f : Port → Port) : (s.updPort k f).latch = s.latch := rfl
@[simp] theorem State.updPort_runners (s : State) (k : Nat) (f : Port → Port) : (s.updPort k f).runners = s.runners := rfl
@[simp] theorem State.updPort_arbRun (s : State) (k : Nat) (f : Port → Port) : (s.updPort k f).arbRun = s.arbRun := rfl
@[simp] theorem State.updPort_slices (s : State) (k : Nat) (f : Port → Port) : (s.updPort k f).slices = s.slices := rfl
@[simp] theorem State.updPort_spads (s : State) (k : Nat) (f : Port → Port) : (s.updPort k f).spads = s.spads := rfl
@[simp] theorem State.updPort_arbMem (s : State) (k : Nat) (f : Port → Port) : (s.updPort k f).arbMem = s.arbMem := rfl
@[simp] theorem State.updPort_memUp (s : State) (k : Nat) (f : Port → Port) : (s.updPort k f).memUp = s.memUp := rfl
@[simp] theorem State.updPort_caches (s : State) (k : Nat) (f : Port → Port) : (s.updPort k f).caches = s.caches := rfl
@[simp] theorem State.updPort_cwords (s : State) (k : Nat) (f : Port → Port) : (s.updPort k f).cwords = s.cwords := rfl
@[simp] theorem State.updPort_cstores (s : State) (k : Nat) (f : Port → Port) : (s.updPort k f).cstores = s.cstores := rfl
@[simp] theorem State.updPort_img (s : State) (k : Nat) (f : Port → Port) : (s.updPort k f).img = s.img := rfl
@[simp] theorem State.updPort_rings (s : State) (k : Nat) (f : Port → Port) : (s.updPort k f).rings = s.rings := rfl
@[simp] theorem State.updPort_queues (s : State) (k : Nat) (f : Port → Port) : (s.updPort k f).queues = s.queues := rfl
@[simp] theorem State.updPort_credit (s : State) (k : Nat) (f : Port → Port) : (s.updPort k f).credit = s.credit := rfl
@[simp] theorem State.updPort_qptr (s : State) (k : Nat) (f : Port → Port) : (s.updPort k f).qptr = s.qptr := rfl
@[simp] theorem State.updPort_rent (s : State) (k : Nat) (f : Port → Port) : (s.updPort k f).rent = s.rent := rfl
@[simp] theorem State.updPort_arb (s : State) (k : Nat) (f : Port → Port) : (s.updPort k f).arb = s.arb := rfl
@[simp] theorem State.updPort_hq (s : State) (k : Nat) (f : Port → Port) : (s.updPort k f).hq = s.hq := rfl
@[simp] theorem State.updPort_hlast (s : State) (k : Nat) (f : Port → Port) : (s.updPort k f).hlast = s.hlast := rfl
@[simp] theorem State.updPort_jobs (s : State) (k : Nat) (f : Port → Port) : (s.updPort k f).jobs = s.jobs := rfl
@[simp] theorem State.updPort_carLast (s : State) (k : Nat) (f : Port → Port) : (s.updPort k f).carLast = s.carLast := rfl
@[simp] theorem State.updPort_carFen (s : State) (k : Nat) (f : Port → Port) : (s.updPort k f).carFen = s.carFen := rfl
@[simp] theorem State.updPort_pacers (s : State) (k : Nat) (f : Port → Port) : (s.updPort k f).pacers = s.pacers := rfl
@[simp] theorem State.updPort_pins (s : State) (k : Nat) (f : Port → Port) : (s.updPort k f).pins = s.pins := rfl
@[simp] theorem State.updPort_perst (s : State) (k : Nat) (f : Port → Port) : (s.updPort k f).perst = s.perst := rfl
@[simp] theorem State.updPort_ref (s : State) (k : Nat) (f : Port → Port) : (s.updPort k f).ref = s.ref := rfl
@[simp] theorem State.updPort_scs (s : State) (k : Nat) (f : Port → Port) : (s.updPort k f).scs = s.scs := rfl
@[simp] theorem State.updPort_out (s : State) (k : Nat) (f : Port → Port) : (s.updPort k f).out = s.out := rfl
@[simp] theorem State.updPort_pending (s : State) (k : Nat) (f : Port → Port) : (s.updPort k f).pending = s.pending := rfl

@[simp] theorem State.updJob_fuses (s : State) (k : Nat) (f : Job → Job) : (s.updJob k f).fuses = s.fuses := rfl
@[simp] theorem State.updJob_lap (s : State) (k : Nat) (f : Job → Job) : (s.updJob k f).lap = s.lap := rfl
@[simp] theorem State.updJob_clkS (s : State) (k : Nat) (f : Job → Job) : (s.updJob k f).clkS = s.clkS := rfl
@[simp] theorem State.updJob_fresh (s : State) (k : Nat) (f : Job → Job) : (s.updJob k f).fresh = s.fresh := rfl
@[simp] theorem State.updJob_mode (s : State) (k : Nat) (f : Job → Job) : (s.updJob k f).mode = s.mode := rfl
@[simp] theorem State.updJob_prevMode (s : State) (k : Nat) (f : Job → Job) : (s.updJob k f).prevMode = s.prevMode := rfl
@[simp] theorem State.updJob_hwdone (s : State) (k : Nat) (f : Job → Job) : (s.updJob k f).hwdone = s.hwdone := rfl
@[simp] theorem State.updJob_cstep (s : State) (k : Nat) (f : Job → Job) : (s.updJob k f).cstep = s.cstep := rfl
@[simp] theorem State.updJob_qpend (s : State) (k : Nat) (f : Job → Job) : (s.updJob k f).qpend = s.qpend := rfl
@[simp] theorem State.updJob_pfw (s : State) (k : Nat) (f : Job → Job) : (s.updJob k f).pfw = s.pfw := rfl
@[simp] theorem State.updJob_life (s : State) (k : Nat) (f : Job → Job) : (s.updJob k f).life = s.life := rfl
@[simp] theorem State.updJob_safeReq (s : State) (k : Nat) (f : Job → Job) : (s.updJob k f).safeReq = s.safeReq := rfl
@[simp] theorem State.updJob_tamper (s : State) (k : Nat) (f : Job → Job) : (s.updJob k f).tamper = s.tamper := rfl
@[simp] theorem State.updJob_vddLow (s : State) (k : Nat) (f : Job → Job) : (s.updJob k f).vddLow = s.vddLow := rfl
@[simp] theorem State.updJob_winbase (s : State) (k : Nat) (f : Job → Job) : (s.updJob k f).winbase = s.winbase := rfl
@[simp] theorem State.updJob_linkUp (s : State) (k : Nat) (f : Job → Job) : (s.updJob k f).linkUp = s.linkUp := rfl
@[simp] theorem State.updJob_linkDown (s : State) (k : Nat) (f : Job → Job) : (s.updJob k f).linkDown = s.linkDown := rfl
@[simp] theorem State.updJob_linkLost (s : State) (k : Nat) (f : Job → Job) : (s.updJob k f).linkLost = s.linkLost := rfl
@[simp] theorem State.updJob_heatFen (s : State) (k : Nat) (f : Job → Job) : (s.updJob k f).heatFen = s.heatFen := rfl
@[simp] theorem State.updJob_mstate (s : State) (k : Nat) (f : Job → Job) : (s.updJob k f).mstate = s.mstate := rfl
@[simp] theorem State.updJob_gateRun (s : State) (k : Nat) (f : Job → Job) : (s.updJob k f).gateRun = s.gateRun := rfl
@[simp] theorem State.updJob_regs (s : State) (k : Nat) (f : Job → Job) : (s.updJob k f).regs = s.regs := rfl
@[simp] theorem State.updJob_lohold (s : State) (k : Nat) (f : Job → Job) : (s.updJob k f).lohold = s.lohold := rfl
@[simp] theorem State.updJob_latch (s : State) (k : Nat) (f : Job → Job) : (s.updJob k f).latch = s.latch := rfl
@[simp] theorem State.updJob_runners (s : State) (k : Nat) (f : Job → Job) : (s.updJob k f).runners = s.runners := rfl
@[simp] theorem State.updJob_arbRun (s : State) (k : Nat) (f : Job → Job) : (s.updJob k f).arbRun = s.arbRun := rfl
@[simp] theorem State.updJob_slices (s : State) (k : Nat) (f : Job → Job) : (s.updJob k f).slices = s.slices := rfl
@[simp] theorem State.updJob_spads (s : State) (k : Nat) (f : Job → Job) : (s.updJob k f).spads = s.spads := rfl
@[simp] theorem State.updJob_arbMem (s : State) (k : Nat) (f : Job → Job) : (s.updJob k f).arbMem = s.arbMem := rfl
@[simp] theorem State.updJob_memUp (s : State) (k : Nat) (f : Job → Job) : (s.updJob k f).memUp = s.memUp := rfl
@[simp] theorem State.updJob_caches (s : State) (k : Nat) (f : Job → Job) : (s.updJob k f).caches = s.caches := rfl
@[simp] theorem State.updJob_cwords (s : State) (k : Nat) (f : Job → Job) : (s.updJob k f).cwords = s.cwords := rfl
@[simp] theorem State.updJob_cstores (s : State) (k : Nat) (f : Job → Job) : (s.updJob k f).cstores = s.cstores := rfl
@[simp] theorem State.updJob_img (s : State) (k : Nat) (f : Job → Job) : (s.updJob k f).img = s.img := rfl
@[simp] theorem State.updJob_rings (s : State) (k : Nat) (f : Job → Job) : (s.updJob k f).rings = s.rings := rfl
@[simp] theorem State.updJob_queues (s : State) (k : Nat) (f : Job → Job) : (s.updJob k f).queues = s.queues := rfl
@[simp] theorem State.updJob_credit (s : State) (k : Nat) (f : Job → Job) : (s.updJob k f).credit = s.credit := rfl
@[simp] theorem State.updJob_qptr (s : State) (k : Nat) (f : Job → Job) : (s.updJob k f).qptr = s.qptr := rfl
@[simp] theorem State.updJob_rent (s : State) (k : Nat) (f : Job → Job) : (s.updJob k f).rent = s.rent := rfl
@[simp] theorem State.updJob_arb (s : State) (k : Nat) (f : Job → Job) : (s.updJob k f).arb = s.arb := rfl
@[simp] theorem State.updJob_hq (s : State) (k : Nat) (f : Job → Job) : (s.updJob k f).hq = s.hq := rfl
@[simp] theorem State.updJob_hlast (s : State) (k : Nat) (f : Job → Job) : (s.updJob k f).hlast = s.hlast := rfl
@[simp] theorem State.updJob_ports (s : State) (k : Nat) (f : Job → Job) : (s.updJob k f).ports = s.ports := rfl
@[simp] theorem State.updJob_carLast (s : State) (k : Nat) (f : Job → Job) : (s.updJob k f).carLast = s.carLast := rfl
@[simp] theorem State.updJob_carFen (s : State) (k : Nat) (f : Job → Job) : (s.updJob k f).carFen = s.carFen := rfl
@[simp] theorem State.updJob_pacers (s : State) (k : Nat) (f : Job → Job) : (s.updJob k f).pacers = s.pacers := rfl
@[simp] theorem State.updJob_pins (s : State) (k : Nat) (f : Job → Job) : (s.updJob k f).pins = s.pins := rfl
@[simp] theorem State.updJob_perst (s : State) (k : Nat) (f : Job → Job) : (s.updJob k f).perst = s.perst := rfl
@[simp] theorem State.updJob_ref (s : State) (k : Nat) (f : Job → Job) : (s.updJob k f).ref = s.ref := rfl
@[simp] theorem State.updJob_scs (s : State) (k : Nat) (f : Job → Job) : (s.updJob k f).scs = s.scs := rfl
@[simp] theorem State.updJob_out (s : State) (k : Nat) (f : Job → Job) : (s.updJob k f).out = s.out := rfl
@[simp] theorem State.updJob_pending (s : State) (k : Nat) (f : Job → Job) : (s.updJob k f).pending = s.pending := rfl

@[simp] theorem State.updPacer_fuses (s : State) (k : Nat) (f : Pacer → Pacer) : (s.updPacer k f).fuses = s.fuses := rfl
@[simp] theorem State.updPacer_lap (s : State) (k : Nat) (f : Pacer → Pacer) : (s.updPacer k f).lap = s.lap := rfl
@[simp] theorem State.updPacer_clkS (s : State) (k : Nat) (f : Pacer → Pacer) : (s.updPacer k f).clkS = s.clkS := rfl
@[simp] theorem State.updPacer_fresh (s : State) (k : Nat) (f : Pacer → Pacer) : (s.updPacer k f).fresh = s.fresh := rfl
@[simp] theorem State.updPacer_mode (s : State) (k : Nat) (f : Pacer → Pacer) : (s.updPacer k f).mode = s.mode := rfl
@[simp] theorem State.updPacer_prevMode (s : State) (k : Nat) (f : Pacer → Pacer) : (s.updPacer k f).prevMode = s.prevMode := rfl
@[simp] theorem State.updPacer_hwdone (s : State) (k : Nat) (f : Pacer → Pacer) : (s.updPacer k f).hwdone = s.hwdone := rfl
@[simp] theorem State.updPacer_cstep (s : State) (k : Nat) (f : Pacer → Pacer) : (s.updPacer k f).cstep = s.cstep := rfl
@[simp] theorem State.updPacer_qpend (s : State) (k : Nat) (f : Pacer → Pacer) : (s.updPacer k f).qpend = s.qpend := rfl
@[simp] theorem State.updPacer_pfw (s : State) (k : Nat) (f : Pacer → Pacer) : (s.updPacer k f).pfw = s.pfw := rfl
@[simp] theorem State.updPacer_life (s : State) (k : Nat) (f : Pacer → Pacer) : (s.updPacer k f).life = s.life := rfl
@[simp] theorem State.updPacer_safeReq (s : State) (k : Nat) (f : Pacer → Pacer) : (s.updPacer k f).safeReq = s.safeReq := rfl
@[simp] theorem State.updPacer_tamper (s : State) (k : Nat) (f : Pacer → Pacer) : (s.updPacer k f).tamper = s.tamper := rfl
@[simp] theorem State.updPacer_vddLow (s : State) (k : Nat) (f : Pacer → Pacer) : (s.updPacer k f).vddLow = s.vddLow := rfl
@[simp] theorem State.updPacer_winbase (s : State) (k : Nat) (f : Pacer → Pacer) : (s.updPacer k f).winbase = s.winbase := rfl
@[simp] theorem State.updPacer_linkUp (s : State) (k : Nat) (f : Pacer → Pacer) : (s.updPacer k f).linkUp = s.linkUp := rfl
@[simp] theorem State.updPacer_linkDown (s : State) (k : Nat) (f : Pacer → Pacer) : (s.updPacer k f).linkDown = s.linkDown := rfl
@[simp] theorem State.updPacer_linkLost (s : State) (k : Nat) (f : Pacer → Pacer) : (s.updPacer k f).linkLost = s.linkLost := rfl
@[simp] theorem State.updPacer_heatFen (s : State) (k : Nat) (f : Pacer → Pacer) : (s.updPacer k f).heatFen = s.heatFen := rfl
@[simp] theorem State.updPacer_mstate (s : State) (k : Nat) (f : Pacer → Pacer) : (s.updPacer k f).mstate = s.mstate := rfl
@[simp] theorem State.updPacer_gateRun (s : State) (k : Nat) (f : Pacer → Pacer) : (s.updPacer k f).gateRun = s.gateRun := rfl
@[simp] theorem State.updPacer_regs (s : State) (k : Nat) (f : Pacer → Pacer) : (s.updPacer k f).regs = s.regs := rfl
@[simp] theorem State.updPacer_lohold (s : State) (k : Nat) (f : Pacer → Pacer) : (s.updPacer k f).lohold = s.lohold := rfl
@[simp] theorem State.updPacer_latch (s : State) (k : Nat) (f : Pacer → Pacer) : (s.updPacer k f).latch = s.latch := rfl
@[simp] theorem State.updPacer_runners (s : State) (k : Nat) (f : Pacer → Pacer) : (s.updPacer k f).runners = s.runners := rfl
@[simp] theorem State.updPacer_arbRun (s : State) (k : Nat) (f : Pacer → Pacer) : (s.updPacer k f).arbRun = s.arbRun := rfl
@[simp] theorem State.updPacer_slices (s : State) (k : Nat) (f : Pacer → Pacer) : (s.updPacer k f).slices = s.slices := rfl
@[simp] theorem State.updPacer_spads (s : State) (k : Nat) (f : Pacer → Pacer) : (s.updPacer k f).spads = s.spads := rfl
@[simp] theorem State.updPacer_arbMem (s : State) (k : Nat) (f : Pacer → Pacer) : (s.updPacer k f).arbMem = s.arbMem := rfl
@[simp] theorem State.updPacer_memUp (s : State) (k : Nat) (f : Pacer → Pacer) : (s.updPacer k f).memUp = s.memUp := rfl
@[simp] theorem State.updPacer_caches (s : State) (k : Nat) (f : Pacer → Pacer) : (s.updPacer k f).caches = s.caches := rfl
@[simp] theorem State.updPacer_cwords (s : State) (k : Nat) (f : Pacer → Pacer) : (s.updPacer k f).cwords = s.cwords := rfl
@[simp] theorem State.updPacer_cstores (s : State) (k : Nat) (f : Pacer → Pacer) : (s.updPacer k f).cstores = s.cstores := rfl
@[simp] theorem State.updPacer_img (s : State) (k : Nat) (f : Pacer → Pacer) : (s.updPacer k f).img = s.img := rfl
@[simp] theorem State.updPacer_rings (s : State) (k : Nat) (f : Pacer → Pacer) : (s.updPacer k f).rings = s.rings := rfl
@[simp] theorem State.updPacer_queues (s : State) (k : Nat) (f : Pacer → Pacer) : (s.updPacer k f).queues = s.queues := rfl
@[simp] theorem State.updPacer_credit (s : State) (k : Nat) (f : Pacer → Pacer) : (s.updPacer k f).credit = s.credit := rfl
@[simp] theorem State.updPacer_qptr (s : State) (k : Nat) (f : Pacer → Pacer) : (s.updPacer k f).qptr = s.qptr := rfl
@[simp] theorem State.updPacer_rent (s : State) (k : Nat) (f : Pacer → Pacer) : (s.updPacer k f).rent = s.rent := rfl
@[simp] theorem State.updPacer_arb (s : State) (k : Nat) (f : Pacer → Pacer) : (s.updPacer k f).arb = s.arb := rfl
@[simp] theorem State.updPacer_hq (s : State) (k : Nat) (f : Pacer → Pacer) : (s.updPacer k f).hq = s.hq := rfl
@[simp] theorem State.updPacer_hlast (s : State) (k : Nat) (f : Pacer → Pacer) : (s.updPacer k f).hlast = s.hlast := rfl
@[simp] theorem State.updPacer_ports (s : State) (k : Nat) (f : Pacer → Pacer) : (s.updPacer k f).ports = s.ports := rfl
@[simp] theorem State.updPacer_jobs (s : State) (k : Nat) (f : Pacer → Pacer) : (s.updPacer k f).jobs = s.jobs := rfl
@[simp] theorem State.updPacer_carLast (s : State) (k : Nat) (f : Pacer → Pacer) : (s.updPacer k f).carLast = s.carLast := rfl
@[simp] theorem State.updPacer_carFen (s : State) (k : Nat) (f : Pacer → Pacer) : (s.updPacer k f).carFen = s.carFen := rfl
@[simp] theorem State.updPacer_pins (s : State) (k : Nat) (f : Pacer → Pacer) : (s.updPacer k f).pins = s.pins := rfl
@[simp] theorem State.updPacer_perst (s : State) (k : Nat) (f : Pacer → Pacer) : (s.updPacer k f).perst = s.perst := rfl
@[simp] theorem State.updPacer_ref (s : State) (k : Nat) (f : Pacer → Pacer) : (s.updPacer k f).ref = s.ref := rfl
@[simp] theorem State.updPacer_scs (s : State) (k : Nat) (f : Pacer → Pacer) : (s.updPacer k f).scs = s.scs := rfl
@[simp] theorem State.updPacer_out (s : State) (k : Nat) (f : Pacer → Pacer) : (s.updPacer k f).out = s.out := rfl
@[simp] theorem State.updPacer_pending (s : State) (k : Nat) (f : Pacer → Pacer) : (s.updPacer k f).pending = s.pending := rfl

@[simp] theorem State.updPin_fuses (s : State) (k : Nat) (f : Pin → Pin) : (s.updPin k f).fuses = s.fuses := rfl
@[simp] theorem State.updPin_lap (s : State) (k : Nat) (f : Pin → Pin) : (s.updPin k f).lap = s.lap := rfl
@[simp] theorem State.updPin_clkS (s : State) (k : Nat) (f : Pin → Pin) : (s.updPin k f).clkS = s.clkS := rfl
@[simp] theorem State.updPin_fresh (s : State) (k : Nat) (f : Pin → Pin) : (s.updPin k f).fresh = s.fresh := rfl
@[simp] theorem State.updPin_mode (s : State) (k : Nat) (f : Pin → Pin) : (s.updPin k f).mode = s.mode := rfl
@[simp] theorem State.updPin_prevMode (s : State) (k : Nat) (f : Pin → Pin) : (s.updPin k f).prevMode = s.prevMode := rfl
@[simp] theorem State.updPin_hwdone (s : State) (k : Nat) (f : Pin → Pin) : (s.updPin k f).hwdone = s.hwdone := rfl
@[simp] theorem State.updPin_cstep (s : State) (k : Nat) (f : Pin → Pin) : (s.updPin k f).cstep = s.cstep := rfl
@[simp] theorem State.updPin_qpend (s : State) (k : Nat) (f : Pin → Pin) : (s.updPin k f).qpend = s.qpend := rfl
@[simp] theorem State.updPin_pfw (s : State) (k : Nat) (f : Pin → Pin) : (s.updPin k f).pfw = s.pfw := rfl
@[simp] theorem State.updPin_life (s : State) (k : Nat) (f : Pin → Pin) : (s.updPin k f).life = s.life := rfl
@[simp] theorem State.updPin_safeReq (s : State) (k : Nat) (f : Pin → Pin) : (s.updPin k f).safeReq = s.safeReq := rfl
@[simp] theorem State.updPin_tamper (s : State) (k : Nat) (f : Pin → Pin) : (s.updPin k f).tamper = s.tamper := rfl
@[simp] theorem State.updPin_vddLow (s : State) (k : Nat) (f : Pin → Pin) : (s.updPin k f).vddLow = s.vddLow := rfl
@[simp] theorem State.updPin_winbase (s : State) (k : Nat) (f : Pin → Pin) : (s.updPin k f).winbase = s.winbase := rfl
@[simp] theorem State.updPin_linkUp (s : State) (k : Nat) (f : Pin → Pin) : (s.updPin k f).linkUp = s.linkUp := rfl
@[simp] theorem State.updPin_linkDown (s : State) (k : Nat) (f : Pin → Pin) : (s.updPin k f).linkDown = s.linkDown := rfl
@[simp] theorem State.updPin_linkLost (s : State) (k : Nat) (f : Pin → Pin) : (s.updPin k f).linkLost = s.linkLost := rfl
@[simp] theorem State.updPin_heatFen (s : State) (k : Nat) (f : Pin → Pin) : (s.updPin k f).heatFen = s.heatFen := rfl
@[simp] theorem State.updPin_mstate (s : State) (k : Nat) (f : Pin → Pin) : (s.updPin k f).mstate = s.mstate := rfl
@[simp] theorem State.updPin_gateRun (s : State) (k : Nat) (f : Pin → Pin) : (s.updPin k f).gateRun = s.gateRun := rfl
@[simp] theorem State.updPin_regs (s : State) (k : Nat) (f : Pin → Pin) : (s.updPin k f).regs = s.regs := rfl
@[simp] theorem State.updPin_lohold (s : State) (k : Nat) (f : Pin → Pin) : (s.updPin k f).lohold = s.lohold := rfl
@[simp] theorem State.updPin_latch (s : State) (k : Nat) (f : Pin → Pin) : (s.updPin k f).latch = s.latch := rfl
@[simp] theorem State.updPin_runners (s : State) (k : Nat) (f : Pin → Pin) : (s.updPin k f).runners = s.runners := rfl
@[simp] theorem State.updPin_arbRun (s : State) (k : Nat) (f : Pin → Pin) : (s.updPin k f).arbRun = s.arbRun := rfl
@[simp] theorem State.updPin_slices (s : State) (k : Nat) (f : Pin → Pin) : (s.updPin k f).slices = s.slices := rfl
@[simp] theorem State.updPin_spads (s : State) (k : Nat) (f : Pin → Pin) : (s.updPin k f).spads = s.spads := rfl
@[simp] theorem State.updPin_arbMem (s : State) (k : Nat) (f : Pin → Pin) : (s.updPin k f).arbMem = s.arbMem := rfl
@[simp] theorem State.updPin_memUp (s : State) (k : Nat) (f : Pin → Pin) : (s.updPin k f).memUp = s.memUp := rfl
@[simp] theorem State.updPin_caches (s : State) (k : Nat) (f : Pin → Pin) : (s.updPin k f).caches = s.caches := rfl
@[simp] theorem State.updPin_cwords (s : State) (k : Nat) (f : Pin → Pin) : (s.updPin k f).cwords = s.cwords := rfl
@[simp] theorem State.updPin_cstores (s : State) (k : Nat) (f : Pin → Pin) : (s.updPin k f).cstores = s.cstores := rfl
@[simp] theorem State.updPin_img (s : State) (k : Nat) (f : Pin → Pin) : (s.updPin k f).img = s.img := rfl
@[simp] theorem State.updPin_rings (s : State) (k : Nat) (f : Pin → Pin) : (s.updPin k f).rings = s.rings := rfl
@[simp] theorem State.updPin_queues (s : State) (k : Nat) (f : Pin → Pin) : (s.updPin k f).queues = s.queues := rfl
@[simp] theorem State.updPin_credit (s : State) (k : Nat) (f : Pin → Pin) : (s.updPin k f).credit = s.credit := rfl
@[simp] theorem State.updPin_qptr (s : State) (k : Nat) (f : Pin → Pin) : (s.updPin k f).qptr = s.qptr := rfl
@[simp] theorem State.updPin_rent (s : State) (k : Nat) (f : Pin → Pin) : (s.updPin k f).rent = s.rent := rfl
@[simp] theorem State.updPin_arb (s : State) (k : Nat) (f : Pin → Pin) : (s.updPin k f).arb = s.arb := rfl
@[simp] theorem State.updPin_hq (s : State) (k : Nat) (f : Pin → Pin) : (s.updPin k f).hq = s.hq := rfl
@[simp] theorem State.updPin_hlast (s : State) (k : Nat) (f : Pin → Pin) : (s.updPin k f).hlast = s.hlast := rfl
@[simp] theorem State.updPin_ports (s : State) (k : Nat) (f : Pin → Pin) : (s.updPin k f).ports = s.ports := rfl
@[simp] theorem State.updPin_jobs (s : State) (k : Nat) (f : Pin → Pin) : (s.updPin k f).jobs = s.jobs := rfl
@[simp] theorem State.updPin_carLast (s : State) (k : Nat) (f : Pin → Pin) : (s.updPin k f).carLast = s.carLast := rfl
@[simp] theorem State.updPin_carFen (s : State) (k : Nat) (f : Pin → Pin) : (s.updPin k f).carFen = s.carFen := rfl
@[simp] theorem State.updPin_pacers (s : State) (k : Nat) (f : Pin → Pin) : (s.updPin k f).pacers = s.pacers := rfl
@[simp] theorem State.updPin_perst (s : State) (k : Nat) (f : Pin → Pin) : (s.updPin k f).perst = s.perst := rfl
@[simp] theorem State.updPin_ref (s : State) (k : Nat) (f : Pin → Pin) : (s.updPin k f).ref = s.ref := rfl
@[simp] theorem State.updPin_scs (s : State) (k : Nat) (f : Pin → Pin) : (s.updPin k f).scs = s.scs := rfl
@[simp] theorem State.updPin_out (s : State) (k : Nat) (f : Pin → Pin) : (s.updPin k f).out = s.out := rfl
@[simp] theorem State.updPin_pending (s : State) (k : Nat) (f : Pin → Pin) : (s.updPin k f).pending = s.pending := rfl

@[simp] theorem State.updQ_fuses (s : State) (k : Nat) (f : HQueue → HQueue) : (s.updQ k f).fuses = s.fuses := rfl
@[simp] theorem State.updQ_lap (s : State) (k : Nat) (f : HQueue → HQueue) : (s.updQ k f).lap = s.lap := rfl
@[simp] theorem State.updQ_clkS (s : State) (k : Nat) (f : HQueue → HQueue) : (s.updQ k f).clkS = s.clkS := rfl
@[simp] theorem State.updQ_fresh (s : State) (k : Nat) (f : HQueue → HQueue) : (s.updQ k f).fresh = s.fresh := rfl
@[simp] theorem State.updQ_mode (s : State) (k : Nat) (f : HQueue → HQueue) : (s.updQ k f).mode = s.mode := rfl
@[simp] theorem State.updQ_prevMode (s : State) (k : Nat) (f : HQueue → HQueue) : (s.updQ k f).prevMode = s.prevMode := rfl
@[simp] theorem State.updQ_hwdone (s : State) (k : Nat) (f : HQueue → HQueue) : (s.updQ k f).hwdone = s.hwdone := rfl
@[simp] theorem State.updQ_cstep (s : State) (k : Nat) (f : HQueue → HQueue) : (s.updQ k f).cstep = s.cstep := rfl
@[simp] theorem State.updQ_qpend (s : State) (k : Nat) (f : HQueue → HQueue) : (s.updQ k f).qpend = s.qpend := rfl
@[simp] theorem State.updQ_pfw (s : State) (k : Nat) (f : HQueue → HQueue) : (s.updQ k f).pfw = s.pfw := rfl
@[simp] theorem State.updQ_life (s : State) (k : Nat) (f : HQueue → HQueue) : (s.updQ k f).life = s.life := rfl
@[simp] theorem State.updQ_safeReq (s : State) (k : Nat) (f : HQueue → HQueue) : (s.updQ k f).safeReq = s.safeReq := rfl
@[simp] theorem State.updQ_tamper (s : State) (k : Nat) (f : HQueue → HQueue) : (s.updQ k f).tamper = s.tamper := rfl
@[simp] theorem State.updQ_vddLow (s : State) (k : Nat) (f : HQueue → HQueue) : (s.updQ k f).vddLow = s.vddLow := rfl
@[simp] theorem State.updQ_winbase (s : State) (k : Nat) (f : HQueue → HQueue) : (s.updQ k f).winbase = s.winbase := rfl
@[simp] theorem State.updQ_linkUp (s : State) (k : Nat) (f : HQueue → HQueue) : (s.updQ k f).linkUp = s.linkUp := rfl
@[simp] theorem State.updQ_linkDown (s : State) (k : Nat) (f : HQueue → HQueue) : (s.updQ k f).linkDown = s.linkDown := rfl
@[simp] theorem State.updQ_linkLost (s : State) (k : Nat) (f : HQueue → HQueue) : (s.updQ k f).linkLost = s.linkLost := rfl
@[simp] theorem State.updQ_heatFen (s : State) (k : Nat) (f : HQueue → HQueue) : (s.updQ k f).heatFen = s.heatFen := rfl
@[simp] theorem State.updQ_mstate (s : State) (k : Nat) (f : HQueue → HQueue) : (s.updQ k f).mstate = s.mstate := rfl
@[simp] theorem State.updQ_gateRun (s : State) (k : Nat) (f : HQueue → HQueue) : (s.updQ k f).gateRun = s.gateRun := rfl
@[simp] theorem State.updQ_regs (s : State) (k : Nat) (f : HQueue → HQueue) : (s.updQ k f).regs = s.regs := rfl
@[simp] theorem State.updQ_lohold (s : State) (k : Nat) (f : HQueue → HQueue) : (s.updQ k f).lohold = s.lohold := rfl
@[simp] theorem State.updQ_latch (s : State) (k : Nat) (f : HQueue → HQueue) : (s.updQ k f).latch = s.latch := rfl
@[simp] theorem State.updQ_runners (s : State) (k : Nat) (f : HQueue → HQueue) : (s.updQ k f).runners = s.runners := rfl
@[simp] theorem State.updQ_arbRun (s : State) (k : Nat) (f : HQueue → HQueue) : (s.updQ k f).arbRun = s.arbRun := rfl
@[simp] theorem State.updQ_slices (s : State) (k : Nat) (f : HQueue → HQueue) : (s.updQ k f).slices = s.slices := rfl
@[simp] theorem State.updQ_spads (s : State) (k : Nat) (f : HQueue → HQueue) : (s.updQ k f).spads = s.spads := rfl
@[simp] theorem State.updQ_arbMem (s : State) (k : Nat) (f : HQueue → HQueue) : (s.updQ k f).arbMem = s.arbMem := rfl
@[simp] theorem State.updQ_memUp (s : State) (k : Nat) (f : HQueue → HQueue) : (s.updQ k f).memUp = s.memUp := rfl
@[simp] theorem State.updQ_caches (s : State) (k : Nat) (f : HQueue → HQueue) : (s.updQ k f).caches = s.caches := rfl
@[simp] theorem State.updQ_cwords (s : State) (k : Nat) (f : HQueue → HQueue) : (s.updQ k f).cwords = s.cwords := rfl
@[simp] theorem State.updQ_cstores (s : State) (k : Nat) (f : HQueue → HQueue) : (s.updQ k f).cstores = s.cstores := rfl
@[simp] theorem State.updQ_img (s : State) (k : Nat) (f : HQueue → HQueue) : (s.updQ k f).img = s.img := rfl
@[simp] theorem State.updQ_rings (s : State) (k : Nat) (f : HQueue → HQueue) : (s.updQ k f).rings = s.rings := rfl
@[simp] theorem State.updQ_queues (s : State) (k : Nat) (f : HQueue → HQueue) : (s.updQ k f).queues = s.queues := rfl
@[simp] theorem State.updQ_credit (s : State) (k : Nat) (f : HQueue → HQueue) : (s.updQ k f).credit = s.credit := rfl
@[simp] theorem State.updQ_qptr (s : State) (k : Nat) (f : HQueue → HQueue) : (s.updQ k f).qptr = s.qptr := rfl
@[simp] theorem State.updQ_rent (s : State) (k : Nat) (f : HQueue → HQueue) : (s.updQ k f).rent = s.rent := rfl
@[simp] theorem State.updQ_arb (s : State) (k : Nat) (f : HQueue → HQueue) : (s.updQ k f).arb = s.arb := rfl
@[simp] theorem State.updQ_hlast (s : State) (k : Nat) (f : HQueue → HQueue) : (s.updQ k f).hlast = s.hlast := rfl
@[simp] theorem State.updQ_ports (s : State) (k : Nat) (f : HQueue → HQueue) : (s.updQ k f).ports = s.ports := rfl
@[simp] theorem State.updQ_jobs (s : State) (k : Nat) (f : HQueue → HQueue) : (s.updQ k f).jobs = s.jobs := rfl
@[simp] theorem State.updQ_carLast (s : State) (k : Nat) (f : HQueue → HQueue) : (s.updQ k f).carLast = s.carLast := rfl
@[simp] theorem State.updQ_carFen (s : State) (k : Nat) (f : HQueue → HQueue) : (s.updQ k f).carFen = s.carFen := rfl
@[simp] theorem State.updQ_pacers (s : State) (k : Nat) (f : HQueue → HQueue) : (s.updQ k f).pacers = s.pacers := rfl
@[simp] theorem State.updQ_pins (s : State) (k : Nat) (f : HQueue → HQueue) : (s.updQ k f).pins = s.pins := rfl
@[simp] theorem State.updQ_perst (s : State) (k : Nat) (f : HQueue → HQueue) : (s.updQ k f).perst = s.perst := rfl
@[simp] theorem State.updQ_ref (s : State) (k : Nat) (f : HQueue → HQueue) : (s.updQ k f).ref = s.ref := rfl
@[simp] theorem State.updQ_scs (s : State) (k : Nat) (f : HQueue → HQueue) : (s.updQ k f).scs = s.scs := rfl
@[simp] theorem State.updQ_out (s : State) (k : Nat) (f : HQueue → HQueue) : (s.updQ k f).out = s.out := rfl
@[simp] theorem State.updQ_pending (s : State) (k : Nat) (f : HQueue → HQueue) : (s.updQ k f).pending = s.pending := rfl

@[simp] theorem State.updCs_fuses (s : State) (k : Nat) (f : CStore → CStore) : (s.updCs k f).fuses = s.fuses := rfl
@[simp] theorem State.updCs_lap (s : State) (k : Nat) (f : CStore → CStore) : (s.updCs k f).lap = s.lap := rfl
@[simp] theorem State.updCs_clkS (s : State) (k : Nat) (f : CStore → CStore) : (s.updCs k f).clkS = s.clkS := rfl
@[simp] theorem State.updCs_fresh (s : State) (k : Nat) (f : CStore → CStore) : (s.updCs k f).fresh = s.fresh := rfl
@[simp] theorem State.updCs_mode (s : State) (k : Nat) (f : CStore → CStore) : (s.updCs k f).mode = s.mode := rfl
@[simp] theorem State.updCs_prevMode (s : State) (k : Nat) (f : CStore → CStore) : (s.updCs k f).prevMode = s.prevMode := rfl
@[simp] theorem State.updCs_hwdone (s : State) (k : Nat) (f : CStore → CStore) : (s.updCs k f).hwdone = s.hwdone := rfl
@[simp] theorem State.updCs_cstep (s : State) (k : Nat) (f : CStore → CStore) : (s.updCs k f).cstep = s.cstep := rfl
@[simp] theorem State.updCs_qpend (s : State) (k : Nat) (f : CStore → CStore) : (s.updCs k f).qpend = s.qpend := rfl
@[simp] theorem State.updCs_pfw (s : State) (k : Nat) (f : CStore → CStore) : (s.updCs k f).pfw = s.pfw := rfl
@[simp] theorem State.updCs_life (s : State) (k : Nat) (f : CStore → CStore) : (s.updCs k f).life = s.life := rfl
@[simp] theorem State.updCs_safeReq (s : State) (k : Nat) (f : CStore → CStore) : (s.updCs k f).safeReq = s.safeReq := rfl
@[simp] theorem State.updCs_tamper (s : State) (k : Nat) (f : CStore → CStore) : (s.updCs k f).tamper = s.tamper := rfl
@[simp] theorem State.updCs_vddLow (s : State) (k : Nat) (f : CStore → CStore) : (s.updCs k f).vddLow = s.vddLow := rfl
@[simp] theorem State.updCs_winbase (s : State) (k : Nat) (f : CStore → CStore) : (s.updCs k f).winbase = s.winbase := rfl
@[simp] theorem State.updCs_linkUp (s : State) (k : Nat) (f : CStore → CStore) : (s.updCs k f).linkUp = s.linkUp := rfl
@[simp] theorem State.updCs_linkDown (s : State) (k : Nat) (f : CStore → CStore) : (s.updCs k f).linkDown = s.linkDown := rfl
@[simp] theorem State.updCs_linkLost (s : State) (k : Nat) (f : CStore → CStore) : (s.updCs k f).linkLost = s.linkLost := rfl
@[simp] theorem State.updCs_heatFen (s : State) (k : Nat) (f : CStore → CStore) : (s.updCs k f).heatFen = s.heatFen := rfl
@[simp] theorem State.updCs_mstate (s : State) (k : Nat) (f : CStore → CStore) : (s.updCs k f).mstate = s.mstate := rfl
@[simp] theorem State.updCs_gateRun (s : State) (k : Nat) (f : CStore → CStore) : (s.updCs k f).gateRun = s.gateRun := rfl
@[simp] theorem State.updCs_regs (s : State) (k : Nat) (f : CStore → CStore) : (s.updCs k f).regs = s.regs := rfl
@[simp] theorem State.updCs_lohold (s : State) (k : Nat) (f : CStore → CStore) : (s.updCs k f).lohold = s.lohold := rfl
@[simp] theorem State.updCs_latch (s : State) (k : Nat) (f : CStore → CStore) : (s.updCs k f).latch = s.latch := rfl
@[simp] theorem State.updCs_runners (s : State) (k : Nat) (f : CStore → CStore) : (s.updCs k f).runners = s.runners := rfl
@[simp] theorem State.updCs_arbRun (s : State) (k : Nat) (f : CStore → CStore) : (s.updCs k f).arbRun = s.arbRun := rfl
@[simp] theorem State.updCs_slices (s : State) (k : Nat) (f : CStore → CStore) : (s.updCs k f).slices = s.slices := rfl
@[simp] theorem State.updCs_spads (s : State) (k : Nat) (f : CStore → CStore) : (s.updCs k f).spads = s.spads := rfl
@[simp] theorem State.updCs_arbMem (s : State) (k : Nat) (f : CStore → CStore) : (s.updCs k f).arbMem = s.arbMem := rfl
@[simp] theorem State.updCs_memUp (s : State) (k : Nat) (f : CStore → CStore) : (s.updCs k f).memUp = s.memUp := rfl
@[simp] theorem State.updCs_caches (s : State) (k : Nat) (f : CStore → CStore) : (s.updCs k f).caches = s.caches := rfl
@[simp] theorem State.updCs_cwords (s : State) (k : Nat) (f : CStore → CStore) : (s.updCs k f).cwords = s.cwords := rfl
@[simp] theorem State.updCs_img (s : State) (k : Nat) (f : CStore → CStore) : (s.updCs k f).img = s.img := rfl
@[simp] theorem State.updCs_rings (s : State) (k : Nat) (f : CStore → CStore) : (s.updCs k f).rings = s.rings := rfl
@[simp] theorem State.updCs_queues (s : State) (k : Nat) (f : CStore → CStore) : (s.updCs k f).queues = s.queues := rfl
@[simp] theorem State.updCs_credit (s : State) (k : Nat) (f : CStore → CStore) : (s.updCs k f).credit = s.credit := rfl
@[simp] theorem State.updCs_qptr (s : State) (k : Nat) (f : CStore → CStore) : (s.updCs k f).qptr = s.qptr := rfl
@[simp] theorem State.updCs_rent (s : State) (k : Nat) (f : CStore → CStore) : (s.updCs k f).rent = s.rent := rfl
@[simp] theorem State.updCs_arb (s : State) (k : Nat) (f : CStore → CStore) : (s.updCs k f).arb = s.arb := rfl
@[simp] theorem State.updCs_hq (s : State) (k : Nat) (f : CStore → CStore) : (s.updCs k f).hq = s.hq := rfl
@[simp] theorem State.updCs_hlast (s : State) (k : Nat) (f : CStore → CStore) : (s.updCs k f).hlast = s.hlast := rfl
@[simp] theorem State.updCs_ports (s : State) (k : Nat) (f : CStore → CStore) : (s.updCs k f).ports = s.ports := rfl
@[simp] theorem State.updCs_jobs (s : State) (k : Nat) (f : CStore → CStore) : (s.updCs k f).jobs = s.jobs := rfl
@[simp] theorem State.updCs_carLast (s : State) (k : Nat) (f : CStore → CStore) : (s.updCs k f).carLast = s.carLast := rfl
@[simp] theorem State.updCs_carFen (s : State) (k : Nat) (f : CStore → CStore) : (s.updCs k f).carFen = s.carFen := rfl
@[simp] theorem State.updCs_pacers (s : State) (k : Nat) (f : CStore → CStore) : (s.updCs k f).pacers = s.pacers := rfl
@[simp] theorem State.updCs_pins (s : State) (k : Nat) (f : CStore → CStore) : (s.updCs k f).pins = s.pins := rfl
@[simp] theorem State.updCs_perst (s : State) (k : Nat) (f : CStore → CStore) : (s.updCs k f).perst = s.perst := rfl
@[simp] theorem State.updCs_ref (s : State) (k : Nat) (f : CStore → CStore) : (s.updCs k f).ref = s.ref := rfl
@[simp] theorem State.updCs_scs (s : State) (k : Nat) (f : CStore → CStore) : (s.updCs k f).scs = s.scs := rfl
@[simp] theorem State.updCs_out (s : State) (k : Nat) (f : CStore → CStore) : (s.updCs k f).out = s.out := rfl
@[simp] theorem State.updCs_pending (s : State) (k : Nat) (f : CStore → CStore) : (s.updCs k f).pending = s.pending := rfl

@[simp] theorem State.updArb_fuses (s : State) (f : Arbiter → Arbiter) : (s.updArb f).fuses = s.fuses := rfl
@[simp] theorem State.updArb_lap (s : State) (f : Arbiter → Arbiter) : (s.updArb f).lap = s.lap := rfl
@[simp] theorem State.updArb_clkS (s : State) (f : Arbiter → Arbiter) : (s.updArb f).clkS = s.clkS := rfl
@[simp] theorem State.updArb_fresh (s : State) (f : Arbiter → Arbiter) : (s.updArb f).fresh = s.fresh := rfl
@[simp] theorem State.updArb_mode (s : State) (f : Arbiter → Arbiter) : (s.updArb f).mode = s.mode := rfl
@[simp] theorem State.updArb_prevMode (s : State) (f : Arbiter → Arbiter) : (s.updArb f).prevMode = s.prevMode := rfl
@[simp] theorem State.updArb_hwdone (s : State) (f : Arbiter → Arbiter) : (s.updArb f).hwdone = s.hwdone := rfl
@[simp] theorem State.updArb_cstep (s : State) (f : Arbiter → Arbiter) : (s.updArb f).cstep = s.cstep := rfl
@[simp] theorem State.updArb_qpend (s : State) (f : Arbiter → Arbiter) : (s.updArb f).qpend = s.qpend := rfl
@[simp] theorem State.updArb_pfw (s : State) (f : Arbiter → Arbiter) : (s.updArb f).pfw = s.pfw := rfl
@[simp] theorem State.updArb_life (s : State) (f : Arbiter → Arbiter) : (s.updArb f).life = s.life := rfl
@[simp] theorem State.updArb_safeReq (s : State) (f : Arbiter → Arbiter) : (s.updArb f).safeReq = s.safeReq := rfl
@[simp] theorem State.updArb_tamper (s : State) (f : Arbiter → Arbiter) : (s.updArb f).tamper = s.tamper := rfl
@[simp] theorem State.updArb_vddLow (s : State) (f : Arbiter → Arbiter) : (s.updArb f).vddLow = s.vddLow := rfl
@[simp] theorem State.updArb_winbase (s : State) (f : Arbiter → Arbiter) : (s.updArb f).winbase = s.winbase := rfl
@[simp] theorem State.updArb_linkUp (s : State) (f : Arbiter → Arbiter) : (s.updArb f).linkUp = s.linkUp := rfl
@[simp] theorem State.updArb_linkDown (s : State) (f : Arbiter → Arbiter) : (s.updArb f).linkDown = s.linkDown := rfl
@[simp] theorem State.updArb_linkLost (s : State) (f : Arbiter → Arbiter) : (s.updArb f).linkLost = s.linkLost := rfl
@[simp] theorem State.updArb_heatFen (s : State) (f : Arbiter → Arbiter) : (s.updArb f).heatFen = s.heatFen := rfl
@[simp] theorem State.updArb_mstate (s : State) (f : Arbiter → Arbiter) : (s.updArb f).mstate = s.mstate := rfl
@[simp] theorem State.updArb_gateRun (s : State) (f : Arbiter → Arbiter) : (s.updArb f).gateRun = s.gateRun := rfl
@[simp] theorem State.updArb_regs (s : State) (f : Arbiter → Arbiter) : (s.updArb f).regs = s.regs := rfl
@[simp] theorem State.updArb_lohold (s : State) (f : Arbiter → Arbiter) : (s.updArb f).lohold = s.lohold := rfl
@[simp] theorem State.updArb_latch (s : State) (f : Arbiter → Arbiter) : (s.updArb f).latch = s.latch := rfl
@[simp] theorem State.updArb_runners (s : State) (f : Arbiter → Arbiter) : (s.updArb f).runners = s.runners := rfl
@[simp] theorem State.updArb_arbRun (s : State) (f : Arbiter → Arbiter) : (s.updArb f).arbRun = s.arbRun := rfl
@[simp] theorem State.updArb_slices (s : State) (f : Arbiter → Arbiter) : (s.updArb f).slices = s.slices := rfl
@[simp] theorem State.updArb_spads (s : State) (f : Arbiter → Arbiter) : (s.updArb f).spads = s.spads := rfl
@[simp] theorem State.updArb_arbMem (s : State) (f : Arbiter → Arbiter) : (s.updArb f).arbMem = s.arbMem := rfl
@[simp] theorem State.updArb_memUp (s : State) (f : Arbiter → Arbiter) : (s.updArb f).memUp = s.memUp := rfl
@[simp] theorem State.updArb_caches (s : State) (f : Arbiter → Arbiter) : (s.updArb f).caches = s.caches := rfl
@[simp] theorem State.updArb_cwords (s : State) (f : Arbiter → Arbiter) : (s.updArb f).cwords = s.cwords := rfl
@[simp] theorem State.updArb_cstores (s : State) (f : Arbiter → Arbiter) : (s.updArb f).cstores = s.cstores := rfl
@[simp] theorem State.updArb_img (s : State) (f : Arbiter → Arbiter) : (s.updArb f).img = s.img := rfl
@[simp] theorem State.updArb_rings (s : State) (f : Arbiter → Arbiter) : (s.updArb f).rings = s.rings := rfl
@[simp] theorem State.updArb_queues (s : State) (f : Arbiter → Arbiter) : (s.updArb f).queues = s.queues := rfl
@[simp] theorem State.updArb_credit (s : State) (f : Arbiter → Arbiter) : (s.updArb f).credit = s.credit := rfl
@[simp] theorem State.updArb_qptr (s : State) (f : Arbiter → Arbiter) : (s.updArb f).qptr = s.qptr := rfl
@[simp] theorem State.updArb_rent (s : State) (f : Arbiter → Arbiter) : (s.updArb f).rent = s.rent := rfl
@[simp] theorem State.updArb_hq (s : State) (f : Arbiter → Arbiter) : (s.updArb f).hq = s.hq := rfl
@[simp] theorem State.updArb_hlast (s : State) (f : Arbiter → Arbiter) : (s.updArb f).hlast = s.hlast := rfl
@[simp] theorem State.updArb_ports (s : State) (f : Arbiter → Arbiter) : (s.updArb f).ports = s.ports := rfl
@[simp] theorem State.updArb_jobs (s : State) (f : Arbiter → Arbiter) : (s.updArb f).jobs = s.jobs := rfl
@[simp] theorem State.updArb_carLast (s : State) (f : Arbiter → Arbiter) : (s.updArb f).carLast = s.carLast := rfl
@[simp] theorem State.updArb_carFen (s : State) (f : Arbiter → Arbiter) : (s.updArb f).carFen = s.carFen := rfl
@[simp] theorem State.updArb_pacers (s : State) (f : Arbiter → Arbiter) : (s.updArb f).pacers = s.pacers := rfl
@[simp] theorem State.updArb_pins (s : State) (f : Arbiter → Arbiter) : (s.updArb f).pins = s.pins := rfl
@[simp] theorem State.updArb_perst (s : State) (f : Arbiter → Arbiter) : (s.updArb f).perst = s.perst := rfl
@[simp] theorem State.updArb_ref (s : State) (f : Arbiter → Arbiter) : (s.updArb f).ref = s.ref := rfl
@[simp] theorem State.updArb_scs (s : State) (f : Arbiter → Arbiter) : (s.updArb f).scs = s.scs := rfl
@[simp] theorem State.updArb_out (s : State) (f : Arbiter → Arbiter) : (s.updArb f).out = s.out := rfl
@[simp] theorem State.updArb_pending (s : State) (f : Arbiter → Arbiter) : (s.updArb f).pending = s.pending := rfl

@[simp] theorem State.updRef_fuses (s : State) (f : Referee → Referee) : (s.updRef f).fuses = s.fuses := rfl
@[simp] theorem State.updRef_lap (s : State) (f : Referee → Referee) : (s.updRef f).lap = s.lap := rfl
@[simp] theorem State.updRef_clkS (s : State) (f : Referee → Referee) : (s.updRef f).clkS = s.clkS := rfl
@[simp] theorem State.updRef_fresh (s : State) (f : Referee → Referee) : (s.updRef f).fresh = s.fresh := rfl
@[simp] theorem State.updRef_mode (s : State) (f : Referee → Referee) : (s.updRef f).mode = s.mode := rfl
@[simp] theorem State.updRef_prevMode (s : State) (f : Referee → Referee) : (s.updRef f).prevMode = s.prevMode := rfl
@[simp] theorem State.updRef_hwdone (s : State) (f : Referee → Referee) : (s.updRef f).hwdone = s.hwdone := rfl
@[simp] theorem State.updRef_cstep (s : State) (f : Referee → Referee) : (s.updRef f).cstep = s.cstep := rfl
@[simp] theorem State.updRef_qpend (s : State) (f : Referee → Referee) : (s.updRef f).qpend = s.qpend := rfl
@[simp] theorem State.updRef_pfw (s : State) (f : Referee → Referee) : (s.updRef f).pfw = s.pfw := rfl
@[simp] theorem State.updRef_life (s : State) (f : Referee → Referee) : (s.updRef f).life = s.life := rfl
@[simp] theorem State.updRef_safeReq (s : State) (f : Referee → Referee) : (s.updRef f).safeReq = s.safeReq := rfl
@[simp] theorem State.updRef_tamper (s : State) (f : Referee → Referee) : (s.updRef f).tamper = s.tamper := rfl
@[simp] theorem State.updRef_vddLow (s : State) (f : Referee → Referee) : (s.updRef f).vddLow = s.vddLow := rfl
@[simp] theorem State.updRef_winbase (s : State) (f : Referee → Referee) : (s.updRef f).winbase = s.winbase := rfl
@[simp] theorem State.updRef_linkUp (s : State) (f : Referee → Referee) : (s.updRef f).linkUp = s.linkUp := rfl
@[simp] theorem State.updRef_linkDown (s : State) (f : Referee → Referee) : (s.updRef f).linkDown = s.linkDown := rfl
@[simp] theorem State.updRef_linkLost (s : State) (f : Referee → Referee) : (s.updRef f).linkLost = s.linkLost := rfl
@[simp] theorem State.updRef_heatFen (s : State) (f : Referee → Referee) : (s.updRef f).heatFen = s.heatFen := rfl
@[simp] theorem State.updRef_mstate (s : State) (f : Referee → Referee) : (s.updRef f).mstate = s.mstate := rfl
@[simp] theorem State.updRef_gateRun (s : State) (f : Referee → Referee) : (s.updRef f).gateRun = s.gateRun := rfl
@[simp] theorem State.updRef_regs (s : State) (f : Referee → Referee) : (s.updRef f).regs = s.regs := rfl
@[simp] theorem State.updRef_lohold (s : State) (f : Referee → Referee) : (s.updRef f).lohold = s.lohold := rfl
@[simp] theorem State.updRef_latch (s : State) (f : Referee → Referee) : (s.updRef f).latch = s.latch := rfl
@[simp] theorem State.updRef_runners (s : State) (f : Referee → Referee) : (s.updRef f).runners = s.runners := rfl
@[simp] theorem State.updRef_arbRun (s : State) (f : Referee → Referee) : (s.updRef f).arbRun = s.arbRun := rfl
@[simp] theorem State.updRef_slices (s : State) (f : Referee → Referee) : (s.updRef f).slices = s.slices := rfl
@[simp] theorem State.updRef_spads (s : State) (f : Referee → Referee) : (s.updRef f).spads = s.spads := rfl
@[simp] theorem State.updRef_arbMem (s : State) (f : Referee → Referee) : (s.updRef f).arbMem = s.arbMem := rfl
@[simp] theorem State.updRef_memUp (s : State) (f : Referee → Referee) : (s.updRef f).memUp = s.memUp := rfl
@[simp] theorem State.updRef_caches (s : State) (f : Referee → Referee) : (s.updRef f).caches = s.caches := rfl
@[simp] theorem State.updRef_cwords (s : State) (f : Referee → Referee) : (s.updRef f).cwords = s.cwords := rfl
@[simp] theorem State.updRef_cstores (s : State) (f : Referee → Referee) : (s.updRef f).cstores = s.cstores := rfl
@[simp] theorem State.updRef_img (s : State) (f : Referee → Referee) : (s.updRef f).img = s.img := rfl
@[simp] theorem State.updRef_rings (s : State) (f : Referee → Referee) : (s.updRef f).rings = s.rings := rfl
@[simp] theorem State.updRef_queues (s : State) (f : Referee → Referee) : (s.updRef f).queues = s.queues := rfl
@[simp] theorem State.updRef_credit (s : State) (f : Referee → Referee) : (s.updRef f).credit = s.credit := rfl
@[simp] theorem State.updRef_qptr (s : State) (f : Referee → Referee) : (s.updRef f).qptr = s.qptr := rfl
@[simp] theorem State.updRef_rent (s : State) (f : Referee → Referee) : (s.updRef f).rent = s.rent := rfl
@[simp] theorem State.updRef_arb (s : State) (f : Referee → Referee) : (s.updRef f).arb = s.arb := rfl
@[simp] theorem State.updRef_hq (s : State) (f : Referee → Referee) : (s.updRef f).hq = s.hq := rfl
@[simp] theorem State.updRef_hlast (s : State) (f : Referee → Referee) : (s.updRef f).hlast = s.hlast := rfl
@[simp] theorem State.updRef_ports (s : State) (f : Referee → Referee) : (s.updRef f).ports = s.ports := rfl
@[simp] theorem State.updRef_jobs (s : State) (f : Referee → Referee) : (s.updRef f).jobs = s.jobs := rfl
@[simp] theorem State.updRef_carLast (s : State) (f : Referee → Referee) : (s.updRef f).carLast = s.carLast := rfl
@[simp] theorem State.updRef_carFen (s : State) (f : Referee → Referee) : (s.updRef f).carFen = s.carFen := rfl
@[simp] theorem State.updRef_pacers (s : State) (f : Referee → Referee) : (s.updRef f).pacers = s.pacers := rfl
@[simp] theorem State.updRef_pins (s : State) (f : Referee → Referee) : (s.updRef f).pins = s.pins := rfl
@[simp] theorem State.updRef_perst (s : State) (f : Referee → Referee) : (s.updRef f).perst = s.perst := rfl
@[simp] theorem State.updRef_scs (s : State) (f : Referee → Referee) : (s.updRef f).scs = s.scs := rfl
@[simp] theorem State.updRef_out (s : State) (f : Referee → Referee) : (s.updRef f).out = s.out := rfl
@[simp] theorem State.updRef_pending (s : State) (f : Referee → Referee) : (s.updRef f).pending = s.pending := rfl

@[simp] theorem State.updScs_fuses (s : State) (f : Scores → Scores) : (s.updScs f).fuses = s.fuses := rfl
@[simp] theorem State.updScs_lap (s : State) (f : Scores → Scores) : (s.updScs f).lap = s.lap := rfl
@[simp] theorem State.updScs_clkS (s : State) (f : Scores → Scores) : (s.updScs f).clkS = s.clkS := rfl
@[simp] theorem State.updScs_fresh (s : State) (f : Scores → Scores) : (s.updScs f).fresh = s.fresh := rfl
@[simp] theorem State.updScs_mode (s : State) (f : Scores → Scores) : (s.updScs f).mode = s.mode := rfl
@[simp] theorem State.updScs_prevMode (s : State) (f : Scores → Scores) : (s.updScs f).prevMode = s.prevMode := rfl
@[simp] theorem State.updScs_hwdone (s : State) (f : Scores → Scores) : (s.updScs f).hwdone = s.hwdone := rfl
@[simp] theorem State.updScs_cstep (s : State) (f : Scores → Scores) : (s.updScs f).cstep = s.cstep := rfl
@[simp] theorem State.updScs_qpend (s : State) (f : Scores → Scores) : (s.updScs f).qpend = s.qpend := rfl
@[simp] theorem State.updScs_pfw (s : State) (f : Scores → Scores) : (s.updScs f).pfw = s.pfw := rfl
@[simp] theorem State.updScs_life (s : State) (f : Scores → Scores) : (s.updScs f).life = s.life := rfl
@[simp] theorem State.updScs_safeReq (s : State) (f : Scores → Scores) : (s.updScs f).safeReq = s.safeReq := rfl
@[simp] theorem State.updScs_tamper (s : State) (f : Scores → Scores) : (s.updScs f).tamper = s.tamper := rfl
@[simp] theorem State.updScs_vddLow (s : State) (f : Scores → Scores) : (s.updScs f).vddLow = s.vddLow := rfl
@[simp] theorem State.updScs_winbase (s : State) (f : Scores → Scores) : (s.updScs f).winbase = s.winbase := rfl
@[simp] theorem State.updScs_linkUp (s : State) (f : Scores → Scores) : (s.updScs f).linkUp = s.linkUp := rfl
@[simp] theorem State.updScs_linkDown (s : State) (f : Scores → Scores) : (s.updScs f).linkDown = s.linkDown := rfl
@[simp] theorem State.updScs_linkLost (s : State) (f : Scores → Scores) : (s.updScs f).linkLost = s.linkLost := rfl
@[simp] theorem State.updScs_heatFen (s : State) (f : Scores → Scores) : (s.updScs f).heatFen = s.heatFen := rfl
@[simp] theorem State.updScs_mstate (s : State) (f : Scores → Scores) : (s.updScs f).mstate = s.mstate := rfl
@[simp] theorem State.updScs_gateRun (s : State) (f : Scores → Scores) : (s.updScs f).gateRun = s.gateRun := rfl
@[simp] theorem State.updScs_regs (s : State) (f : Scores → Scores) : (s.updScs f).regs = s.regs := rfl
@[simp] theorem State.updScs_lohold (s : State) (f : Scores → Scores) : (s.updScs f).lohold = s.lohold := rfl
@[simp] theorem State.updScs_latch (s : State) (f : Scores → Scores) : (s.updScs f).latch = s.latch := rfl
@[simp] theorem State.updScs_runners (s : State) (f : Scores → Scores) : (s.updScs f).runners = s.runners := rfl
@[simp] theorem State.updScs_arbRun (s : State) (f : Scores → Scores) : (s.updScs f).arbRun = s.arbRun := rfl
@[simp] theorem State.updScs_slices (s : State) (f : Scores → Scores) : (s.updScs f).slices = s.slices := rfl
@[simp] theorem State.updScs_spads (s : State) (f : Scores → Scores) : (s.updScs f).spads = s.spads := rfl
@[simp] theorem State.updScs_arbMem (s : State) (f : Scores → Scores) : (s.updScs f).arbMem = s.arbMem := rfl
@[simp] theorem State.updScs_memUp (s : State) (f : Scores → Scores) : (s.updScs f).memUp = s.memUp := rfl
@[simp] theorem State.updScs_caches (s : State) (f : Scores → Scores) : (s.updScs f).caches = s.caches := rfl
@[simp] theorem State.updScs_cwords (s : State) (f : Scores → Scores) : (s.updScs f).cwords = s.cwords := rfl
@[simp] theorem State.updScs_cstores (s : State) (f : Scores → Scores) : (s.updScs f).cstores = s.cstores := rfl
@[simp] theorem State.updScs_img (s : State) (f : Scores → Scores) : (s.updScs f).img = s.img := rfl
@[simp] theorem State.updScs_rings (s : State) (f : Scores → Scores) : (s.updScs f).rings = s.rings := rfl
@[simp] theorem State.updScs_queues (s : State) (f : Scores → Scores) : (s.updScs f).queues = s.queues := rfl
@[simp] theorem State.updScs_credit (s : State) (f : Scores → Scores) : (s.updScs f).credit = s.credit := rfl
@[simp] theorem State.updScs_qptr (s : State) (f : Scores → Scores) : (s.updScs f).qptr = s.qptr := rfl
@[simp] theorem State.updScs_rent (s : State) (f : Scores → Scores) : (s.updScs f).rent = s.rent := rfl
@[simp] theorem State.updScs_arb (s : State) (f : Scores → Scores) : (s.updScs f).arb = s.arb := rfl
@[simp] theorem State.updScs_hq (s : State) (f : Scores → Scores) : (s.updScs f).hq = s.hq := rfl
@[simp] theorem State.updScs_hlast (s : State) (f : Scores → Scores) : (s.updScs f).hlast = s.hlast := rfl
@[simp] theorem State.updScs_ports (s : State) (f : Scores → Scores) : (s.updScs f).ports = s.ports := rfl
@[simp] theorem State.updScs_jobs (s : State) (f : Scores → Scores) : (s.updScs f).jobs = s.jobs := rfl
@[simp] theorem State.updScs_carLast (s : State) (f : Scores → Scores) : (s.updScs f).carLast = s.carLast := rfl
@[simp] theorem State.updScs_carFen (s : State) (f : Scores → Scores) : (s.updScs f).carFen = s.carFen := rfl
@[simp] theorem State.updScs_pacers (s : State) (f : Scores → Scores) : (s.updScs f).pacers = s.pacers := rfl
@[simp] theorem State.updScs_pins (s : State) (f : Scores → Scores) : (s.updScs f).pins = s.pins := rfl
@[simp] theorem State.updScs_perst (s : State) (f : Scores → Scores) : (s.updScs f).perst = s.perst := rfl
@[simp] theorem State.updScs_ref (s : State) (f : Scores → Scores) : (s.updScs f).ref = s.ref := rfl
@[simp] theorem State.updScs_out (s : State) (f : Scores → Scores) : (s.updScs f).out = s.out := rfl
@[simp] theorem State.updScs_pending (s : State) (f : Scores → Scores) : (s.updScs f).pending = s.pending := rfl

@[simp] theorem State.updImg_fuses (s : State) (f : Img → Img) : (s.updImg f).fuses = s.fuses := rfl
@[simp] theorem State.updImg_lap (s : State) (f : Img → Img) : (s.updImg f).lap = s.lap := rfl
@[simp] theorem State.updImg_clkS (s : State) (f : Img → Img) : (s.updImg f).clkS = s.clkS := rfl
@[simp] theorem State.updImg_fresh (s : State) (f : Img → Img) : (s.updImg f).fresh = s.fresh := rfl
@[simp] theorem State.updImg_mode (s : State) (f : Img → Img) : (s.updImg f).mode = s.mode := rfl
@[simp] theorem State.updImg_prevMode (s : State) (f : Img → Img) : (s.updImg f).prevMode = s.prevMode := rfl
@[simp] theorem State.updImg_hwdone (s : State) (f : Img → Img) : (s.updImg f).hwdone = s.hwdone := rfl
@[simp] theorem State.updImg_cstep (s : State) (f : Img → Img) : (s.updImg f).cstep = s.cstep := rfl
@[simp] theorem State.updImg_qpend (s : State) (f : Img → Img) : (s.updImg f).qpend = s.qpend := rfl
@[simp] theorem State.updImg_pfw (s : State) (f : Img → Img) : (s.updImg f).pfw = s.pfw := rfl
@[simp] theorem State.updImg_life (s : State) (f : Img → Img) : (s.updImg f).life = s.life := rfl
@[simp] theorem State.updImg_safeReq (s : State) (f : Img → Img) : (s.updImg f).safeReq = s.safeReq := rfl
@[simp] theorem State.updImg_tamper (s : State) (f : Img → Img) : (s.updImg f).tamper = s.tamper := rfl
@[simp] theorem State.updImg_vddLow (s : State) (f : Img → Img) : (s.updImg f).vddLow = s.vddLow := rfl
@[simp] theorem State.updImg_winbase (s : State) (f : Img → Img) : (s.updImg f).winbase = s.winbase := rfl
@[simp] theorem State.updImg_linkUp (s : State) (f : Img → Img) : (s.updImg f).linkUp = s.linkUp := rfl
@[simp] theorem State.updImg_linkDown (s : State) (f : Img → Img) : (s.updImg f).linkDown = s.linkDown := rfl
@[simp] theorem State.updImg_linkLost (s : State) (f : Img → Img) : (s.updImg f).linkLost = s.linkLost := rfl
@[simp] theorem State.updImg_heatFen (s : State) (f : Img → Img) : (s.updImg f).heatFen = s.heatFen := rfl
@[simp] theorem State.updImg_mstate (s : State) (f : Img → Img) : (s.updImg f).mstate = s.mstate := rfl
@[simp] theorem State.updImg_gateRun (s : State) (f : Img → Img) : (s.updImg f).gateRun = s.gateRun := rfl
@[simp] theorem State.updImg_regs (s : State) (f : Img → Img) : (s.updImg f).regs = s.regs := rfl
@[simp] theorem State.updImg_lohold (s : State) (f : Img → Img) : (s.updImg f).lohold = s.lohold := rfl
@[simp] theorem State.updImg_latch (s : State) (f : Img → Img) : (s.updImg f).latch = s.latch := rfl
@[simp] theorem State.updImg_runners (s : State) (f : Img → Img) : (s.updImg f).runners = s.runners := rfl
@[simp] theorem State.updImg_arbRun (s : State) (f : Img → Img) : (s.updImg f).arbRun = s.arbRun := rfl
@[simp] theorem State.updImg_slices (s : State) (f : Img → Img) : (s.updImg f).slices = s.slices := rfl
@[simp] theorem State.updImg_spads (s : State) (f : Img → Img) : (s.updImg f).spads = s.spads := rfl
@[simp] theorem State.updImg_arbMem (s : State) (f : Img → Img) : (s.updImg f).arbMem = s.arbMem := rfl
@[simp] theorem State.updImg_memUp (s : State) (f : Img → Img) : (s.updImg f).memUp = s.memUp := rfl
@[simp] theorem State.updImg_caches (s : State) (f : Img → Img) : (s.updImg f).caches = s.caches := rfl
@[simp] theorem State.updImg_cwords (s : State) (f : Img → Img) : (s.updImg f).cwords = s.cwords := rfl
@[simp] theorem State.updImg_cstores (s : State) (f : Img → Img) : (s.updImg f).cstores = s.cstores := rfl
@[simp] theorem State.updImg_rings (s : State) (f : Img → Img) : (s.updImg f).rings = s.rings := rfl
@[simp] theorem State.updImg_queues (s : State) (f : Img → Img) : (s.updImg f).queues = s.queues := rfl
@[simp] theorem State.updImg_credit (s : State) (f : Img → Img) : (s.updImg f).credit = s.credit := rfl
@[simp] theorem State.updImg_qptr (s : State) (f : Img → Img) : (s.updImg f).qptr = s.qptr := rfl
@[simp] theorem State.updImg_rent (s : State) (f : Img → Img) : (s.updImg f).rent = s.rent := rfl
@[simp] theorem State.updImg_arb (s : State) (f : Img → Img) : (s.updImg f).arb = s.arb := rfl
@[simp] theorem State.updImg_hq (s : State) (f : Img → Img) : (s.updImg f).hq = s.hq := rfl
@[simp] theorem State.updImg_hlast (s : State) (f : Img → Img) : (s.updImg f).hlast = s.hlast := rfl
@[simp] theorem State.updImg_ports (s : State) (f : Img → Img) : (s.updImg f).ports = s.ports := rfl
@[simp] theorem State.updImg_jobs (s : State) (f : Img → Img) : (s.updImg f).jobs = s.jobs := rfl
@[simp] theorem State.updImg_carLast (s : State) (f : Img → Img) : (s.updImg f).carLast = s.carLast := rfl
@[simp] theorem State.updImg_carFen (s : State) (f : Img → Img) : (s.updImg f).carFen = s.carFen := rfl
@[simp] theorem State.updImg_pacers (s : State) (f : Img → Img) : (s.updImg f).pacers = s.pacers := rfl
@[simp] theorem State.updImg_pins (s : State) (f : Img → Img) : (s.updImg f).pins = s.pins := rfl
@[simp] theorem State.updImg_perst (s : State) (f : Img → Img) : (s.updImg f).perst = s.perst := rfl
@[simp] theorem State.updImg_ref (s : State) (f : Img → Img) : (s.updImg f).ref = s.ref := rfl
@[simp] theorem State.updImg_scs (s : State) (f : Img → Img) : (s.updImg f).scs = s.scs := rfl
@[simp] theorem State.updImg_out (s : State) (f : Img → Img) : (s.updImg f).out = s.out := rfl
@[simp] theorem State.updImg_pending (s : State) (f : Img → Img) : (s.updImg f).pending = s.pending := rfl

@[simp] theorem State.put_fuses (s : State) (o : Out) : (s.put o).fuses = s.fuses := rfl
@[simp] theorem State.put_lap (s : State) (o : Out) : (s.put o).lap = s.lap := rfl
@[simp] theorem State.put_clkS (s : State) (o : Out) : (s.put o).clkS = s.clkS := rfl
@[simp] theorem State.put_fresh (s : State) (o : Out) : (s.put o).fresh = s.fresh := rfl
@[simp] theorem State.put_mode (s : State) (o : Out) : (s.put o).mode = s.mode := rfl
@[simp] theorem State.put_prevMode (s : State) (o : Out) : (s.put o).prevMode = s.prevMode := rfl
@[simp] theorem State.put_hwdone (s : State) (o : Out) : (s.put o).hwdone = s.hwdone := rfl
@[simp] theorem State.put_cstep (s : State) (o : Out) : (s.put o).cstep = s.cstep := rfl
@[simp] theorem State.put_qpend (s : State) (o : Out) : (s.put o).qpend = s.qpend := rfl
@[simp] theorem State.put_pfw (s : State) (o : Out) : (s.put o).pfw = s.pfw := rfl
@[simp] theorem State.put_life (s : State) (o : Out) : (s.put o).life = s.life := rfl
@[simp] theorem State.put_safeReq (s : State) (o : Out) : (s.put o).safeReq = s.safeReq := rfl
@[simp] theorem State.put_tamper (s : State) (o : Out) : (s.put o).tamper = s.tamper := rfl
@[simp] theorem State.put_vddLow (s : State) (o : Out) : (s.put o).vddLow = s.vddLow := rfl
@[simp] theorem State.put_winbase (s : State) (o : Out) : (s.put o).winbase = s.winbase := rfl
@[simp] theorem State.put_linkUp (s : State) (o : Out) : (s.put o).linkUp = s.linkUp := rfl
@[simp] theorem State.put_linkDown (s : State) (o : Out) : (s.put o).linkDown = s.linkDown := rfl
@[simp] theorem State.put_linkLost (s : State) (o : Out) : (s.put o).linkLost = s.linkLost := rfl
@[simp] theorem State.put_heatFen (s : State) (o : Out) : (s.put o).heatFen = s.heatFen := rfl
@[simp] theorem State.put_mstate (s : State) (o : Out) : (s.put o).mstate = s.mstate := rfl
@[simp] theorem State.put_gateRun (s : State) (o : Out) : (s.put o).gateRun = s.gateRun := rfl
@[simp] theorem State.put_regs (s : State) (o : Out) : (s.put o).regs = s.regs := rfl
@[simp] theorem State.put_lohold (s : State) (o : Out) : (s.put o).lohold = s.lohold := rfl
@[simp] theorem State.put_latch (s : State) (o : Out) : (s.put o).latch = s.latch := rfl
@[simp] theorem State.put_runners (s : State) (o : Out) : (s.put o).runners = s.runners := rfl
@[simp] theorem State.put_arbRun (s : State) (o : Out) : (s.put o).arbRun = s.arbRun := rfl
@[simp] theorem State.put_slices (s : State) (o : Out) : (s.put o).slices = s.slices := rfl
@[simp] theorem State.put_spads (s : State) (o : Out) : (s.put o).spads = s.spads := rfl
@[simp] theorem State.put_arbMem (s : State) (o : Out) : (s.put o).arbMem = s.arbMem := rfl
@[simp] theorem State.put_memUp (s : State) (o : Out) : (s.put o).memUp = s.memUp := rfl
@[simp] theorem State.put_caches (s : State) (o : Out) : (s.put o).caches = s.caches := rfl
@[simp] theorem State.put_cwords (s : State) (o : Out) : (s.put o).cwords = s.cwords := rfl
@[simp] theorem State.put_cstores (s : State) (o : Out) : (s.put o).cstores = s.cstores := rfl
@[simp] theorem State.put_img (s : State) (o : Out) : (s.put o).img = s.img := rfl
@[simp] theorem State.put_rings (s : State) (o : Out) : (s.put o).rings = s.rings := rfl
@[simp] theorem State.put_queues (s : State) (o : Out) : (s.put o).queues = s.queues := rfl
@[simp] theorem State.put_credit (s : State) (o : Out) : (s.put o).credit = s.credit := rfl
@[simp] theorem State.put_qptr (s : State) (o : Out) : (s.put o).qptr = s.qptr := rfl
@[simp] theorem State.put_rent (s : State) (o : Out) : (s.put o).rent = s.rent := rfl
@[simp] theorem State.put_arb (s : State) (o : Out) : (s.put o).arb = s.arb := rfl
@[simp] theorem State.put_hq (s : State) (o : Out) : (s.put o).hq = s.hq := rfl
@[simp] theorem State.put_hlast (s : State) (o : Out) : (s.put o).hlast = s.hlast := rfl
@[simp] theorem State.put_ports (s : State) (o : Out) : (s.put o).ports = s.ports := rfl
@[simp] theorem State.put_jobs (s : State) (o : Out) : (s.put o).jobs = s.jobs := rfl
@[simp] theorem State.put_carLast (s : State) (o : Out) : (s.put o).carLast = s.carLast := rfl
@[simp] theorem State.put_carFen (s : State) (o : Out) : (s.put o).carFen = s.carFen := rfl
@[simp] theorem State.put_pacers (s : State) (o : Out) : (s.put o).pacers = s.pacers := rfl
@[simp] theorem State.put_pins (s : State) (o : Out) : (s.put o).pins = s.pins := rfl
@[simp] theorem State.put_perst (s : State) (o : Out) : (s.put o).perst = s.perst := rfl
@[simp] theorem State.put_ref (s : State) (o : Out) : (s.put o).ref = s.ref := rfl
@[simp] theorem State.put_scs (s : State) (o : Out) : (s.put o).scs = s.scs := rfl
@[simp] theorem State.put_pending (s : State) (o : Out) : (s.put o).pending = s.pending := rfl

@[simp] theorem State.setReg_fuses (s : State) (p off : Nat) (v : Reg) : (s.setReg p off v).fuses = s.fuses := rfl
@[simp] theorem State.setReg_lap (s : State) (p off : Nat) (v : Reg) : (s.setReg p off v).lap = s.lap := rfl
@[simp] theorem State.setReg_clkS (s : State) (p off : Nat) (v : Reg) : (s.setReg p off v).clkS = s.clkS := rfl
@[simp] theorem State.setReg_fresh (s : State) (p off : Nat) (v : Reg) : (s.setReg p off v).fresh = s.fresh := rfl
@[simp] theorem State.setReg_mode (s : State) (p off : Nat) (v : Reg) : (s.setReg p off v).mode = s.mode := rfl
@[simp] theorem State.setReg_prevMode (s : State) (p off : Nat) (v : Reg) : (s.setReg p off v).prevMode = s.prevMode := rfl
@[simp] theorem State.setReg_hwdone (s : State) (p off : Nat) (v : Reg) : (s.setReg p off v).hwdone = s.hwdone := rfl
@[simp] theorem State.setReg_cstep (s : State) (p off : Nat) (v : Reg) : (s.setReg p off v).cstep = s.cstep := rfl
@[simp] theorem State.setReg_qpend (s : State) (p off : Nat) (v : Reg) : (s.setReg p off v).qpend = s.qpend := rfl
@[simp] theorem State.setReg_pfw (s : State) (p off : Nat) (v : Reg) : (s.setReg p off v).pfw = s.pfw := rfl
@[simp] theorem State.setReg_life (s : State) (p off : Nat) (v : Reg) : (s.setReg p off v).life = s.life := rfl
@[simp] theorem State.setReg_safeReq (s : State) (p off : Nat) (v : Reg) : (s.setReg p off v).safeReq = s.safeReq := rfl
@[simp] theorem State.setReg_tamper (s : State) (p off : Nat) (v : Reg) : (s.setReg p off v).tamper = s.tamper := rfl
@[simp] theorem State.setReg_vddLow (s : State) (p off : Nat) (v : Reg) : (s.setReg p off v).vddLow = s.vddLow := rfl
@[simp] theorem State.setReg_winbase (s : State) (p off : Nat) (v : Reg) : (s.setReg p off v).winbase = s.winbase := rfl
@[simp] theorem State.setReg_linkUp (s : State) (p off : Nat) (v : Reg) : (s.setReg p off v).linkUp = s.linkUp := rfl
@[simp] theorem State.setReg_linkDown (s : State) (p off : Nat) (v : Reg) : (s.setReg p off v).linkDown = s.linkDown := rfl
@[simp] theorem State.setReg_linkLost (s : State) (p off : Nat) (v : Reg) : (s.setReg p off v).linkLost = s.linkLost := rfl
@[simp] theorem State.setReg_heatFen (s : State) (p off : Nat) (v : Reg) : (s.setReg p off v).heatFen = s.heatFen := rfl
@[simp] theorem State.setReg_mstate (s : State) (p off : Nat) (v : Reg) : (s.setReg p off v).mstate = s.mstate := rfl
@[simp] theorem State.setReg_gateRun (s : State) (p off : Nat) (v : Reg) : (s.setReg p off v).gateRun = s.gateRun := rfl
@[simp] theorem State.setReg_lohold (s : State) (p off : Nat) (v : Reg) : (s.setReg p off v).lohold = s.lohold := rfl
@[simp] theorem State.setReg_latch (s : State) (p off : Nat) (v : Reg) : (s.setReg p off v).latch = s.latch := rfl
@[simp] theorem State.setReg_runners (s : State) (p off : Nat) (v : Reg) : (s.setReg p off v).runners = s.runners := rfl
@[simp] theorem State.setReg_arbRun (s : State) (p off : Nat) (v : Reg) : (s.setReg p off v).arbRun = s.arbRun := rfl
@[simp] theorem State.setReg_slices (s : State) (p off : Nat) (v : Reg) : (s.setReg p off v).slices = s.slices := rfl
@[simp] theorem State.setReg_spads (s : State) (p off : Nat) (v : Reg) : (s.setReg p off v).spads = s.spads := rfl
@[simp] theorem State.setReg_arbMem (s : State) (p off : Nat) (v : Reg) : (s.setReg p off v).arbMem = s.arbMem := rfl
@[simp] theorem State.setReg_memUp (s : State) (p off : Nat) (v : Reg) : (s.setReg p off v).memUp = s.memUp := rfl
@[simp] theorem State.setReg_caches (s : State) (p off : Nat) (v : Reg) : (s.setReg p off v).caches = s.caches := rfl
@[simp] theorem State.setReg_cwords (s : State) (p off : Nat) (v : Reg) : (s.setReg p off v).cwords = s.cwords := rfl
@[simp] theorem State.setReg_cstores (s : State) (p off : Nat) (v : Reg) : (s.setReg p off v).cstores = s.cstores := rfl
@[simp] theorem State.setReg_img (s : State) (p off : Nat) (v : Reg) : (s.setReg p off v).img = s.img := rfl
@[simp] theorem State.setReg_rings (s : State) (p off : Nat) (v : Reg) : (s.setReg p off v).rings = s.rings := rfl
@[simp] theorem State.setReg_queues (s : State) (p off : Nat) (v : Reg) : (s.setReg p off v).queues = s.queues := rfl
@[simp] theorem State.setReg_credit (s : State) (p off : Nat) (v : Reg) : (s.setReg p off v).credit = s.credit := rfl
@[simp] theorem State.setReg_qptr (s : State) (p off : Nat) (v : Reg) : (s.setReg p off v).qptr = s.qptr := rfl
@[simp] theorem State.setReg_rent (s : State) (p off : Nat) (v : Reg) : (s.setReg p off v).rent = s.rent := rfl
@[simp] theorem State.setReg_arb (s : State) (p off : Nat) (v : Reg) : (s.setReg p off v).arb = s.arb := rfl
@[simp] theorem State.setReg_hq (s : State) (p off : Nat) (v : Reg) : (s.setReg p off v).hq = s.hq := rfl
@[simp] theorem State.setReg_hlast (s : State) (p off : Nat) (v : Reg) : (s.setReg p off v).hlast = s.hlast := rfl
@[simp] theorem State.setReg_ports (s : State) (p off : Nat) (v : Reg) : (s.setReg p off v).ports = s.ports := rfl
@[simp] theorem State.setReg_jobs (s : State) (p off : Nat) (v : Reg) : (s.setReg p off v).jobs = s.jobs := rfl
@[simp] theorem State.setReg_carLast (s : State) (p off : Nat) (v : Reg) : (s.setReg p off v).carLast = s.carLast := rfl
@[simp] theorem State.setReg_carFen (s : State) (p off : Nat) (v : Reg) : (s.setReg p off v).carFen = s.carFen := rfl
@[simp] theorem State.setReg_pacers (s : State) (p off : Nat) (v : Reg) : (s.setReg p off v).pacers = s.pacers := rfl
@[simp] theorem State.setReg_pins (s : State) (p off : Nat) (v : Reg) : (s.setReg p off v).pins = s.pins := rfl
@[simp] theorem State.setReg_perst (s : State) (p off : Nat) (v : Reg) : (s.setReg p off v).perst = s.perst := rfl
@[simp] theorem State.setReg_ref (s : State) (p off : Nat) (v : Reg) : (s.setReg p off v).ref = s.ref := rfl
@[simp] theorem State.setReg_scs (s : State) (p off : Nat) (v : Reg) : (s.setReg p off v).scs = s.scs := rfl
@[simp] theorem State.setReg_out (s : State) (p off : Nat) (v : Reg) : (s.setReg p off v).out = s.out := rfl
@[simp] theorem State.setReg_pending (s : State) (p off : Nat) (v : Reg) : (s.setReg p off v).pending = s.pending := rfl

@[simp] theorem State.setRfld_fuses (s : State) (p off hi lo x : Nat) : (s.setRfld p off hi lo x).fuses = s.fuses := rfl
@[simp] theorem State.setRfld_lap (s : State) (p off hi lo x : Nat) : (s.setRfld p off hi lo x).lap = s.lap := rfl
@[simp] theorem State.setRfld_clkS (s : State) (p off hi lo x : Nat) : (s.setRfld p off hi lo x).clkS = s.clkS := rfl
@[simp] theorem State.setRfld_fresh (s : State) (p off hi lo x : Nat) : (s.setRfld p off hi lo x).fresh = s.fresh := rfl
@[simp] theorem State.setRfld_mode (s : State) (p off hi lo x : Nat) : (s.setRfld p off hi lo x).mode = s.mode := rfl
@[simp] theorem State.setRfld_prevMode (s : State) (p off hi lo x : Nat) : (s.setRfld p off hi lo x).prevMode = s.prevMode := rfl
@[simp] theorem State.setRfld_hwdone (s : State) (p off hi lo x : Nat) : (s.setRfld p off hi lo x).hwdone = s.hwdone := rfl
@[simp] theorem State.setRfld_cstep (s : State) (p off hi lo x : Nat) : (s.setRfld p off hi lo x).cstep = s.cstep := rfl
@[simp] theorem State.setRfld_qpend (s : State) (p off hi lo x : Nat) : (s.setRfld p off hi lo x).qpend = s.qpend := rfl
@[simp] theorem State.setRfld_pfw (s : State) (p off hi lo x : Nat) : (s.setRfld p off hi lo x).pfw = s.pfw := rfl
@[simp] theorem State.setRfld_life (s : State) (p off hi lo x : Nat) : (s.setRfld p off hi lo x).life = s.life := rfl
@[simp] theorem State.setRfld_safeReq (s : State) (p off hi lo x : Nat) : (s.setRfld p off hi lo x).safeReq = s.safeReq := rfl
@[simp] theorem State.setRfld_tamper (s : State) (p off hi lo x : Nat) : (s.setRfld p off hi lo x).tamper = s.tamper := rfl
@[simp] theorem State.setRfld_vddLow (s : State) (p off hi lo x : Nat) : (s.setRfld p off hi lo x).vddLow = s.vddLow := rfl
@[simp] theorem State.setRfld_winbase (s : State) (p off hi lo x : Nat) : (s.setRfld p off hi lo x).winbase = s.winbase := rfl
@[simp] theorem State.setRfld_linkUp (s : State) (p off hi lo x : Nat) : (s.setRfld p off hi lo x).linkUp = s.linkUp := rfl
@[simp] theorem State.setRfld_linkDown (s : State) (p off hi lo x : Nat) : (s.setRfld p off hi lo x).linkDown = s.linkDown := rfl
@[simp] theorem State.setRfld_linkLost (s : State) (p off hi lo x : Nat) : (s.setRfld p off hi lo x).linkLost = s.linkLost := rfl
@[simp] theorem State.setRfld_heatFen (s : State) (p off hi lo x : Nat) : (s.setRfld p off hi lo x).heatFen = s.heatFen := rfl
@[simp] theorem State.setRfld_mstate (s : State) (p off hi lo x : Nat) : (s.setRfld p off hi lo x).mstate = s.mstate := rfl
@[simp] theorem State.setRfld_gateRun (s : State) (p off hi lo x : Nat) : (s.setRfld p off hi lo x).gateRun = s.gateRun := rfl
@[simp] theorem State.setRfld_lohold (s : State) (p off hi lo x : Nat) : (s.setRfld p off hi lo x).lohold = s.lohold := rfl
@[simp] theorem State.setRfld_latch (s : State) (p off hi lo x : Nat) : (s.setRfld p off hi lo x).latch = s.latch := rfl
@[simp] theorem State.setRfld_runners (s : State) (p off hi lo x : Nat) : (s.setRfld p off hi lo x).runners = s.runners := rfl
@[simp] theorem State.setRfld_arbRun (s : State) (p off hi lo x : Nat) : (s.setRfld p off hi lo x).arbRun = s.arbRun := rfl
@[simp] theorem State.setRfld_slices (s : State) (p off hi lo x : Nat) : (s.setRfld p off hi lo x).slices = s.slices := rfl
@[simp] theorem State.setRfld_spads (s : State) (p off hi lo x : Nat) : (s.setRfld p off hi lo x).spads = s.spads := rfl
@[simp] theorem State.setRfld_arbMem (s : State) (p off hi lo x : Nat) : (s.setRfld p off hi lo x).arbMem = s.arbMem := rfl
@[simp] theorem State.setRfld_memUp (s : State) (p off hi lo x : Nat) : (s.setRfld p off hi lo x).memUp = s.memUp := rfl
@[simp] theorem State.setRfld_caches (s : State) (p off hi lo x : Nat) : (s.setRfld p off hi lo x).caches = s.caches := rfl
@[simp] theorem State.setRfld_cwords (s : State) (p off hi lo x : Nat) : (s.setRfld p off hi lo x).cwords = s.cwords := rfl
@[simp] theorem State.setRfld_cstores (s : State) (p off hi lo x : Nat) : (s.setRfld p off hi lo x).cstores = s.cstores := rfl
@[simp] theorem State.setRfld_img (s : State) (p off hi lo x : Nat) : (s.setRfld p off hi lo x).img = s.img := rfl
@[simp] theorem State.setRfld_rings (s : State) (p off hi lo x : Nat) : (s.setRfld p off hi lo x).rings = s.rings := rfl
@[simp] theorem State.setRfld_queues (s : State) (p off hi lo x : Nat) : (s.setRfld p off hi lo x).queues = s.queues := rfl
@[simp] theorem State.setRfld_credit (s : State) (p off hi lo x : Nat) : (s.setRfld p off hi lo x).credit = s.credit := rfl
@[simp] theorem State.setRfld_qptr (s : State) (p off hi lo x : Nat) : (s.setRfld p off hi lo x).qptr = s.qptr := rfl
@[simp] theorem State.setRfld_rent (s : State) (p off hi lo x : Nat) : (s.setRfld p off hi lo x).rent = s.rent := rfl
@[simp] theorem State.setRfld_arb (s : State) (p off hi lo x : Nat) : (s.setRfld p off hi lo x).arb = s.arb := rfl
@[simp] theorem State.setRfld_hq (s : State) (p off hi lo x : Nat) : (s.setRfld p off hi lo x).hq = s.hq := rfl
@[simp] theorem State.setRfld_hlast (s : State) (p off hi lo x : Nat) : (s.setRfld p off hi lo x).hlast = s.hlast := rfl
@[simp] theorem State.setRfld_ports (s : State) (p off hi lo x : Nat) : (s.setRfld p off hi lo x).ports = s.ports := rfl
@[simp] theorem State.setRfld_jobs (s : State) (p off hi lo x : Nat) : (s.setRfld p off hi lo x).jobs = s.jobs := rfl
@[simp] theorem State.setRfld_carLast (s : State) (p off hi lo x : Nat) : (s.setRfld p off hi lo x).carLast = s.carLast := rfl
@[simp] theorem State.setRfld_carFen (s : State) (p off hi lo x : Nat) : (s.setRfld p off hi lo x).carFen = s.carFen := rfl
@[simp] theorem State.setRfld_pacers (s : State) (p off hi lo x : Nat) : (s.setRfld p off hi lo x).pacers = s.pacers := rfl
@[simp] theorem State.setRfld_pins (s : State) (p off hi lo x : Nat) : (s.setRfld p off hi lo x).pins = s.pins := rfl
@[simp] theorem State.setRfld_perst (s : State) (p off hi lo x : Nat) : (s.setRfld p off hi lo x).perst = s.perst := rfl
@[simp] theorem State.setRfld_ref (s : State) (p off hi lo x : Nat) : (s.setRfld p off hi lo x).ref = s.ref := rfl
@[simp] theorem State.setRfld_scs (s : State) (p off hi lo x : Nat) : (s.setRfld p off hi lo x).scs = s.scs := rfl
@[simp] theorem State.setRfld_out (s : State) (p off hi lo x : Nat) : (s.setRfld p off hi lo x).out = s.out := rfl
@[simp] theorem State.setRfld_pending (s : State) (p off hi lo x : Nat) : (s.setRfld p off hi lo x).pending = s.pending := rfl

@[simp] theorem State.report_fuses (s : State) (a b c d e g : Nat) (l : Bool) : (s.report a b c d e g l).fuses = s.fuses := rfl
@[simp] theorem State.report_lap (s : State) (a b c d e g : Nat) (l : Bool) : (s.report a b c d e g l).lap = s.lap := rfl
@[simp] theorem State.report_clkS (s : State) (a b c d e g : Nat) (l : Bool) : (s.report a b c d e g l).clkS = s.clkS := rfl
@[simp] theorem State.report_fresh (s : State) (a b c d e g : Nat) (l : Bool) : (s.report a b c d e g l).fresh = s.fresh := rfl
@[simp] theorem State.report_mode (s : State) (a b c d e g : Nat) (l : Bool) : (s.report a b c d e g l).mode = s.mode := rfl
@[simp] theorem State.report_prevMode (s : State) (a b c d e g : Nat) (l : Bool) : (s.report a b c d e g l).prevMode = s.prevMode := rfl
@[simp] theorem State.report_hwdone (s : State) (a b c d e g : Nat) (l : Bool) : (s.report a b c d e g l).hwdone = s.hwdone := rfl
@[simp] theorem State.report_cstep (s : State) (a b c d e g : Nat) (l : Bool) : (s.report a b c d e g l).cstep = s.cstep := rfl
@[simp] theorem State.report_qpend (s : State) (a b c d e g : Nat) (l : Bool) : (s.report a b c d e g l).qpend = s.qpend := rfl
@[simp] theorem State.report_pfw (s : State) (a b c d e g : Nat) (l : Bool) : (s.report a b c d e g l).pfw = s.pfw := rfl
@[simp] theorem State.report_life (s : State) (a b c d e g : Nat) (l : Bool) : (s.report a b c d e g l).life = s.life := rfl
@[simp] theorem State.report_safeReq (s : State) (a b c d e g : Nat) (l : Bool) : (s.report a b c d e g l).safeReq = s.safeReq := rfl
@[simp] theorem State.report_tamper (s : State) (a b c d e g : Nat) (l : Bool) : (s.report a b c d e g l).tamper = s.tamper := rfl
@[simp] theorem State.report_vddLow (s : State) (a b c d e g : Nat) (l : Bool) : (s.report a b c d e g l).vddLow = s.vddLow := rfl
@[simp] theorem State.report_winbase (s : State) (a b c d e g : Nat) (l : Bool) : (s.report a b c d e g l).winbase = s.winbase := rfl
@[simp] theorem State.report_linkUp (s : State) (a b c d e g : Nat) (l : Bool) : (s.report a b c d e g l).linkUp = s.linkUp := rfl
@[simp] theorem State.report_linkDown (s : State) (a b c d e g : Nat) (l : Bool) : (s.report a b c d e g l).linkDown = s.linkDown := rfl
@[simp] theorem State.report_linkLost (s : State) (a b c d e g : Nat) (l : Bool) : (s.report a b c d e g l).linkLost = s.linkLost := rfl
@[simp] theorem State.report_heatFen (s : State) (a b c d e g : Nat) (l : Bool) : (s.report a b c d e g l).heatFen = s.heatFen := rfl
@[simp] theorem State.report_mstate (s : State) (a b c d e g : Nat) (l : Bool) : (s.report a b c d e g l).mstate = s.mstate := rfl
@[simp] theorem State.report_gateRun (s : State) (a b c d e g : Nat) (l : Bool) : (s.report a b c d e g l).gateRun = s.gateRun := rfl
@[simp] theorem State.report_regs (s : State) (a b c d e g : Nat) (l : Bool) : (s.report a b c d e g l).regs = s.regs := rfl
@[simp] theorem State.report_lohold (s : State) (a b c d e g : Nat) (l : Bool) : (s.report a b c d e g l).lohold = s.lohold := rfl
@[simp] theorem State.report_latch (s : State) (a b c d e g : Nat) (l : Bool) : (s.report a b c d e g l).latch = s.latch := rfl
@[simp] theorem State.report_runners (s : State) (a b c d e g : Nat) (l : Bool) : (s.report a b c d e g l).runners = s.runners := rfl
@[simp] theorem State.report_arbRun (s : State) (a b c d e g : Nat) (l : Bool) : (s.report a b c d e g l).arbRun = s.arbRun := rfl
@[simp] theorem State.report_slices (s : State) (a b c d e g : Nat) (l : Bool) : (s.report a b c d e g l).slices = s.slices := rfl
@[simp] theorem State.report_spads (s : State) (a b c d e g : Nat) (l : Bool) : (s.report a b c d e g l).spads = s.spads := rfl
@[simp] theorem State.report_arbMem (s : State) (a b c d e g : Nat) (l : Bool) : (s.report a b c d e g l).arbMem = s.arbMem := rfl
@[simp] theorem State.report_memUp (s : State) (a b c d e g : Nat) (l : Bool) : (s.report a b c d e g l).memUp = s.memUp := rfl
@[simp] theorem State.report_caches (s : State) (a b c d e g : Nat) (l : Bool) : (s.report a b c d e g l).caches = s.caches := rfl
@[simp] theorem State.report_cwords (s : State) (a b c d e g : Nat) (l : Bool) : (s.report a b c d e g l).cwords = s.cwords := rfl
@[simp] theorem State.report_cstores (s : State) (a b c d e g : Nat) (l : Bool) : (s.report a b c d e g l).cstores = s.cstores := rfl
@[simp] theorem State.report_img (s : State) (a b c d e g : Nat) (l : Bool) : (s.report a b c d e g l).img = s.img := rfl
@[simp] theorem State.report_rings (s : State) (a b c d e g : Nat) (l : Bool) : (s.report a b c d e g l).rings = s.rings := rfl
@[simp] theorem State.report_queues (s : State) (a b c d e g : Nat) (l : Bool) : (s.report a b c d e g l).queues = s.queues := rfl
@[simp] theorem State.report_credit (s : State) (a b c d e g : Nat) (l : Bool) : (s.report a b c d e g l).credit = s.credit := rfl
@[simp] theorem State.report_qptr (s : State) (a b c d e g : Nat) (l : Bool) : (s.report a b c d e g l).qptr = s.qptr := rfl
@[simp] theorem State.report_rent (s : State) (a b c d e g : Nat) (l : Bool) : (s.report a b c d e g l).rent = s.rent := rfl
@[simp] theorem State.report_arb (s : State) (a b c d e g : Nat) (l : Bool) : (s.report a b c d e g l).arb = s.arb := rfl
@[simp] theorem State.report_hq (s : State) (a b c d e g : Nat) (l : Bool) : (s.report a b c d e g l).hq = s.hq := rfl
@[simp] theorem State.report_hlast (s : State) (a b c d e g : Nat) (l : Bool) : (s.report a b c d e g l).hlast = s.hlast := rfl
@[simp] theorem State.report_ports (s : State) (a b c d e g : Nat) (l : Bool) : (s.report a b c d e g l).ports = s.ports := rfl
@[simp] theorem State.report_jobs (s : State) (a b c d e g : Nat) (l : Bool) : (s.report a b c d e g l).jobs = s.jobs := rfl
@[simp] theorem State.report_carLast (s : State) (a b c d e g : Nat) (l : Bool) : (s.report a b c d e g l).carLast = s.carLast := rfl
@[simp] theorem State.report_carFen (s : State) (a b c d e g : Nat) (l : Bool) : (s.report a b c d e g l).carFen = s.carFen := rfl
@[simp] theorem State.report_pacers (s : State) (a b c d e g : Nat) (l : Bool) : (s.report a b c d e g l).pacers = s.pacers := rfl
@[simp] theorem State.report_pins (s : State) (a b c d e g : Nat) (l : Bool) : (s.report a b c d e g l).pins = s.pins := rfl
@[simp] theorem State.report_perst (s : State) (a b c d e g : Nat) (l : Bool) : (s.report a b c d e g l).perst = s.perst := rfl
@[simp] theorem State.report_scs (s : State) (a b c d e g : Nat) (l : Bool) : (s.report a b c d e g l).scs = s.scs := rfl
@[simp] theorem State.report_out (s : State) (a b c d e g : Nat) (l : Bool) : (s.report a b c d e g l).out = s.out := rfl
@[simp] theorem State.report_pending (s : State) (a b c d e g : Nat) (l : Bool) : (s.report a b c d e g l).pending = s.pending := rfl

@[simp] theorem State.setRunner_fuses (s : State) (r : Rid) (x : Runner) : (s.setRunner r x).fuses = s.fuses := by cases r <;> rfl
@[simp] theorem State.setRunner_lap (s : State) (r : Rid) (x : Runner) : (s.setRunner r x).lap = s.lap := by cases r <;> rfl
@[simp] theorem State.setRunner_clkS (s : State) (r : Rid) (x : Runner) : (s.setRunner r x).clkS = s.clkS := by cases r <;> rfl
@[simp] theorem State.setRunner_fresh (s : State) (r : Rid) (x : Runner) : (s.setRunner r x).fresh = s.fresh := by cases r <;> rfl
@[simp] theorem State.setRunner_mode (s : State) (r : Rid) (x : Runner) : (s.setRunner r x).mode = s.mode := by cases r <;> rfl
@[simp] theorem State.setRunner_prevMode (s : State) (r : Rid) (x : Runner) : (s.setRunner r x).prevMode = s.prevMode := by cases r <;> rfl
@[simp] theorem State.setRunner_hwdone (s : State) (r : Rid) (x : Runner) : (s.setRunner r x).hwdone = s.hwdone := by cases r <;> rfl
@[simp] theorem State.setRunner_cstep (s : State) (r : Rid) (x : Runner) : (s.setRunner r x).cstep = s.cstep := by cases r <;> rfl
@[simp] theorem State.setRunner_qpend (s : State) (r : Rid) (x : Runner) : (s.setRunner r x).qpend = s.qpend := by cases r <;> rfl
@[simp] theorem State.setRunner_pfw (s : State) (r : Rid) (x : Runner) : (s.setRunner r x).pfw = s.pfw := by cases r <;> rfl
@[simp] theorem State.setRunner_life (s : State) (r : Rid) (x : Runner) : (s.setRunner r x).life = s.life := by cases r <;> rfl
@[simp] theorem State.setRunner_safeReq (s : State) (r : Rid) (x : Runner) : (s.setRunner r x).safeReq = s.safeReq := by cases r <;> rfl
@[simp] theorem State.setRunner_tamper (s : State) (r : Rid) (x : Runner) : (s.setRunner r x).tamper = s.tamper := by cases r <;> rfl
@[simp] theorem State.setRunner_vddLow (s : State) (r : Rid) (x : Runner) : (s.setRunner r x).vddLow = s.vddLow := by cases r <;> rfl
@[simp] theorem State.setRunner_winbase (s : State) (r : Rid) (x : Runner) : (s.setRunner r x).winbase = s.winbase := by cases r <;> rfl
@[simp] theorem State.setRunner_linkUp (s : State) (r : Rid) (x : Runner) : (s.setRunner r x).linkUp = s.linkUp := by cases r <;> rfl
@[simp] theorem State.setRunner_linkDown (s : State) (r : Rid) (x : Runner) : (s.setRunner r x).linkDown = s.linkDown := by cases r <;> rfl
@[simp] theorem State.setRunner_linkLost (s : State) (r : Rid) (x : Runner) : (s.setRunner r x).linkLost = s.linkLost := by cases r <;> rfl
@[simp] theorem State.setRunner_heatFen (s : State) (r : Rid) (x : Runner) : (s.setRunner r x).heatFen = s.heatFen := by cases r <;> rfl
@[simp] theorem State.setRunner_mstate (s : State) (r : Rid) (x : Runner) : (s.setRunner r x).mstate = s.mstate := by cases r <;> rfl
@[simp] theorem State.setRunner_gateRun (s : State) (r : Rid) (x : Runner) : (s.setRunner r x).gateRun = s.gateRun := by cases r <;> rfl
@[simp] theorem State.setRunner_regs (s : State) (r : Rid) (x : Runner) : (s.setRunner r x).regs = s.regs := by cases r <;> rfl
@[simp] theorem State.setRunner_lohold (s : State) (r : Rid) (x : Runner) : (s.setRunner r x).lohold = s.lohold := by cases r <;> rfl
@[simp] theorem State.setRunner_latch (s : State) (r : Rid) (x : Runner) : (s.setRunner r x).latch = s.latch := by cases r <;> rfl
@[simp] theorem State.setRunner_slices (s : State) (r : Rid) (x : Runner) : (s.setRunner r x).slices = s.slices := by cases r <;> rfl
@[simp] theorem State.setRunner_spads (s : State) (r : Rid) (x : Runner) : (s.setRunner r x).spads = s.spads := by cases r <;> rfl
@[simp] theorem State.setRunner_arbMem (s : State) (r : Rid) (x : Runner) : (s.setRunner r x).arbMem = s.arbMem := by cases r <;> rfl
@[simp] theorem State.setRunner_memUp (s : State) (r : Rid) (x : Runner) : (s.setRunner r x).memUp = s.memUp := by cases r <;> rfl
@[simp] theorem State.setRunner_caches (s : State) (r : Rid) (x : Runner) : (s.setRunner r x).caches = s.caches := by cases r <;> rfl
@[simp] theorem State.setRunner_cwords (s : State) (r : Rid) (x : Runner) : (s.setRunner r x).cwords = s.cwords := by cases r <;> rfl
@[simp] theorem State.setRunner_cstores (s : State) (r : Rid) (x : Runner) : (s.setRunner r x).cstores = s.cstores := by cases r <;> rfl
@[simp] theorem State.setRunner_img (s : State) (r : Rid) (x : Runner) : (s.setRunner r x).img = s.img := by cases r <;> rfl
@[simp] theorem State.setRunner_rings (s : State) (r : Rid) (x : Runner) : (s.setRunner r x).rings = s.rings := by cases r <;> rfl
@[simp] theorem State.setRunner_queues (s : State) (r : Rid) (x : Runner) : (s.setRunner r x).queues = s.queues := by cases r <;> rfl
@[simp] theorem State.setRunner_credit (s : State) (r : Rid) (x : Runner) : (s.setRunner r x).credit = s.credit := by cases r <;> rfl
@[simp] theorem State.setRunner_qptr (s : State) (r : Rid) (x : Runner) : (s.setRunner r x).qptr = s.qptr := by cases r <;> rfl
@[simp] theorem State.setRunner_rent (s : State) (r : Rid) (x : Runner) : (s.setRunner r x).rent = s.rent := by cases r <;> rfl
@[simp] theorem State.setRunner_arb (s : State) (r : Rid) (x : Runner) : (s.setRunner r x).arb = s.arb := by cases r <;> rfl
@[simp] theorem State.setRunner_hq (s : State) (r : Rid) (x : Runner) : (s.setRunner r x).hq = s.hq := by cases r <;> rfl
@[simp] theorem State.setRunner_hlast (s : State) (r : Rid) (x : Runner) : (s.setRunner r x).hlast = s.hlast := by cases r <;> rfl
@[simp] theorem State.setRunner_ports (s : State) (r : Rid) (x : Runner) : (s.setRunner r x).ports = s.ports := by cases r <;> rfl
@[simp] theorem State.setRunner_jobs (s : State) (r : Rid) (x : Runner) : (s.setRunner r x).jobs = s.jobs := by cases r <;> rfl
@[simp] theorem State.setRunner_carLast (s : State) (r : Rid) (x : Runner) : (s.setRunner r x).carLast = s.carLast := by cases r <;> rfl
@[simp] theorem State.setRunner_carFen (s : State) (r : Rid) (x : Runner) : (s.setRunner r x).carFen = s.carFen := by cases r <;> rfl
@[simp] theorem State.setRunner_pacers (s : State) (r : Rid) (x : Runner) : (s.setRunner r x).pacers = s.pacers := by cases r <;> rfl
@[simp] theorem State.setRunner_pins (s : State) (r : Rid) (x : Runner) : (s.setRunner r x).pins = s.pins := by cases r <;> rfl
@[simp] theorem State.setRunner_perst (s : State) (r : Rid) (x : Runner) : (s.setRunner r x).perst = s.perst := by cases r <;> rfl
@[simp] theorem State.setRunner_ref (s : State) (r : Rid) (x : Runner) : (s.setRunner r x).ref = s.ref := by cases r <;> rfl
@[simp] theorem State.setRunner_scs (s : State) (r : Rid) (x : Runner) : (s.setRunner r x).scs = s.scs := by cases r <;> rfl
@[simp] theorem State.setRunner_out (s : State) (r : Rid) (x : Runner) : (s.setRunner r x).out = s.out := by cases r <;> rfl
@[simp] theorem State.setRunner_pending (s : State) (r : Rid) (x : Runner) : (s.setRunner r x).pending = s.pending := by cases r <;> rfl

@[simp] theorem State.updR_fuses (s : State) (r : Rid) (f : Runner → Runner) : (s.updR r f).fuses = s.fuses := by cases r <;> rfl
@[simp] theorem State.updR_lap (s : State) (r : Rid) (f : Runner → Runner) : (s.updR r f).lap = s.lap := by cases r <;> rfl
@[simp] theorem State.updR_clkS (s : State) (r : Rid) (f : Runner → Runner) : (s.updR r f).clkS = s.clkS := by cases r <;> rfl
@[simp] theorem State.updR_fresh (s : State) (r : Rid) (f : Runner → Runner) : (s.updR r f).fresh = s.fresh := by cases r <;> rfl
@[simp] theorem State.updR_mode (s : State) (r : Rid) (f : Runner → Runner) : (s.updR r f).mode = s.mode := by cases r <;> rfl
@[simp] theorem State.updR_prevMode (s : State) (r : Rid) (f : Runner → Runner) : (s.updR r f).prevMode = s.prevMode := by cases r <;> rfl
@[simp] theorem State.updR_hwdone (s : State) (r : Rid) (f : Runner → Runner) : (s.updR r f).hwdone = s.hwdone := by cases r <;> rfl
@[simp] theorem State.updR_cstep (s : State) (r : Rid) (f : Runner → Runner) : (s.updR r f).cstep = s.cstep := by cases r <;> rfl
@[simp] theorem State.updR_qpend (s : State) (r : Rid) (f : Runner → Runner) : (s.updR r f).qpend = s.qpend := by cases r <;> rfl
@[simp] theorem State.updR_pfw (s : State) (r : Rid) (f : Runner → Runner) : (s.updR r f).pfw = s.pfw := by cases r <;> rfl
@[simp] theorem State.updR_life (s : State) (r : Rid) (f : Runner → Runner) : (s.updR r f).life = s.life := by cases r <;> rfl
@[simp] theorem State.updR_safeReq (s : State) (r : Rid) (f : Runner → Runner) : (s.updR r f).safeReq = s.safeReq := by cases r <;> rfl
@[simp] theorem State.updR_tamper (s : State) (r : Rid) (f : Runner → Runner) : (s.updR r f).tamper = s.tamper := by cases r <;> rfl
@[simp] theorem State.updR_vddLow (s : State) (r : Rid) (f : Runner → Runner) : (s.updR r f).vddLow = s.vddLow := by cases r <;> rfl
@[simp] theorem State.updR_winbase (s : State) (r : Rid) (f : Runner → Runner) : (s.updR r f).winbase = s.winbase := by cases r <;> rfl
@[simp] theorem State.updR_linkUp (s : State) (r : Rid) (f : Runner → Runner) : (s.updR r f).linkUp = s.linkUp := by cases r <;> rfl
@[simp] theorem State.updR_linkDown (s : State) (r : Rid) (f : Runner → Runner) : (s.updR r f).linkDown = s.linkDown := by cases r <;> rfl
@[simp] theorem State.updR_linkLost (s : State) (r : Rid) (f : Runner → Runner) : (s.updR r f).linkLost = s.linkLost := by cases r <;> rfl
@[simp] theorem State.updR_heatFen (s : State) (r : Rid) (f : Runner → Runner) : (s.updR r f).heatFen = s.heatFen := by cases r <;> rfl
@[simp] theorem State.updR_mstate (s : State) (r : Rid) (f : Runner → Runner) : (s.updR r f).mstate = s.mstate := by cases r <;> rfl
@[simp] theorem State.updR_gateRun (s : State) (r : Rid) (f : Runner → Runner) : (s.updR r f).gateRun = s.gateRun := by cases r <;> rfl
@[simp] theorem State.updR_regs (s : State) (r : Rid) (f : Runner → Runner) : (s.updR r f).regs = s.regs := by cases r <;> rfl
@[simp] theorem State.updR_lohold (s : State) (r : Rid) (f : Runner → Runner) : (s.updR r f).lohold = s.lohold := by cases r <;> rfl
@[simp] theorem State.updR_latch (s : State) (r : Rid) (f : Runner → Runner) : (s.updR r f).latch = s.latch := by cases r <;> rfl
@[simp] theorem State.updR_slices (s : State) (r : Rid) (f : Runner → Runner) : (s.updR r f).slices = s.slices := by cases r <;> rfl
@[simp] theorem State.updR_spads (s : State) (r : Rid) (f : Runner → Runner) : (s.updR r f).spads = s.spads := by cases r <;> rfl
@[simp] theorem State.updR_arbMem (s : State) (r : Rid) (f : Runner → Runner) : (s.updR r f).arbMem = s.arbMem := by cases r <;> rfl
@[simp] theorem State.updR_memUp (s : State) (r : Rid) (f : Runner → Runner) : (s.updR r f).memUp = s.memUp := by cases r <;> rfl
@[simp] theorem State.updR_caches (s : State) (r : Rid) (f : Runner → Runner) : (s.updR r f).caches = s.caches := by cases r <;> rfl
@[simp] theorem State.updR_cwords (s : State) (r : Rid) (f : Runner → Runner) : (s.updR r f).cwords = s.cwords := by cases r <;> rfl
@[simp] theorem State.updR_cstores (s : State) (r : Rid) (f : Runner → Runner) : (s.updR r f).cstores = s.cstores := by cases r <;> rfl
@[simp] theorem State.updR_img (s : State) (r : Rid) (f : Runner → Runner) : (s.updR r f).img = s.img := by cases r <;> rfl
@[simp] theorem State.updR_rings (s : State) (r : Rid) (f : Runner → Runner) : (s.updR r f).rings = s.rings := by cases r <;> rfl
@[simp] theorem State.updR_queues (s : State) (r : Rid) (f : Runner → Runner) : (s.updR r f).queues = s.queues := by cases r <;> rfl
@[simp] theorem State.updR_credit (s : State) (r : Rid) (f : Runner → Runner) : (s.updR r f).credit = s.credit := by cases r <;> rfl
@[simp] theorem State.updR_qptr (s : State) (r : Rid) (f : Runner → Runner) : (s.updR r f).qptr = s.qptr := by cases r <;> rfl
@[simp] theorem State.updR_rent (s : State) (r : Rid) (f : Runner → Runner) : (s.updR r f).rent = s.rent := by cases r <;> rfl
@[simp] theorem State.updR_arb (s : State) (r : Rid) (f : Runner → Runner) : (s.updR r f).arb = s.arb := by cases r <;> rfl
@[simp] theorem State.updR_hq (s : State) (r : Rid) (f : Runner → Runner) : (s.updR r f).hq = s.hq := by cases r <;> rfl
@[simp] theorem State.updR_hlast (s : State) (r : Rid) (f : Runner → Runner) : (s.updR r f).hlast = s.hlast := by cases r <;> rfl
@[simp] theorem State.updR_ports (s : State) (r : Rid) (f : Runner → Runner) : (s.updR r f).ports = s.ports := by cases r <;> rfl
@[simp] theorem State.updR_jobs (s : State) (r : Rid) (f : Runner → Runner) : (s.updR r f).jobs = s.jobs := by cases r <;> rfl
@[simp] theorem State.updR_carLast (s : State) (r : Rid) (f : Runner → Runner) : (s.updR r f).carLast = s.carLast := by cases r <;> rfl
@[simp] theorem State.updR_carFen (s : State) (r : Rid) (f : Runner → Runner) : (s.updR r f).carFen = s.carFen := by cases r <;> rfl
@[simp] theorem State.updR_pacers (s : State) (r : Rid) (f : Runner → Runner) : (s.updR r f).pacers = s.pacers := by cases r <;> rfl
@[simp] theorem State.updR_pins (s : State) (r : Rid) (f : Runner → Runner) : (s.updR r f).pins = s.pins := by cases r <;> rfl
@[simp] theorem State.updR_perst (s : State) (r : Rid) (f : Runner → Runner) : (s.updR r f).perst = s.perst := by cases r <;> rfl
@[simp] theorem State.updR_ref (s : State) (r : Rid) (f : Runner → Runner) : (s.updR r f).ref = s.ref := by cases r <;> rfl
@[simp] theorem State.updR_scs (s : State) (r : Rid) (f : Runner → Runner) : (s.updR r f).scs = s.scs := by cases r <;> rfl
@[simp] theorem State.updR_out (s : State) (r : Rid) (f : Runner → Runner) : (s.updR r f).out = s.out := by cases r <;> rfl
@[simp] theorem State.updR_pending (s : State) (r : Rid) (f : Runner → Runner) : (s.updR r f).pending = s.pending := by cases r <;> rfl

@[simp] theorem State.updArb_arb (s : State) (f : Arbiter → Arbiter) : (s.updArb f).arb = f s.arb := rfl
@[simp] theorem State.updRef_ref (s : State) (f : Referee → Referee) : (s.updRef f).ref = f s.ref := rfl
@[simp] theorem State.updScs_scs (s : State) (f : Scores → Scores) : (s.updScs f).scs = f s.scs := rfl
@[simp] theorem State.updImg_img (s : State) (f : Img → Img) : (s.updImg f).img = f s.img := rfl
@[simp] theorem State.put_out (s : State) (o : Out) : (s.put o).out = s.out ++ [o] := rfl

end Sys2Proof.Machine
end

