-- ==== Sys2Proof/Laws/Trigger.lean ====
section
/-! SUPPORT. Everything a single trigger can do: nothing, a failed check, a fault, a stall, or its unit's effect. -/
namespace Sys2Proof.Machine

/-- The state in which a unit of `r` takes a trigger: CTL's fields are taken, a stall is over. -/
def State.taking (s : State) (r : Rid) : State := (s.beginWord r).updR r fun x => x.stallEnd (s.beginWord r).clkS

theorem took_congr {s : State} {r : Rid} {f g : State → State} (h : f (s.taking r) = g (s.taking r)) : s.took r f = s.took r g :=
  congrArg (fun t => State.thenStop t (s.beginWord r) r) h

/-- A word that begins takes CTL's fields, and nothing else changes (R75). -/
theorem beginWord_cases (s : State) (r : Rid) :
    s.beginWord r = s ∨ s.beginWord r = s.updR r fun x => { x with ctlEff := s.reg r.page 0x100 } := by
  unfold State.beginWord
  dsimp only
  split
  · exact .inr rfl
  · exact .inl rfl

theorem updR_ok {s : State} (h : s.TablesOk) (r : Rid) (f : Runner → Runner) : (s.updR r f).TablesOk := by
  cases r with
  | arb => exact { h with }
  | heat a i => exact { h with runners := twf_tset h.runners }

theorem beginWord_ok {s : State} (h : s.TablesOk) (r : Rid) : (s.beginWord r).TablesOk := by
  rcases beginWord_cases s r with e | e <;> rw [e]
  · exact h
  · exact updR_ok h r _

/-- A runner whose word begins differs in the copy of CTL alone. -/
theorem beginWord_runner {s : State} (h : s.TablesOk) (r : Rid) :
    ∃ c, (s.beginWord r).runner r = { s.runner r with ctlEff := c } := by
  rcases beginWord_cases s r with e | e <;> rw [e]
  · exact ⟨_, rfl⟩
  · exact ⟨_, State.runner_updR h ..⟩

/-- A word's beginning changes no field of the complex but its runners, and time stands. -/
@[simp] theorem beginWord_clkS (s : State) (r : Rid) : (s.beginWord r).clkS = s.clkS := by
  rcases beginWord_cases s r with e | e <;> rw [e] <;> cases r <;> rfl

/-- The end of a stall changes STL and the mark of the stall, nothing else of the runner (R48, R65). -/
theorem stallEnd_eq (x : Runner) (now : Nat) :
    x.stallEnd now = { x with stl := x.stl + BitVec.ofNat 64 (2 * (now - x.stallAt.getD now)), stallAt := none } := by
  unfold Runner.stallEnd
  split
  · rename_i e
    cases x
    simp_all
  · rename_i t e
    rw [e]
    rfl

/-- The runner whose trigger a unit takes: CTL's copy, STL and the mark of the stall apart it is as it was. -/
theorem taking_runner {s : State} (h : s.TablesOk) (r : Rid) :
    ∃ c n, (s.taking r).runner r = { s.runner r with ctlEff := c, stl := n, stallAt := none } := by
  obtain ⟨c, e⟩ := beginWord_runner h r
  unfold State.taking
  rw [State.runner_updR (beginWord_ok h r), stallEnd_eq, e]
  exact ⟨_, _, rfl⟩

/-- The operand ports of a runner whose trigger is taken are as they were. -/
theorem taking_op {s : State} (h : s.TablesOk) (r : Rid) (p : Nat) : ((s.taking r).runner r).op p = (s.runner r).op p := by
  obtain ⟨c, n, e⟩ := taking_runner h r
  rw [e]
  rfl

/-- A runner that executes no word now takes no trigger. -/
theorem trigger_idle {s : State} {r : Rid} (h : s.canTrig r = false) (p : Nat) (v : Word) : s.trigger r p v = s := by
  simp [State.trigger, h]

/-- The unit takes the trigger. -/
theorem trigger_taken {s : State} {r : Rid} {p : Nat} {t : Trig} {v : Word} (h : s.canTrig r = true) (hc : ((s.beginWord r).runner r).resFail = false)
    (hp : (s.beginWord r).portOpen r p) (ht : trigOf p = some t) (hf : (s.beginWord r).trigFaults r t v = [])
    (hb : (s.beginWord r).trigBusy r t v = false) : s.trigger r p v = s.took r fun u => u.trigRun r t v := by
  obtain ⟨i, hi, hw⟩ := hp
  simp [State.trigger, State.portLevel, State.took, h, hc, hi, hw, ht, hf, hb, worst]

/-- The unit cannot accept it yet: the word stalls. -/
theorem trigger_stalls {s : State} {r : Rid} {p : Nat} {t : Trig} {v : Word} (h : s.canTrig r = true) (hc : ((s.beginWord r).runner r).resFail = false)
    (hp : (s.beginWord r).portOpen r p) (ht : trigOf p = some t) (hf : (s.beginWord r).trigFaults r t v = [])
    (hb : (s.beginWord r).trigBusy r t v = true) : s.trigger r p v = (s.beginWord r).stallNow r := by
  obtain ⟨i, hi, hw⟩ := hp
  simp [State.trigger, State.portLevel, h, hc, hi, hw, ht, hf, hb, worst]

theorem worst_none {l : List WFault} (h : worst l = none) : l = [] := by
  cases l with
  | nil => rfl
  | cons a t =>
    unfold worst at h
    split at h <;> cases h

/-- Some fault is raised, and nothing else happens. -/
theorem trigger_faults {s : State} {r : Rid} {p : Nat} {v : Word} (h : s.canTrig r = true) (hc : ((s.beginWord r).runner r).resFail = false)
    (hf : (s.beginWord r).portInfo r p = none ∨ (∃ i c, (s.beginWord r).portInfo r p = some i ∧ (s.beginWord r).portFault r p i = some c)
      ∨ ∃ t, trigOf p = some t ∧ (s.beginWord r).trigFaults r t v ≠ []) :
    ∃ f, s.trigger r p v = (s.beginWord r).faultNow r f := by
  unfold State.trigger
  rw [if_neg (by simp [h])]
  dsimp only
  split
  · rename_i i t hi ht
    rw [if_neg (by simp [hc])]
    split
    · exact ⟨_, rfl⟩
    · rename_i he
      have h2 := List.append_eq_nil_iff.1 (worst_none he)
      rcases hf with e | ⟨j, c, e, ec⟩ | ⟨t', e, ne⟩
      · rw [e] at hi; cases hi
      · rw [e] at hi; cases hi
        have := h2.1
        unfold State.portLevel at this
        rw [ec] at this
        cases this
      · rw [e] at ht; cases ht
        exact absurd (List.map_eq_nil_iff.1 h2.2) ne
  · exact ⟨_, rfl⟩

/-- The five things a trigger can do. -/
theorem trigger_cases (s : State) (r : Rid) (p : Nat) (v : Word) :
    s.trigger r p v = s ∨ s.trigger r p v = (s.beginWord r).failNow r ∨ (∃ f, s.trigger r p v = (s.beginWord r).faultNow r f)
      ∨ s.trigger r p v = (s.beginWord r).stallNow r ∨ ∃ t, trigOf p = some t ∧ s.trigger r p v = s.took r fun u => u.trigRun r t v := by
  unfold State.trigger
  dsimp only
  split
  · exact .inl rfl
  · split
    · split
      · exact .inr (.inl rfl)
      · split
        · exact .inr (.inr (.inl ⟨_, rfl⟩))
        · split
          · exact .inr (.inr (.inr (.inl rfl)))
          · exact .inr (.inr (.inr (.inr ⟨_, ‹_›, rfl⟩)))
    · exact .inr (.inr (.inl ⟨_, rfl⟩))

end Sys2Proof.Machine
end

