-- ==== Sys2Proof/Laws/Flow.lean ====
section
/-! SUPPORT. What a word of one flow or string trigger does to its runner, and what of it prediction and fetching can change. -/
namespace Sys2Proof.Machine

theorem tset_tset {α : Type} [DecidableEq α] {d : α} {t : Table α} (h : twf d t = true) (k : Nat) (a b : α) :
    tset d (tset d t k a) k b = tset d t k b := by
  have key : ∀ (t : Table α) (lo : Option Nat), twfFrom d lo t = true → tset d (tset d t k a) k b = tset d t k b := by
    intro t
    induction t with
    | nil =>
      intro lo _
      by_cases ha : a = d <;> simp [tset, ha]
    | cons e t ih =>
      intro lo h
      obtain ⟨j, v⟩ := e
      rw [twfFrom_cons] at h
      obtain ⟨-, hv, ht⟩ := h
      rcases Nat.lt_trichotomy k j with hk | hk | hk
      · by_cases ha : a = d
        · simp [tset, ha, hk]
        · by_cases hb : b = d <;> simp [tset, ha, hk, hb]
      · subst hk
        by_cases ha : a = d
        · simp only [tset, ha, if_neg (Nat.lt_irrefl k), if_true]
          cases t with
          | nil => simp [tset]
          | cons e t =>
            obtain ⟨m, u⟩ := e
            rw [twfFrom_cons] at ht
            have hm : k < m := by simpa using ht.1
            simp [tset, hm]
        · simp [tset, ha]
      · have h1 : ¬k < j := by omega
        have h2 : k ≠ j := by omega
        simp only [tset, if_neg h1, if_neg h2]
        rw [ih _ ht]
  exact key t none h

theorem State.setRunner_setRunner {s : State} (h : s.TablesOk) (r : Rid) (x y : Runner) : (s.setRunner r x).setRunner r y = s.setRunner r y := by
  cases r with
  | arb => rfl
  | heat a i =>
    show { s with runners := tset {} (tset {} s.runners (9 * a + i) x) (9 * a + i) y } = _
    rw [tset_tset h.runners]
    rfl

theorem State.setRunner_ok {s : State} (h : s.TablesOk) (r : Rid) (x : Runner) : (s.setRunner r x).TablesOk := by
  cases r with
  | arb => exact { h with }
  | heat a i => exact { h with runners := twf_tset h.runners }

theorem tget_low {α : Type} [DecidableEq α] {d : α} {t : Table α} {k : Nat} (h : twfFrom d (some k) t = true) : tget d t k = d := by
  induction t with
  | nil => rfl
  | cons e t ih =>
    obtain ⟨j, v⟩ := e
    rw [twfFrom_cons] at h
    have hj : k < j := h.1 k rfl
    rw [tget_cons, if_neg (by omega)]
    exact ih (twfFrom_mono h.2.2 fun l e => ⟨j, rfl, by cases e; omega⟩)

theorem tset_self {α : Type} [DecidableEq α] {d : α} {t : Table α} (h : twf d t = true) (k : Nat) : tset d t k (tget d t k) = t := by
  have key : ∀ (t : Table α) (lo : Option Nat), twfFrom d lo t = true → tset d t k (tget d t k) = t := by
    intro t
    induction t with
    | nil => simp [tset, tget]
    | cons e t ih =>
      intro lo h
      obtain ⟨j, v⟩ := e
      rw [twfFrom_cons] at h
      obtain ⟨-, hv, ht⟩ := h
      rcases Nat.lt_trichotomy k j with hk | hk | hk
      · have e1 : tget d ((j, v) :: t) k = d := tget_low ((twfFrom_cons ..).2 ⟨by simpa using hk, hv, ht⟩)
        rw [e1]
        simp [tset, hk]
      · subst hk
        simp [tset, tget, hv]
      · have e1 : tget d ((j, v) :: t) k = tget d t k := by rw [tget_cons, if_neg (by omega)]
        rw [e1, tset, if_neg (by omega), if_neg (by omega), ih _ ht]
  exact key t none h

theorem State.setRunner_self {s : State} (h : s.TablesOk) (r : Rid) : s.setRunner r (s.runner r) = s := by
  cases r with
  | arb => rfl
  | heat a i =>
    show { s with runners := tset {} s.runners (9 * a + i) (tget {} s.runners (9 * a + i)) } = s
    rw [tset_self h.runners]

theorem State.updR_setRunner {s : State} (h : s.TablesOk) (r : Rid) (x : Runner) (f : Runner → Runner) :
    (s.setRunner r x).updR r f = s.setRunner r (f x) := by
  unfold State.updR
  rw [State.runner_setRunner h, State.setRunner_setRunner h]

/-- Prediction changes only what `plain` drops. -/
theorem resolve_plain (y x : Runner) (w : Word4) (c t : Bool) : (y.resolve x w c t).plain = y.plain := by
  unfold Runner.resolve Runner.dropFrom
  dsimp only
  split
  · rfl
  · split
    · rfl
    · split <;> rfl

theorem train_plain (x : Runner) (pc a : CAddr) : (x.train pc a).plain = x.plain := by
  unfold Runner.train
  dsimp only
  split <;> rfl

theorem refetch_plain (y : Runner) (pc : CAddr) : (y.refetch pc).plain = y.plain := by
  unfold Runner.refetch
  split <;> rfl

theorem decodeWord_plain (s : State) (r : Rid) (pc : CAddr) (rep : Rep) (raw : MoveWord) :
    (s.decodeWord r pc rep raw).plain = (s.runner r).plain := by
  unfold State.decodeWord State.decoded
  dsimp only
  split
  · split
    · rfl
    · split
      · rfl
      · split <;> rfl
  · rfl

/-- What is decoded along the path changes only what `plain` drops of one runner. -/
theorem decodeAhead_plain {r : Rid} (n : Nat) : ∀ {s : State}, s.TablesOk →
    ∃ y, s.decodeAhead r n = s.setRunner r y ∧ y.plain = (s.runner r).plain := by
  induction n with
  | zero => exact fun {s} h => ⟨s.runner r, (State.setRunner_self h r).symm, rfl⟩
  | succ n ih =>
    intro s h
    have self : ∃ y, s = s.setRunner r y ∧ y.plain = (s.runner r).plain := ⟨s.runner r, (State.setRunner_self h r).symm, rfl⟩
    unfold State.decodeAhead
    dsimp only
    split
    · exact self
    · split
      · exact self
      · split
        · exact self
        · rename_i a rep _ _ raw _
          obtain ⟨y, e, p⟩ := ih (State.setRunner_ok h r (s.decodeWord r a rep raw))
          refine ⟨y, ?_, ?_⟩
          · rw [e, State.setRunner_setRunner h]
          · rw [p, State.runner_setRunner h, decodeWord_plain]

theorem follow_plain {s : State} (h : s.TablesOk) (r : Rid) : ∃ y, s.follow r = s.setRunner r y ∧ y.plain = (s.runner r).plain :=
  decodeAhead_plain 4 h

/-- Return stack, repeat and next address of a decision; the rest of the runner stands, prediction apart (R124, R129 to R134). -/
theorem transfer_plain (y : Runner) (pc : CAddr) (d : Decision) (own : Bool) :
    (y.transfer pc d own).plain = { y with
      rs := if d.call then ((pc + 1) :: y.rs).take 16 else if d.ret then y.rs.drop 1 else y.rs,
      rep := (repNext y.rep pc d own).1, pc := (repNext y.rep pc d own).2 }.plain := by
  unfold Runner.transfer
  dsimp only
  have e : ∀ z : Runner, (if d.book then z.train pc d.act else z).plain = z.plain := by
    intro z
    split
    · exact train_plain ..
    · rfl
  rw [e]
  cases d.call <;> cases d.ret <;> rfl

/-- A flow or string trigger that nothing stops is the commit of its word. -/
theorem flowTrigger_taken {s : State} {r : Rid} {p : Nat} {v : Word} (h : s.canTrig r = true) (hc : ((s.beginWord r).runner r).resFail = false)
    (hp : (s.beginWord r).portOpen r p) (hl : (s.beginWord r).frameLost r [flowMv p v] = false) (hf : (s.beginWord r).flowFaults r p v = [])
    (hb : (s.beginWord r).anyBusy (s.beginWord r) r [flowMv p v] = false) :
    s.flowTrigger r p v = (((s.beginWord r).flowPath r p v).commitWord r (flowWord p) [flowMv p v]).thenStop (s.beginWord r) r := by
  obtain ⟨i, hi, hw⟩ := hp
  simp [State.flowTrigger, State.portLevel, h, hc, hl, hi, hw, hf, hb, worst]

/-- A flow trigger that one fault stops. -/
theorem flowTrigger_fault {s : State} {r : Rid} {p : Nat} {v : Word} {c : Nat} {d : Word} (h : s.canTrig r = true)
    (hc : ((s.beginWord r).runner r).resFail = false) (hp : (s.beginWord r).portOpen r p) (hl : (s.beginWord r).frameLost r [flowMv p v] = false)
    (hf : (s.beginWord r).flowFaults r p v = [(c, d)]) :
    s.flowTrigger r p v = (s.beginWord r).faultNow r { code := c, sv := true, slot := 0, detail := d } := by
  obtain ⟨i, hi, hw⟩ := hp
  simp [State.flowTrigger, State.portLevel, h, hc, hl, hi, hw, hf, worst, WFault.record]

/-- The end of a word: the path is followed from its next address, the fetch buffer and RUN.PC follow. -/
def State.wordDone (s : State) (r : Rid) (pc : CAddr) : State :=
  ((s.updR r fun y => y.refetch pc).follow r).setReg r.page 0x10C (BitVec.ofNat 32 (2 ^ 31 + pc.toNat))

/-- The commit of a word whose one slot is a flow trigger: `f` is what the trigger does to the state in which the word has begun to commit. -/
theorem commitGo_flow {s : State} {r : Rid} {p : Nat} {v : Word} {x0 : Runner} {c : Bool} {ws : List Word} (hp : ∀ t : State, t.isTrig r p = true)
    (hw : p ≠ 0x1C0) (hx : p < 0x600) (hf : isFlow p = true) (ht : trigOf p = none) :
    s.commitGo r x0 c (flowWord p) [flowMv p v] ws
      = (let t := s.updR r fun x => x.beginCommit false s.clkS
         let d := t.decision r x0 (flowWord p) c (some (flowMv p v)) ws
         ((t.flowGo r x0 d (some (flowMv p v)) ws false).resolve r x0 (flowWord p) d).wordDone r x0.pc) := by
  have hph : ∀ a b, phase a b p = 0x3800 := by
    intro a b
    simp [phase, ht, hf]
  simp [State.commitGo, State.writeAll, State.extWrites, State.plainMoves, State.wordDone, flowMv, Mv.isExt, rsActOf, hp, hf, beq_eq_false_iff_ne.2 hw,
    Nat.not_le.2 hx, twoStores, ht, sortOn, insertOn, hph, State.each, flowWord]

/-- The commit of a word whose one slot is a string trigger. -/
theorem commitGo_str {s : State} {r : Rid} {p : Nat} {v : Word} {k : StrKind} {x0 : Runner} {c : Bool} {ws : List Word}
    (hp : ∀ t : State, t.isTrig r p = true) (hw : p ≠ 0x1C0) (hx : p < 0x600) (hf : isFlow p = false) (ht : trigOf p = some (.str k)) :
    s.commitGo r x0 c (flowWord p) [flowMv p v] ws
      = (let t := s.updR r fun x => x.beginCommit false s.clkS
         let d := t.decision r x0 (flowWord p) c none ws
         let u := (t.flowGo r x0 d none ws false).resolve r x0 (flowWord p) d
         (u.runStr r k x0.pc (u.runner r).pc 0).wordDone r x0.pc) := by
  have hph : ∀ a b, phase a b p = 0x4000 := by
    intro a b
    simp [phase, ht]
  simp [State.commitGo, State.writeAll, State.extWrites, State.plainMoves, State.wordDone, flowMv, Mv.isExt, rsActOf, hp, hf, beq_eq_false_iff_ne.2 hw,
    Nat.not_le.2 hx, twoStores, ht, sortOn, insertOn, hph, State.each, flowWord, State.phaseGo]

end Sys2Proof.Machine
end

