-- ==== Sys2Proof/Laws/Kept.lean ====
section
/-! SUPPORT. What no command but a cold start changes: the fuses, and the queue of commands; that memories and tables stay canonical; one lemma for each operation. -/
set_option linter.unusedTactic false
set_option linter.unreachableTactic false

namespace Sys2Proof.Machine

/-- From `z` to `s` the fuses and the queue of commands stand as they are, and canonical memories and tables stay canonical. -/
structure Kept (z s : State) : Prop where
  fuses   : s.fuses = z.fuses
  pending : s.pending = z.pending
  mem     : z.MemOk → s.MemOk
  tab     : z.TablesOk → s.TablesOk

theorem Kept.refl (s : State) : Kept s s := ⟨rfl, rfl, id, id⟩

/-- Other fields than the fuses, the queue, the memories and the tables do not matter. -/
theorem Kept.of {z s : State} (h : Kept z s)
    {a0 a1 a2 a3 a4 a5 a6 a7 a8 a9 a10 a11 a12 a13 a14 a15 a16 a17 a18 a19 a20 a21 a22 a23 a24 a25 a26 a27 a28 a29 a30 a31 a32 a33} :
    Kept z { s with
      lap := a0, clkS := a1, fresh := a2, mode := a3, prevMode := a4, hwdone := a5, cstep := a6, qpend := a7, pfw := a8, life := a9, safeReq := a10,
      tamper := a11, vddLow := a12, winbase := a13, linkUp := a14, linkDown := a15, linkLost := a16, heatFen := a17, gateRun := a18, lohold := a19,
      latch := a20, arbRun := a21, img := a22, queues := a23, credit := a24, qptr := a25, rent := a26, arb := a27, hlast := a28, carLast := a29,
      perst := a30, ref := a31, scs := a32, out := a33 } :=
  ⟨h.fuses, h.pending, fun hz => ⟨(h.mem hz).1, (h.mem hz).2, (h.mem hz).3⟩,
    fun hz => ⟨(h.tab hz).1, (h.tab hz).2, (h.tab hz).3, (h.tab hz).4, (h.tab hz).5, (h.tab hz).6, (h.tab hz).7, (h.tab hz).8, (h.tab hz).9, (h.tab hz).10, (h.tab hz).11, (h.tab hz).12, (h.tab hz).13, (h.tab hz).14⟩⟩

/-- The memories change and stay canonical. -/
theorem Kept.memories {z s : State} (h : Kept z s) {a b : Table Byte} {c : Table MoveWord} (ha : Memory.wf s.spads = true → Memory.wf a = true)
    (hb : Memory.wf s.arbMem = true → Memory.wf b = true) (hc : twf 0 s.cwords = true → twf 0 c = true) :
    Kept z { s with spads := a, arbMem := b, cwords := c } :=
  ⟨h.fuses, h.pending, fun hz => ⟨ha (h.mem hz).1, hb (h.mem hz).2, hc (h.mem hz).3⟩,
    fun hz => ⟨(h.tab hz).1, (h.tab hz).2, (h.tab hz).3, (h.tab hz).4, (h.tab hz).5, (h.tab hz).6, (h.tab hz).7, (h.tab hz).8, (h.tab hz).9, (h.tab hz).10, (h.tab hz).11, (h.tab hz).12, (h.tab hz).13, (h.tab hz).14⟩⟩

theorem each_kept {α : Type} {z s : State} {l : List α} {f : State → α → State} (h : Kept z s) (hf : ∀ s a, Kept z s → Kept z (f s a)) :
    Kept z (s.each l f) := by
  show Kept z (l.foldl f s)
  induction l generalizing s with
  | nil => exact h
  | cons a t ih => exact ih (hf s a h)

theorem when_kept {z s : State} {b : Bool} {f : State → State} (h : Kept z s) (hf : ∀ s, Kept z s → Kept z (f s)) : Kept z (s.when b f) := by
  unfold State.when
  split
  · exact hf s h
  · exact h

theorem Kept.ite {z a b : State} {p : Prop} [Decidable p] (ha : Kept z a) (hb : Kept z b) : Kept z (if p then a else b) := by
  split
  · exact ha
  · exact hb

theorem Kept.runners {z s : State} (h : Kept z s) {v : Table Runner} (hv : (twf {} s.runners = true) → twf {} v = true) :
    Kept z { s with runners := v } :=
  ⟨h.fuses, h.pending, fun hz => ⟨(h.mem hz).1, (h.mem hz).2, (h.mem hz).3⟩,
    fun hz => ⟨hv (h.tab hz).1, (h.tab hz).2, (h.tab hz).3, (h.tab hz).4, (h.tab hz).5, (h.tab hz).6, (h.tab hz).7, (h.tab hz).8, (h.tab hz).9, (h.tab hz).10, (h.tab hz).11, (h.tab hz).12, (h.tab hz).13, (h.tab hz).14⟩⟩

theorem Kept.slices {z s : State} (h : Kept z s) {v : Table Slice} (hv : (twf {} s.slices = true) → twf {} v = true) :
    Kept z { s with slices := v } :=
  ⟨h.fuses, h.pending, fun hz => ⟨(h.mem hz).1, (h.mem hz).2, (h.mem hz).3⟩,
    fun hz => ⟨(h.tab hz).1, hv (h.tab hz).2, (h.tab hz).3, (h.tab hz).4, (h.tab hz).5, (h.tab hz).6, (h.tab hz).7, (h.tab hz).8, (h.tab hz).9, (h.tab hz).10, (h.tab hz).11, (h.tab hz).12, (h.tab hz).13, (h.tab hz).14⟩⟩

theorem Kept.memUp {z s : State} (h : Kept z s) {v : Table MemUp} (hv : (twf {} s.memUp = true) → twf {} v = true) :
    Kept z { s with memUp := v } :=
  ⟨h.fuses, h.pending, fun hz => ⟨(h.mem hz).1, (h.mem hz).2, (h.mem hz).3⟩,
    fun hz => ⟨(h.tab hz).1, (h.tab hz).2, hv (h.tab hz).3, (h.tab hz).4, (h.tab hz).5, (h.tab hz).6, (h.tab hz).7, (h.tab hz).8, (h.tab hz).9, (h.tab hz).10, (h.tab hz).11, (h.tab hz).12, (h.tab hz).13, (h.tab hz).14⟩⟩

theorem Kept.caches {z s : State} (h : Kept z s) {v : Table Cache} (hv : (twf {} s.caches = true) → twf {} v = true) :
    Kept z { s with caches := v } :=
  ⟨h.fuses, h.pending, fun hz => ⟨(h.mem hz).1, (h.mem hz).2, (h.mem hz).3⟩,
    fun hz => ⟨(h.tab hz).1, (h.tab hz).2, (h.tab hz).3, hv (h.tab hz).4, (h.tab hz).5, (h.tab hz).6, (h.tab hz).7, (h.tab hz).8, (h.tab hz).9, (h.tab hz).10, (h.tab hz).11, (h.tab hz).12, (h.tab hz).13, (h.tab hz).14⟩⟩

theorem Kept.cstores {z s : State} (h : Kept z s) {v : Table CStore} (hv : (twf {} s.cstores = true) → twf {} v = true) :
    Kept z { s with cstores := v } :=
  ⟨h.fuses, h.pending, fun hz => ⟨(h.mem hz).1, (h.mem hz).2, (h.mem hz).3⟩,
    fun hz => ⟨(h.tab hz).1, (h.tab hz).2, (h.tab hz).3, (h.tab hz).4, hv (h.tab hz).5, (h.tab hz).6, (h.tab hz).7, (h.tab hz).8, (h.tab hz).9, (h.tab hz).10, (h.tab hz).11, (h.tab hz).12, (h.tab hz).13, (h.tab hz).14⟩⟩

theorem Kept.rings {z s : State} (h : Kept z s) {v : Table Ring} (hv : (twf {} s.rings = true) → twf {} v = true) :
    Kept z { s with rings := v } :=
  ⟨h.fuses, h.pending, fun hz => ⟨(h.mem hz).1, (h.mem hz).2, (h.mem hz).3⟩,
    fun hz => ⟨(h.tab hz).1, (h.tab hz).2, (h.tab hz).3, (h.tab hz).4, (h.tab hz).5, hv (h.tab hz).6, (h.tab hz).7, (h.tab hz).8, (h.tab hz).9, (h.tab hz).10, (h.tab hz).11, (h.tab hz).12, (h.tab hz).13, (h.tab hz).14⟩⟩

theorem Kept.hq {z s : State} (h : Kept z s) {v : Table HQueue} (hv : (twf {} s.hq = true) → twf {} v = true) :
    Kept z { s with hq := v } :=
  ⟨h.fuses, h.pending, fun hz => ⟨(h.mem hz).1, (h.mem hz).2, (h.mem hz).3⟩,
    fun hz => ⟨(h.tab hz).1, (h.tab hz).2, (h.tab hz).3, (h.tab hz).4, (h.tab hz).5, (h.tab hz).6, hv (h.tab hz).7, (h.tab hz).8, (h.tab hz).9, (h.tab hz).10, (h.tab hz).11, (h.tab hz).12, (h.tab hz).13, (h.tab hz).14⟩⟩

theorem Kept.ports {z s : State} (h : Kept z s) {v : Table Port} (hv : (twf {} s.ports = true) → twf {} v = true) :
    Kept z { s with ports := v } :=
  ⟨h.fuses, h.pending, fun hz => ⟨(h.mem hz).1, (h.mem hz).2, (h.mem hz).3⟩,
    fun hz => ⟨(h.tab hz).1, (h.tab hz).2, (h.tab hz).3, (h.tab hz).4, (h.tab hz).5, (h.tab hz).6, (h.tab hz).7, hv (h.tab hz).8, (h.tab hz).9, (h.tab hz).10, (h.tab hz).11, (h.tab hz).12, (h.tab hz).13, (h.tab hz).14⟩⟩

theorem Kept.jobs {z s : State} (h : Kept z s) {v : Table Job} (hv : (twf {} s.jobs = true) → twf {} v = true) :
    Kept z { s with jobs := v } :=
  ⟨h.fuses, h.pending, fun hz => ⟨(h.mem hz).1, (h.mem hz).2, (h.mem hz).3⟩,
    fun hz => ⟨(h.tab hz).1, (h.tab hz).2, (h.tab hz).3, (h.tab hz).4, (h.tab hz).5, (h.tab hz).6, (h.tab hz).7, (h.tab hz).8, hv (h.tab hz).9, (h.tab hz).10, (h.tab hz).11, (h.tab hz).12, (h.tab hz).13, (h.tab hz).14⟩⟩

theorem Kept.pacers {z s : State} (h : Kept z s) {v : Table Pacer} (hv : (twf {} s.pacers = true) → twf {} v = true) :
    Kept z { s with pacers := v } :=
  ⟨h.fuses, h.pending, fun hz => ⟨(h.mem hz).1, (h.mem hz).2, (h.mem hz).3⟩,
    fun hz => ⟨(h.tab hz).1, (h.tab hz).2, (h.tab hz).3, (h.tab hz).4, (h.tab hz).5, (h.tab hz).6, (h.tab hz).7, (h.tab hz).8, (h.tab hz).9, hv (h.tab hz).10, (h.tab hz).11, (h.tab hz).12, (h.tab hz).13, (h.tab hz).14⟩⟩

theorem Kept.pins {z s : State} (h : Kept z s) {v : Table Pin} (hv : (twf {} s.pins = true) → twf {} v = true) :
    Kept z { s with pins := v } :=
  ⟨h.fuses, h.pending, fun hz => ⟨(h.mem hz).1, (h.mem hz).2, (h.mem hz).3⟩,
    fun hz => ⟨(h.tab hz).1, (h.tab hz).2, (h.tab hz).3, (h.tab hz).4, (h.tab hz).5, (h.tab hz).6, (h.tab hz).7, (h.tab hz).8, (h.tab hz).9, (h.tab hz).10, hv (h.tab hz).11, (h.tab hz).12, (h.tab hz).13, (h.tab hz).14⟩⟩

theorem Kept.mstate {z s : State} (h : Kept z s) {v : Table Nat} (hv : (twf 0 s.mstate = true) → twf 0 v = true) :
    Kept z { s with mstate := v } :=
  ⟨h.fuses, h.pending, fun hz => ⟨(h.mem hz).1, (h.mem hz).2, (h.mem hz).3⟩,
    fun hz => ⟨(h.tab hz).1, (h.tab hz).2, (h.tab hz).3, (h.tab hz).4, (h.tab hz).5, (h.tab hz).6, (h.tab hz).7, (h.tab hz).8, (h.tab hz).9, (h.tab hz).10, (h.tab hz).11, hv (h.tab hz).12, (h.tab hz).13, (h.tab hz).14⟩⟩

theorem Kept.carFen {z s : State} (h : Kept z s) {v : Table Bool} (hv : (twf false s.carFen = true) → twf false v = true) :
    Kept z { s with carFen := v } :=
  ⟨h.fuses, h.pending, fun hz => ⟨(h.mem hz).1, (h.mem hz).2, (h.mem hz).3⟩,
    fun hz => ⟨(h.tab hz).1, (h.tab hz).2, (h.tab hz).3, (h.tab hz).4, (h.tab hz).5, (h.tab hz).6, (h.tab hz).7, (h.tab hz).8, (h.tab hz).9, (h.tab hz).10, (h.tab hz).11, (h.tab hz).12, hv (h.tab hz).13, (h.tab hz).14⟩⟩

theorem Kept.regs {z s : State} (h : Kept z s) {v : Table Reg} (hv : (s.regs.Pairwise fun a b => a.1 < b.1) → v.Pairwise fun a b => a.1 < b.1) :
    Kept z { s with regs := v } :=
  ⟨h.fuses, h.pending, fun hz => ⟨(h.mem hz).1, (h.mem hz).2, (h.mem hz).3⟩,
    fun hz => ⟨(h.tab hz).1, (h.tab hz).2, (h.tab hz).3, (h.tab hz).4, (h.tab hz).5, (h.tab hz).6, (h.tab hz).7, (h.tab hz).8, (h.tab hz).9, (h.tab hz).10, (h.tab hz).11, (h.tab hz).12, (h.tab hz).13, hv (h.tab hz).14⟩⟩

/-- The scratchpads with some keys dropped. -/
theorem Kept.dropSpads {z s : State} (h : Kept z s) {p : Nat → Bool} : Kept z { s with spads := tkeep p s.spads } := h.memories twf_tkeep id id

/-- The Arbiter data memory with some keys dropped. -/
theorem Kept.dropArbMem {z s : State} (h : Kept z s) {p : Nat → Bool} : Kept z { s with arbMem := tkeep p s.arbMem } := h.memories id twf_tkeep id

theorem setRunner_kept {z s : State} (h : Kept z s) {r x} : Kept z (s.setRunner r x) := by
  cases r
  · exact h.runners twf_tset
  · exact h.of

theorem updR_kept {z s : State} (h : Kept z s) {a1 a2} : Kept z (State.updR s a1 a2) := by
  unfold State.updR; try dsimp only
  with_reducible repeat' (first | assumption | refine setRunner_kept ?_)

theorem updSl_kept {z s : State} (h : Kept z s) {a1 a2} : Kept z (s.updSl a1 a2) := h.slices twf_tset

theorem updUp_kept {z s : State} (h : Kept z s) {a1 a2} : Kept z (s.updUp a1 a2) := h.memUp twf_tset

theorem updCache_kept {z s : State} (h : Kept z s) {a1 a2} : Kept z (s.updCache a1 a2) := h.caches twf_tset

theorem updRing_kept {z s : State} (h : Kept z s) {a1 a2} : Kept z (s.updRing a1 a2) := h.rings twf_tset

theorem updPort_kept {z s : State} (h : Kept z s) {a1 a2} : Kept z (s.updPort a1 a2) := h.ports twf_tset

theorem updJob_kept {z s : State} (h : Kept z s) {a1 a2} : Kept z (s.updJob a1 a2) := h.jobs twf_tset

theorem updPacer_kept {z s : State} (h : Kept z s) {a1 a2} : Kept z (s.updPacer a1 a2) := h.pacers twf_tset

theorem updPin_kept {z s : State} (h : Kept z s) {a1 a2} : Kept z (s.updPin a1 a2) := h.pins twf_tset

theorem updQ_kept {z s : State} (h : Kept z s) {a1 a2} : Kept z (s.updQ a1 a2) := h.hq twf_tset

theorem updCs_kept {z s : State} (h : Kept z s) {a1 a2} : Kept z (s.updCs a1 a2) := h.cstores twf_tset

theorem updArb_kept {z s : State} (h : Kept z s) {a1} : Kept z (State.updArb s a1) := by
  unfold State.updArb; try dsimp only
  with_reducible repeat' (first | assumption | refine Kept.of ?_)

theorem updRef_kept {z s : State} (h : Kept z s) {a1} : Kept z (State.updRef s a1) := by
  unfold State.updRef; try dsimp only
  with_reducible repeat' (first | assumption | refine Kept.of ?_)

theorem updScs_kept {z s : State} (h : Kept z s) {a1} : Kept z (State.updScs s a1) := by
  unfold State.updScs; try dsimp only
  with_reducible repeat' (first | assumption | refine Kept.of ?_)

theorem updImg_kept {z s : State} (h : Kept z s) {a1} : Kept z (State.updImg s a1) := by
  unfold State.updImg; try dsimp only
  with_reducible repeat' (first | assumption | refine Kept.of ?_)

theorem put_kept {z s : State} (h : Kept z s) {a1} : Kept z (State.put s a1) := by
  unfold State.put; try dsimp only
  with_reducible repeat' (first | assumption | refine Kept.of ?_)

theorem freeWord_kept {z s : State} (h : Kept z s) : Kept z (State.freeWord s).2 := by
  unfold State.freeWord; try dsimp only
  with_reducible repeat' (first | assumption | refine Kept.of ?_)

theorem freeWord_kept' {z s t : State} {v} (hk : Kept z s) (e : State.freeWord s = (v, t)) : Kept z t := by
  have := freeWord_kept hk; rw [e] at this; exact this

theorem setReg_kept {z s : State} (h : Kept z s) {a1 a2 a3} : Kept z (s.setReg a1 a2 a3) := h.regs keysRise_tset

theorem setRfld_kept {z s : State} (h : Kept z s) {a1 a2 a3 a4 a5} : Kept z (State.setRfld s a1 a2 a3 a4 a5) := by
  unfold State.setRfld; try dsimp only
  with_reducible repeat' (first | assumption | refine setReg_kept ?_)

theorem satInc_kept {z s : State} (h : Kept z s) {a1 a2 a3 a4 a5} : Kept z (State.satInc s a1 a2 a3 a4 a5) := by
  unfold State.satInc; try dsimp only
  with_reducible repeat' (first | assumption | refine setRfld_kept ?_)

theorem wrapInc_kept {z s : State} (h : Kept z s) {a1 a2 a3 a4 a5} : Kept z (State.wrapInc s a1 a2 a3 a4 a5) := by
  unfold State.wrapInc; try dsimp only
  with_reducible repeat' (first | assumption | refine setRfld_kept ?_)

theorem report_kept {z s : State} (h : Kept z s) {a1 a2 a3 a4 a5 a6 a7} : Kept z (State.report s a1 a2 a3 a4 a5 a6 a7) := by
  unfold State.report; try dsimp only
  with_reducible repeat' (first | assumption | refine updRef_kept ?_ | refine Kept.of ?_)

theorem record_kept {z s : State} (h : Kept z s) {a1 a2 a3 a4 a5} : Kept z (State.record s a1 a2 a3 a4 a5) := by
  unfold State.record; try dsimp only
  with_reducible repeat' (first | assumption | refine updScs_kept ?_ | refine report_kept ?_ | refine Kept.ite ?_ ?_ | split | refine Kept.of ?_)

theorem audit_kept {z s : State} (h : Kept z s) {a1 a2 a3 a4 a5 a6 a7} : Kept z (State.audit s a1 a2 a3 a4 a5 a6 a7) := by
  unfold State.audit; try dsimp only
  with_reducible repeat' (first | assumption | refine updScs_kept ?_ | refine Kept.of ?_)

theorem setMode_kept {z s : State} (h : Kept z s) {a1 a2} : Kept z (State.setMode s a1 a2) := by
  unfold State.setMode; try dsimp only
  with_reducible repeat' (first | assumption | refine setReg_kept ?_ | refine record_kept ?_ | refine Kept.of ?_)

theorem refreshMode_kept {z s : State} (h : Kept z s) : Kept z (State.refreshMode s) := by
  unfold State.refreshMode; try dsimp only
  with_reducible repeat' (first | assumption | refine setMode_kept ?_ | refine Kept.ite ?_ ?_ | split)

theorem setCword_kept {z s : State} (h : Kept z s) {k a w} : Kept z (s.setCword k a w) := h.memories id id twf_tset

theorem enterFence_kept {z s : State} (h : Kept z s) {a1 a2} : Kept z (State.enterFence s a1 a2) := by
  unfold State.enterFence; try dsimp only
  with_reducible repeat' (first
      | assumption | refine updCs_kept ?_ | refine updImg_kept ?_ | refine report_kept ?_ | refine Kept.ite ?_ ?_ | split | refine Kept.of ?_)

theorem scrubLine_kept {z s : State} (h : Kept z s) {a1} : Kept z (State.scrubLine s a1) := by
  unfold State.scrubLine; try dsimp only
  with_reducible repeat' (first
      | assumption | refine updCs_kept ?_ | refine report_kept ?_ | refine enterFence_kept ?_ | refine Kept.ite ?_ ?_ | split | refine Kept.of ?_)

theorem imageRecord_kept {z s : State} (h : Kept z s) {a1 a2 a3 a4 a5} : Kept z (State.imageRecord s a1 a2 a3 a4 a5) := by
  unfold State.imageRecord; try dsimp only
  with_reducible repeat' (first | assumption | refine record_kept ?_)

theorem imgReads_kept {z s : State} (h : Kept z s) {a1 a2} : Kept z (State.imgReads s a1 a2) := by
  unfold State.imgReads; try dsimp only
  with_reducible repeat' (first | assumption | refine each_kept ?_ (fun _ _ _ => ?_) | refine put_kept ?_ | refine Kept.ite ?_ ?_ | split)

theorem reloadReads_kept {z s : State} (h : Kept z s) {a1 a2 a3} : Kept z (State.reloadReads s a1 a2 a3) := by
  unfold State.reloadReads; try dsimp only
  with_reducible repeat' (first | assumption | refine imgReads_kept ?_ | refine Kept.ite ?_ ?_ | split)

theorem loadReads_kept {z s : State} (h : Kept z s) : Kept z (State.loadReads s) := by
  unfold State.loadReads; try dsimp only
  with_reducible repeat' (first | assumption | refine imgReads_kept ?_ | refine Kept.ite ?_ ?_ | split)

theorem loadOn_kept {z s : State} (h : Kept z s) : Kept z (State.loadOn s) := by
  unfold State.loadOn; try dsimp only
  with_reducible repeat' (first | assumption | refine updImg_kept ?_ | refine loadReads_kept ?_ | refine Kept.ite ?_ ?_ | split | refine Kept.of ?_)

theorem imgEnd_kept {z s : State} (h : Kept z s) {a1} : Kept z (State.imgEnd s a1) := by
  unfold State.imgEnd; try dsimp only
  with_reducible repeat' (first | assumption | refine updImg_kept ?_ | refine imageRecord_kept ?_ | refine Kept.of ?_)

theorem loadGo_kept {z s : State} (h : Kept z s) : Kept z (State.loadGo s) := by
  unfold State.loadGo; try dsimp only
  with_reducible repeat' (first | assumption | refine loadOn_kept ?_ | refine report_kept ?_ | refine imgEnd_kept ?_ | refine Kept.ite ?_ ?_ | split)

theorem imgBoundary_kept {z s : State} (h : Kept z s) : Kept z (State.imgBoundary s) := by
  unfold State.imgBoundary; try dsimp only
  with_reducible repeat' (first | assumption | refine imgEnd_kept ?_ | refine loadGo_kept ?_ | refine Kept.ite ?_ ?_ | split)

theorem reloadEnd_kept {z s : State} (h : Kept z s) {a1 a2 a3 a4 a5} : Kept z (State.reloadEnd s a1 a2 a3 a4 a5) := by
  unfold State.reloadEnd; try dsimp only
  with_reducible repeat' (first
      | assumption | refine each_kept ?_ (fun _ _ _ => ?_) | refine updImg_kept ?_ | refine imageRecord_kept ?_ | refine setCword_kept ?_
      | refine updCs_kept ?_ | refine report_kept ?_ | refine imgBoundary_kept ?_ | refine Kept.ite ?_ ?_ | split | refine Kept.of ?_)

theorem reload_kept {z s : State} (h : Kept z s) {a1 a2} : Kept z (State.reload s a1 a2) := by
  unfold State.reload; try dsimp only
  with_reducible repeat' (first
      | assumption | refine reloadReads_kept ?_ | refine reloadEnd_kept ?_ | refine report_kept ?_ | refine Kept.ite ?_ ?_ | split)

theorem imgStart_kept {z s : State} (h : Kept z s) : Kept z (State.imgStart s) := by
  unfold State.imgStart; try dsimp only
  with_reducible repeat' (first
      | assumption | refine updImg_kept ?_ | refine imgEnd_kept ?_ | refine loadReads_kept ?_ | refine report_kept ?_ | refine Kept.ite ?_ ?_
      | split | refine Kept.of ?_)

theorem imgHeader_kept {z s : State} (h : Kept z s) {a1} : Kept z (State.imgHeader s a1) := by
  unfold State.imgHeader; try dsimp only
  with_reducible repeat' (first
      | assumption | refine loadReads_kept ?_ | refine updImg_kept ?_ | refine imgBoundary_kept ?_ | refine imgEnd_kept ?_ | refine Kept.ite ?_ ?_
      | split | refine Kept.of ?_)

theorem imgSuccess_kept {z s : State} (h : Kept z s) : Kept z (State.imgSuccess s) := by
  unfold State.imgSuccess; try dsimp only
  with_reducible repeat' (first
      | assumption | refine each_kept ?_ (fun _ _ _ => ?_) | refine updCs_kept ?_ | refine updImg_kept ?_ | refine imgEnd_kept ?_
      | refine Kept.of ?_)

theorem imgSegment_kept {z s : State} (h : Kept z s) {a1} : Kept z (State.imgSegment s a1) := by
  unfold State.imgSegment; try dsimp only
  with_reducible repeat' (first
      | assumption | refine each_kept ?_ (fun _ _ _ => ?_) | refine imgHeader_kept ?_ | refine loadReads_kept ?_ | refine imgEnd_kept ?_
      | refine updCs_kept ?_ | refine setCword_kept ?_ | refine imgSuccess_kept ?_ | refine updImg_kept ?_ | refine imgBoundary_kept ?_
      | refine Kept.ite ?_ ?_ | split | refine Kept.of ?_)

theorem imgTimeout_kept {z s : State} (h : Kept z s) {a1} : Kept z (State.imgTimeout s a1) := by
  unfold State.imgTimeout; try dsimp only
  with_reducible repeat' (first
      | assumption | refine report_kept ?_ | refine reloadEnd_kept ?_ | refine imgEnd_kept ?_ | refine Kept.ite ?_ ?_ | split)

theorem settleSeen_kept {z s : State} (h : Kept z s) {a1} : Kept z (State.settleSeen s a1) := by
  unfold State.settleSeen; try dsimp only
  with_reducible repeat' (first
      | assumption | refine each_kept ?_ (fun _ _ _ => ?_) | refine updSl_kept ?_ | refine Kept.ite ?_ ?_ | split | refine Kept.of ?_)

theorem raise_kept {z s : State} (h : Kept z s) {a1 a2} : Kept z (State.raise s a1 a2) := by
  unfold State.raise; try dsimp only
  with_reducible repeat' (first | assumption | refine updSl_kept ?_ | refine Kept.ite ?_ ?_ | split | refine Kept.of ?_)

theorem setLine_kept {z s : State} (h : Kept z s) {a1 a2 a3} : Kept z (State.setLine s a1 a2 a3) := by
  unfold State.setLine; try dsimp only
  with_reducible repeat' (first | assumption | refine updSl_kept ?_ | refine Kept.of ?_)

theorem syncF3_kept {z s : State} (h : Kept z s) {a1} : Kept z (State.syncF3 s a1) := by
  unfold State.syncF3; try dsimp only
  with_reducible repeat' (first | assumption | refine setLine_kept ?_)

theorem present_kept {z s : State} (h : Kept z s) {a1} : Kept z (State.present s a1) := by
  unfold State.present; try dsimp only
  with_reducible repeat' (first | assumption | refine updSl_kept ?_ | split | refine Kept.of ?_)

theorem claim_kept {z s : State} (h : Kept z s) {a1} : Kept z (State.claim s a1).1 := by
  unfold State.claim; try dsimp only
  with_reducible repeat' (first | assumption | refine updSl_kept ?_ | refine settleSeen_kept ?_ | refine Kept.ite ?_ ?_ | split | refine Kept.of ?_)

theorem claim_kept' {z s t : State} {v} {a1} (hk : Kept z s) (e : State.claim s a1 = (t, v)) : Kept z t := by
  have := claim_kept hk (a1 := a1); rw [e] at this; exact this

theorem eoi_kept {z s : State} (h : Kept z s) {a1 a2} : Kept z (State.eoi s a1 a2).1 := by
  unfold State.eoi; try dsimp only
  with_reducible repeat' (first | assumption | refine updSl_kept ?_ | refine Kept.ite ?_ ?_ | split | refine Kept.of ?_)

theorem eoi_kept' {z s t : State} {v} {a1 a2} (hk : Kept z s) (e : State.eoi s a1 a2 = (t, v)) : Kept z t := by
  have := eoi_kept hk (a1 := a1) (a2 := a2); rw [e] at this; exact this

theorem entryHold_kept {z s : State} (h : Kept z s) {a1 a2} : Kept z (State.entryHold s a1 a2) := by
  unfold State.entryHold; try dsimp only
  with_reducible repeat' (first | assumption | refine updSl_kept ?_ | refine Kept.of ?_)

theorem endHold_kept {z s : State} (h : Kept z s) {a1} : Kept z (State.endHold s a1) := by
  unfold State.endHold; try dsimp only
  with_reducible repeat' (first | assumption | refine updSl_kept ?_ | refine Kept.of ?_)

theorem softEvent_kept {z s : State} (h : Kept z s) {a1 a2} : Kept z (State.softEvent s a1 a2) := by
  unfold State.softEvent; try dsimp only
  with_reducible repeat' (first | assumption | refine raise_kept ?_)

theorem sliceFence_kept {z s : State} (h : Kept z s) {a1} : Kept z (State.sliceFence s a1) := by
  unfold State.sliceFence; try dsimp only
  with_reducible repeat' (first | assumption | refine updSl_kept ?_ | refine updR_kept ?_ | refine Kept.ite ?_ ?_ | split | refine Kept.of ?_)

theorem sliceStart_kept {z s : State} (h : Kept z s) {a1} : Kept z (State.sliceStart s a1) := by
  unfold State.sliceStart; try dsimp only
  with_reducible repeat' (first | assumption | refine updSl_kept ?_)

theorem setByte_kept {z s : State} (h : Kept z s) {m a b} : Kept z (s.setByte m a b) := by
  unfold State.setByte
  split
  · exact h.memories id twf_tset id
  · exact h.memories twf_tset id id

theorem setBytes_kept {z s : State} (h : Kept z s) {m a} {l : List Byte} : Kept z (s.setBytes m a l) := by
  induction l generalizing s a with
  | nil => exact h
  | cons b t ih => exact ih (setByte_kept h)

theorem readWordErr_kept {z s : State} (h : Kept z s) {a1 a2} : Kept z (State.readWordErr s a1 a2).1 := by
  unfold State.readWordErr; try dsimp only
  with_reducible repeat' (first
      | assumption | refine when_kept ?_ (fun _ _ => ?_) | refine updUp_kept ?_ | refine report_kept ?_ | refine satInc_kept ?_
      | refine setReg_kept ?_ | refine updArb_kept ?_ | refine raise_kept ?_ | refine Kept.ite ?_ ?_ | split | refine Kept.of ?_)

theorem readWordErr_kept' {z s t : State} {v} {a1 a2} (hk : Kept z s) (e : State.readWordErr s a1 a2 = (t, v)) : Kept z t := by
  have := readWordErr_kept hk (a1 := a1) (a2 := a2); rw [e] at this; exact this

theorem foldErr_kept {z : State} {m} (l : List Nat) (p : State × Bool) (h : Kept z p.1) :
    Kept z (l.foldl (fun (p : State × Bool) w => let (s1, b) := p.1.readWordErr m w; (s1, p.2 || b)) p).1 := by
  induction l generalizing p with
  | nil => exact h
  | cons w t ih => exact ih _ (readWordErr_kept h)

theorem memRead_kept {z s : State} (h : Kept z s) {m a n} : Kept z (s.memRead m a n).1 := foldErr_kept _ (s, false) h

theorem memRead_kept' {z s t : State} {v} {m a n} (hk : Kept z s) (e : State.memRead s m a n = (t, v)) : Kept z t := by
  have := memRead_kept hk (m := m) (a := a) (n := n); rw [e] at this; exact this

theorem writeWordErr_kept {z s : State} (h : Kept z s) {a1 a2 a3} : Kept z (State.writeWordErr s a1 a2 a3) := by
  unfold State.writeWordErr; try dsimp only
  with_reducible repeat' (first | assumption | refine updUp_kept ?_ | refine Kept.ite ?_ ?_ | split | refine Kept.of ?_)

theorem loseResv_kept {z s : State} (h : Kept z s) {a1 a2 a3} : Kept z (State.loseResv s a1 a2 a3) := by
  unfold State.loseResv; try dsimp only
  with_reducible repeat' (first
      | assumption | refine each_kept ?_ (fun _ _ _ => ?_) | refine updR_kept ?_ | refine Kept.ite ?_ ?_ | split | refine Kept.of ?_)

theorem memWrite_kept {z s : State} (h : Kept z s) {a1 a2 a3} : Kept z (State.memWrite s a1 a2 a3) := by
  unfold State.memWrite; try dsimp only
  with_reducible repeat' (first
      | assumption | refine each_kept ?_ (fun _ _ _ => ?_) | refine readWordErr_kept' ?_ (by assumption) | refine readWordErr_kept ?_
      | refine setBytes_kept ?_ | refine writeWordErr_kept ?_ | refine loseResv_kept ?_ | refine Kept.ite ?_ ?_ | split)

theorem collide_kept {z s : State} (h : Kept z s) {a1 a2} : Kept z (State.collide s a1 a2) := by
  unfold State.collide; try dsimp only
  with_reducible repeat' (first | assumption | refine satInc_kept ?_ | refine Kept.ite ?_ ?_ | split)

theorem userWrite_kept {z s : State} (h : Kept z s) {a1 a2 a3 a4} : Kept z (State.userWrite s a1 a2 a3 a4) := by
  unfold State.userWrite; try dsimp only
  with_reducible repeat' (first | assumption | refine report_kept ?_ | refine memWrite_kept ?_ | refine Kept.ite ?_ ?_ | split)

theorem zeroSecure_kept {z s : State} (h : Kept z s) {m} : Kept z (s.zeroSecure m) := by
  unfold State.zeroSecure; dsimp only
  refine updUp_kept ?_
  split
  · exact h.dropArbMem
  · exact h.dropSpads

theorem startWipe_kept {z s : State} (h : Kept z s) {a1} : Kept z (State.startWipe s a1) := by
  unfold State.startWipe; try dsimp only
  with_reducible repeat' (first
      | assumption | refine when_kept ?_ (fun _ _ => ?_) | refine each_kept ?_ (fun _ _ _ => ?_) | refine updUp_kept ?_ | refine updR_kept ?_
      | refine updArb_kept ?_ | refine Kept.ite ?_ ?_ | split | refine Kept.of ?_)

theorem endWipe_kept {z s : State} (h : Kept z s) {a1} : Kept z (State.endWipe s a1) := by
  unfold State.endWipe; try dsimp only
  with_reducible repeat' (first
      | assumption | refine zeroSecure_kept ?_ | refine updUp_kept ?_ | refine loseResv_kept ?_ | refine setRfld_kept ?_ | refine updArb_kept ?_
      | refine Kept.ite ?_ ?_ | split | refine Kept.of ?_)

theorem writePort_kept {z s : State} (h : Kept z s) {r p v} : Kept z (s.writePort r p v) := by
  unfold State.writePort
  extract_lets x up
  have hu : ∀ y, Kept z (up y) := fun _ => setRunner_kept h
  repeat' first | exact hu _ | exact put_kept (hu _) | exact h | refine Kept.ite ?_ ?_

theorem startRunner_kept {z s : State} (h : Kept z s) {a1} : Kept z (State.startRunner s a1) := by
  unfold State.startRunner; try dsimp only
  with_reducible repeat' (first
      | assumption | refine when_kept ?_ (fun _ _ => ?_) | refine setRunner_kept ?_ | refine sliceStart_kept ?_ | refine raise_kept ?_)

theorem syncRing_kept {z s : State} (h : Kept z s) {a1} : Kept z (State.syncRing s a1) := by
  unfold State.syncRing; try dsimp only
  with_reducible repeat' (first | assumption | refine updRing_kept ?_ | refine Kept.ite ?_ ?_ | split | refine Kept.of ?_)

theorem modRing_kept {z s : State} (h : Kept z s) {a1 a2} : Kept z (State.modRing s a1 a2) := by
  unfold State.modRing; try dsimp only
  with_reducible repeat' (first | assumption | refine updRing_kept ?_ | refine syncRing_kept ?_)

theorem pendChanged_kept {z s : State} (h : Kept z s) : Kept z (State.pendChanged s) := by
  unfold State.pendChanged; try dsimp only
  with_reducible repeat' (first | assumption | refine when_kept ?_ (fun _ _ => ?_) | refine raise_kept ?_)

theorem doorbell_kept {z s : State} (h : Kept z s) {a1 a2} : Kept z (State.doorbell s a1 a2) := by
  unfold State.doorbell; try dsimp only
  with_reducible repeat' (first
      | assumption | refine satInc_kept ?_ | refine updRing_kept ?_ | refine report_kept ?_ | refine modRing_kept ?_ | refine Kept.ite ?_ ?_
      | split | refine Kept.of ?_)

theorem setCredit_kept {z s : State} (h : Kept z s) {a1 a2 a3} : Kept z (State.setCredit s a1 a2 a3) := by
  unfold State.setCredit; try dsimp only
  with_reducible repeat' (first | assumption | refine Kept.of ?_)

theorem foldCredit_kept {z : State} {h} (l : List Nat) (s : State) (k : Kept z s) :
    Kept z (l.foldl (fun (t : State) c => t.setCredit h c (t.weight c)) s) := by
  induction l generalizing s with
  | nil => exact k
  | cons c t ih => exact ih _ (setCredit_kept k)

theorem chooseRing_kept {z s : State} (k : Kept z s) {h m} : Kept z (s.chooseRing h m).2 := by
  unfold State.chooseRing
  extract_lets head cand
  split
  · exact k
  split
  · exact k
  split
  · exact k
  have k1 := Kept.ite (p := (cand.any fun c => decide (0 < s.creditOf h c)) = true) k (foldCredit_kept (h := h) [2, 3, 4, 5, 6, 7] s k)
  split
  · exact k1
  · exact Kept.ite (setCredit_kept k1).of (setCredit_kept k1)

theorem chooseRing_kept' {z s t : State} {v} {h m} (hk : Kept z s) (e : State.chooseRing s h m = (v, t)) : Kept z t := by
  have := chooseRing_kept hk (h := h) (m := m); rw [e] at this; exact this

theorem handTo_kept {z s : State} (h : Kept z s) {a1 a2 a3} : Kept z (State.handTo s a1 a2 a3) := by
  unfold State.handTo; try dsimp only
  with_reducible repeat' (first | assumption | refine updArb_kept ?_ | refine modRing_kept ?_ | refine updR_kept ?_ | refine Kept.of ?_)

theorem handout_kept {z s : State} (h : Kept z s) {k} {l : List Nat} : Kept z (s.handout k l) := by
  induction l with
  | nil => exact h
  | cons i t ih =>
    unfold State.handout
    split
    · exact ih
    · split
      · exact handTo_kept (chooseRing_kept' h ‹_›)
      · exact ih

theorem disableRing_kept {z s : State} (h : Kept z s) {a1} : Kept z (State.disableRing s a1) := by
  unfold State.disableRing; try dsimp only
  with_reducible repeat' (first
      | assumption | refine modRing_kept ?_ | refine pendChanged_kept ?_ | refine Kept.ite ?_ ?_ | split | refine Kept.of ?_)

theorem unfreeze_kept {z s : State} (h : Kept z s) {a1} : Kept z (State.unfreeze s a1) := by
  unfold State.unfreeze; try dsimp only
  with_reducible repeat' (first | assumption | refine modRing_kept ?_ | refine Kept.of ?_)

theorem dirRead_kept {z s : State} (h : Kept z s) {a1 a2} : Kept z (State.dirRead s a1 a2) := by
  unfold State.dirRead; try dsimp only
  with_reducible repeat' (first | assumption | refine memRead_kept' ?_ (by assumption) | refine memRead_kept ?_)

theorem hoffStart_kept {z s : State} (h : Kept z s) {a1} : Kept z (State.hoffStart s a1) := by
  unfold State.hoffStart; try dsimp only
  with_reducible repeat' (first | assumption | refine each_kept ?_ (fun _ _ _ => ?_) | refine startRunner_kept ?_ | refine Kept.ite ?_ ?_ | split)

theorem freeRing_kept {z s : State} (h : Kept z s) {a1} : Kept z (State.freeRing s a1) := by
  unfold State.freeRing; try dsimp only
  with_reducible repeat' (first | assumption | refine modRing_kept ?_ | refine unfreeze_kept ?_ | refine Kept.ite ?_ ?_ | split | refine Kept.of ?_)

theorem lorphZero_kept {z s : State} (h : Kept z s) {a1} : Kept z (State.lorphZero s a1) := by
  unfold State.lorphZero; try dsimp only
  with_reducible repeat' (first
      | assumption | refine each_kept ?_ (fun _ _ _ => ?_) | refine freeRing_kept ?_ | refine hoffStart_kept ?_ | refine refreshMode_kept ?_)

theorem morphZero_kept {z s : State} (h : Kept z s) {a1} : Kept z (State.morphZero s a1) := by
  unfold State.morphZero; try dsimp only
  with_reducible repeat' (first | assumption | refine each_kept ?_ (fun _ _ _ => ?_) | refine freeRing_kept ?_ | refine refreshMode_kept ?_)

theorem countOrph_kept {z s : State} (h : Kept z s) {a1 a2 a3 a4} : Kept z (State.countOrph s a1 a2 a3 a4) := by
  unfold State.countOrph; try dsimp only
  with_reducible repeat' (first
      | assumption | refine setRfld_kept ?_ | refine morphZero_kept ?_ | refine lorphZero_kept ?_ | refine Kept.ite ?_ ?_ | split)

theorem setDir_kept {z s : State} (h : Kept z s) {a1 a2 a3 a4} : Kept z (State.setDir s a1 a2 a3 a4) := by
  unfold State.setDir; try dsimp only
  with_reducible repeat' (first
      | assumption | refine dirRead_kept ?_ | refine memWrite_kept ?_ | refine countOrph_kept ?_ | refine Kept.ite ?_ ?_ | split)

theorem pairOwner_kept {z s : State} (h : Kept z s) {a1 a2 a3 a4} : Kept z (State.pairOwner s a1 a2 a3 a4) := by
  unfold State.pairOwner; try dsimp only
  with_reducible repeat' (first | assumption | refine setDir_kept ?_ | refine Kept.ite ?_ ?_ | split)

theorem unprotect_kept {z s : State} (h : Kept z s) {a1} : Kept z (State.unprotect s a1) := by
  unfold State.unprotect; try dsimp only
  with_reducible repeat' (first | assumption | refine updRing_kept ?_ | refine raise_kept ?_ | refine Kept.ite ?_ ?_ | split | refine Kept.of ?_)

theorem mirrorWrite_kept {z s : State} (h : Kept z s) {a1 a2} : Kept z (State.mirrorWrite s a1 a2) := by
  unfold State.mirrorWrite; try dsimp only
  with_reducible repeat' (first | assumption | refine memWrite_kept ?_ | refine setDir_kept ?_ | refine pairOwner_kept ?_)

theorem withdrawByPass_kept {z s : State} (h : Kept z s) {a1 a2} : Kept z (State.withdrawByPass s a1 a2) := by
  unfold State.withdrawByPass; try dsimp only
  with_reducible repeat' (first | assumption | refine modRing_kept ?_ | refine updR_kept ?_ | refine Kept.ite ?_ ?_ | split | refine Kept.of ?_)

theorem passLocal_kept {z s : State} (h : Kept z s) {a1 a2 a3 a4} : Kept z (State.passLocal s a1 a2 a3 a4) := by
  unfold State.passLocal; try dsimp only
  with_reducible repeat' (first
      | assumption | refine mirrorWrite_kept ?_ | refine updR_kept ?_ | refine memRead_kept' ?_ (by assumption) | refine memRead_kept ?_
      | refine memWrite_kept ?_ | refine setDir_kept ?_ | refine pairOwner_kept ?_ | refine withdrawByPass_kept ?_ | refine Kept.ite ?_ ?_ | split
      | refine Kept.of ?_)

theorem passEnd_kept {z s : State} (h : Kept z s) {a1 a2} : Kept z (State.passEnd s a1 a2) := by
  unfold State.passEnd; try dsimp only
  with_reducible repeat' (first
      | assumption | refine updR_kept ?_ | refine wrapInc_kept ?_ | refine mirrorWrite_kept ?_ | refine setDir_kept ?_ | refine unprotect_kept ?_
      | refine satInc_kept ?_ | refine Kept.ite ?_ ?_ | split | refine Kept.of ?_)

theorem passTimeout_kept {z s : State} (h : Kept z s) {a1 a2} : Kept z (State.passTimeout s a1 a2) := by
  unfold State.passTimeout; try dsimp only
  with_reducible repeat' (first | assumption | refine updR_kept ?_ | refine satInc_kept ?_ | refine report_kept ?_ | split | refine Kept.of ?_)

theorem giveRecord_kept {z s : State} (h : Kept z s) {a1 a2 a3 a4} : Kept z (State.giveRecord s a1 a2 a3 a4) := by
  unfold State.giveRecord; try dsimp only
  with_reducible repeat' (first | assumption | refine report_kept ?_ | refine memWrite_kept ?_ | refine Kept.ite ?_ ?_ | split)

theorem batGet_kept {z s : State} (h : Kept z s) {a1 a2 a3 a4 a5} : Kept z (State.batGet s a1 a2 a3 a4 a5).1 := by
  unfold State.batGet; try dsimp only
  with_reducible repeat' (first
      | assumption | refine when_kept ?_ (fun _ _ => ?_) | refine satInc_kept ?_ | refine report_kept ?_ | refine dirRead_kept ?_
      | refine memRead_kept' ?_ (by assumption) | refine memRead_kept ?_ | refine giveRecord_kept ?_ | refine Kept.ite ?_ ?_ | split)

theorem batGet_kept' {z s t : State} {v} {a1 a2 a3 a4 a5} (hk : Kept z s) (e : State.batGet s a1 a2 a3 a4 a5 = (t, v)) : Kept z t := by
  have := batGet_kept hk (a1 := a1) (a2 := a2) (a3 := a3) (a4 := a4) (a5 := a5); rw [e] at this; exact this

theorem batFree_kept {z s : State} (h : Kept z s) {a1 a2 a3 a4} : Kept z (State.batFree s a1 a2 a3 a4).1 := by
  unfold State.batFree; try dsimp only
  with_reducible repeat' (first | assumption | refine setDir_kept ?_ | refine report_kept ?_ | refine Kept.ite ?_ ?_ | split)

theorem batFree_kept' {z s t : State} {v} {a1 a2 a3 a4} (hk : Kept z s) (e : State.batFree s a1 a2 a3 a4 = (t, v)) : Kept z t := by
  have := batFree_kept hk (a1 := a1) (a2 := a2) (a3 := a3) (a4 := a4); rw [e] at this; exact this

theorem setMstate_kept {z s : State} (h : Kept z s) {a1 a2} : Kept z (s.setMstate a1 a2) := by
  unfold State.setMstate
  split
  · exact h
  · exact raise_kept (h.mstate twf_tset)

theorem clearDirs_kept {z s : State} (h : Kept z s) {k} : Kept z (s.clearDirs k) := setRfld_kept (setRfld_kept (updUp_kept h.dropSpads))

theorem copySlot_kept {z s : State} (h : Kept z s) {a1 a2} : Kept z (State.copySlot s a1 a2) := by
  unfold State.copySlot; try dsimp only
  with_reducible repeat' (first
      | assumption | refine memRead_kept' ?_ (by assumption) | refine memRead_kept ?_ | refine dirRead_kept ?_ | refine memWrite_kept ?_
      | refine setDir_kept ?_ | refine updUp_kept ?_ | split | refine Kept.of ?_)

theorem remirrorCopy_kept {z s : State} (h : Kept z s) {a1} : Kept z (State.remirrorCopy s a1) := by
  unfold State.remirrorCopy; try dsimp only
  with_reducible repeat' (first | assumption | refine each_kept ?_ (fun _ _ _ => ?_) | refine copySlot_kept ?_)

theorem remirrorEnd_kept {z s : State} (h : Kept z s) {a1} : Kept z (State.remirrorEnd s a1) := by
  unfold State.remirrorEnd; try dsimp only
  with_reducible repeat' (first
      | assumption | refine each_kept ?_ (fun _ _ _ => ?_) | refine remirrorCopy_kept ?_ | refine setMstate_kept ?_ | refine updRing_kept ?_
      | refine Kept.ite ?_ ?_ | split | refine Kept.of ?_)

theorem publish_kept {z s : State} (h : Kept z s) {a1} : Kept z (State.publish s a1) := by
  unfold State.publish; try dsimp only
  with_reducible repeat' (first
      | assumption | refine each_kept ?_ (fun _ _ _ => ?_) | refine updArb_kept ?_ | refine memWrite_kept ?_ | refine raise_kept ?_
      | refine Kept.ite ?_ ?_ | split | refine Kept.of ?_)

theorem publishAll_kept {z s : State} (h : Kept z s) {k} : Kept z (s.publishAll k) := by
  unfold State.publishAll
  exact memWrite_kept (each_kept (each_kept (updUp_kept h.dropSpads) fun _ _ h => memWrite_kept h) fun _ _ h => memWrite_kept h)

theorem postResult_kept {z s : State} (h : Kept z s) {a1 a2 a3 a4} : Kept z (State.postResult s a1 a2 a3 a4) := by
  unfold State.postResult; try dsimp only
  with_reducible repeat' (first
      | assumption | refine when_kept ?_ (fun _ _ => ?_) | refine updArb_kept ?_ | refine wrapInc_kept ?_ | refine record_kept ?_
      | refine raise_kept ?_ | refine Kept.of ?_)

theorem placeOn_kept {z s : State} (h : Kept z s) {a1 a2} : Kept z (State.placeOn s a1 a2) := by
  unfold State.placeOn; try dsimp only
  with_reducible repeat' (first | assumption | refine modRing_kept ?_ | refine pendChanged_kept ?_ | refine Kept.of ?_)

theorem moveRing_kept {z s : State} (h : Kept z s) {a1} : Kept z (State.moveRing s a1) := by
  unfold State.moveRing; try dsimp only
  with_reducible repeat' (first | assumption | refine modRing_kept ?_ | refine postResult_kept ?_ | refine Kept.ite ?_ ?_ | split | refine Kept.of ?_)

theorem beginCmd_kept {z s : State} (h : Kept z s) : Kept z (State.beginCmd s) := by
  unfold State.beginCmd; try dsimp only
  with_reducible repeat' (first
      | assumption | refine updArb_kept ?_ | refine postResult_kept ?_ | refine placeOn_kept ?_ | refine updRing_kept ?_ | refine modRing_kept ?_
      | refine Kept.ite ?_ ?_ | split | refine Kept.of ?_)

theorem pushCmd_kept {z s : State} (h : Kept z s) {a1} : Kept z (State.pushCmd s a1) := by
  unfold State.pushCmd; try dsimp only
  with_reducible repeat' (first | assumption | refine updArb_kept ?_ | refine beginCmd_kept ?_ | refine Kept.ite ?_ ?_ | split | refine Kept.of ?_)

theorem cancelMig_kept {z s : State} (h : Kept z s) {a1} : Kept z (State.cancelMig s a1) := by
  unfold State.cancelMig; try dsimp only
  with_reducible repeat' (first | assumption | refine updRing_kept ?_ | refine postResult_kept ?_ | split | refine Kept.of ?_)

theorem fallback_kept {z s : State} (h : Kept z s) {a1} : Kept z (State.fallback s a1) := by
  unfold State.fallback; try dsimp only
  with_reducible repeat' (first
      | assumption | refine each_kept ?_ (fun _ _ _ => ?_) | refine updArb_kept ?_ | refine postResult_kept ?_ | refine Kept.ite ?_ ?_ | split
      | refine Kept.of ?_)

theorem fallbackPlace_kept {z s : State} (h : Kept z s) {a1} : Kept z (State.fallbackPlace s a1) := by
  unfold State.fallbackPlace; try dsimp only
  with_reducible repeat' (first
      | assumption | refine placeOn_kept ?_ | refine record_kept ?_ | refine updRing_kept ?_ | refine report_kept ?_ | refine Kept.ite ?_ ?_
      | split | refine Kept.of ?_)

theorem setPool_kept {z s : State} (h : Kept z s) {a1 a2} : Kept z (State.setPool s a1 a2) := by
  unfold State.setPool; try dsimp only
  with_reducible repeat' (first | assumption | refine updArb_kept ?_ | refine publish_kept ?_ | refine Kept.of ?_)

theorem setPath_kept {z s : State} (h : Kept z s) {a1 a2} : Kept z (State.setPath s a1 a2) := by
  unfold State.setPath; try dsimp only
  with_reducible repeat' (first | assumption | refine updArb_kept ?_ | refine publish_kept ?_ | refine Kept.of ?_)

theorem snapshot_kept {z s : State} (h : Kept z s) : Kept z (State.snapshot s) := by
  unfold State.snapshot; try dsimp only
  with_reducible repeat' (first | assumption | refine updArb_kept ?_ | refine Kept.of ?_)

theorem mselCopy_kept {z s : State} (h : Kept z s) {a1} : Kept z (State.mselCopy s a1) := by
  unfold State.mselCopy; try dsimp only
  with_reducible repeat' (first | assumption | refine each_kept ?_ (fun _ _ _ => ?_) | refine setReg_kept ?_ | refine Kept.ite ?_ ?_ | split)

theorem noLink_kept {z s : State} (h : Kept z s) {a1} : Kept z (State.noLink s a1) := by
  unfold State.noLink; try dsimp only
  with_reducible repeat' (first | assumption | refine report_kept ?_)

theorem hauDone_kept {z s : State} (h : Kept z s) {a1 a2 a3 a4} : Kept z (State.hauDone s a1 a2 a3 a4) := by
  unfold State.hauDone; try dsimp only
  with_reducible repeat' (first | assumption | refine updR_kept ?_)

theorem newHau_kept {z s : State} (h : Kept z s) {a1 a2 a3 a4} : Kept z (State.newHau s a1 a2 a3 a4).1 := by
  unfold State.newHau; try dsimp only
  with_reducible repeat' (first | assumption | refine updR_kept ?_ | refine Kept.ite ?_ ?_ | split | refine Kept.of ?_)

theorem newHau_kept' {z s t : State} {v} {a1 a2 a3 a4} (hk : Kept z s) (e : State.newHau s a1 a2 a3 a4 = (t, v)) : Kept z t := by
  have := newHau_kept hk (a1 := a1) (a2 := a2) (a3 := a3) (a4 := a4); rw [e] at this; exact this

theorem ncRead_kept {z s : State} (h : Kept z s) {a1 a2 a3 a4} : Kept z (State.ncRead s a1 a2 a3 a4) := by
  unfold State.ncRead; try dsimp only
  with_reducible repeat' (first | assumption | refine put_kept ?_ | refine noLink_kept ?_ | refine hauDone_kept ?_ | refine Kept.ite ?_ ?_ | split)

theorem ncWrite_kept {z s : State} (h : Kept z s) {a1 a2 a3 a4 a5} : Kept z (State.ncWrite s a1 a2 a3 a4 a5) := by
  unfold State.ncWrite; try dsimp only
  with_reducible repeat' (first | assumption | refine put_kept ?_ | refine noLink_kept ?_ | refine hauDone_kept ?_ | refine Kept.ite ?_ ?_ | split)

theorem carWaits_kept {z s : State} (h : Kept z s) {a1 a2 a3 a4} : Kept z (State.carWaits s a1 a2 a3 a4) := by
  unfold State.carWaits; try dsimp only
  with_reducible repeat' (first | assumption | refine updJob_kept ?_ | refine put_kept ?_ | refine Kept.of ?_)

theorem carRdNc_kept {z s : State} (h : Kept z s) {a1 a2 a3 a4 a5} : Kept z (State.carRdNc s a1 a2 a3 a4 a5) := by
  unfold State.carRdNc; try dsimp only
  with_reducible repeat' (first | assumption | refine carWaits_kept ?_)

theorem carWrNc_kept {z s : State} (h : Kept z s) {a1 a2 a3 a4 a5} : Kept z (State.carWrNc s a1 a2 a3 a4 a5) := by
  unfold State.carWrNc; try dsimp only
  with_reducible repeat' (first | assumption | refine carWaits_kept ?_)

theorem writeBack_kept {z s : State} (h : Kept z s) {a1 a2 a3} : Kept z (State.writeBack s a1 a2 a3) := by
  unfold State.writeBack; try dsimp only
  with_reducible repeat' (first
      | assumption | refine updCache_kept ?_ | refine put_kept ?_ | refine noLink_kept ?_ | refine report_kept ?_ | refine Kept.ite ?_ ?_ | split
      | refine Kept.of ?_)

theorem lineCorrected_kept {z s : State} (h : Kept z s) {a1 a2} : Kept z (State.lineCorrected s a1 a2) := report_kept h

theorem lineLost_kept {z s : State} (h : Kept z s) {a1 a2} : Kept z (State.lineLost s a1 a2) := report_kept h

theorem evict_kept {z s : State} (h : Kept z s) {a1 a2} : Kept z (State.evict s a1 a2) := by
  unfold State.evict; try dsimp only
  with_reducible repeat' (first
      | assumption | refine updCache_kept ?_ | refine lineLost_kept ?_ | refine writeBack_kept ?_ | refine lineCorrected_kept ?_
      | refine Kept.ite ?_ ?_ | split)

theorem allocate_kept {z s : State} (h : Kept z s) {a1 a2} : Kept z (State.allocate s a1 a2).2 := by
  unfold State.allocate; try dsimp only
  with_reducible repeat' (first | assumption | refine updCache_kept ?_ | refine evict_kept ?_ | split | refine Kept.of ?_)

theorem allocate_kept' {z s t : State} {v} {a1 a2} (hk : Kept z s) (e : State.allocate s a1 a2 = (v, t)) : Kept z t := by
  have := allocate_kept hk (a1 := a1) (a2 := a2); rw [e] at this; exact this

theorem waiterErr_kept {z s : State} (h : Kept z s) {w} : Kept z (s.waiterErr w) := by
  cases w <;> first | exact h | exact hauDone_kept h | exact ncRead_kept h | exact ncWrite_kept h

theorem carNcGo_kept {z s : State} (h : Kept z s) {k w} : Kept z (s.carNcGo k w).1 := by
  unfold State.carNcGo
  split
  · split
    · exact carRdNc_kept h
    · exact noLink_kept h
  · split
    · exact carWrNc_kept h
    · exact noLink_kept h
  · exact h

theorem lockedEnd_kept {z s : State} (h : Kept z s) {a1 a2} : Kept z (State.lockedEnd s a1 a2) := by
  unfold State.lockedEnd; try dsimp only
  with_reducible repeat' (first | assumption | refine updCache_kept ?_ | refine setRfld_kept ?_ | refine Kept.of ?_)

theorem foldErrs_kept {z : State} (l : List Waiter) (s : State) (h : Kept z s) : Kept z (l.foldl State.waiterErr s) := by
  induction l generalizing s with
  | nil => exact h
  | cons w t ih => exact ih _ (waiterErr_kept h)

theorem foldNotes_kept {z : State} {h} (l : List Waiter) (p : State × List CarNote) (k : Kept z p.1) :
    Kept z (l.foldl (fun (p : State × List CarNote) w => let q := p.1.carNcGo h w; (q.1, p.2 ++ w.errNote ++ q.2)) p).1 := by
  induction l generalizing p with
  | nil => exact k
  | cons w t ih => exact ih _ (carNcGo_kept k)

theorem fillErr_kept {z s : State} (h : Kept z s) {k f} : Kept z (s.fillErr k f).1 := by
  unfold State.fillErr
  extract_lets s1 s2 s3 s4
  have k2 : Kept z s2 := when_kept (updCache_kept h) fun _ h => lockedEnd_kept h
  refine foldNotes_kept _ (s4, []) (foldErrs_kept _ _ ?_)
  unfold s3
  split
  · exact k2
  · exact k2
  · exact satInc_kept k2

theorem fillErr_kept' {z s t : State} {v} {k f} (hk : Kept z s) (e : State.fillErr s k f = (t, v)) : Kept z t := by
  have := fillErr_kept hk (k := k) (f := f); rw [e] at this; exact this

theorem startFill_kept {z s : State} (h : Kept z s) {a1 a2} : Kept z (State.startFill s a1 a2).1 := by
  unfold State.startFill; try dsimp only
  with_reducible repeat' (first
      | assumption | refine updCache_kept ?_ | refine put_kept ?_ | refine noLink_kept ?_ | refine fillErr_kept' ?_ (by assumption)
      | refine fillErr_kept ?_ | refine Kept.ite ?_ ?_ | split | refine Kept.of ?_)

theorem startFill_kept' {z s t : State} {v} {a1 a2} (hk : Kept z s) (e : State.startFill s a1 a2 = (t, v)) : Kept z t := by
  have := startFill_kept hk (a1 := a1) (a2 := a2); rw [e] at this; exact this

theorem prefetch_kept {z s : State} (h : Kept z s) {a1 a2 a3 a4} : Kept z (State.prefetch s a1 a2 a3 a4) := by
  unfold State.prefetch; try dsimp only
  with_reducible repeat' (first
      | assumption | refine allocate_kept' ?_ (by assumption) | refine allocate_kept ?_ | refine satInc_kept ?_
      | refine startFill_kept' ?_ (by assumption) | refine startFill_kept ?_ | refine Kept.ite ?_ ?_ | split)

theorem nextLine_kept {z s : State} (h : Kept z s) {a1 a2 a3} : Kept z (State.nextLine s a1 a2 a3) := by
  unfold State.nextLine; try dsimp only
  with_reducible repeat' (first | assumption | refine satInc_kept ?_ | refine prefetch_kept ?_ | refine Kept.ite ?_ ?_ | split)

theorem stride_kept {z s : State} (h : Kept z s) {a1 a2 a3 a4 a5} : Kept z (State.stride s a1 a2 a3 a4 a5) := by
  unfold State.stride; try dsimp only
  with_reducible repeat' (first
      | assumption | refine each_kept ?_ (fun _ _ _ => ?_) | refine updCache_kept ?_ | refine prefetch_kept ?_ | refine Kept.ite ?_ ?_ | split
      | refine Kept.of ?_)

theorem lineCheck_kept {z s : State} (h : Kept z s) {a1 a2 a3 a4} : Kept z (State.lineCheck s a1 a2 a3 a4) := by
  unfold State.lineCheck; try dsimp only
  with_reducible repeat' (first
      | assumption | refine updCache_kept ?_ | refine lineCorrected_kept ?_ | refine lineLost_kept ?_ | refine startFill_kept' ?_ (by assumption)
      | refine startFill_kept ?_ | refine Kept.ite ?_ ?_ | split | refine Kept.of ?_)

theorem bypassDrop_kept {z s : State} (h : Kept z s) {a1 a2} : Kept z (State.bypassDrop s a1 a2) := by
  unfold State.bypassDrop; try dsimp only
  with_reducible repeat' (first | assumption | refine updCache_kept ?_ | refine Kept.ite ?_ ?_ | split)

theorem joinFill_kept {z s : State} (h : Kept z s) {a1 a2 a3} : Kept z (State.joinFill s a1 a2 a3) := by
  unfold State.joinFill; try dsimp only
  with_reducible repeat' (first | assumption | refine updCache_kept ?_ | refine Kept.ite ?_ ?_ | split | refine Kept.of ?_)

theorem demandMiss_kept {z s : State} (h : Kept z s) {k line u c w} : Kept z (s.demandMiss k line u c w).1.1 := by
  unfold State.demandMiss
  split
  · exact joinFill_kept h
  · split
    · exact report_kept (allocate_kept' h ‹_›)
    · exact nextLine_kept (startFill_kept (wrapInc_kept (allocate_kept' h ‹_›)))

theorem demandMiss_kept' {z s t : State} {v b k line u c w} (h : Kept z s) (e : s.demandMiss k line u c w = ((t, v), b)) : Kept z t := by
  have := demandMiss_kept h (k := k) (line := line) (u := u) (c := c) (w := w); rw [e] at this; exact this

theorem upgrade_kept {z s : State} (h : Kept z s) {a1 a2 a3 a4} : Kept z (State.upgrade s a1 a2 a3 a4).1 := by
  unfold State.upgrade; try dsimp only
  with_reducible repeat' (first | assumption | refine startFill_kept' ?_ (by assumption) | refine startFill_kept ?_)

theorem upgrade_kept' {z s t : State} {v} {a1 a2 a3 a4} (hk : Kept z s) (e : State.upgrade s a1 a2 a3 a4 = (t, v)) : Kept z t := by
  have := upgrade_kept hk (a1 := a1) (a2 := a2) (a3 := a3) (a4 := a4); rw [e] at this; exact this

theorem ncReadTurn_kept {z s : State} (h : Kept z s) {a1 a2 a3 a4} : Kept z (State.ncReadTurn s a1 a2 a3 a4) := by
  unfold State.ncReadTurn; try dsimp only
  with_reducible repeat' (first | assumption | refine joinFill_kept ?_ | refine ncRead_kept ?_ | refine Kept.ite ?_ ?_ | split)

theorem ncWriteTurn_kept {z s : State} (h : Kept z s) {a1 a2 a3 a4 a5} : Kept z (State.ncWriteTurn s a1 a2 a3 a4 a5) := by
  unfold State.ncWriteTurn; try dsimp only
  with_reducible repeat' (first | assumption | refine joinFill_kept ?_ | refine ncWrite_kept ?_ | refine Kept.ite ?_ ?_ | split)

theorem strideAfter_kept {z s : State} (h : Kept z s) {a1 a2 a3 a4 a5 a6} : Kept z (State.strideAfter s a1 a2 a3 a4 a5 a6) := by
  unfold State.strideAfter; try dsimp only
  with_reducible repeat' (first | assumption | refine when_kept ?_ (fun _ _ => ?_) | refine stride_kept ?_)

theorem hauLoadGo_kept {z s : State} (h : Kept z s) {a1 a2 a3 a4} : Kept z (State.hauLoadGo s a1 a2 a3 a4) := by
  unfold State.hauLoadGo
  with_reducible repeat' (first
      | assumption | extract_lets | refine lineCheck_kept ?_ | refine wrapInc_kept ?_ | refine newHau_kept' ?_ (by assumption)
      | refine newHau_kept ?_ | refine joinFill_kept ?_ | refine updR_kept ?_ | refine demandMiss_kept' ?_ (by assumption)
      | refine demandMiss_kept ?_ | refine ncRead_kept ?_ | refine ncReadTurn_kept ?_ | refine Kept.ite ?_ ?_ | split | refine Kept.of ?_)

theorem hauLoad_kept {z s : State} (h : Kept z s) {a1 a2 a3 a4} : Kept z (State.hauLoad s a1 a2 a3 a4) := by
  unfold State.hauLoad; try dsimp only
  with_reducible repeat' (first | assumption | refine hauLoadGo_kept ?_ | refine strideAfter_kept ?_)

theorem hauStoreGo_kept {z s : State} (h : Kept z s) {a1 a2 a3 a4 a5} : Kept z (State.hauStoreGo s a1 a2 a3 a4 a5) := by
  unfold State.hauStoreGo
  with_reducible repeat' (first
      | assumption | extract_lets | refine lineCheck_kept ?_ | refine wrapInc_kept ?_ | refine updR_kept ?_ | refine updCache_kept ?_
      | refine newHau_kept' ?_ (by assumption) | refine newHau_kept ?_ | refine joinFill_kept ?_ | refine upgrade_kept' ?_ (by assumption)
      | refine upgrade_kept ?_ | refine demandMiss_kept' ?_ (by assumption) | refine demandMiss_kept ?_ | refine ncWrite_kept ?_
      | refine bypassDrop_kept ?_ | refine ncWriteTurn_kept ?_ | refine Kept.ite ?_ ?_ | split | refine Kept.of ?_)

theorem hauStore_kept {z s : State} (h : Kept z s) {a1 a2 a3 a4 a5} : Kept z (State.hauStore s a1 a2 a3 a4 a5) := by
  unfold State.hauStore; try dsimp only
  with_reducible repeat' (first | assumption | refine hauStoreGo_kept ?_ | refine strideAfter_kept ?_)

theorem hauPref_kept {z s : State} (h : Kept z s) {a1 a2 a3} : Kept z (State.hauPref s a1 a2 a3) := by
  unfold State.hauPref; try dsimp only
  with_reducible repeat' (first | assumption | refine prefetch_kept ?_ | refine Kept.ite ?_ ?_ | split)

theorem serve_kept {z s : State} (h : Kept z s) {k line key} {l : List Waiter} : Kept z (s.serve k line key l).1 := by
  induction l generalizing s with
  | nil => exact h
  | cons w t ih =>
    unfold State.serve
    split
    · exact h
    · split <;> (try dsimp only) <;> (try split) <;>
        first
        | exact ih h
        | exact ih (hauDone_kept h)
        | exact ih (hauDone_kept (updCache_kept h))
        | exact ih (updCache_kept h)
        | exact upgrade_kept h
        | exact ih (ncRead_kept h)
        | exact ih (ncWrite_kept h)
        | exact ih (carNcGo_kept h)

theorem serve_kept' {z s t : State} {v k line key} {l : List Waiter} (h : Kept z s) (e : s.serve k line key l = (t, v)) : Kept z t := by
  have := serve_kept h (k := k) (line := line) (key := key) (l := l); rw [e] at this; exact this

theorem serveOnce_kept {z s : State} (h : Kept z s) {k d} {l : List Waiter} : Kept z (s.serveOnce k d l).1 := by
  induction l generalizing s with
  | nil => exact h
  | cons w t ih =>
    unfold State.serveOnce
    split <;> (try (rename_i e; cases e)) <;> (try dsimp only) <;> (try split) <;>
      first
      | exact ih h
      | exact ih (hauDone_kept h)
      | exact ih (ncWrite_kept h)
      | exact ih (ncRead_kept h)
      | exact ih (carWrNc_kept h)
      | exact ih (noLink_kept h)
      | exact ih (carNcGo_kept h)

theorem serveOnce_kept' {z s t : State} {v k d} {l : List Waiter} (h : Kept z s) (e : s.serveOnce k d l = (t, v)) : Kept z t := by
  have := serveOnce_kept h (k := k) (d := d) (l := l); rw [e] at this; exact this

theorem fillResponse_kept {z s : State} (h : Kept z s) {k line resp d err} : Kept z (s.fillResponse k line resp d err).1 := by
  unfold State.fillResponse
  split
  · exact h
  · split
    · split
      · exact put_kept h
      · exact fillErr_kept (noLink_kept h)
    · exact fillErr_kept h
    · exact fillErr_kept h
    · extract_lets s1 s2 key
      have k2 : Kept z s2 := when_kept (updCache_kept h) fun _ h => lockedEnd_kept h
      clear_value key
      split
      · exact serve_kept (updCache_kept k2)
      · exact serveOnce_kept k2

theorem fillResponse_kept' {z s t : State} {v} {k line resp d err} (hk : Kept z s) (e : State.fillResponse s k line resp d err = (t, v)) : Kept z t := by
  have := fillResponse_kept hk (k := k) (line := line) (resp := resp) (d := d) (err := err); rw [e] at this; exact this

theorem snoopHeat_kept {z s : State} (h : Kept z s) {a1 a2 a3} : Kept z (State.snoopHeat s a1 a2 a3).1 := by
  unfold State.snoopHeat; try dsimp only
  with_reducible repeat' (first
      | assumption | refine updCache_kept ?_ | refine report_kept ?_ | refine lineCorrected_kept ?_ | refine lineLost_kept ?_
      | refine Kept.ite ?_ ?_ | split | refine Kept.of ?_)

theorem snoopHeat_kept' {z s t : State} {v} {a1 a2 a3} (hk : Kept z s) (e : State.snoopHeat s a1 a2 a3 = (t, v)) : Kept z t := by
  have := snoopHeat_kept hk (a1 := a1) (a2 := a2) (a3 := a3); rw [e] at this; exact this

theorem foldSnoop_kept {z : State} {line link} (l : List Nat) (p : State × Option (Option LineData × Bool)) (k : Kept z p.1) :
    Kept z (l.foldl (fun (p : State × Option (Option LineData × Bool)) h =>
      let q := p.1.snoopHeat h line link
      (q.1, joinSnoop p.2 q.2)) p).1 := by
  induction l generalizing p with
  | nil => exact k
  | cons w t ih => exact ih _ (snoopHeat_kept k)

theorem snoop_kept {z s : State} (k : Kept z s) {link line} : Kept z (s.snoop link line) := put_kept (foldSnoop_kept _ (s, none) k)

theorem evictAll_kept {z s : State} (h : Kept z s) {a1 a2} : Kept z (State.evictAll s a1 a2) := by
  unfold State.evictAll; try dsimp only
  with_reducible repeat' (first | assumption | refine each_kept ?_ (fun _ _ _ => ?_) | refine evict_kept ?_)

theorem settleCache_kept {z s : State} (h : Kept z s) {a1} : Kept z (State.settleCache s a1) := by
  unfold State.settleCache; try dsimp only
  with_reducible repeat' (first
      | assumption | refine when_kept ?_ (fun _ _ => ?_) | refine setRfld_kept ?_ | refine updCache_kept ?_ | refine Kept.ite ?_ ?_ | split
      | refine Kept.of ?_)

theorem cacheClean_kept {z s : State} (h : Kept z s) {a1} : Kept z (State.cacheClean s a1) := by
  unfold State.cacheClean; try dsimp only
  with_reducible repeat' (first | assumption | refine updCache_kept ?_ | refine evictAll_kept ?_ | refine settleCache_kept ?_ | refine Kept.of ?_)

theorem rangeInv_kept {z s : State} (h : Kept z s) {a1 a2 a3} : Kept z (State.rangeInv s a1 a2 a3) := by
  unfold State.rangeInv; try dsimp only
  with_reducible repeat' (first | assumption | refine updCache_kept ?_ | refine evictAll_kept ?_ | refine settleCache_kept ?_ | refine Kept.of ?_)

theorem lockedFill_kept {z s : State} (h : Kept z s) {a1 a2 a3} : Kept z (State.lockedFill s a1 a2 a3) := by
  unfold State.lockedFill; try dsimp only
  with_reducible repeat' (first
      | assumption | refine setRfld_kept ?_ | refine evict_kept ?_ | refine updCache_kept ?_ | refine startFill_kept' ?_ (by assumption)
      | refine startFill_kept ?_ | refine Kept.ite ?_ ?_ | split | refine Kept.of ?_)

theorem wbAck_kept {z s : State} (h : Kept z s) {a1 a2} : Kept z (State.wbAck s a1 a2) := by
  unfold State.wbAck; try dsimp only
  with_reducible repeat' (first | assumption | refine updCache_kept ?_ | refine settleCache_kept ?_ | split | refine Kept.of ?_)

theorem sideNext_kept {z s : State} (h : Kept z s) {k list total x} : Kept z (s.sideNext k list total x).1 := by
  unfold State.sideNext
  split
  · exact h
  · split
    · exact h
    · split
      have k1 := memRead_kept' h ‹_›
      dsimp only
      split
      · exact k1
      · split <;> exact k1

theorem sideNext_kept' {z s t : State} {v} {k list total x} (hk : Kept z s) (e : State.sideNext s k list total x = (t, v)) : Kept z t := by
  have := sideNext_kept hk (k := k) (list := list) (total := total) (x := x); rw [e] at this; exact this

theorem takeUp_kept {z s : State} (h : Kept z s) {a1 a2 a3} : Kept z (State.takeUp s a1 a2 a3) := by
  unfold State.takeUp; try dsimp only
  with_reducible repeat' (first
      | assumption | refine memRead_kept' ?_ (by assumption) | refine memRead_kept ?_ | refine updJob_kept ?_ | refine Kept.ite ?_ ?_ | split)

theorem forgetRead_kept {z s : State} (h : Kept z s) {a1 a2 a3} : Kept z (State.forgetRead s a1 a2 a3) := by
  unfold State.forgetRead; try dsimp only
  with_reducible repeat' (first
      | assumption | refine each_kept ?_ (fun _ _ _ => ?_) | refine updPort_kept ?_ | refine Kept.ite ?_ ?_ | split | refine Kept.of ?_)

theorem discardJobs_kept {z s : State} (h : Kept z s) {a1 a2 a3} : Kept z (State.discardJobs s a1 a2 a3) := by
  unfold State.discardJobs; try dsimp only
  with_reducible repeat' (first
      | assumption | refine when_kept ?_ (fun _ _ => ?_) | refine forgetRead_kept ?_ | refine updJob_kept ?_ | refine memWrite_kept ?_
      | refine satInc_kept ?_)

theorem stopJobs_kept {z s : State} (h : Kept z s) {a1 a2} : Kept z (State.stopJobs s a1 a2) := by
  unfold State.stopJobs; try dsimp only
  with_reducible repeat' (first
      | assumption | refine each_kept ?_ (fun _ _ _ => ?_) | refine discardJobs_kept ?_ | refine updJob_kept ?_ | refine Kept.ite ?_ ?_ | split
      | refine Kept.of ?_)

theorem dropJobs_kept {z s : State} (h : Kept z s) {a1} : Kept z (State.dropJobs s a1) := by
  unfold State.dropJobs; try dsimp only
  with_reducible repeat' (first | assumption | refine each_kept ?_ (fun _ _ _ => ?_) | refine forgetRead_kept ?_ | refine updJob_kept ?_)

theorem countBytes_kept {z s : State} (h : Kept z s) {a1 a2 a3} : Kept z (State.countBytes s a1 a2 a3) := by
  unfold State.countBytes; try dsimp only
  with_reducible repeat' (first | assumption | refine setRfld_kept ?_)

theorem elemEnd_kept {z s : State} (h : Kept z s) {a1 a2 a3 a4 a5} : Kept z (State.elemEnd s a1 a2 a3 a4 a5) := by
  unfold State.elemEnd; try dsimp only
  with_reducible repeat' (first
      | assumption | refine when_kept ?_ (fun _ _ => ?_) | refine forgetRead_kept ?_ | refine updJob_kept ?_ | refine countBytes_kept ?_
      | refine discardJobs_kept ?_ | refine Kept.ite ?_ ?_ | split | refine Kept.of ?_)

theorem portSend_kept {z s : State} (h : Kept z s) {a1 a2} : Kept z (State.portSend s a1 a2) := by
  unfold State.portSend; try dsimp only
  with_reducible repeat' (first | assumption | refine put_kept ?_ | refine updPort_kept ?_ | refine Kept.ite ?_ ?_ | split | refine Kept.of ?_)

theorem addNp_kept {z s : State} (h : Kept z s) {a1 a2} : Kept z (State.addNp s a1 a2) := by
  unfold State.addNp; try dsimp only
  with_reducible repeat' (first | assumption | refine updPort_kept ?_ | refine updArb_kept ?_ | refine Kept.of ?_)

theorem npSend_kept {z s : State} (h : Kept z s) {a1 a2 a3} : Kept z (State.npSend s a1 a2 a3) := by
  unfold State.npSend; try dsimp only
  with_reducible repeat' (first
      | assumption | refine addNp_kept ?_ | refine portSend_kept ?_ | refine updPort_kept ?_ | refine Kept.ite ?_ ?_ | split | refine Kept.of ?_)

theorem npNext_kept {z s : State} (h : Kept z s) {a1} : Kept z (State.npNext s a1) := by
  unfold State.npNext; try dsimp only
  with_reducible repeat' (first
      | assumption | refine updPort_kept ?_ | refine addNp_kept ?_ | refine portSend_kept ?_ | refine Kept.ite ?_ ?_ | split | refine Kept.of ?_)

theorem dropNp_kept {z s : State} (h : Kept z s) {a1 a2} : Kept z (State.dropNp s a1 a2) := by
  unfold State.dropNp; try dsimp only
  with_reducible repeat' (first | assumption | refine updPort_kept ?_ | refine npNext_kept ?_ | split | refine Kept.of ?_)

theorem carToNc_kept {z s : State} (h : Kept z s) {a1 a2 a3 a4 a5} : Kept z (State.carToNc s a1 a2 a3 a4 a5) := by
  unfold State.carToNc; try dsimp only
  with_reducible repeat' (first
      | assumption | refine updJob_kept ?_ | refine joinFill_kept ?_ | refine carWrNc_kept ?_ | refine noLink_kept ?_ | refine elemEnd_kept ?_
      | refine Kept.ite ?_ ?_ | split | refine Kept.of ?_)

theorem carTold_kept {z s : State} (h : Kept z s) {a b c d l} : Kept z (s.carTold a b c d l) := by
  unfold State.carTold
  split
  · exact h
  · exact elemEnd_kept h

theorem carCachedGo_kept {z s : State} (k0 : Kept z s) {h k i a bs} : Kept z (s.carCachedGo h k i a bs) := by
  unfold State.carCachedGo
  extract_lets n line w wait s1
  have k1 : Kept z s1 := lineCheck_kept k0
  have kw : ∀ {t}, Kept z t → Kept z (wait t) := fun k => updJob_kept k
  split
  · have k2 := fun a b c d e => wrapInc_kept k1 (a1 := a) (a2 := b) (a3 := c) (a4 := d) (a5 := e)
    refine Kept.ite (elemEnd_kept (k2 ..)) (Kept.ite (elemEnd_kept (updCache_kept (k2 ..))) (Kept.ite (joinFill_kept (kw (k2 ..))) ?_))
    exact carTold_kept (upgrade_kept (kw (k2 ..)))
  · split
    · split
      · exact carTold_kept (demandMiss_kept' (kw k1) ‹_›)
      · exact carToNc_kept (demandMiss_kept' (kw k1) ‹_›)
    · exact carToNc_kept (bypassDrop_kept k1)

theorem carCached_kept {z s : State} (h : Kept z s) {a1 a2 a3 a4 a5} : Kept z (State.carCached s a1 a2 a3 a4 a5) := by
  unfold State.carCached; try dsimp only
  with_reducible repeat' (first | assumption | refine carCachedGo_kept ?_ | refine strideAfter_kept ?_)

theorem adWrites_kept {z : State} {p h k i} (f : Nat) : ∀ {s : State} {a bs}, Kept z s → Kept z (s.adWrites p h k i f a bs) := by
  induction f with
  | zero => exact id
  | succ f ih =>
    intro s a bs h
    unfold State.adWrites
    split
    · exact h
    · exact ih (portSend_kept h)

theorem carDest_kept {z s : State} (k0 : Kept z s) {h k i bs} : Kept z (s.carDest h k i bs) := by
  unfold State.carDest
  extract_lets j e n a s1
  have k1 : Kept z s1 := updJob_kept k0
  refine Kept.ite (elemEnd_kept k0) (Kept.ite (elemEnd_kept k1) ?_)
  split
  · exact elemEnd_kept (memWrite_kept k1)
  · exact carCached_kept k1
  · exact carToNc_kept (bypassDrop_kept k1)
  · exact Kept.ite (adWrites_kept _ (updJob_kept k1)) (elemEnd_kept k1)

theorem carMove_kept {z s : State} (h : Kept z s) {a1 a2 a3} : Kept z (State.carMove s a1 a2 a3) := by
  unfold State.carMove
  with_reducible repeat' (first
      | assumption | extract_lets | refine updJob_kept ?_ | refine put_kept ?_ | refine elemEnd_kept ?_ | refine sideNext_kept' ?_ (by assumption)
      | refine sideNext_kept ?_ | refine carDest_kept ?_ | refine Kept.ite ?_ ?_ | split | refine Kept.of ?_)

theorem carOutput_kept {z s : State} (h : Kept z s) {a1 a2 a3} : Kept z (State.carOutput s a1 a2 a3) := by
  unfold State.carOutput; try dsimp only
  with_reducible repeat' (first
      | assumption | refine elemEnd_kept ?_ | refine sideNext_kept' ?_ (by assumption) | refine sideNext_kept ?_ | refine updJob_kept ?_
      | refine carDest_kept ?_ | refine Kept.ite ?_ ?_ | split | refine Kept.of ?_)

theorem carGot_kept {z s : State} (h : Kept z s) {a1 a2 a3 a4 a5} : Kept z (State.carGot s a1 a2 a3 a4 a5) := by
  unfold State.carGot; try dsimp only
  with_reducible repeat' (first | assumption | refine updJob_kept ?_ | refine Kept.of ?_)

theorem carReadGo_kept {z s : State} (k0 : Kept z s) {h k i a n} : Kept z (s.carReadGo h k i a n) := by
  unfold State.carReadGo
  extract_lets wait byNc s1
  have kw : ∀ {t}, Kept z t → Kept z (wait t) := fun k => updJob_kept k
  have kn : ∀ {t}, Kept z t → Kept z (byNc t) := fun k => Kept.ite (carRdNc_kept (kw k)) (elemEnd_kept (noLink_kept k))
  have k1 : Kept z s1 := lineCheck_kept k0
  split
  · exact Kept.ite (elemEnd_kept (wrapInc_kept k1)) (Kept.ite (joinFill_kept (kw (wrapInc_kept k1))) (carMove_kept (carGot_kept (wrapInc_kept k1))))
  · split
    · split
      · exact carTold_kept (demandMiss_kept' (kw k1) ‹_›)
      · exact kn (demandMiss_kept' (kw k1) ‹_›)
    · exact Kept.ite (joinFill_kept (kw k1)) (kn k1)

theorem carSource_kept {z s : State} (k0 : Kept z s) {h k i} : Kept z (s.carSource h k i) := by
  unfold State.carSource
  extract_lets key j e
  split
  rename_i s1 x c e1
  have k1 : Kept z s1 := sideNext_kept' k0 e1
  refine Kept.ite (elemEnd_kept k1) ?_
  extract_lets size
  refine Kept.ite (Kept.ite (npSend_kept (updJob_kept k1)) (elemEnd_kept k1)) ?_
  split
  rename_i s2 d c2 e2
  have k2 : Kept z s2 := by
    split at e2
    · cases e2; exact k1
    · exact sideNext_kept' k1 e2
  extract_lets n s3
  have k3 : Kept z s3 := updJob_kept k2
  refine Kept.ite (elemEnd_kept k2) (Kept.ite (elemEnd_kept k2) ?_)
  split
  · split
    have k4 := memRead_kept' k3 ‹_›
    exact Kept.ite (elemEnd_kept k4) (carMove_kept (carGot_kept k4))
  · exact when_kept (carReadGo_kept k3) fun _ h => stride_kept h
  · exact Kept.ite (joinFill_kept (updJob_kept k3)) (Kept.ite (carRdNc_kept (updJob_kept k3)) (elemEnd_kept (noLink_kept (updJob_kept k3))))

theorem carElement_kept {z s : State} (h : Kept z s) {a1 a2 a3} : Kept z (State.carElement s a1 a2 a3) := by
  unfold State.carElement; try dsimp only
  with_reducible repeat' (first
      | assumption | refine takeUp_kept ?_ | refine satInc_kept ?_ | refine collide_kept ?_ | refine carOutput_kept ?_ | refine carMove_kept ?_
      | refine elemEnd_kept ?_ | refine carSource_kept ?_ | refine Kept.ite ?_ ?_ | split | refine Kept.of ?_)

theorem carLost_kept {z s : State} (h : Kept z s) {a1 a2 a3 a4 a5} : Kept z (State.carLost s a1 a2 a3 a4 a5) := by
  unfold State.carLost; try dsimp only
  with_reducible repeat' (first | assumption | refine elemEnd_kept ?_ | refine Kept.ite ?_ ?_ | split)

theorem carNote_kept {z s : State} (h : Kept z s) {a1 a2} : Kept z (State.carNote s a1 a2) := by
  unfold State.carNote; try dsimp only
  with_reducible repeat' (first
      | assumption | refine carLost_kept ?_ | refine carGot_kept ?_ | refine elemEnd_kept ?_ | refine Kept.ite ?_ ?_ | split)

theorem carHost_kept {z s : State} (h : Kept z s) {a1 a2 a3 a4 a5} : Kept z (State.carHost s a1 a2 a3 a4 a5) := by
  unfold State.carHost; try dsimp only
  with_reducible repeat' (first
      | assumption | refine updJob_kept ?_ | refine put_kept ?_ | refine report_kept ?_ | refine elemEnd_kept ?_ | refine carLost_kept ?_
      | refine carGot_kept ?_ | refine Kept.ite ?_ ?_ | split | refine Kept.of ?_)

theorem carFail_kept {z s : State} (h : Kept z s) {a1 a2 a3 a4} : Kept z (State.carFail s a1 a2 a3 a4) := by
  unfold State.carFail; try dsimp only
  with_reducible repeat' (first
      | assumption | refine elemEnd_kept ?_ | refine forgetRead_kept ?_ | refine updJob_kept ?_ | refine Kept.ite ?_ ?_ | split
      | refine Kept.of ?_)

theorem readFail_kept {z s : State} (h : Kept z s) {a1 a2 a3 a4} : Kept z (State.readFail s a1 a2 a3 a4) := by
  unfold State.readFail; try dsimp only
  with_reducible repeat' (first | assumption | refine updJob_kept ?_ | refine carFail_kept ?_ | refine Kept.ite ?_ ?_ | split | refine Kept.of ?_)

theorem carAdapter_kept {z s : State} (h : Kept z s) {a1 a2 a3 a4 a5} : Kept z (State.carAdapter s a1 a2 a3 a4 a5) := by
  unfold State.carAdapter; try dsimp only
  with_reducible repeat' (first
      | assumption | refine dropNp_kept ?_ | refine updPort_kept ?_ | refine readFail_kept ?_ | refine updJob_kept ?_ | refine elemEnd_kept ?_
      | refine Kept.ite ?_ ?_ | split | refine Kept.of ?_)

theorem xformEnd_kept {z s : State} (h : Kept z s) {a1 a2 a3 a4 a5} : Kept z (State.xformEnd s a1 a2 a3 a4 a5) := by
  unfold State.xformEnd; try dsimp only
  with_reducible repeat' (first | assumption | refine updJob_kept ?_ | refine carFail_kept ?_ | refine Kept.ite ?_ ?_ | split | refine Kept.of ?_)

theorem jobEnd_kept {z s : State} (h : Kept z s) {a1 a2 a3} : Kept z (State.jobEnd s a1 a2 a3) := by
  unfold State.jobEnd; try dsimp only
  with_reducible repeat' (first
      | assumption | refine when_kept ?_ (fun _ _ => ?_) | refine memWrite_kept ?_ | refine updJob_kept ?_ | refine raise_kept ?_
      | refine setRfld_kept ?_ | refine satInc_kept ?_ | refine report_kept ?_ | refine Kept.ite ?_ ?_ | split)

theorem jobPost_kept {z s : State} (h : Kept z s) {a1 a2 a3} : Kept z (State.jobPost s a1 a2 a3) := by
  unfold State.jobPost; try dsimp only
  with_reducible repeat' (first | assumption | refine report_kept ?_ | refine updJob_kept ?_ | refine Kept.ite ?_ ?_ | split | refine Kept.of ?_)

theorem releaseFrozen_kept {z s : State} (h : Kept z s) {a1} : Kept z (State.releaseFrozen s a1) := by
  unfold State.releaseFrozen; try dsimp only
  with_reducible repeat' (first | assumption | refine modRing_kept ?_ | refine updR_kept ?_ | split | refine Kept.of ?_)

theorem orphanOwner_kept {z s : State} (h : Kept z s) {a1 a2} : Kept z (State.orphanOwner s a1 a2) := by
  unfold State.orphanOwner; try dsimp only
  with_reducible repeat' (first | assumption | refine each_kept ?_ (fun _ _ _ => ?_) | refine setDir_kept ?_ | refine Kept.ite ?_ ?_ | split)

theorem orphanMirror_kept {z s : State} (h : Kept z s) {a1} : Kept z (State.orphanMirror s a1) := by
  unfold State.orphanMirror; try dsimp only
  with_reducible repeat' (first | assumption | refine each_kept ?_ (fun _ _ _ => ?_) | refine setDir_kept ?_)

theorem retarget_kept {z s : State} (h : Kept z s) {a1 a2 a3} : Kept z (State.retarget s a1 a2 a3) := by
  unfold State.retarget; try dsimp only
  with_reducible repeat' (first | assumption | refine updSl_kept ?_ | refine settleSeen_kept ?_ | refine Kept.ite ?_ ?_ | split | refine Kept.of ?_)

theorem fenceRunner_kept {z s : State} (h : Kept z s) {a1 a2} : Kept z (State.fenceRunner s a1 a2) := by
  unfold State.fenceRunner; try dsimp only
  with_reducible repeat' (first
      | assumption | refine hauLoad_kept ?_ | refine hauStore_kept ?_ | refine ncRead_kept ?_ | refine ncWrite_kept ?_ | refine updR_kept ?_
      | refine hauDone_kept ?_ | refine sliceFence_kept ?_ | refine Kept.ite ?_ ?_ | split | refine Kept.of ?_)

theorem takeOver_kept {z s : State} (h : Kept z s) {a1 a2 a3} : Kept z (State.takeOver s a1 a2 a3) := by
  unfold State.takeOver; try dsimp only
  with_reducible repeat' (first
      | assumption | refine each_kept ?_ (fun _ _ _ => ?_) | refine report_kept ?_ | refine orphanMirror_kept ?_ | refine setMstate_kept ?_
      | refine modRing_kept ?_ | refine unprotect_kept ?_ | refine raise_kept ?_ | refine morphZero_kept ?_ | refine Kept.ite ?_ ?_ | split
      | refine Kept.of ?_)

theorem looseRings_kept {z s : State} (h : Kept z s) {k rings lost} : Kept z (s.looseRings k rings lost) := by
  unfold State.looseRings
  exact pendChanged_kept ((each_kept (each_kept h fun _ _ h => modRing_kept (unprotect_kept (when_kept h fun _ h => report_kept h)))
    fun _ _ h => unfreeze_kept h).mstate twf_tset)

theorem heatFence_kept {z s : State} (h : Kept z s) {a1} : Kept z (State.heatFence s a1) := by
  unfold State.heatFence; try dsimp only
  with_reducible repeat' (first
      | assumption | refine each_kept ?_ (fun _ _ _ => ?_) | refine passEnd_kept ?_ | refine fenceRunner_kept ?_ | refine dropJobs_kept ?_
      | refine updCache_kept ?_ | refine settleCache_kept ?_ | refine cancelMig_kept ?_ | refine setMode_kept ?_ | refine takeOver_kept ?_
      | refine looseRings_kept ?_ | refine publish_kept ?_ | refine raise_kept ?_ | refine refreshMode_kept ?_ | refine Kept.ite ?_ ?_ | split
      | refine Kept.of ?_)

theorem handoff_kept {z s : State} (h : Kept z s) {a1 a2} : Kept z (State.handoff s a1 a2) := by
  unfold State.handoff; try dsimp only
  with_reducible repeat' (first
      | assumption | refine updR_kept ?_ | refine passEnd_kept ?_ | refine stopJobs_kept ?_ | refine releaseFrozen_kept ?_
      | refine orphanOwner_kept ?_ | refine sliceFence_kept ?_ | refine heatFence_kept ?_ | refine raise_kept ?_ | refine retarget_kept ?_
      | refine lorphZero_kept ?_ | refine refreshMode_kept ?_ | refine Kept.ite ?_ ?_ | split | refine Kept.of ?_)

theorem stopNow_kept {z s : State} (h : Kept z s) {a1} : Kept z (State.stopNow s a1) := by
  unfold State.stopNow; try dsimp only
  with_reducible repeat' (first
      | assumption | refine updR_kept ?_ | refine handoff_kept ?_ | refine sliceFence_kept ?_ | refine fallback_kept ?_ | split
      | refine Kept.of ?_)

theorem stopRunner_kept {z s : State} (h : Kept z s) {a1} : Kept z (State.stopRunner s a1) := by
  unfold State.stopRunner; try dsimp only
  with_reducible repeat' (first | assumption | refine updR_kept ?_ | refine stopNow_kept ?_ | refine Kept.ite ?_ ?_ | split | refine Kept.of ?_)

theorem settleStop_kept {z s : State} (h : Kept z s) {a1} : Kept z (State.settleStop s a1) := by
  unfold State.settleStop; try dsimp only
  with_reducible repeat' (first | assumption | refine stopNow_kept ?_ | refine Kept.ite ?_ ?_ | split)

theorem runnerFence_kept {z s : State} (h : Kept z s) {a1} : Kept z (State.runnerFence s a1) := by
  unfold State.runnerFence; try dsimp only
  with_reducible repeat' (first
      | assumption | refine updR_kept ?_ | refine handoff_kept ?_ | refine sliceFence_kept ?_ | refine fallback_kept ?_ | refine raise_kept ?_
      | refine refreshMode_kept ?_ | refine Kept.ite ?_ ?_ | split | refine Kept.of ?_)

theorem runnerHoff_kept {z s : State} (h : Kept z s) {a1} : Kept z (State.runnerHoff s a1) := by
  unfold State.runnerHoff; try dsimp only
  with_reducible repeat' (first | assumption | refine updR_kept ?_ | refine handoff_kept ?_ | refine Kept.ite ?_ ?_ | split | refine Kept.of ?_)

theorem dropWork_kept {z s : State} (h : Kept z s) {a1} : Kept z (State.dropWork s a1) := by
  unfold State.dropWork; try dsimp only
  with_reducible repeat' (first | assumption | refine releaseFrozen_kept ?_ | refine updR_kept ?_ | refine handoff_kept ?_ | refine Kept.of ?_)

theorem arbStops_kept {z s : State} (h : Kept z s) : Kept z (State.arbStops s) := by
  unfold State.arbStops; try dsimp only
  with_reducible repeat' (first | assumption | refine updR_kept ?_ | refine sliceFence_kept ?_ | refine fallback_kept ?_ | refine Kept.of ?_)

theorem romFail_kept {z s : State} (h : Kept z s) {a1} : Kept z (State.romFail s a1) := by
  unfold State.romFail; try dsimp only
  with_reducible repeat' (first
      | assumption | refine dropWork_kept ?_ | refine report_kept ?_ | refine refreshMode_kept ?_ | refine arbStops_kept ?_ | split)

theorem machineCheck_kept {z s : State} (h : Kept z s) {a1} : Kept z (State.machineCheck s a1) := by
  unfold State.machineCheck; try dsimp only
  with_reducible repeat' (first
      | assumption | refine handoff_kept ?_ | refine enterFence_kept ?_ | refine satInc_kept ?_ | refine dropWork_kept ?_ | refine report_kept ?_
      | refine refreshMode_kept ?_ | refine arbStops_kept ?_ | refine Kept.ite ?_ ?_ | split)

theorem runnerGo_kept {z s : State} (h : Kept z s) {a1} : Kept z (State.runnerGo s a1) := by
  unfold State.runnerGo; try dsimp only
  with_reducible repeat' (first
      | assumption | refine handoff_kept ?_ | refine updR_kept ?_ | refine startRunner_kept ?_ | refine refreshMode_kept ?_
      | refine Kept.ite ?_ ?_ | split | refine Kept.of ?_)

theorem wipeEnd_kept {z s : State} (h : Kept z s) {a1} : Kept z (State.wipeEnd s a1) := by
  unfold State.wipeEnd; try dsimp only
  with_reducible repeat' (first
      | assumption | refine each_kept ?_ (fun _ _ _ => ?_) | refine endWipe_kept ?_ | refine startRunner_kept ?_ | refine refreshMode_kept ?_
      | refine Kept.ite ?_ ?_ | split)

theorem heatGo_kept {z s : State} (h : Kept z s) {a1} : Kept z (State.heatGo s a1) := by
  unfold State.heatGo; try dsimp only
  with_reducible repeat' (first
      | assumption | refine clearDirs_kept ?_ | refine startWipe_kept ?_ | refine updUp_kept ?_ | refine updCache_kept ?_
      | refine publishAll_kept ?_ | refine setMstate_kept ?_ | refine publish_kept ?_ | refine raise_kept ?_ | refine refreshMode_kept ?_
      | refine Kept.ite ?_ ?_ | split | refine Kept.of ?_)

theorem hostMsg_kept {z s : State} (h : Kept z s) {a1 a2} : Kept z (State.hostMsg s a1 a2) := by
  unfold State.hostMsg; try dsimp only
  with_reducible repeat' (first | assumption | refine satInc_kept ?_ | refine updQ_kept ?_ | refine Kept.ite ?_ ?_ | split | refine Kept.of ?_)

theorem queueDue_kept {z s : State} (h : Kept z s) {a1} : Kept z (State.queueDue s a1) := by
  unfold State.queueDue; try dsimp only
  with_reducible repeat' (first | assumption | refine updQ_kept ?_ | refine Kept.ite ?_ ?_ | split | refine Kept.of ?_)

theorem deliverMsg_kept {z s : State} (h : Kept z s) : Kept z (State.deliverMsg s) := by
  unfold State.deliverMsg; try dsimp only
  with_reducible repeat' (first
      | assumption | refine put_kept ?_ | refine noLink_kept ?_ | refine updQ_kept ?_ | refine Kept.ite ?_ ?_ | split | refine Kept.of ?_)

theorem qack_kept {z s : State} (h : Kept z s) {a1} : Kept z (State.qack s a1) := by
  unfold State.qack; try dsimp only
  with_reducible repeat' (first | assumption | refine updQ_kept ?_ | refine Kept.of ?_)

theorem forward_kept {z s : State} (h : Kept z s) {a1} : Kept z (State.forward s a1) := by
  unfold State.forward; try dsimp only
  with_reducible repeat' (first | assumption | refine updR_kept ?_ | refine hostMsg_kept ?_ | refine Kept.ite ?_ ?_ | split | refine Kept.of ?_)

theorem calHeat_kept {z s : State} (h : Kept z s) {a1} : Kept z (State.calHeat s a1) := by
  unfold State.calHeat; try dsimp only
  with_reducible repeat' (first | assumption | refine setRfld_kept ?_ | split)

theorem calPin_kept {z s : State} (h : Kept z s) {a1} : Kept z (State.calPin s a1) := by
  unfold State.calPin; try dsimp only
  with_reducible repeat' (first | assumption | refine setRfld_kept ?_ | refine updPin_kept ?_ | split | refine Kept.of ?_)

theorem calRet_kept {z s : State} (h : Kept z s) : Kept z (State.calRet s) := by
  unfold State.calRet; try dsimp only
  with_reducible repeat' (first | assumption | refine setRfld_kept ?_ | split)

theorem setLive_kept {z s : State} (h : Kept z s) {a1 a2} : Kept z (State.setLive s a1 a2) := by
  unfold State.setLive; try dsimp only
  with_reducible repeat' (first | assumption | refine updPort_kept ?_ | refine publish_kept ?_ | refine Kept.ite ?_ ?_ | split | refine Kept.of ?_)

theorem noRate_kept {z s : State} (h : Kept z s) {a1} : Kept z (State.noRate s a1) := by
  unfold State.noRate; try dsimp only
  with_reducible repeat' (first | assumption | refine setReg_kept ?_)

theorem syncPort_kept {z s : State} (h : Kept z s) {a1} : Kept z (State.syncPort s a1) := by
  unfold State.syncPort; try dsimp only
  with_reducible repeat' (first
      | assumption | refine updPort_kept ?_ | refine noRate_kept ?_ | refine setLive_kept ?_ | refine Kept.ite ?_ ?_ | split | refine Kept.of ?_)

theorem cfgEnd_kept {z s : State} (h : Kept z s) {a1 a2 a3 a4} : Kept z (State.cfgEnd s a1 a2 a3 a4) := by
  unfold State.cfgEnd; try dsimp only
  with_reducible repeat' (first | assumption | refine setReg_kept ?_ | refine Kept.ite ?_ ?_ | split)

theorem npError_kept {z s : State} (h : Kept z s) {a1 a2 a3 a4} : Kept z (State.npError s a1 a2 a3 a4) := by
  unfold State.npError; try dsimp only
  with_reducible repeat' (first | assumption | refine cfgEnd_kept ?_ | refine readFail_kept ?_ | split)

theorem postedStand_kept {z s : State} (h : Kept z s) {a1} : Kept z (State.postedStand s a1) := by
  unfold State.postedStand; try dsimp only
  with_reducible repeat' (first
      | assumption | refine each_kept ?_ (fun _ _ _ => ?_) | refine elemEnd_kept ?_ | refine carFail_kept ?_ | refine Kept.ite ?_ ?_ | split)

theorem containPort_kept {z s : State} (h : Kept z s) {a1 a2} : Kept z (State.containPort s a1 a2) := by
  unfold State.containPort; try dsimp only
  with_reducible repeat' (first
      | assumption | refine each_kept ?_ (fun _ _ _ => ?_) | refine updPort_kept ?_ | refine noRate_kept ?_ | refine setRfld_kept ?_
      | refine npError_kept ?_ | refine postedStand_kept ?_ | refine setLive_kept ?_ | refine report_kept ?_ | refine refreshMode_kept ?_
      | refine Kept.ite ?_ ?_ | split | refine Kept.of ?_)

theorem portFence_kept {z s : State} (h : Kept z s) {a1} : Kept z (State.portFence s a1) := by
  unfold State.portFence; try dsimp only
  with_reducible repeat' (first
      | assumption | refine updPort_kept ?_ | refine containPort_kept ?_ | refine raise_kept ?_ | refine refreshMode_kept ?_
      | refine Kept.ite ?_ ?_ | split | refine Kept.of ?_)

theorem releasePort_kept {z s : State} (h : Kept z s) {a1} : Kept z (State.releasePort s a1) := by
  unfold State.releasePort; try dsimp only
  with_reducible repeat' (first
      | assumption | refine setRfld_kept ?_ | refine updPort_kept ?_ | refine syncPort_kept ?_ | refine setLive_kept ?_ | refine report_kept ?_
      | refine raise_kept ?_ | refine refreshMode_kept ?_ | refine Kept.of ?_)

theorem containAll_kept {z s : State} (h : Kept z s) : Kept z (State.containAll s) := by
  unfold State.containAll; try dsimp only
  with_reducible repeat' (first | assumption | refine each_kept ?_ (fun _ _ _ => ?_) | refine containPort_kept ?_)

theorem portUe_kept {z s : State} (h : Kept z s) {a1 a2} : Kept z (State.portUe s a1 a2) := by
  unfold State.portUe; try dsimp only
  with_reducible repeat' (first
      | assumption | refine setReg_kept ?_ | refine satInc_kept ?_ | refine report_kept ?_ | refine containPort_kept ?_ | refine Kept.ite ?_ ?_
      | split)

theorem portCe_kept {z s : State} (h : Kept z s) {a1 a2} : Kept z (State.portCe s a1 a2) := by
  unfold State.portCe; try dsimp only
  with_reducible repeat' (first | assumption | refine setReg_kept ?_ | refine satInc_kept ?_ | refine report_kept ?_)

theorem portError_kept {z s : State} (h : Kept z s) {a1 a2 a3} : Kept z (State.portError s a1 a2 a3) := by
  unfold State.portError; try dsimp only
  with_reducible repeat' (first | assumption | refine portUe_kept ?_ | refine portCe_kept ?_ | refine Kept.ite ?_ ?_ | split)

theorem aerMessage_kept {z s : State} (h : Kept z s) {a1 a2} : Kept z (State.aerMessage s a1 a2) := by
  unfold State.aerMessage; try dsimp only
  with_reducible repeat' (first | assumption | refine portCe_kept ?_ | refine portUe_kept ?_ | refine Kept.ite ?_ ?_ | split)

theorem surpriseDown_kept {z s : State} (h : Kept z s) {a1} : Kept z (State.surpriseDown s a1) := by
  unfold State.surpriseDown; try dsimp only
  with_reducible repeat' (first
      | assumption | refine when_kept ?_ (fun _ _ => ?_) | refine setRfld_kept ?_ | refine setReg_kept ?_ | refine satInc_kept ?_
      | refine report_kept ?_ | refine containPort_kept ?_ | refine Kept.ite ?_ ?_ | split)

theorem partnerFound_kept {z s : State} (h : Kept z s) {a1} : Kept z (State.partnerFound s a1) := by
  unfold State.partnerFound; try dsimp only
  with_reducible repeat' (first | assumption | refine setRfld_kept ?_ | refine syncPort_kept ?_ | refine Kept.ite ?_ ?_ | split)

theorem linkTrained_kept {z s : State} (h : Kept z s) {a1 a2 a3 a4 a5 a6} : Kept z (State.linkTrained s a1 a2 a3 a4 a5 a6) := by
  unfold State.linkTrained; try dsimp only
  with_reducible repeat' (first
      | assumption | refine each_kept ?_ (fun _ _ _ => ?_) | refine setRfld_kept ?_ | refine updPort_kept ?_ | refine put_kept ?_
      | refine setLive_kept ?_ | refine Kept.ite ?_ ?_ | split | refine Kept.of ?_)

theorem laneNarrow_kept {z s : State} (h : Kept z s) {a1 a2} : Kept z (State.laneNarrow s a1 a2) := by
  unfold State.laneNarrow; try dsimp only
  with_reducible repeat' (first
      | assumption | refine setReg_kept ?_ | refine setRfld_kept ?_ | refine report_kept ?_ | refine refreshMode_kept ?_ | refine Kept.ite ?_ ?_
      | split)

theorem trainTimeout_kept {z s : State} (h : Kept z s) {a1} : Kept z (State.trainTimeout s a1) := by
  unfold State.trainTimeout; try dsimp only
  with_reducible repeat' (first | assumption | refine containPort_kept ?_ | refine Kept.ite ?_ ?_ | split)

theorem npTimeout_kept {z s : State} (h : Kept z s) {a1 a2} : Kept z (State.npTimeout s a1 a2) := by
  unfold State.npTimeout; try dsimp only
  with_reducible repeat' (first
      | assumption | refine updPort_kept ?_ | refine npError_kept ?_ | refine portUe_kept ?_ | refine npNext_kept ?_ | refine syncPort_kept ?_
      | refine Kept.ite ?_ ?_ | split | refine Kept.of ?_)

theorem inboundBad_kept {z s : State} (h : Kept z s) {a1 a2} : Kept z (State.inboundBad s a1 a2) := by
  unfold State.inboundBad; try dsimp only
  with_reducible repeat' (first | assumption | refine report_kept ?_ | refine portUe_kept ?_)

theorem inbound_kept {z s : State} (h : Kept z s) {a1 a2 a3 a4} : Kept z (State.inbound s a1 a2 a3 a4) := by
  unfold State.inbound; try dsimp only
  with_reducible repeat' (first
      | assumption | refine collide_kept ?_ | refine memWrite_kept ?_ | refine wrapInc_kept ?_ | refine raise_kept ?_ | refine inboundBad_kept ?_
      | refine Kept.ite ?_ ?_ | split)

theorem inboundOther_kept {z s : State} (h : Kept z s) {a1 a2} : Kept z (State.inboundOther s a1 a2) := by
  unfold State.inboundOther; try dsimp only
  with_reducible repeat' (first | assumption | refine put_kept ?_ | refine inboundBad_kept ?_ | refine Kept.ite ?_ ?_ | split)

theorem cfgIssue_kept {z s : State} (h : Kept z s) {a1 a2} : Kept z (State.cfgIssue s a1 a2) := by
  unfold State.cfgIssue; try dsimp only
  with_reducible repeat' (first | assumption | refine setReg_kept ?_ | refine npSend_kept ?_ | refine cfgEnd_kept ?_ | refine Kept.ite ?_ ?_ | split)

theorem cplError_kept {z s : State} (h : Kept z s) {a1 a2} : Kept z (State.cplError s a1 a2) := by
  unfold State.cplError; try dsimp only
  with_reducible repeat' (first | assumption | refine portUe_kept ?_ | refine Kept.ite ?_ ?_ | split)

theorem cfgDone_kept {z s : State} (h : Kept z s) {a1 a2 a3} : Kept z (State.cfgDone s a1 a2 a3) := by
  unfold State.cfgDone; try dsimp only
  with_reducible repeat' (first
      | assumption | refine updPort_kept ?_ | refine cfgEnd_kept ?_ | refine npNext_kept ?_ | refine cplError_kept ?_ | refine syncPort_kept ?_
      | refine Kept.ite ?_ ?_ | split | refine Kept.of ?_)

theorem marginEnd_kept {z s : State} (h : Kept z s) {a1 a2} : Kept z (State.marginEnd s a1 a2) := by
  unfold State.marginEnd; try dsimp only
  with_reducible repeat' (first | assumption | refine setRfld_kept ?_ | refine Kept.ite ?_ ?_ | split)

theorem applyPin_kept {z s : State} (h : Kept z s) {a1} : Kept z (State.applyPin s a1) := by
  unfold State.applyPin; try dsimp only
  with_reducible repeat' (first | assumption | refine updPin_kept ?_ | refine calPin_kept ?_ | refine Kept.ite ?_ ?_ | split | refine Kept.of ?_)

theorem drivePin_kept {z s : State} (h : Kept z s) {a1 a2 a3 a4} : Kept z (State.drivePin s a1 a2 a3 a4) := by
  unfold State.drivePin; try dsimp only
  with_reducible repeat' (first | assumption | refine updPin_kept ?_ | refine Kept.ite ?_ ?_ | split)

theorem pacRaise_kept {z s : State} (h : Kept z s) {a1 a2} : Kept z (State.pacRaise s a1 a2) := by
  unfold State.pacRaise; try dsimp only
  with_reducible repeat' (first | assumption | refine raise_kept ?_)

theorem pacEvent_kept {z s : State} (h : Kept z s) {a1} : Kept z (State.pacEvent s a1) := by
  unfold State.pacEvent; try dsimp only
  with_reducible repeat' (first | assumption | refine pacRaise_kept ?_)

theorem dropTimed_kept {z s : State} (h : Kept z s) {a1} : Kept z (State.dropTimed s a1) := by
  unfold State.dropTimed; try dsimp only
  with_reducible repeat' (first | assumption | refine satInc_kept ?_ | refine updPacer_kept ?_ | refine Kept.of ?_)

theorem pacFault_kept {z s : State} (h : Kept z s) {a1 a2 a3} : Kept z (State.pacFault s a1 a2 a3) := by
  unfold State.pacFault; try dsimp only
  with_reducible repeat' (first
      | assumption | refine dropTimed_kept ?_ | refine updPacer_kept ?_ | refine setRfld_kept ?_ | refine pacRaise_kept ?_ | refine report_kept ?_
      | refine Kept.ite ?_ ?_ | split | refine Kept.of ?_)

theorem pacersSafe_kept {z s : State} (h : Kept z s) : Kept z (State.pacersSafe s) := by
  unfold State.pacersSafe; try dsimp only
  with_reducible repeat' (first
      | assumption | refine each_kept ?_ (fun _ _ _ => ?_) | refine updPacer_kept ?_ | refine Kept.ite ?_ ?_ | split | refine Kept.of ?_)

theorem pacHalt_kept {z s : State} (h : Kept z s) {a1} : Kept z (State.pacHalt s a1) := by
  unfold State.pacHalt; try dsimp only
  with_reducible repeat' (first | assumption | refine dropTimed_kept ?_ | refine updPacer_kept ?_ | refine Kept.of ?_)

theorem pacStart_kept {z s : State} (h : Kept z s) {a1} : Kept z (State.pacStart s a1) := by
  unfold State.pacStart; try dsimp only
  with_reducible repeat' (first
      | assumption | refine when_kept ?_ (fun _ _ => ?_) | refine each_kept ?_ (fun _ _ _ => ?_) | refine applyPin_kept ?_ | refine updPin_kept ?_
      | refine setRfld_kept ?_ | refine updPacer_kept ?_ | refine report_kept ?_ | refine Kept.ite ?_ ?_ | split | refine Kept.of ?_)

theorem pacStop_kept {z s : State} (h : Kept z s) {a1} : Kept z (State.pacStop s a1) := by
  unfold State.pacStop; try dsimp only
  with_reducible repeat' (first | assumption | refine updPacer_kept ?_ | refine pacHalt_kept ?_ | split | refine Kept.of ?_)

theorem pacResume_kept {z s : State} (h : Kept z s) {a1} : Kept z (State.pacResume s a1) := by
  unfold State.pacResume; try dsimp only
  with_reducible repeat' (first | assumption | refine updPacer_kept ?_ | refine Kept.of ?_)

theorem pacTestsEnd_kept {z s : State} (h : Kept z s) {a1 a2} : Kept z (State.pacTestsEnd s a1 a2) := by
  unfold State.pacTestsEnd; try dsimp only
  with_reducible repeat' (first
      | assumption | refine each_kept ?_ (fun _ _ _ => ?_) | refine pacFault_kept ?_ | refine setRfld_kept ?_ | refine updPacer_kept ?_
      | refine Kept.ite ?_ ?_ | split | refine Kept.of ?_)

theorem pacShort_kept {z s : State} (h : Kept z s) {a1 a2} : Kept z (State.pacShort s a1 a2) := by
  unfold State.pacShort; try dsimp only
  with_reducible repeat' (first
      | assumption | refine updPin_kept ?_ | refine setRfld_kept ?_ | refine pacFault_kept ?_ | refine Kept.ite ?_ ?_ | split | refine Kept.of ?_)

theorem pacNext_kept {z s : State} (h : Kept z s) {a1} : Kept z (State.pacNext s a1) := by
  unfold State.pacNext; try dsimp only
  with_reducible repeat' (first | assumption | refine updPacer_kept ?_ | refine Kept.of ?_)

theorem shiftBit_kept {z s : State} (h : Kept z s) {a1 a2} : Kept z (State.shiftBit s a1 a2) := by
  unfold State.shiftBit; try dsimp only
  with_reducible repeat' (first | assumption | refine drivePin_kept ?_ | refine updPacer_kept ?_ | refine Kept.ite ?_ ?_ | split | refine Kept.of ?_)

theorem bitEdge_kept {z s : State} (h : Kept z s) {a1} : Kept z (State.bitEdge s a1) := by
  unfold State.bitEdge; try dsimp only
  with_reducible repeat' (first
      | assumption | refine pacNext_kept ?_ | refine pacHalt_kept ?_ | refine shiftBit_kept ?_ | refine Kept.ite ?_ ?_ | split)

theorem pacTick_kept {z s : State} (h : Kept z s) {a1} : Kept z (State.pacTick s a1) := by
  unfold State.pacTick; try dsimp only
  with_reducible repeat' (first
      | assumption | refine updPacer_kept ?_ | refine pacNext_kept ?_ | refine bitEdge_kept ?_ | refine Kept.ite ?_ ?_ | split | refine Kept.of ?_)

theorem setPins_kept {z s : State} (h : Kept z s) {a1 a2} : Kept z (State.setPins s a1 a2) := by
  unfold State.setPins; try dsimp only
  with_reducible repeat' (first | assumption | refine each_kept ?_ (fun _ _ _ => ?_) | refine drivePin_kept ?_)

theorem pacBegin_kept {z s : State} (h : Kept z s) {a1} : Kept z (State.pacBegin s a1) := by
  unfold State.pacBegin; try dsimp only
  with_reducible repeat' (first | assumption | refine setPins_kept ?_ | refine updPacer_kept ?_ | refine Kept.ite ?_ ?_ | split | refine Kept.of ?_)

theorem pacShift_kept {z s : State} (h : Kept z s) {a1 a2} : Kept z (State.pacShift s a1 a2) := by
  unfold State.pacShift; try dsimp only
  with_reducible repeat' (first
      | assumption | refine pacBegin_kept ?_ | refine updPacer_kept ?_ | refine shiftBit_kept ?_ | refine Kept.ite ?_ ?_ | split
      | refine Kept.of ?_)

theorem pacGive_kept {z s : State} (h : Kept z s) {a1} : Kept z (State.pacGive s a1) := by
  unfold State.pacGive; try dsimp only
  with_reducible repeat' (first
      | assumption | refine when_kept ?_ (fun _ _ => ?_) | refine updPacer_kept ?_ | refine pacEvent_kept ?_ | refine Kept.of ?_)

theorem pacTake_kept {z s : State} (h : Kept z s) {a1} : Kept z (State.pacTake s a1) := by
  unfold State.pacTake; try dsimp only
  with_reducible repeat' (first | assumption | refine updPacer_kept ?_ | split | refine Kept.of ?_)

theorem pacSched_kept {z s : State} (h : Kept z s) {a1} : Kept z (State.pacSched s a1) := by
  unfold State.pacSched; try dsimp only
  with_reducible repeat' (first
      | assumption | refine when_kept ?_ (fun _ _ => ?_) | refine satInc_kept ?_ | refine updPacer_kept ?_ | refine Kept.of ?_)

theorem pacWait_kept {z s : State} (h : Kept z s) {a1 a2 a3} : Kept z (State.pacWait s a1 a2 a3) := by
  unfold State.pacWait; try dsimp only
  with_reducible repeat' (first | assumption | refine updPacer_kept ?_ | refine Kept.of ?_)

theorem pacRun_kept {z s : State} (h : Kept z s) {a1 a2} : Kept z (State.pacRun s a1 a2) := by
  unfold State.pacRun; try dsimp only
  with_reducible repeat' (first
      | assumption | refine when_kept ?_ (fun _ _ => ?_) | refine pacBegin_kept ?_ | refine pacWait_kept ?_ | refine pacShift_kept ?_
      | refine satInc_kept ?_ | refine updPacer_kept ?_ | refine pacNext_kept ?_ | refine pacTake_kept ?_ | refine pacGive_kept ?_
      | refine drivePin_kept ?_ | refine setReg_kept ?_ | refine pacEvent_kept ?_ | refine pacSched_kept ?_ | refine pacHalt_kept ?_
      | refine Kept.ite ?_ ?_ | split | refine Kept.of ?_)

theorem pacIllop_kept {z s : State} (h : Kept z s) {a1} : Kept z (State.pacIllop s a1) := by
  unfold State.pacIllop; try dsimp only
  with_reducible repeat' (first | assumption | refine pacFault_kept ?_ | refine Kept.ite ?_ ?_ | split)

theorem timedAction_kept {z s : State} (h : Kept z s) {a1} : Kept z (State.timedAction s a1) := by
  unfold State.timedAction; try dsimp only
  with_reducible repeat' (first
      | assumption | refine when_kept ?_ (fun _ _ => ?_) | refine updPacer_kept ?_ | refine setPins_kept ?_ | refine pacEvent_kept ?_
      | refine pacSched_kept ?_ | refine pacNext_kept ?_ | refine Kept.ite ?_ ?_ | split | refine Kept.of ?_)

theorem untilEnd_kept {z s : State} (h : Kept z s) {a1} : Kept z (State.untilEnd s a1) := by
  unfold State.untilEnd; try dsimp only
  with_reducible repeat' (first | assumption | refine pacNext_kept ?_ | refine Kept.ite ?_ ?_ | split)

theorem pinLevel_kept {z s : State} (h : Kept z s) {a1 a2} : Kept z (State.pinLevel s a1 a2) := by
  unfold State.pinLevel; try dsimp only
  with_reducible repeat' (first
      | assumption | refine each_kept ?_ (fun _ _ _ => ?_) | refine updPin_kept ?_ | refine pacNext_kept ?_ | refine Kept.ite ?_ ?_ | split
      | refine Kept.of ?_)

theorem pinClock_kept {z s : State} (h : Kept z s) {a1 a2} : Kept z (State.pinClock s a1 a2) := by
  unfold State.pinClock; try dsimp only
  with_reducible repeat' (first
      | assumption | refine pinLevel_kept ?_ | refine updPacer_kept ?_ | refine bitEdge_kept ?_ | refine Kept.ite ?_ ?_ | split
      | refine Kept.of ?_)

theorem pacPush_kept {z s : State} (h : Kept z s) {a1 a2} : Kept z (State.pacPush s a1 a2).1 := by
  unfold State.pacPush; try dsimp only
  with_reducible repeat' (first
      | assumption | refine updPacer_kept ?_ | refine pacTake_kept ?_ | refine pacNext_kept ?_ | refine Kept.ite ?_ ?_ | split | refine Kept.of ?_)

theorem pacPush_kept' {z s t : State} {v} {a1 a2} (hk : Kept z s) (e : State.pacPush s a1 a2 = (t, v)) : Kept z t := by
  have := pacPush_kept hk (a1 := a1) (a2 := a2); rw [e] at this; exact this

theorem pacPull_kept {z s : State} (h : Kept z s) {a1} : Kept z (State.pacPull s a1).1 := by
  unfold State.pacPull; try dsimp only
  with_reducible repeat' (first
      | assumption | refine updPacer_kept ?_ | refine pacGive_kept ?_ | refine pacNext_kept ?_ | refine Kept.ite ?_ ?_ | split | refine Kept.of ?_)

theorem pacPull_kept' {z s t : State} {v} {a1} (hk : Kept z s) (e : State.pacPull s a1 = (t, v)) : Kept z t := by
  have := pacPull_kept hk (a1 := a1); rw [e] at this; exact this

theorem updCls_kept {z s : State} (h : Kept z s) {a1 a2} : Kept z (State.updCls s a1 a2) := by
  unfold State.updCls; try dsimp only
  with_reducible repeat' (first | assumption | refine updRef_kept ?_ | refine Kept.of ?_)

theorem setPflt_kept {z s : State} (h : Kept z s) {a1 a2} : Kept z (State.setPflt s a1 a2) := by
  unfold State.setPflt; try dsimp only
  with_reducible repeat' (first | assumption | refine setReg_kept ?_)

theorem offer_kept {z s : State} (h : Kept z s) {a1} : Kept z (State.offer s a1) := by
  unfold State.offer; try dsimp only
  with_reducible repeat' (first
      | assumption | refine updRef_kept ?_ | refine satInc_kept ?_ | refine report_kept ?_ | refine Kept.ite ?_ ?_ | split | refine Kept.of ?_)

theorem offerAll_kept {z s : State} (h : Kept z s) : Kept z (State.offerAll s) := by
  unfold State.offerAll; try dsimp only
  with_reducible repeat' (first | assumption | refine each_kept ?_ (fun _ _ _ => ?_) | refine offer_kept ?_)

theorem arrive_kept {z s : State} (h : Kept z s) {a1} : Kept z (State.arrive s a1) := by
  unfold State.arrive; try dsimp only
  with_reducible repeat' (first
      | assumption | refine offerAll_kept ?_ | refine updRef_kept ?_ | refine setPflt_kept ?_ | refine Kept.ite ?_ ?_ | split | refine Kept.of ?_)

theorem linkFence_kept {z s : State} (h : Kept z s) {a1} : Kept z (State.linkFence s a1) := by
  unfold State.linkFence; try dsimp only
  with_reducible repeat' (first | assumption | refine refreshMode_kept ?_ | refine Kept.of ?_)

theorem carFence_kept {z s : State} (h : Kept z s) {a1 a2} : Kept z (s.carFence a1 a2) := by
  unfold State.carFence
  exact refreshMode_kept (setRfld_kept (h.carFen twf_tset))

theorem fenceUnit_kept {z s : State} (h : Kept z s) {a1 a2} : Kept z (State.fenceUnit s a1 a2) := by
  unfold State.fenceUnit; try dsimp only
  with_reducible repeat' (first
      | assumption | refine runnerFence_kept ?_ | refine heatFence_kept ?_ | refine portFence_kept ?_ | refine carFence_kept ?_
      | refine linkFence_kept ?_ | refine Kept.ite ?_ ?_ | split)

theorem react_kept {z s : State} (h : Kept z s) {a1 a2 a3} : Kept z (State.react s a1 a2 a3) := by
  unfold State.react; try dsimp only
  with_reducible repeat' (first
      | assumption | refine when_kept ?_ (fun _ _ => ?_) | refine updCls_kept ?_ | refine syncF3_kept ?_ | refine hostMsg_kept ?_
      | refine fenceUnit_kept ?_ | refine runnerHoff_kept ?_ | refine pacersSafe_kept ?_ | refine containAll_kept ?_ | refine Kept.ite ?_ ?_
      | split | refine Kept.of ?_)

theorem severe_kept {z s : State} (h : Kept z s) {a1 a2} : Kept z (State.severe s a1 a2) := by
  unfold State.severe; try dsimp only
  with_reducible repeat' (first
      | assumption | refine updCls_kept ?_ | refine updRef_kept ?_ | refine react_kept ?_ | refine Kept.ite ?_ ?_ | split | refine Kept.of ?_)

theorem faultRecord_kept {z s : State} (h : Kept z s) {a1 a2 a3 a4 a5 a6} : Kept z (State.faultRecord s a1 a2 a3 a4 a5 a6) := by
  unfold State.faultRecord; try dsimp only
  with_reducible repeat' (first | assumption | refine record_kept ?_)

theorem closeNow_kept {z s : State} (h : Kept z s) {a1 a2} : Kept z (State.closeNow s a1 a2) := by
  unfold State.closeNow; try dsimp only
  with_reducible repeat' (first
      | assumption | refine when_kept ?_ (fun _ _ => ?_) | refine updRef_kept ?_ | refine updCls_kept ?_ | refine faultRecord_kept ?_
      | refine Kept.ite ?_ ?_ | split | refine Kept.of ?_)

theorem followLive_kept {z s : State} (h : Kept z s) {a1} : Kept z (State.followLive s a1) := by
  unfold State.followLive; try dsimp only
  with_reducible repeat' (first | assumption | refine updCls_kept ?_ | refine Kept.ite ?_ ?_ | split | refine Kept.of ?_)

theorem countEvent_kept {z s : State} (h : Kept z s) {a1} : Kept z (State.countEvent s a1) := by
  unfold State.countEvent; try dsimp only
  with_reducible repeat' (first
      | assumption | refine each_kept ?_ (fun _ _ _ => ?_) | refine updCls_kept ?_ | refine syncF3_kept ?_ | refine Kept.of ?_)

theorem countEntry_kept {z s : State} (h : Kept z s) {a1 a2 a3} : Kept z (State.countEntry s a1 a2 a3) := by
  unfold State.countEntry; try dsimp only
  with_reducible repeat' (first
      | assumption | refine countEvent_kept ?_ | refine updRef_kept ?_ | refine severe_kept ?_ | refine Kept.ite ?_ ?_ | split | refine Kept.of ?_)

theorem countReport_kept {z s : State} (h : Kept z s) {a1} : Kept z (State.countReport s a1) := by
  unfold State.countReport; try dsimp only
  with_reducible repeat' (first
      | assumption | refine when_kept ?_ (fun _ _ => ?_) | refine updRef_kept ?_ | refine closeNow_kept ?_ | refine countEntry_kept ?_
      | refine satInc_kept ?_ | refine report_kept ?_ | refine countEvent_kept ?_ | refine severe_kept ?_ | refine faultRecord_kept ?_
      | refine Kept.ite ?_ ?_ | split | refine Kept.of ?_)

theorem takeReport_kept {z s : State} (h : Kept z s) : Kept z (State.takeReport s) := by
  unfold State.takeReport; try dsimp only
  with_reducible repeat' (first
      | assumption | refine updRef_kept ?_ | refine followLive_kept ?_ | refine countReport_kept ?_ | refine Kept.ite ?_ ?_ | split
      | refine Kept.of ?_)

theorem closeEntry_kept {z s : State} (h : Kept z s) {a1 a2 a3} : Kept z (State.closeEntry s a1 a2 a3) := by
  unfold State.closeEntry; try dsimp only
  with_reducible repeat' (first | assumption | refine closeNow_kept ?_ | refine Kept.ite ?_ ?_ | split)

theorem clearSev_kept {z s : State} (h : Kept z s) {a1 a2} : Kept z (State.clearSev s a1 a2) := by
  unfold State.clearSev; try dsimp only
  with_reducible repeat' (first
      | assumption | refine each_kept ?_ (fun _ _ _ => ?_) | refine updCls_kept ?_ | refine updRef_kept ?_ | refine syncF3_kept ?_
      | refine Kept.ite ?_ ?_ | split | refine Kept.of ?_)

theorem driveFault_kept {z s : State} (h : Kept z s) : Kept z (State.driveFault s) := by
  unfold State.driveFault; try dsimp only
  with_reducible repeat' (first | assumption | refine updRef_kept ?_ | refine Kept.ite ?_ ?_ | split | refine Kept.of ?_)

theorem flushTrigger_kept {z s : State} (h : Kept z s) : Kept z (State.flushTrigger s) := by
  unfold State.flushTrigger; try dsimp only
  with_reducible repeat' (first | assumption | refine updScs_kept ?_ | refine Kept.of ?_)

theorem commitRec_kept {z s : State} (h : Kept z s) {a1} : Kept z (State.commitRec s a1) := by
  unfold State.commitRec; try dsimp only
  with_reducible repeat' (first
      | assumption | refine when_kept ?_ (fun _ _ => ?_) | refine updScs_kept ?_ | refine report_kept ?_ | refine satInc_kept ?_
      | refine flushTrigger_kept ?_ | split | refine Kept.of ?_)

theorem summary_kept {z s : State} (h : Kept z s) : Kept z (State.summary s) := by
  unfold State.summary; try dsimp only
  with_reducible repeat' (first
      | assumption | refine updScs_kept ?_ | refine satInc_kept ?_ | refine record_kept ?_ | refine Kept.ite ?_ ?_ | split | refine Kept.of ?_)

theorem recordCommit_kept {z s : State} (h : Kept z s) : Kept z (State.recordCommit s) := by
  unfold State.recordCommit; try dsimp only
  with_reducible repeat' (first
      | assumption | refine updScs_kept ?_ | refine commitRec_kept ?_ | refine summary_kept ?_ | refine Kept.ite ?_ ?_ | split | refine Kept.of ?_)

theorem writeHeader_kept {z s : State} (h : Kept z s) {a1} : Kept z (State.writeHeader s a1) := by
  unfold State.writeHeader; try dsimp only
  with_reducible repeat' (first | assumption | refine put_kept ?_ | refine updScs_kept ?_ | refine Kept.of ?_)

theorem fenceSegs_kept {z s : State} (h : Kept z s) : Kept z (State.fenceSegs s) := by
  unfold State.fenceSegs; try dsimp only
  with_reducible repeat' (first
      | assumption | refine each_kept ?_ (fun _ _ _ => ?_) | refine updScs_kept ?_ | refine Kept.ite ?_ ?_ | split | refine Kept.of ?_)

theorem recordBad_kept {z s : State} (h : Kept z s) {a1 a2} : Kept z (State.recordBad s a1 a2) := by
  unfold State.recordBad; try dsimp only
  with_reducible repeat' (first
      | assumption | refine when_kept ?_ (fun _ _ => ?_) | refine updScs_kept ?_ | refine satInc_kept ?_ | refine report_kept ?_
      | refine flushTrigger_kept ?_ | refine fenceSegs_kept ?_ | refine Kept.of ?_)

theorem raiseOld_kept {z s : State} (h : Kept z s) {a1} : Kept z (State.raiseOld s a1) := by
  unfold State.raiseOld; try dsimp only
  with_reducible repeat' (first | assumption | refine updScs_kept ?_ | refine Kept.ite ?_ ?_ | split | refine Kept.of ?_)

theorem writeBeat_kept {z s : State} (h : Kept z s) {a1} : Kept z (State.writeBeat s a1) := by
  unfold State.writeBeat; try dsimp only
  with_reducible repeat' (first | assumption | refine each_kept ?_ (fun _ _ _ => ?_) | refine raiseOld_kept ?_ | refine put_kept ?_ | split)

theorem flushStep_kept {z s : State} (h : Kept z s) {a1} : Kept z (State.flushStep s a1) := by
  unfold State.flushStep; try dsimp only
  with_reducible repeat' (first
      | assumption | refine each_kept ?_ (fun _ _ _ => ?_) | refine writeHeader_kept ?_ | refine updScs_kept ?_ | refine recordBad_kept ?_
      | refine writeBeat_kept ?_ | refine Kept.ite ?_ ?_ | split | refine Kept.of ?_)

theorem beatAck_kept {z s : State} (h : Kept z s) : Kept z (State.beatAck s) := by
  unfold State.beatAck; try dsimp only
  with_reducible repeat' (first
      | assumption | refine when_kept ?_ (fun _ _ => ?_) | refine updScs_kept ?_ | refine fenceSegs_kept ?_ | refine writeHeader_kept ?_
      | refine record_kept ?_ | refine report_kept ?_ | refine Kept.ite ?_ ?_ | split | refine Kept.of ?_)

theorem pathDown_kept {z s : State} (h : Kept z s) : Kept z (State.pathDown s) := by
  unfold State.pathDown; try dsimp only
  with_reducible repeat' (first
      | assumption | refine when_kept ?_ (fun _ _ => ?_) | refine updScs_kept ?_ | refine report_kept ?_ | refine Kept.ite ?_ ?_ | split
      | refine Kept.of ?_)

theorem flushAll_kept {z s : State} (h : Kept z s) : Kept z (State.flushAll s) := by
  unfold State.flushAll; try dsimp only
  with_reducible repeat' (first
      | assumption | refine when_kept ?_ (fun _ _ => ?_) | refine each_kept ?_ (fun _ _ _ => ?_) | refine writeBeat_kept ?_
      | refine updScs_kept ?_ | refine writeHeader_kept ?_ | refine fenceSegs_kept ?_ | refine Kept.ite ?_ ?_ | split | refine Kept.of ?_)

theorem optimeTick_kept {z s : State} (h : Kept z s) : Kept z (State.optimeTick s) := by
  unfold State.optimeTick; try dsimp only
  with_reducible repeat' (first
      | assumption | refine when_kept ?_ (fun _ _ => ?_) | refine updScs_kept ?_ | refine flushTrigger_kept ?_ | refine Kept.of ?_)

theorem clearScores_kept {z s : State} (h : Kept z s) : Kept z (State.clearScores s) := by
  unfold State.clearScores; try dsimp only
  with_reducible repeat' (first
      | assumption | refine updScs_kept ?_ | refine commitRec_kept ?_ | refine writeHeader_kept ?_ | refine put_kept ?_ | refine Kept.of ?_)

theorem windowFetch_kept {z s : State} (h : Kept z s) {a1 a2} : Kept z (State.windowFetch s a1 a2) := by
  unfold State.windowFetch; try dsimp only
  with_reducible repeat' (first
      | assumption | refine when_kept ?_ (fun _ _ => ?_) | refine each_kept ?_ (fun _ _ _ => ?_) | refine recordBad_kept ?_
      | refine updScs_kept ?_ | refine put_kept ?_ | refine Kept.ite ?_ ?_ | split | refine Kept.of ?_)

theorem windowRead_kept {z s : State} (h : Kept z s) {a1} : Kept z (State.windowRead s a1) := by
  unfold State.windowRead; try dsimp only
  with_reducible repeat' (first | assumption | refine updScs_kept ?_ | refine Kept.ite ?_ ?_ | split | refine Kept.of ?_)

theorem coldScores_kept {z s : State} (h : Kept z s) {a1} : Kept z (State.coldScores s a1) := by
  unfold State.coldScores; try dsimp only
  with_reducible repeat' (first | assumption | refine updScs_kept ?_ | refine commitRec_kept ?_ | refine Kept.ite ?_ ?_ | split | refine Kept.of ?_)

theorem wipeAll_kept {z s : State} (h : Kept z s) : Kept z (State.wipeAll s) := by
  unfold State.wipeAll; try dsimp only
  with_reducible repeat' (first | assumption | refine each_kept ?_ (fun _ _ _ => ?_) | refine startWipe_kept ?_)

theorem coldBase_kept {z s : State} (h : Kept z s) : Kept z s.coldBase := by
  refine ⟨h.fuses, h.pending, fun _ => ⟨rfl, rfl, rfl⟩, fun hz => ⟨rfl, rfl, rfl, rfl, rfl, rfl, rfl, rfl, rfl, rfl, ?_, rfl, rfl, List.Pairwise.nil⟩⟩
  refine twf_iff.2 ⟨keysRise_filterMap (fun e e' he => ?_) (twf_iff.1 (h.tab hz).pins).1, fun e he => ?_⟩
  · split at he
    · cases he; rfl
    · cases he
  · obtain ⟨e', _, he'⟩ := List.mem_filterMap.1 he
    split at he'
    · cases he'
      exact fun e => absurd (congrArg Pin.sense e) (by simp)
    · cases he'

theorem bistFail_kept {z s : State} (h : Kept z s) {a1} : Kept z (State.bistFail s a1) := by
  unfold State.bistFail; try dsimp only
  with_reducible repeat' (first
      | assumption | refine when_kept ?_ (fun _ _ => ?_) | refine each_kept ?_ (fun _ _ _ => ?_) | refine setReg_kept ?_ | refine report_kept ?_
      | refine heatFence_kept ?_ | refine updR_kept ?_ | refine raise_kept ?_ | refine Kept.of ?_)

theorem publishHeats_kept {z s : State} (h : Kept z s) : Kept z (State.publishHeats s) := by
  unfold State.publishHeats; try dsimp only
  with_reducible repeat' (first | assumption | refine each_kept ?_ (fun _ _ _ => ?_) | refine publishAll_kept ?_ | refine publish_kept ?_)

/-- A cold start: what it keeps of the state with the fuses loaded. -/
theorem coldStart_kept {z s : State} (h : Kept z s) {cause c} {pre : State → State} (hp : ∀ y s, Kept y s → Kept y (pre s)) :
    Kept (z.loadFuses c) (s.coldStart cause c pre) := by
  have k0 : Kept (z.loadFuses c) (s.coldBase.loadFuses c) := by
    have k := coldBase_kept h
    refine ⟨?_, k.pending, fun hz => { k.mem { hz with } with }, fun hz => { k.tab { hz with } with }⟩
    unfold State.loadFuses
    rw [k.fuses]
  unfold State.coldStart
  have k1 := coldScores_kept (setMode_kept (hp _ _ k0) (a1 := .coldstart) (a2 := cause)) (a1 := c.hdrs)
  refine when_kept (Kept.of ?_) fun _ h => containAll_kept h
  exact each_kept (publishHeats_kept (bistFail_kept (calRet_kept (each_kept (each_kept (each_kept k1 fun _ _ h => endWipe_kept h)
    fun _ _ h => calHeat_kept h) fun _ _ h => calPin_kept h)))) fun _ _ h => updCache_kept h

theorem warmStart_kept {z s : State} (h : Kept z s) : Kept z s.warmStart := by
  have k := flushAll_kept h
  unfold State.warmStart
  refine when_kept (Kept.of (publishHeats_kept (setMode_kept (pacersSafe_kept (each_kept (each_kept (each_kept ?_
    fun _ _ h => updCache_kept h) fun _ _ h => calHeat_kept h) fun _ _ h => calPin_kept h))))) fun _ h => containAll_kept h
  refine ⟨k.fuses, k.pending, fun hz => ⟨(k.mem hz).1, (k.mem hz).2, (k.mem hz).3⟩, fun hz => ?_⟩
  have t := k.tab hz
  refine ⟨rfl, rfl, t.memUp, ?_, t.cstores, ?_, rfl, rfl, rfl, t.pacers, t.pins, ?_, rfl, ?_⟩
  · refine twf_iff.2 ⟨List.Pairwise.filter _ ((twf_iff.1 t.caches).1.map _ fun _ _ h => h), fun e he => ?_⟩
    have := (List.mem_filter.1 he).2
    simpa using this
  · refine twf_iff.2 ⟨List.Pairwise.filter _ ((twf_iff.1 t.rings).1.map _ fun _ _ h => h), fun e he => ?_⟩
    have := (List.mem_filter.1 he).2
    simpa using this
  · refine twf_iff.2 ⟨(twf_iff.1 t.mstate).1.filter _, fun e he => (twf_iff.1 t.mstate).2 e (List.mem_filter.1 he).1⟩
  · refine keysRise_filterMap (fun e e' he => ?_) t.regs
    split at he
    · cases he
    · dsimp only at he
      split at he
      · split at he
        · cases he
        · cases he; rfl
      · cases he; rfl

theorem safeState_kept {z s : State} (h : Kept z s) : Kept z (State.safeState s) := by
  unfold State.safeState; try dsimp only
  with_reducible repeat' (first | assumption | refine when_kept ?_ (fun _ _ => ?_) | refine pacersSafe_kept ?_ | refine containAll_kept ?_)

theorem lifeTo_kept {z s : State} (h : Kept z s) {a1} : Kept z (State.lifeTo s a1) := by
  unfold State.lifeTo; try dsimp only
  with_reducible repeat' (first
      | assumption | refine when_kept ?_ (fun _ _ => ?_) | refine satInc_kept ?_ | refine record_kept ?_ | refine wipeAll_kept ?_
      | refine report_kept ?_ | refine Kept.of ?_)

theorem commitAll_kept {z s : State} (h : Kept z s) : Kept z (State.commitAll s) := by
  unfold State.commitAll; try dsimp only
  with_reducible repeat' (first | assumption | refine each_kept ?_ (fun _ _ _ => ?_) | refine recordCommit_kept ?_)

theorem quiesceEnd_kept {z s : State} (h : Kept z s) : Kept z (State.quiesceEnd s) := by
  unfold State.quiesceEnd; try dsimp only
  with_reducible repeat' (first
      | assumption | refine each_kept ?_ (fun _ _ _ => ?_) | refine setMode_kept ?_ | refine calRet_kept ?_ | refine commitAll_kept ?_
      | refine flushAll_kept ?_ | refine updPort_kept ?_ | refine noRate_kept ?_ | refine setLive_kept ?_ | refine updR_kept ?_
      | refine handoff_kept ?_ | refine Kept.ite ?_ ?_ | split | refine Kept.of ?_)

theorem quiesceGo_kept {z s : State} (h : Kept z s) : Kept z (State.quiesceGo s) := by
  unfold State.quiesceGo; try dsimp only
  with_reducible repeat' (first
      | assumption | refine each_kept ?_ (fun _ _ _ => ?_) | refine cacheClean_kept ?_ | refine updR_kept ?_ | refine quiesceEnd_kept ?_
      | refine Kept.of ?_)

theorem modeGo_kept {z s : State} (h : Kept z s) {a1} : Kept z (State.modeGo s a1) := by
  unfold State.modeGo; try dsimp only
  with_reducible repeat' (first | assumption | refine setMode_kept ?_ | refine quiesceGo_kept ?_ | refine Kept.ite ?_ ?_ | split)

theorem applyLatched_kept {z s : State} (h : Kept z s) : Kept z (State.applyLatched s) := by
  unfold State.applyLatched; try dsimp only
  with_reducible repeat' (first
      | assumption | refine each_kept ?_ (fun _ _ _ => ?_) | refine updSl_kept ?_ | refine raise_kept ?_ | refine Kept.ite ?_ ?_ | split
      | refine Kept.of ?_)

theorem wakeUp_kept {z s : State} (h : Kept z s) : Kept z (State.wakeUp s) := by
  unfold State.wakeUp; try dsimp only
  with_reducible repeat' (first
      | assumption | refine when_kept ?_ (fun _ _ => ?_) | refine each_kept ?_ (fun _ _ _ => ?_) | refine setMode_kept ?_
      | refine applyLatched_kept ?_ | refine startRunner_kept ?_ | refine updCache_kept ?_ | refine syncPort_kept ?_ | refine containAll_kept ?_
      | refine Kept.ite ?_ ?_ | split | refine Kept.of ?_)

theorem wakeTimer_kept {z s : State} (h : Kept z s) : Kept z (State.wakeTimer s) := by
  unfold State.wakeTimer; try dsimp only
  with_reducible repeat' (first | assumption | refine wakeUp_kept ?_ | refine Kept.ite ?_ ?_ | split)

theorem heatTemp_kept {z s : State} (h : Kept z s) {a1 a2} : Kept z (State.heatTemp s a1 a2) := by
  unfold State.heatTemp; try dsimp only
  with_reducible repeat' (first
      | assumption | refine when_kept ?_ (fun _ _ => ?_) | refine calHeat_kept ?_ | refine updArb_kept ?_ | refine setRfld_kept ?_
      | refine satInc_kept ?_ | refine report_kept ?_ | refine raise_kept ?_ | refine Kept.ite ?_ ?_ | split | refine Kept.of ?_)

theorem windowEnd_kept {z s : State} (h : Kept z s) {a1} : Kept z (State.windowEnd s a1) := by
  unfold State.windowEnd; try dsimp only
  with_reducible repeat' (first
      | assumption | refine each_kept ?_ (fun _ _ _ => ?_) | refine heatTemp_kept ?_ | refine snapshot_kept ?_ | refine raise_kept ?_
      | refine Kept.ite ?_ ?_ | split)

theorem readEffect_kept {z s : State} (h : Kept z s) {o t p off fs v} : Kept z (s.readEffect o t p off fs v) := by
  unfold State.readEffect
  extract_lets s1
  have k1 : Kept z s1 := by
    unfold s1
    split
    · exact h.of
    · exact h
  split
  · split
    · exact updArb_kept k1
    · exact k1
  · split
    · exact updCls_kept k1
    · split
      · exact setReg_kept k1
      · exact k1
  · split
    · exact k1
    · exact setReg_kept k1

theorem pageRead_kept {z s : State} (h : Kept z s) {o p off} : Kept z (s.pageRead o p off).2 := by
  unfold State.pageRead
  dsimp only
  repeat' (first | exact h | (dsimp only; exact readEffect_kept h) | split)

theorem pageRead_kept' {z s t : State} {v} {o p off} (hk : Kept z s) (e : State.pageRead s o p off = (v, t)) : Kept z t := by
  have := pageRead_kept hk (o := o) (p := p) (off := off); rw [e] at this; exact this

theorem holdLo_kept {z s : State} (h : Kept z s) {a1 a2 a3} : Kept z (State.holdLo s a1 a2 a3) := by
  unfold State.holdLo; try dsimp only
  with_reducible repeat' (first | assumption | refine Kept.of ?_)

theorem dropLo_kept {z s : State} (h : Kept z s) {a1 a2} : Kept z (State.dropLo s a1 a2) := by
  unfold State.dropLo; try dsimp only
  with_reducible repeat' (first | assumption | refine Kept.of ?_)

theorem storeRw_kept {z s : State} (h : Kept z s) {a1 a2 a3 a4} : Kept z (State.storeRw s a1 a2 a3 a4) := by
  unfold State.storeRw; try dsimp only
  with_reducible repeat' (first | assumption | refine setReg_kept ?_ | refine Kept.ite ?_ ?_ | split)

theorem writeSliceReg_kept {z s : State} (h : Kept z s) {a1 a2 a3 a4 a5 a6} : Kept z (State.writeSliceReg s a1 a2 a3 a4 a5 a6) := by
  unfold State.writeSliceReg; try dsimp only
  with_reducible repeat' (first
      | assumption | refine each_kept ?_ (fun _ _ _ => ?_) | refine updSl_kept ?_ | refine softEvent_kept ?_ | refine setReg_kept ?_
      | refine storeRw_kept ?_ | refine Kept.ite ?_ ?_ | split | refine Kept.of ?_)

theorem writeSlice_kept {z s : State} (h : Kept z s) {a1 a2 a3 a4 a5 a6} : Kept z (State.writeSlice s a1 a2 a3 a4 a5 a6) := by
  unfold State.writeSlice; try dsimp only
  with_reducible repeat' (first | assumption | refine writeSliceReg_kept ?_ | refine settleSeen_kept ?_)

theorem commitRing_kept {z s : State} (h : Kept z s) {a1 a2} : Kept z (State.commitRing s a1 a2) := by
  unfold State.commitRing; try dsimp only
  with_reducible repeat' (first
      | assumption | refine updRing_kept ?_ | refine disableRing_kept ?_ | refine modRing_kept ?_ | refine pendChanged_kept ?_
      | refine Kept.ite ?_ ?_ | split | refine Kept.of ?_)

theorem inject_kept {z s : State} (h : Kept z s) {a1} : Kept z (State.inject s a1) := by
  unfold State.inject; try dsimp only
  with_reducible repeat' (first | assumption | refine updRef_kept ?_ | refine updUp_kept ?_ | refine updR_kept ?_ | split | refine Kept.of ?_)

theorem writeRpCtl_kept {z s : State} (h : Kept z s) {a1 a2 a3 a4 a5} : Kept z (State.writeRpCtl s a1 a2 a3 a4 a5) := by
  unfold State.writeRpCtl; try dsimp only
  with_reducible repeat' (first
      | assumption | refine when_kept ?_ (fun _ _ => ?_) | refine storeRw_kept ?_ | refine containPort_kept ?_ | refine releasePort_kept ?_
      | refine syncPort_kept ?_ | refine Kept.of ?_)

theorem writeCarEn_kept {z s : State} (h : Kept z s) {a1 a2} : Kept z (s.writeCarEn a1 a2) := by
  unfold State.writeCarEn
  exact refreshMode_kept (each_kept (setRfld_kept h) fun _ _ h => h.carFen twf_tset)

theorem writeCacheEn_kept {z s : State} (h : Kept z s) {a1 a2} : Kept z (State.writeCacheEn s a1 a2) := by
  unfold State.writeCacheEn; try dsimp only
  with_reducible repeat' (first | assumption | refine setRfld_kept ?_ | refine cacheClean_kept ?_ | refine Kept.ite ?_ ?_ | split)

theorem writeRef_kept {z s : State} (h : Kept z s) {a1 a2 a3 a4 a5 a6} : Kept z (State.writeRef s a1 a2 a3 a4 a5 a6) := by
  unfold State.writeRef; try dsimp only
  with_reducible repeat' (first
      | assumption | refine when_kept ?_ (fun _ _ => ?_) | refine updCls_kept ?_ | refine clearSev_kept ?_ | refine storeRw_kept ?_
      | refine inject_kept ?_ | refine Kept.ite ?_ ?_ | split | refine Kept.of ?_)

theorem writeHstr_kept {z s : State} (h : Kept z s) {a1 a2 a3 a4 a5 a6} : Kept z (State.writeHstr s a1 a2 a3 a4 a5 a6) := by
  unfold State.writeHstr; try dsimp only
  with_reducible repeat' (first
      | assumption | refine updQ_kept ?_ | refine qack_kept ?_ | refine storeRw_kept ?_ | refine Kept.ite ?_ ?_ | split | refine Kept.of ?_)

theorem writePacer_kept {z s : State} (h : Kept z s) {a1 a2 a3 a4 a5 a6} : Kept z (State.writePacer s a1 a2 a3 a4 a5 a6) := by
  unfold State.writePacer; try dsimp only
  with_reducible repeat' (first
      | assumption | refine pacStart_kept ?_ | refine pacStop_kept ?_ | refine pacResume_kept ?_ | refine updPacer_kept ?_
      | refine setRfld_kept ?_ | refine storeRw_kept ?_ | refine Kept.ite ?_ ?_ | split | refine Kept.of ?_)

theorem writeUnit_kept {z s : State} (h : Kept z s) {a1 a2 a3 a4 a5 a6 a7 a8 a9 a10} : Kept z (State.writeUnit s a1 a2 a3 a4 a5 a6 a7 a8 a9 a10) := by
  unfold State.writeUnit; try dsimp only
  with_reducible repeat' (first
      | assumption | refine when_kept ?_ (fun _ _ => ?_) | refine each_kept ?_ (fun _ _ _ => ?_) | refine holdLo_kept ?_ | refine dropLo_kept ?_
      | refine storeRw_kept ?_ | refine modeGo_kept ?_ | refine calPin_kept ?_ | refine updImg_kept ?_ | refine imgStart_kept ?_
      | refine writeSlice_kept ?_ | refine updArb_kept ?_ | refine mselCopy_kept ?_ | refine updRing_kept ?_ | refine pushCmd_kept ?_
      | refine setPool_kept ?_ | refine setPath_kept ?_ | refine writeRef_kept ?_ | refine flushTrigger_kept ?_ | refine clearScores_kept ?_
      | refine updScs_kept ?_ | refine windowFetch_kept ?_ | refine writeHstr_kept ?_ | refine commitRing_kept ?_ | refine applyPin_kept ?_
      | refine writeCacheEn_kept ?_ | refine lockedFill_kept ?_ | refine rangeInv_kept ?_ | refine updCache_kept ?_ | refine writeRpCtl_kept ?_
      | refine setReg_kept ?_ | refine cfgIssue_kept ?_ | refine setRfld_kept ?_ | refine writeCarEn_kept ?_ | refine writePacer_kept ?_
      | refine Kept.ite ?_ ?_ | split | refine Kept.of ?_)

theorem pwerr_kept {z s : State} (h : Kept z s) {a1 a2 a3 a4 a5} : Kept z (State.pwerr s a1 a2 a3 a4 a5) := by
  unfold State.pwerr; try dsimp only
  with_reducible repeat' (first | assumption | refine setReg_kept ?_)

theorem rejectWrite_kept {z s : State} (h : Kept z s) {a1 a2 a3 a4 a5} : Kept z (State.rejectWrite s a1 a2 a3 a4 a5).1 := by
  unfold State.rejectWrite; try dsimp only
  with_reducible repeat' (first | assumption | refine pwerr_kept ?_)

theorem rejectWrite_kept' {z s t : State} {v} {a1 a2 a3 a4 a5} (hk : Kept z s) (e : State.rejectWrite s a1 a2 a3 a4 a5 = (t, v)) : Kept z t := by
  have := rejectWrite_kept hk (a1 := a1) (a2 := a2) (a3 := a3) (a4 := a4) (a5 := a5); rw [e] at this; exact this

theorem acceptWrite_kept {z s : State} (h : Kept z s) {o p off d rsvd quiet} {eff : State → State} (he : ∀ s, Kept z s → Kept z (eff s)) :
    Kept z (s.acceptWrite o p off d rsvd quiet eff).1 := by
  unfold State.acceptWrite
  extract_lets rec'
  split
  · exact h
  · exact he _ (when_kept (when_kept (wrapInc_kept h) fun _ h => audit_kept h) fun _ h => pwerr_kept h)

theorem pctlGo_kept {z s : State} (h : Kept z s) {a1 a2 a3 a4} : Kept z (State.pctlGo s a1 a2 a3 a4) := by
  unfold State.pctlGo; try dsimp only
  with_reducible repeat' (first
      | assumption | refine when_kept ?_ (fun _ _ => ?_) | refine runnerGo_kept ?_ | refine stopRunner_kept ?_ | refine runnerFence_kept ?_
      | refine heatGo_kept ?_ | refine heatFence_kept ?_ | refine setRfld_kept ?_ | refine syncPort_kept ?_ | refine portFence_kept ?_
      | refine Kept.ite ?_ ?_ | split)

theorem pageWrite_kept {z s : State} (h : Kept z s) {o p off d lost} : Kept z (s.pageWrite o p off d lost).1 := by
  unfold State.pageWrite
  dsimp only
  have h1 := fun s (k : Kept z s) t inst => pctlGo_kept k (a1 := t) (a2 := inst) (a3 := p) (a4 := d)
  have h2 := fun s (k : Kept z s) t inst u fs v m bad => writeUnit_kept k (a1 := t) (a2 := inst) (a3 := p) (a4 := u) (a5 := fs) 
    (a6 := v) (a7 := d) (a8 := m) (a9 := bad) (a10 := lost)
  repeat' (first
      | exact h | exact rejectWrite_kept h | exact acceptWrite_kept h (fun _ k => k) | (refine acceptWrite_kept h ?_; intro _ k; first
      | exact h1 _ k _ _ | exact h2 _ k _ _ _ _ _ _ _) | split)

theorem pageWrite_kept' {z s t : State} {v} {o p off d lost} (hk : Kept z s) (e : State.pageWrite s o p off d lost = (t, v)) : Kept z t := by
  have := pageWrite_kept hk (o := o) (p := p) (off := off) (d := d) (lost := lost); rw [e] at this; exact this

theorem answer_kept {z s : State} (h : Kept z s) {a1 a2 a3} : Kept z (State.answer s a1 a2 a3) := by
  unfold State.answer; try dsimp only
  with_reducible repeat' (first | assumption | refine put_kept ?_)

theorem asleep_kept {z s t : State} (h : Kept z s) {o} (e : s.asleep o = some t) : Kept z t := by
  unfold State.asleep at e
  split at e
  · cases e; exact wakeUp_kept (answer_kept h)
  · cases e

theorem sizeErr_kept {z s : State} (h : Kept z s) {a1 a2 a3 a4} : Kept z (State.sizeErr s a1 a2 a3 a4) := by
  unfold State.sizeErr; try dsimp only
  with_reducible repeat' (first | assumption | refine when_kept ?_ (fun _ _ => ?_) | refine pwerr_kept ?_ | refine answer_kept ?_)

theorem reservedRange_kept {z s : State} (h : Kept z s) {a1 a2 a3} : Kept z (State.reservedRange s a1 a2 a3) := by
  unfold State.reservedRange; try dsimp only
  with_reducible repeat' (first | assumption | refine report_kept ?_ | refine answer_kept ?_)

theorem ringBell_kept {z s : State} (h : Kept z s) {a1 a2} : Kept z (State.ringBell s a1 a2) := by
  unfold State.ringBell; try dsimp only
  with_reducible repeat' (first | assumption | refine satInc_kept ?_ | refine doorbell_kept ?_ | refine Kept.ite ?_ ?_ | split)

theorem spadAccess_kept {z s : State} (h : Kept z s) {a1 a2 a3 a4 a5 a6 a7 a8} : Kept z (State.spadAccess s a1 a2 a3 a4 a5 a6 a7 a8).1 := by
  unfold State.spadAccess; try dsimp only
  with_reducible repeat' (first
      | assumption | refine report_kept ?_ | refine collide_kept ?_ | refine userWrite_kept ?_ | refine memRead_kept' ?_ (by assumption)
      | refine memRead_kept ?_ | refine Kept.ite ?_ ?_ | split)

theorem spadAccess_kept' {z s t : State} {v} {a1 a2 a3 a4 a5 a6 a7 a8} (hk : Kept z s) (e : State.spadAccess s a1 a2 a3 a4 a5 a6 a7 a8 = (t, v)) : Kept z t := by
  have := spadAccess_kept hk (a1 := a1) (a2 := a2) (a3 := a3) (a4 := a4) (a5 := a5) (a6 := a6) (a7 := a7) (a8 := a8); rw [e] at this; exact this

theorem spadWindow_kept {z s : State} (h : Kept z s) {a1 a2 a3 a4 a5 a6 a7} : Kept z (State.spadWindow s a1 a2 a3 a4 a5 a6 a7) := by
  unfold State.spadWindow; try dsimp only
  with_reducible repeat' (first | assumption | refine spadAccess_kept' ?_ (by assumption) | refine spadAccess_kept ?_ | refine answer_kept ?_ | split)

theorem windowRd_kept {z s : State} (h : Kept z s) {a1 a2 a3 a4} : Kept z (State.windowRd s a1 a2 a3 a4) := by
  unfold State.windowRd
  extract_lets o
  split
  · exact asleep_kept h ‹_›
  · with_reducible repeat' (first | assumption | refine answer_kept ?_ | refine pageRead_kept' ?_ (by assumption) | refine pageRead_kept ?_ | refine sizeErr_kept ?_ | refine spadWindow_kept ?_ | refine reservedRange_kept ?_ | split)

theorem windowWr_kept {z s : State} (h : Kept z s) {a1 a2 a3 a4 a5} : Kept z (State.windowWr s a1 a2 a3 a4 a5) := by
  unfold State.windowWr
  extract_lets o
  split
  · exact asleep_kept h ‹_›
  · with_reducible repeat' (first | assumption | refine answer_kept ?_ | refine pageWrite_kept' ?_ (by assumption) | refine sizeErr_kept ?_ | refine ringBell_kept ?_ | refine spadWindow_kept ?_ | refine reservedRange_kept ?_ | split)

theorem tapWrite_kept {z s : State} (h : Kept z s) {a1 a2 a3 a4} : Kept z (State.tapWrite s a1 a2 a3 a4) := by
  unfold State.tapWrite; try dsimp only
  with_reducible repeat' (first
      | assumption | refine put_kept ?_ | refine pageWrite_kept' ?_ (by assumption) | refine pageWrite_kept ?_ | refine Kept.ite ?_ ?_ | split)

theorem tap_kept {z s : State} (h : Kept z s) {a1} : Kept z (State.tap s a1) := by
  unfold State.tap; try dsimp only
  with_reducible repeat' (first
      | assumption | refine when_kept ?_ (fun _ _ => ?_) | refine tapWrite_kept ?_ | refine put_kept ?_ | refine pageRead_kept' ?_ (by assumption)
      | refine pageRead_kept ?_ | refine audit_kept ?_ | refine Kept.ite ?_ ?_ | split)

theorem regWrite_kept {z s : State} (h : Kept z s) {o p off d lost} : Kept z (s.regWrite o p off d lost) := by
  unfold State.regWrite
  split
  · split
    · exact asleep_kept h ‹_›
    · split <;> exact answer_kept (pageWrite_kept' h ‹_›)
  · split
    · exact h
    · exact tapWrite_kept h
  · split
    · exact h
    · split
      · exact h
      · exact pageWrite_kept' h ‹_›

theorem regRead_kept {z s : State} (h : Kept z s) {o p off} : Kept z (s.regRead o p off) := by
  unfold State.regRead
  split
  · exact tap_kept h
  · split
    · exact asleep_kept h ‹_›
    · exact answer_kept (pageRead_kept h)

theorem drainStore_kept {z s : State} (h : Kept z s) {a1} : Kept z (State.drainStore s a1) := by
  unfold State.drainStore; try dsimp only
  with_reducible repeat' (first | assumption | refine updR_kept ?_ | refine userWrite_kept ?_ | split | refine Kept.of ?_)

theorem drainFrame_kept {z s : State} (h : Kept z s) {a1} : Kept z (State.drainFrame s a1) := by
  unfold State.drainFrame; try dsimp only
  with_reducible repeat' (first
      | assumption | refine each_kept ?_ (fun _ _ _ => ?_) | refine updR_kept ?_ | refine userWrite_kept ?_ | refine Kept.of ?_)

theorem drainHead_kept {z s : State} (h : Kept z s) {a1} : Kept z (State.drainHead s a1) := by
  unfold State.drainHead; try dsimp only
  with_reducible repeat' (first | assumption | refine drainFrame_kept ?_ | refine drainStore_kept ?_ | refine Kept.ite ?_ ?_ | split)

theorem drainWhile_kept {z s : State} (h : Kept z s) {r p n} : Kept z (s.drainWhile r p n) := by
  induction n generalizing s with
  | zero => exact h
  | succ n ih =>
    unfold State.drainWhile
    split
    · exact ih (drainHead_kept h)
    · exact h

theorem drainAll_kept {z s : State} (h : Kept z s) {a1} : Kept z (State.drainAll s a1) := by
  unfold State.drainAll; try dsimp only
  with_reducible repeat' (first | assumption | refine drainWhile_kept ?_)

theorem loadAt_kept {z s : State} (h : Kept z s) {a1 a2 a3} : Kept z (State.loadAt s a1 a2 a3).1 := by
  unfold State.loadAt; try dsimp only
  with_reducible repeat' (first
      | assumption | refine drainWhile_kept ?_ | refine memRead_kept' ?_ (by assumption) | refine memRead_kept ?_ | refine Kept.ite ?_ ?_ | split)

theorem loadAt_kept' {z s t : State} {v} {a1 a2 a3} (hk : Kept z s) (e : State.loadAt s a1 a2 a3 = (t, v)) : Kept z t := by
  have := loadAt_kept hk (a1 := a1) (a2 := a2) (a3 := a3); rw [e] at this; exact this

theorem start_kept {z s : State} (h : Kept z s) {a1 a2} : Kept z (State.start s a1 a2) := by
  unfold State.start; try dsimp only
  with_reducible repeat' (first | assumption | refine updR_kept ?_ | refine Kept.of ?_)

theorem winAccess_kept {z s : State} (h : Kept z s) {a1 a2 a3 a4 a5 a6} : Kept z (State.winAccess s a1 a2 a3 a4 a5 a6).1 := by
  unfold State.winAccess; try dsimp only
  with_reducible repeat' (first
      | assumption | refine when_kept ?_ (fun _ _ => ?_) | refine pageWrite_kept' ?_ (by assumption) | refine pageWrite_kept ?_
      | refine pageRead_kept' ?_ (by assumption) | refine pageRead_kept ?_ | refine pwerr_kept ?_ | refine ringBell_kept ?_
      | refine spadAccess_kept' ?_ (by assumption) | refine spadAccess_kept ?_ | refine report_kept ?_ | refine Kept.ite ?_ ?_ | split)

theorem winAccess_kept' {z s t : State} {v} {a1 a2 a3 a4 a5 a6} (hk : Kept z s) (e : State.winAccess s a1 a2 a3 a4 a5 a6 = (t, v)) : Kept z t := by
  have := winAccess_kept hk (a1 := a1) (a2 := a2) (a3 := a3) (a4 := a4) (a5 := a5) (a6 := a6); rw [e] at this; exact this

theorem runAlu_kept {z s : State} (h : Kept z s) {a1 a2 a3 a4} : Kept z (State.runAlu s a1 a2 a3 a4) := by
  unfold State.runAlu; try dsimp only
  with_reducible repeat' (first | assumption | refine start_kept ?_)

theorem runShf_kept {z s : State} (h : Kept z s) {a1 a2 a3} : Kept z (State.runShf s a1 a2 a3) := by
  unfold State.runShf; try dsimp only
  with_reducible repeat' (first | assumption | refine start_kept ?_)

theorem runMac2_kept {z s : State} (h : Kept z s) {a1 a2} : Kept z (State.runMac2 s a1 a2) := by
  unfold State.runMac2; try dsimp only
  with_reducible repeat' (first
      | assumption | refine loadAt_kept' ?_ (by assumption) | refine loadAt_kept ?_ | refine updR_kept ?_ | refine start_kept ?_ | split)

theorem runMul_kept {z s : State} (h : Kept z s) {a1 a2 a3} : Kept z (State.runMul s a1 a2 a3) := by
  unfold State.runMul; try dsimp only
  with_reducible repeat' (first | assumption | refine start_kept ?_ | refine runMac2_kept ?_ | split)

theorem runCmp_kept {z s : State} (h : Kept z s) {a1 a2 a3} : Kept z (State.runCmp s a1 a2 a3) := by
  unfold State.runCmp; try dsimp only
  with_reducible repeat' (first | assumption | refine updR_kept ?_ | refine start_kept ?_ | refine Kept.of ?_)

theorem runLoad_kept {z s : State} (h : Kept z s) {a1 a2 a3 a4} : Kept z (State.runLoad s a1 a2 a3 a4) := by
  unfold State.runLoad; try dsimp only
  with_reducible repeat' (first | assumption | refine loadAt_kept' ?_ (by assumption) | refine loadAt_kept ?_ | refine start_kept ?_ | split)

theorem runStore_kept {z s : State} (h : Kept z s) {a1 a2 a3 a4} : Kept z (State.runStore s a1 a2 a3 a4) := by
  unfold State.runStore; try dsimp only
  with_reducible repeat' (first | assumption | refine updR_kept ?_ | refine Kept.of ?_)

theorem runSync_kept {z s : State} (h : Kept z s) {a1 a2} : Kept z (State.runSync s a1 a2) := by
  unfold State.runSync; try dsimp only
  with_reducible repeat' (first | assumption | refine start_kept ?_)

theorem hauLocal_kept {z s : State} (h : Kept z s) {a1 a2 a3 a4} : Kept z (State.hauLocal s a1 a2 a3 a4) := by
  unfold State.hauLocal; try dsimp only
  with_reducible repeat' (first | assumption | refine updR_kept ?_ | refine start_kept ?_ | refine Kept.ite ?_ ?_ | split | refine Kept.of ?_)

theorem hauNc_kept {z s : State} (h : Kept z s) {a1 a2} : Kept z (State.hauNc s a1 a2) := by
  unfold State.hauNc; try dsimp only
  with_reducible repeat' (first
      | assumption | refine newHau_kept' ?_ (by assumption) | refine newHau_kept ?_ | refine ncWriteTurn_kept ?_ | refine ncReadTurn_kept ?_
      | refine Kept.ite ?_ ?_ | split)

theorem runFence_kept {z s : State} (h : Kept z s) {a1} : Kept z (State.runFence s a1) := by
  unfold State.runFence; try dsimp only
  with_reducible repeat' (first | assumption | refine updR_kept ?_ | refine Kept.of ?_)

theorem hauGo_kept {z s : State} (h : Kept z s) {a1 a2 a3} : Kept z (State.hauGo s a1 a2 a3) := by
  unfold State.hauGo; try dsimp only
  with_reducible repeat' (first
      | assumption | refine winAccess_kept' ?_ (by assumption) | refine winAccess_kept ?_ | refine hauLocal_kept ?_ | refine hauLoad_kept ?_
      | refine hauStore_kept ?_ | refine hauNc_kept ?_ | split)

theorem runCpy_kept {z s : State} (h : Kept z s) {a1 a2} : Kept z (State.runCpy s a1 a2) := by
  unfold State.runCpy; try dsimp only
  with_reducible repeat' (first
      | assumption | refine drainAll_kept ?_ | refine memRead_kept' ?_ (by assumption) | refine memRead_kept ?_ | refine updR_kept ?_
      | refine hauGo_kept ?_ | refine Kept.ite ?_ ?_ | split | refine Kept.of ?_)

theorem runHau_kept {z s : State} (h : Kept z s) {a1 a2 a3} : Kept z (State.runHau s a1 a2 a3) := by
  unfold State.runHau; try dsimp only
  with_reducible repeat' (first
      | assumption | refine runFence_kept ?_ | refine runCpy_kept ?_ | refine hauPref_kept ?_ | refine hauGo_kept ?_ | refine Kept.ite ?_ ?_
      | split)

theorem runStr_kept {z s : State} (h : Kept z s) {a1 a2 a3 a4 a5} : Kept z (State.runStr s a1 a2 a3 a4 a5) := by
  unfold State.runStr; try dsimp only
  with_reducible repeat' (first | assumption | refine updR_kept ?_ | refine Kept.of ?_)

theorem runAtm_kept {z s : State} (h : Kept z s) {a1 a2 a3} : Kept z (State.runAtm s a1 a2 a3) := by
  unfold State.runAtm; try dsimp only
  with_reducible repeat' (first
      | assumption | refine start_kept ?_ | refine updR_kept ?_ | refine drainAll_kept ?_ | refine memRead_kept' ?_ (by assumption)
      | refine memRead_kept ?_ | refine userWrite_kept ?_ | refine Kept.ite ?_ ?_ | split | refine Kept.of ?_)

theorem runRs_kept {z s : State} (h : Kept z s) {a1 a2 a3} : Kept z (State.runRs s a1 a2 a3) := by
  unfold State.runRs; try dsimp only
  with_reducible repeat' (first
      | assumption | refine start_kept ?_ | refine freeWord_kept' ?_ (by assumption) | refine freeWord_kept ?_ | refine updR_kept ?_ | split
      | refine Kept.of ?_)

theorem runRing_kept {z s : State} (h : Kept z s) {a1 a2 a3} : Kept z (State.runRing s a1 a2 a3) := by
  unfold State.runRing; try dsimp only
  with_reducible repeat' (first
      | assumption | refine when_kept ?_ (fun _ _ => ?_) | refine start_kept ?_ | refine updR_kept ?_ | refine freeWord_kept' ?_ (by assumption)
      | refine freeWord_kept ?_ | refine report_kept ?_ | refine updRing_kept ?_ | refine modRing_kept ?_ | refine Kept.ite ?_ ?_ | split
      | refine Kept.of ?_)

theorem runSig_kept {z s : State} (h : Kept z s) {a1 a2 a3} : Kept z (State.runSig s a1 a2 a3) := by
  unfold State.runSig; try dsimp only
  with_reducible repeat' (first
      | assumption | refine start_kept ?_ | refine claim_kept' ?_ (by assumption) | refine claim_kept ?_ | refine eoi_kept' ?_ (by assumption)
      | refine eoi_kept ?_ | refine report_kept ?_ | refine softEvent_kept ?_ | refine updR_kept ?_ | refine Kept.ite ?_ ?_ | split
      | refine Kept.of ?_)

theorem runTim_kept {z s : State} (h : Kept z s) {a1 a2 a3} : Kept z (State.runTim s a1 a2 a3) := by
  unfold State.runTim; try dsimp only
  with_reducible repeat' (first | assumption | refine start_kept ?_ | refine updR_kept ?_ | refine Kept.ite ?_ ?_ | split | refine Kept.of ?_)

theorem runBat_kept {z s : State} (h : Kept z s) {a1 a2 a3} : Kept z (State.runBat s a1 a2 a3) := by
  unfold State.runBat; try dsimp only
  with_reducible repeat' (first
      | assumption | refine drainAll_kept ?_ | refine passLocal_kept ?_ | refine batGet_kept' ?_ (by assumption) | refine batGet_kept ?_
      | refine start_kept ?_ | refine batFree_kept' ?_ (by assumption) | refine batFree_kept ?_ | split)

theorem runPcr_kept {z s : State} (h : Kept z s) {a1 a2 a3} : Kept z (State.runPcr s a1 a2 a3) := by
  unfold State.runPcr; try dsimp only
  with_reducible repeat' (first
      | assumption | refine start_kept ?_ | refine report_kept ?_ | refine pacPull_kept' ?_ (by assumption) | refine pacPull_kept ?_
      | refine pacPush_kept' ?_ (by assumption) | refine pacPush_kept ?_ | refine Kept.ite ?_ ?_ | split | refine Kept.of ?_)

theorem runPrd_kept {z s : State} (h : Kept z s) {a1 a2} : Kept z (State.runPrd s a1 a2) := by
  unfold State.runPrd; try dsimp only
  with_reducible repeat' (first | assumption | refine updR_kept ?_ | refine start_kept ?_ | split | refine Kept.of ?_)

theorem runExt_kept {z s : State} (h : Kept z s) {a1 a2 a3} : Kept z (State.runExt s a1 a2 a3) := by
  unfold State.runExt; try dsimp only
  with_reducible repeat' (first | assumption | refine updR_kept ?_ | refine put_kept ?_ | split | refine Kept.of ?_)

theorem trigRun_kept {z s : State} (h : Kept z s) {a1 a2 a3} : Kept z (State.trigRun s a1 a2 a3) := by
  unfold State.trigRun; try dsimp only
  with_reducible repeat' (first
      | assumption | refine runAlu_kept ?_ | refine runShf_kept ?_ | refine runMul_kept ?_ | refine runCmp_kept ?_ | refine runLoad_kept ?_
      | refine runStore_kept ?_ | refine runSync_kept ?_ | refine runHau_kept ?_ | refine runAtm_kept ?_ | refine runRs_kept ?_
      | refine runRing_kept ?_ | refine runSig_kept ?_ | refine runTim_kept ?_ | refine runBat_kept ?_ | refine runPcr_kept ?_
      | refine runPrd_kept ?_ | refine runExt_kept ?_ | split)

theorem decodeAhead_kept {z : State} {r} (n : Nat) : ∀ {s : State}, Kept z s → Kept z (s.decodeAhead r n) := by
  induction n with
  | zero => exact id
  | succ n ih =>
    intro s h
    unfold State.decodeAhead
    extract_lets x
    split
    · exact h
    · split
      · exact h
      · split
        · exact h
        · exact ih (setRunner_kept h)

theorem follow_kept {z s : State} (h : Kept z s) {r} : Kept z (s.follow r) := decodeAhead_kept 4 h

theorem lineFetch_kept {z s : State} (h : Kept z s) {a1} : Kept z (State.lineFetch s a1) := by
  unfold State.lineFetch; try dsimp only
  with_reducible repeat' (first
      | assumption | refine follow_kept ?_ | refine setRunner_kept ?_ | refine updR_kept ?_ | refine Kept.ite ?_ ?_ | split | refine Kept.of ?_)

theorem enterTrap_kept {z s : State} (h : Kept z s) {a1 a2} : Kept z (State.enterTrap s a1 a2) := by
  unfold State.enterTrap; try dsimp only
  with_reducible repeat' (first | assumption | refine updR_kept ?_ | refine report_kept ?_ | refine Kept.ite ?_ ?_ | split | refine Kept.of ?_)

theorem takeTrap_kept {z s : State} (h : Kept z s) {a1 a2} : Kept z (State.takeTrap s a1 a2) := by
  unfold State.takeTrap; try dsimp only
  with_reducible repeat' (first
      | assumption | refine updR_kept ?_ | refine enterTrap_kept ?_ | refine entryHold_kept ?_ | refine Kept.ite ?_ ?_ | split)

theorem trapEntry_kept {z s : State} (h : Kept z s) {a1 a2} : Kept z (State.trapEntry s a1 a2) := by
  unfold State.trapEntry; try dsimp only
  with_reducible repeat' (first
      | assumption | refine romFail_kept ?_ | refine takeTrap_kept ?_ | refine stopNow_kept ?_ | refine Kept.ite ?_ ?_ | split)

theorem flowRead_kept {z s : State} (h : Kept z s) {a1 a2} : Kept z (State.flowRead s a1 a2).1 := by
  unfold State.flowRead; try dsimp only
  with_reducible repeat' (first | assumption | refine loadAt_kept' ?_ (by assumption) | refine loadAt_kept ?_ | refine Kept.ite ?_ ?_ | split)

theorem flowRead_kept' {z s t : State} {v} {a1 a2} (hk : Kept z s) (e : State.flowRead s a1 a2 = (t, v)) : Kept z t := by
  have := flowRead_kept hk (a1 := a1) (a2 := a2); rw [e] at this; exact this

theorem eretGo_kept {z s : State} (h : Kept z s) {a1 a2 a3} : Kept z (State.eretGo s a1 a2 a3) := by
  unfold State.eretGo; try dsimp only
  with_reducible repeat' (first | assumption | refine updR_kept ?_ | refine endHold_kept ?_ | refine entryHold_kept ?_ | split)

theorem trpGo_kept {z s : State} (h : Kept z s) {a1 a2 a3 a4 a5} : Kept z (State.trpGo s a1 a2 a3 a4 a5) := by
  unfold State.trpGo; try dsimp only
  with_reducible repeat' (first | assumption | refine updR_kept ?_ | refine endHold_kept ?_ | refine eretGo_kept ?_ | refine Kept.ite ?_ ?_ | split)

theorem stallNow_kept {z s : State} (h : Kept z s) {a1} : Kept z (State.stallNow s a1) := by
  unfold State.stallNow; try dsimp only
  with_reducible repeat' (first | assumption | refine updR_kept ?_ | refine Kept.of ?_)

theorem faultNow_kept {z s : State} (h : Kept z s) {a1 a2} : Kept z (State.faultNow s a1 a2) := by
  unfold State.faultNow; try dsimp only
  with_reducible repeat' (first | assumption | refine updR_kept ?_ | refine Kept.of ?_)

theorem plainMoves_kept {z s : State} (h : Kept z s) {a1 a2} : Kept z (State.plainMoves s a1 a2).2 := by
  unfold State.plainMoves; try dsimp only
  with_reducible repeat' (first | assumption | refine Kept.ite ?_ ?_ | split | refine Kept.of ?_)

theorem plainMoves_kept' {z s t : State} {v} {a1 a2} (hk : Kept z s) (e : State.plainMoves s a1 a2 = (v, t)) : Kept z t := by
  have := plainMoves_kept hk (a1 := a1) (a2 := a2); rw [e] at this; exact this

theorem writeAll_kept {z s : State} (h : Kept z s) {a1 a2} : Kept z (State.writeAll s a1 a2) := by
  unfold State.writeAll; try dsimp only
  with_reducible repeat' (first
      | assumption | refine each_kept ?_ (fun _ _ _ => ?_) | refine plainMoves_kept' ?_ (by assumption) | refine plainMoves_kept ?_
      | refine writePort_kept ?_ | split)

theorem flowGo_kept {z s : State} (h : Kept z s) {a1 a2 a3 a4 a5 a6} : Kept z (State.flowGo s a1 a2 a3 a4 a5 a6) := by
  unfold State.flowGo; try dsimp only
  with_reducible repeat' (first | assumption | refine updR_kept ?_ | refine trpGo_kept ?_ | refine Kept.ite ?_ ?_ | split | refine Kept.of ?_)

theorem phaseGo_kept {z s : State} (h : Kept z s) {a1 a2 a3} : Kept z (State.phaseGo s a1 a2 a3) := by
  unfold State.phaseGo; try dsimp only
  with_reducible repeat' (first | assumption | refine runStr_kept ?_ | refine trigRun_kept ?_ | split)

theorem resolve_kept {z s : State} (h : Kept z s) {a1 a2 a3 a4} : Kept z (State.resolve s a1 a2 a3 a4) := by
  unfold State.resolve; try dsimp only
  with_reducible repeat' (first | assumption | refine updR_kept ?_)

theorem extWrites_kept {z s : State} (h : Kept z s) {a1 a2} : Kept z (State.extWrites s a1 a2) := by
  unfold State.extWrites; try dsimp only
  with_reducible repeat' (first
      | assumption | refine each_kept ?_ (fun _ _ _ => ?_) | refine runExt_kept ?_ | refine writePort_kept ?_ | refine Kept.ite ?_ ?_ | split)

theorem commitGo_kept {z s : State} (h : Kept z s) {a1 a2 a3 a4 a5 a6} : Kept z (State.commitGo s a1 a2 a3 a4 a5 a6) := by
  unfold State.commitGo; try dsimp only
  with_reducible repeat' (first
      | assumption | refine each_kept ?_ (fun _ _ _ => ?_) | refine updR_kept ?_ | refine writeAll_kept ?_ | refine extWrites_kept ?_
      | refine phaseGo_kept ?_ | refine flowGo_kept ?_ | refine resolve_kept ?_ | refine follow_kept ?_ | refine setReg_kept ?_
      | refine Kept.ite ?_ ?_ | split | refine Kept.of ?_)

theorem commitWord_kept {z s : State} (h : Kept z s) {a1 a2 a3} : Kept z (State.commitWord s a1 a2 a3) := by
  unfold State.commitWord; try dsimp only
  with_reducible repeat' (first
      | assumption | refine flowRead_kept' ?_ (by assumption) | refine flowRead_kept ?_ | refine commitGo_kept ?_ | refine updR_kept ?_
      | refine Kept.ite ?_ ?_ | split | refine Kept.of ?_)

theorem frameCheck_kept {z s : State} (h : Kept z s) {a1} : Kept z (State.frameCheck s a1) := by
  unfold State.frameCheck; try dsimp only
  with_reducible repeat' (first
      | assumption | refine flowRead_kept' ?_ (by assumption) | refine flowRead_kept ?_ | refine updR_kept ?_ | refine Kept.of ?_)

theorem evalWord_kept {z s : State} (h : Kept z s) {a1 a2 a3} : Kept z (State.evalWord s a1 a2 a3).1 := by
  unfold State.evalWord; try dsimp only
  with_reducible repeat' (first
      | assumption | refine writeAll_kept ?_ | refine frameCheck_kept ?_ | refine faultNow_kept ?_ | refine record_kept ?_
      | refine stallNow_kept ?_ | refine commitWord_kept ?_ | refine Kept.ite ?_ ?_ | split)

theorem evalWord_kept' {z s t : State} {v} {a1 a2 a3} (hk : Kept z s) (e : State.evalWord s a1 a2 a3 = (t, v)) : Kept z t := by
  have := evalWord_kept hk (a1 := a1) (a2 := a2) (a3 := a3); rw [e] at this; exact this

theorem beginWord_kept {z s : State} (h : Kept z s) {a1} : Kept z (State.beginWord s a1) := by
  unfold State.beginWord; try dsimp only
  with_reducible repeat' (first | assumption | refine updR_kept ?_ | refine Kept.ite ?_ ?_ | split | refine Kept.of ?_)

theorem execWord_kept {z s : State} (h : Kept z s) {a1 a2 a3} : Kept z (State.execWord s a1 a2 a3) := by
  unfold State.execWord; try dsimp only
  with_reducible repeat' (first
      | assumption | refine follow_kept ?_ | refine beginWord_kept ?_ | refine faultNow_kept ?_ | refine updCs_kept ?_ | refine updR_kept ?_
      | refine evalWord_kept' ?_ (by assumption) | refine evalWord_kept ?_ | refine Kept.ite ?_ ?_ | split | refine Kept.of ?_)

theorem thenStop_kept {z t s : State} (h : Kept z t) {r} : Kept z (t.thenStop s r) := by
  unfold State.thenStop
  split
  · exact settleStop_kept h
  · exact h

theorem moveWord_kept {z s : State} (h : Kept z s) {a1 a2 a3} : Kept z (State.moveWord s a1 a2 a3) := by
  unfold State.moveWord; try dsimp only
  with_reducible repeat' (first | assumption | refine execWord_kept ?_ | refine thenStop_kept ?_ | refine Kept.ite ?_ ?_ | split)

theorem wordRetry_kept {z s : State} (h : Kept z s) {a1 a2 a3 a4} : Kept z (State.wordRetry s a1 a2 a3 a4) := by
  unfold State.wordRetry
  with_reducible repeat' (first
      | assumption | extract_lets | refine romFail_kept ?_ | refine updR_kept ?_ | refine wrapInc_kept ?_ | refine report_kept ?_
      | refine execWord_kept ?_ | refine thenStop_kept ?_ | refine Kept.ite ?_ ?_ | split | refine Kept.of ?_)

theorem failNow_kept {z s : State} (h : Kept z s) {a1} : Kept z (State.failNow s a1) := by
  unfold State.failNow; try dsimp only
  with_reducible repeat' (first | assumption | refine updR_kept ?_)

theorem trigger_kept {z s : State} (h : Kept z s) {a1 a2 a3} : Kept z (State.trigger s a1 a2 a3) := by
  unfold State.trigger
  with_reducible repeat' (first
      | assumption | extract_lets | refine beginWord_kept ?_ | refine failNow_kept ?_ | refine faultNow_kept ?_ | refine record_kept ?_
      | refine stallNow_kept ?_ | refine updR_kept ?_ | refine trigRun_kept ?_ | refine thenStop_kept ?_ | refine Kept.ite ?_ ?_ | split
      | refine Kept.of ?_)

theorem flowPath_kept {z s : State} (h : Kept z s) {a1 a2 a3} : Kept z (State.flowPath s a1 a2 a3) := by
  unfold State.flowPath; try dsimp only
  with_reducible repeat' (first | assumption | refine updR_kept ?_ | refine setRunner_kept ?_ | refine Kept.of ?_)

theorem flowTrigger_kept {z s : State} (h : Kept z s) {a1 a2 a3} : Kept z (State.flowTrigger s a1 a2 a3) := by
  unfold State.flowTrigger
  with_reducible repeat' (first
      | assumption | extract_lets | refine beginWord_kept ?_ | refine failNow_kept ?_ | refine frameCheck_kept ?_ | refine faultNow_kept ?_
      | refine record_kept ?_ | refine stallNow_kept ?_ | refine flowPath_kept ?_ | refine commitWord_kept ?_ | refine thenStop_kept ?_
      | refine Kept.ite ?_ ?_ | split | refine Kept.of ?_)

theorem strReads_kept {z s : State} (h : Kept z s) {a1 a2} : Kept z (State.strReads s a1 a2).1 := by
  unfold State.strReads; try dsimp only
  with_reducible repeat' (first | assumption | refine loadAt_kept' ?_ (by assumption) | refine loadAt_kept ?_ | refine Kept.ite ?_ ?_ | split)

theorem strReads_kept' {z s t : State} {v} {a1 a2} (hk : Kept z s) (e : State.strReads s a1 a2 = (t, v)) : Kept z t := by
  have := strReads_kept hk (a1 := a1) (a2 := a2); rw [e] at this; exact this

theorem strElement_kept {z s : State} (h : Kept z s) {a1} : Kept z (State.strElement s a1) := by
  unfold State.strElement; try dsimp only
  with_reducible repeat' (first
      | assumption | refine updR_kept ?_ | refine strReads_kept' ?_ (by assumption) | refine strReads_kept ?_ | refine Kept.ite ?_ ?_ | split
      | refine Kept.of ?_)

theorem strDone_kept {z s : State} (h : Kept z s) {a1} : Kept z (State.strDone s a1) := by
  unfold State.strDone; try dsimp only
  with_reducible repeat' (first | assumption | refine updR_kept ?_ | refine settleStop_kept ?_ | refine Kept.ite ?_ ?_ | split | refine Kept.of ?_)

theorem awake_kept {z s : State} (h : Kept z s) {f : State → State} (hf : ∀ s, Kept z s → Kept z (f s)) : Kept z (s.awake f) := by
  unfold State.awake
  split
  · exact h
  · exact hf s h

theorem onRunner_kept {z s : State} (h : Kept z s) {r} {f : State → State} (hf : ∀ s, Kept z s → Kept z (f s)) : Kept z (s.onRunner r f) := by
  unfold State.onRunner
  split
  · exact hf s h
  · exact h

theorem onHeat_kept {z s : State} (h : Kept z s) {k} {f : State → State} (hf : ∀ s, Kept z s → Kept z (f s)) : Kept z (s.onHeat k f) := by
  unfold State.onHeat
  split
  · exact hf s h
  · exact h

theorem onStore_kept {z s : State} (h : Kept z s) {k} {f : State → State} (hf : ∀ s, Kept z s → Kept z (f s)) : Kept z (s.onStore k f) := by
  unfold State.onStore
  split
  · exact hf s h
  · exact h

theorem onRp_kept {z s : State} (h : Kept z s) {k} {f : State → State} (hf : ∀ s, Kept z s → Kept z (f s)) : Kept z (s.onRp k f) := by
  unfold State.onRp
  split
  · exact hf s h
  · exact h

theorem onPacer_kept {z s : State} (h : Kept z s) {k} {f : State → State} (hf : ∀ s, Kept z s → Kept z (f s)) : Kept z (s.onPacer k f) := by
  unfold State.onPacer
  split
  · exact hf s h
  · exact h

theorem onJob_kept {z s : State} (h : Kept z s) {a b c} {f : State → State} (hf : ∀ s, Kept z s → Kept z (f s)) : Kept z (s.onJob a b c f) := by
  unfold State.onJob
  split
  · exact hf s h
  · exact h

theorem onRing_kept {z s : State} (h : Kept z s) {k} {f : State → State} (hf : ∀ s, Kept z s → Kept z (f s)) : Kept z (s.onRing k f) := by
  unfold State.onRing
  split
  · exact hf s h
  · exact h

theorem unitWrite_kept {z s : State} (h : Kept z s) {a1 a2 a3 a4 a5 a6} : Kept z (State.unitWrite s a1 a2 a3 a4 a5 a6) := by
  unfold State.unitWrite; try dsimp only
  with_reducible repeat' (first | assumption | refine regWrite_kept ?_ | refine Kept.ite ?_ ?_ | split)

theorem pctlWrite_kept {z s : State} (h : Kept z s) {a1 a2 a3} : Kept z (State.pctlWrite s a1 a2 a3) := by
  unfold State.pctlWrite; try dsimp only
  with_reducible repeat' (first | assumption | refine regWrite_kept ?_ | refine Kept.ite ?_ ?_ | split)

theorem snoopCmd_kept {z s : State} (h : Kept z s) {a1 a2} : Kept z (State.snoopCmd s a1 a2) := by
  unfold State.snoopCmd; try dsimp only
  with_reducible repeat' (first | assumption | refine put_kept ?_ | refine snoop_kept ?_ | refine Kept.ite ?_ ?_ | split)

theorem scrubWords_kept {z s : State} (h : Kept z s) {a1} : Kept z (State.scrubWords s a1) := by
  unfold State.scrubWords; try dsimp only
  with_reducible repeat' (first
      | assumption | refine each_kept ?_ (fun _ _ _ => ?_) | refine readWordErr_kept' ?_ (by assumption) | refine readWordErr_kept ?_
      | refine setRfld_kept ?_ | refine wrapInc_kept ?_ | refine Kept.ite ?_ ?_ | split)

theorem sourceInput_kept {z s : State} (h : Kept z s) {a1 a2 a3} : Kept z (State.sourceInput s a1 a2 a3) := by
  unfold State.sourceInput; try dsimp only
  with_reducible repeat' (first | assumption | refine setLine_kept ?_ | refine raise_kept ?_ | refine Kept.ite ?_ ?_ | split)

theorem injectCmd_kept {z s : State} (h : Kept z s) {a1 a2 a3} : Kept z (State.injectCmd s a1 a2 a3) := by
  unfold State.injectCmd; try dsimp only
  with_reducible repeat' (first | assumption | refine regWrite_kept ?_)

theorem deliverUnit_kept {z s : State} (h : Kept z s) {a1 a2} : Kept z (State.deliverUnit s a1 a2) := by
  unfold State.deliverUnit; try dsimp only
  with_reducible repeat' (first | assumption | refine updR_kept ?_ | refine passEnd_kept ?_ | refine Kept.ite ?_ ?_ | split | refine Kept.of ?_)

theorem countReplay_kept {z s : State} (h : Kept z s) {a1} : Kept z (State.countReplay s a1) := by
  unfold State.countReplay; try dsimp only
  with_reducible repeat' (first | assumption | refine collide_kept ?_ | refine satInc_kept ?_ | split)

theorem loadReplay_kept {z s : State} (h : Kept z s) {a1 a2} : Kept z (State.loadReplay s a1 a2) := by
  unfold State.loadReplay; try dsimp only
  with_reducible repeat' (first | assumption | refine updR_kept ?_ | refine countReplay_kept ?_ | refine Kept.ite ?_ ?_ | split | refine Kept.of ?_)

theorem extReady_kept {z s : State} (h : Kept z s) {a1 a2 a3 a4} : Kept z (State.extReady s a1 a2 a3 a4) := by
  unfold State.extReady; try dsimp only
  with_reducible repeat' (first
      | assumption | refine when_kept ?_ (fun _ _ => ?_) | refine updR_kept ?_ | refine report_kept ?_ | refine Kept.ite ?_ ?_ | split
      | refine Kept.of ?_)

theorem hauAnswer_kept {z s : State} (h : Kept z s) {a1 a2 a3 a4} : Kept z (State.hauAnswer s a1 a2 a3 a4) := by
  unfold State.hauAnswer; try dsimp only
  with_reducible repeat' (first | assumption | refine hauDone_kept ?_ | refine put_kept ?_ | refine noLink_kept ?_ | refine Kept.ite ?_ ?_ | split)

theorem fireTimer_kept {z s : State} (h : Kept z s) {a1 a2} : Kept z (State.fireTimer s a1 a2) := by
  unfold State.fireTimer; try dsimp only
  with_reducible repeat' (first | assumption | refine updR_kept ?_ | refine raise_kept ?_ | refine Kept.ite ?_ ?_ | split | refine Kept.of ?_)

theorem fireWatchdog_kept {z s : State} (h : Kept z s) {a1} : Kept z (State.fireWatchdog s a1) := by
  unfold State.fireWatchdog; try dsimp only
  with_reducible repeat' (first
      | assumption | refine updR_kept ?_ | refine report_kept ?_ | refine fallback_kept ?_ | refine Kept.ite ?_ ?_ | split | refine Kept.of ?_)

theorem passCmd_kept {z s : State} (h : Kept z s) {a1 a2 a3} : Kept z (State.passCmd s a1 a2 a3) := by
  unfold State.passCmd; try dsimp only
  with_reducible repeat' (first | assumption | refine trigger_kept ?_ | refine passEnd_kept ?_ | refine Kept.ite ?_ ?_ | split)

theorem lateMirror_kept {z s : State} (h : Kept z s) {a1} : Kept z (State.lateMirror s a1) := by
  unfold State.lateMirror; try dsimp only
  with_reducible repeat' (first | assumption | refine mirrorWrite_kept ?_ | refine updR_kept ?_ | refine Kept.ite ?_ ?_ | split | refine Kept.of ?_)

theorem runnerTick_kept {z s : State} (h : Kept z s) {a1 a2} : Kept z (State.runnerTick s a1 a2) := by
  unfold State.runnerTick; try dsimp only
  with_reducible repeat' (first | assumption | refine updArb_kept ?_ | refine updR_kept ?_ | refine Kept.ite ?_ ?_ | split | refine Kept.of ?_)

theorem tick_kept {z s : State} (h : Kept z s) : Kept z (State.tick s) := by
  unfold State.tick; try dsimp only
  with_reducible repeat' (first
      | assumption | refine when_kept ?_ (fun _ _ => ?_) | refine each_kept ?_ (fun _ _ _ => ?_) | refine pacTick_kept ?_
      | refine offerAll_kept ?_ | refine runnerTick_kept ?_ | refine Kept.ite ?_ ?_ | split | refine Kept.of ?_)

end Sys2Proof.Machine
end

