-- ==== Sys2Proof/Laws/Ports.lean ====
section
/-! SUPPORT. Which unit ports a runner may name: every user port of its units, and the supervisor ports in the supervisor level. -/
namespace Sys2Proof.Machine

theorem portInfo_block (s : State) (r : Rid) {p : Nat} {i : PortInfo} (h1 : 0x80 ≤ p) (h2 : p < 0x2A0) (hb : blockPort (p / 32 * 32) (p % 32) = some i)
    (ha : r.isArb = false ∨ (p / 32 * 32 ≠ 0x1E0 ∧ p / 32 * 32 ≠ 0x240 ∧ p / 32 * 32 ≠ 0x260))
    (hv : p / 32 * 32 = 0x260 → s.fuses.variant.full = true) : s.portInfo r p = some i := by
  unfold State.portInfo
  rw [if_neg (by omega), if_neg (by omega), if_pos h2]
  dsimp only
  rw [if_neg, if_neg, hb]
  · intro h
    simp only [Bool.and_eq_true, beq_iff_eq, Bool.not_eq_true'] at h
    rw [hv h.1] at h
    exact absurd h.2 (by simp)
  · intro h
    simp only [Bool.and_eq_true, Bool.or_eq_true, beq_iff_eq] at h
    rcases ha with ha | ⟨a1, a2, a3⟩
    · rw [ha] at h
      exact absurd h.1 (by simp)
    · rcases h.2 with (h | h) | h
      · exact a1 h
      · exact a2 h
      · exact a3 h

/-- A user port of a unit that every runner has. -/
theorem portOpen_user (s : State) (r : Rid) {p : Nat} {i : PortInfo} (h1 : 0x80 ≤ p) (h2 : p < 0x2A0) (hb : blockPort (p / 32 * 32) (p % 32) = some i)
    (hi : i.sup = false) (hc : i.cust = false) (hn : p / 32 * 32 ≠ 0x1E0 ∧ p / 32 * 32 ≠ 0x240 ∧ p / 32 * 32 ≠ 0x260) : s.portOpen r p := by
  refine ⟨i, portInfo_block s r h1 h2 hb (.inr hn) (fun h => absurd h hn.2.2), ?_⟩
  unfold State.portFault
  dsimp only
  rw [if_neg (by omega), hc, hi]
  simp

/-- A supervisor port of a unit, for a runner in the supervisor level that has the unit. -/
theorem portOpen_super {s : State} {r : Rid} {p : Nat} {i : PortInfo} (hs : (s.runner r).sup = true) (h1 : 0x80 ≤ p) (h2 : p < 0x2A0)
    (hb : blockPort (p / 32 * 32) (p % 32) = some i) (hc : i.cust = false)
    (ha : r.isArb = false ∨ (p / 32 * 32 ≠ 0x1E0 ∧ p / 32 * 32 ≠ 0x240 ∧ p / 32 * 32 ≠ 0x260))
    (hv : p / 32 * 32 = 0x260 → s.fuses.variant.full = true) : s.portOpen r p := by
  refine ⟨i, portInfo_block s r h1 h2 hb ha hv, ?_⟩
  unfold State.portFault
  dsimp only
  rw [if_neg (by omega), hc, hs]
  simp

end Sys2Proof.Machine
end

