-- ==== Sys2Proof/Laws/Write.lean ====
section
/-! SUPPORT. What a register write does, once for all pages: where it is accepted, where it is rejected. -/
namespace Sys2Proof.Machine

/-- An accepted write of a unit register: counted, recorded, and its effect. -/
theorem pageWrite_unit {s : State} {o : Origin} {p off : Nat} {d : Reg} {lost : List Nat} {t : PType} {inst u m : Nat} {fs : List Fld} {v : Reg}
    (ht : pageType s.fuses.variant p = some (t, inst)) (hc : (t.custody && !o.cust) = false) (h8 : 0x20 < off) (hu : unalias off = some (u, m))
    (hf : fieldsAt t u = some fs) (hb : (m == 0 && s.actBad t u d) = false)
    (hv : s.compose t inst u fs (if isLo t u then s.loHalf p u (s.curVal t inst p u) else s.curVal t inst p u) d m = (v, false))
    (hw : s.writeBad o t inst p u m fs v d = 0) (hr : s.auditRoom = true) :
    s.pageWrite o p off d lost = (((s.accepted o p off d (!unaudited t u || o == .tap))).writeUnit t inst p u fs v d (m == 0) false lost, .ok) := by
  unfold State.pageWrite
  have h8' : off ≠ 8 := by omega
  have h20 : ¬off ≤ 0x20 := by omega
  simp only [ht, hc, hu, hf, hv, hb, hw, if_neg h8', if_neg h20, Bool.false_eq_true, if_false, Bool.or_self, Bool.false_and]
  unfold State.acceptWrite State.accepted State.when
  simp [hr, Bool.or_false]

/-- The same through the write itself: a link is answered OK. -/
theorem regWrite_ok {s t : State} {o : Origin} {p off : Nat} {d : Reg} {lost : List Nat} (hm : s.mode ≠ .quiesce)
    (hl : o = .tap → s.life = 0 ∨ s.life = 3) (hw : s.pageWrite o p off d lost = (t, .ok)) : s.regWrite o p off d lost = t.replied o := by
  unfold State.regWrite State.replied
  cases o with
  | tap =>
    rcases hl rfl with h | h <;> simp [hm, State.tapWrite, h, hw]
  | link => simp [State.asleep, hm, hw, State.answer]
  | runner => simp [hm, hw]

/-- A rejected write: PWERR shows it, and a link is answered OK. -/
theorem regWrite_rejected {s t : State} {o : Origin} {p off : Nat} {d : Reg} {lost : List Nat} (hm : s.mode ≠ .quiesce)
    (hl : o = .tap → s.life = 0 ∨ s.life = 3) (hw : s.pageWrite o p off d lost = (t, .rejected)) : s.regWrite o p off d lost = t.replied o := by
  unfold State.regWrite State.replied
  cases o with
  | tap =>
    rcases hl rfl with h | h <;> simp [hm, State.tapWrite, h, hw]
  | link => simp [State.asleep, hm, hw, State.answer]
  | runner => simp [hm, hw]

theorem regWrite_unit {s : State} {o : Origin} {p off : Nat} {d : Reg} {lost : List Nat} {t : PType} {inst u m : Nat} {fs : List Fld} {v : Reg}
    (hm : s.takesWrites o) (ht : pageType s.fuses.variant p = some (t, inst)) (hc : (t.custody && !o.cust) = false) (h8 : 0x20 < off)
    (hu : unalias off = some (u, m)) (hf : fieldsAt t u = some fs) (hb : (m == 0 && s.actBad t u d) = false)
    (hv : s.compose t inst u fs (if isLo t u then s.loHalf p u (s.curVal t inst p u) else s.curVal t inst p u) d m = (v, false))
    (hw : s.writeBad o t inst p u m fs v d = 0) :
    s.regWrite o p off d lost = ((s.accepted o p off d (!unaudited t u || o == .tap)).writeUnit t inst p u fs v d (m == 0) false lost).replied o :=
  regWrite_ok hm.1 hm.2.2 (pageWrite_unit ht hc h8 hu hf hb hv hw hm.2.1)

/-- A write of a unit register that `writeBad` rejects. -/
theorem regWrite_bad {s : State} {o : Origin} {p off : Nat} {d : Reg} {lost : List Nat} {t : PType} {inst u m : Nat} {fs : List Fld} {v : Reg} {n : Nat}
    (hm : s.takesWrites o) (ht : pageType s.fuses.variant p = some (t, inst)) (hc : (t.custody && !o.cust) = false) (h8 : 0x20 < off)
    (hu : unalias off = some (u, m)) (hf : fieldsAt t u = some fs) (hb : (m == 0 && s.actBad t u d) = false)
    (hv : s.compose t inst u fs (if isLo t u then s.loHalf p u (s.curVal t inst p u) else s.curVal t inst p u) d m = (v, false))
    (hw : s.writeBad o t inst p u m fs v d = n + 1) : s.regWrite o p off d lost = (s.pwerr o p off (n + 1) d).replied o := by
  apply regWrite_rejected hm.1 hm.2.2
  unfold State.pageWrite
  have h8' : off ≠ 8 := by omega
  have h20 : ¬off ≤ 0x20 := by omega
  simp only [ht, hc, hu, hf, hv, hb, hw, if_neg h8', if_neg h20, Bool.false_eq_true, if_false, Bool.false_and]
  rfl

/-- An accepted write of PCTL. -/
theorem regWrite_pctl {s : State} {o : Origin} {p : Nat} {d : Reg} {t : PType} {inst : Nat}
    (hm : s.takesWrites o) (ht : pageType s.fuses.variant p = some (t, inst)) (hc : (t.custody && !o.cust) = false)
    (hb : s.pctlBad t inst p d = 0) (hr : (t == .heat && !d.getLsbD 0) = false) :
    s.regWrite o p 8 d = ((s.accepted o p 8 d).pctlGo t inst p d).replied o := by
  apply regWrite_ok hm.1 hm.2.2
  unfold State.pageWrite
  simp only [ht, hc, hb, hr, Bool.false_eq_true, if_false, if_true]
  unfold State.acceptWrite State.accepted State.when
  simp [hm.2.1]

end Sys2Proof.Machine
end

