-- ==== Sys2Proof/Tests/Slice0.lean ====
section
/-! SUPPORT. Tests: ill-formed commands are refused by the checks; one step of the commands of each family against values worked out by hand from the rules;
states that meet the hypotheses of the statements. Expected values come from the rule named in each comment, never from the model. -/
set_option Elab.async false
set_option linter.unreachableTactic false
set_option linter.unusedTactic false
namespace Sys2Proof.Tests
open Sys2Proof Sys2Proof.Machine

/-! One ill-formed command for each check of `Instr.wf`, and a well-formed one beside it -/

theorem test_wf_window_link : Instr.wf (.winRd 4 false 0 4) = false ∧ Instr.wf (.winRd 3 false 0 4) = true := by decide
theorem test_wf_window_size : Instr.wf (.winWr 0 false 0 257 0) = false ∧ Instr.wf (.winWr 0 false 0 256 0) = true := by decide
theorem test_wf_scratchpad_range : Instr.wf (.scratchpadWindowAccess 0 false false 0x7FFFFF8 8 0 false) = false
    ∧ Instr.wf (.scratchpadWindowAccess 0 false false 0xDFFFFF8 8 0 false) = true := by decide
theorem test_wf_doorbell : Instr.wf (.doorbell 0 0x2000004 0) = false ∧ Instr.wf (.doorbell 0 0x203FFF8 0) = true := by decide
theorem test_wf_snoop : Instr.wf (.snpInv 4 0) = false ∧ Instr.wf (.snpCleanInv 0 (2 ^ 52)) = false ∧ Instr.wf (.snpInv 0 0) = true := by decide
theorem test_wf_page : Instr.wf (.tapAccess (.access true 512 0 0)) = false ∧ Instr.wf (.registerWrite .tap 511 0xFFE 0) = false
    ∧ Instr.wf (.registerWrite .tap 511 0xFFC 0) = true := by decide
theorem test_wf_runner : Instr.wf (.aluAdd (.heat 0 9) false 0) = false ∧ Instr.wf (.moveWord (.heat 16 0) false false) = false ∧ Instr.wf (.aluAdd (.heat 15 8) false 0) = true := by decide
theorem test_wf_origin : Instr.wf (.runnerStart (.link 4 true) .arb) = false ∧ Instr.wf (.imgAbort (.runner (.heat 0 9) true true)) = false ∧ Instr.wf (.runnerStop (.link 3 true) .arb) = true := by decide
theorem test_wf_fence_page : Instr.wf (.pctlFence .tap 512) = false ∧ Instr.wf (.pctlFence .tap 511) = true := by decide
theorem test_wf_heat : Instr.wf (.heatFence 16) = false ∧ Instr.wf (.wipeEnd 16) = true ∧ Instr.wf (.wipeEnd 17) = false := by decide
theorem test_wf_ring : Instr.wf (.migrateMove 32768) = false ∧ Instr.wf (.migrateMove 32767) = true := by decide
theorem test_wf_unit : Instr.wf (.pacerStart .tap 16) = false ∧ Instr.wf (.contain .tap 15) = true := by decide
theorem test_wf_cause : Instr.wf (.fallbackBegin 0) = false ∧ Instr.wf (.containment 0 7) = false ∧ Instr.wf (.fallbackBegin 4) = true := by decide
theorem test_wf_stride : Instr.wf (.strideDetectorAssign .tap 0 4 0) = false ∧ Instr.wf (.spendWrite .tap 0 8 0) = false ∧ Instr.wf (.spendWrite .tap 15 7 0) = true := by decide
theorem test_wf_source : Instr.wf (.sourceEvent 17 0 true) = false ∧ Instr.wf (.sourceEvent 0 256 true) = false ∧ Instr.wf (.sourceEvent 16 255 true) = true := by decide
theorem test_wf_queue : Instr.wf (.coalesceTimeout 64) = false ∧ Instr.wf (.coalesceTimeout 63) = true := by decide
theorem test_wf_pacer : Instr.wf (.emit 16) = false ∧ Instr.wf (.short 0 64) = false ∧ Instr.wf (.pinLevelChange 64 true) = false ∧ Instr.wf (.short 15 63) = true := by decide
theorem test_wf_port : Instr.wf (.surpriseDown 16) = false ∧ Instr.wf (.laneNarrow 0 8) = false ∧ Instr.wf (.aerMessage 0 3) = false ∧ Instr.wf (.inboundWrite 0 0 [] 0 false) = false
    ∧ Instr.wf (.portErrorDetected 0 true 13) = false ∧ Instr.wf (.portErrorDetected 0 false 8) = false ∧ Instr.wf (.portErrorDetected 15 true 12) = true := by decide
theorem test_wf_carrier : Instr.wf (.jobPost 16 0 0) = false ∧ Instr.wf (.jobEnd 0 4 0) = false ∧ Instr.wf (.jobPost 0 0 9) = false ∧ Instr.wf (.carrierElement 0 4 false) = false
    ∧ Instr.wf (.jobPost 15 3 8) = true := by decide
theorem test_wf_report : Instr.wf (.reportArrival 512) = false ∧ Instr.wf (.entryClose 512 0 0) = false ∧ Instr.wf (.entryClose 511 511 65535) = true := by decide
theorem test_wf_link : Instr.wf (.hostLinkLost 4) = false ∧ Instr.wf (.hostLinkLost 3) = true := by decide

/-! Helpers -/

/-- The next state of a command. -/
def go (c : Instr) (s : State) : State := match exec c s with | .next t => t | _ => State.reset

/-- The runner of most tests. -/
abbrev r0 : Rid := .heat 0 0
/-- The complex in service. -/
def served : State := { State.reset with mode := .service, hwdone := true, cstep := 5 }
/-- Runner 0 of heat 0 executes words as `x`. -/
def busy (x : Runner) : State := { served with runners := [(0, { x with run := .running })] }
/-- With one operand port. -/
def withA (p : Nat) (a : Word) : State := busy { oport := [(p, a)] }
def with2 (p : Nat) (a : Word) (q : Nat) (b : Word) : State := busy { oport := [(p, a), (q, b)] }
/-- Result ports that the newest operation of the runner will set, with its V and DZ. -/
def given (s : State) : List (Nat × Nat) × Bool × Bool :=
  match (s.runner r0).ops.getLast? with
  | some o => (o.res.map fun e => (e.1, e.2.val.toNat), o.v, o.dz)
  | none => ([], false, false)
/-- Bytes in the scratchpad of heat 0. -/
def spad (s : State) (l : List (Nat × Byte)) : State := { s with spads := l }
/-- Cause and detail of the runner's pending fault. -/
def fault (s : State) : Option (Nat × Nat) := (s.runner r0).pendW.map fun f => (f.code, f.detail.toNat)
/-- Sources and suspects of the reports that have not arrived. -/
def told (s : State) : List (Nat × Nat) := s.ref.arriving.map fun e => (e.src, e.suspect)
def host : Origin := .link 0 true

/-! Units that compute (R83 to R90) -/

-- MAX + 1 wraps to MIN with V and no carry
theorem test_add_overflows : given (go (.aluAdd r0 false 1) (withA 0x80 0x7FFFFFFFFFFFFFFF)) = ([(0x9C, 0x8000000000000000), (0x9D, 0)], true, false) := by decide
-- ALU1: all ones + 1 is 0 with carry, no V
theorem test_add_carries : given (go (.aluAdd r0 true 1) (withA 0xA0 0xFFFFFFFFFFFFFFFF)) = ([(0xBC, 0), (0xBD, 1)], false, false) := by decide
-- a − v with a below v borrows
theorem test_sub_borrows : given (go (.aluSub r0 false 10) (withA 0x80 3)) = ([(0x9C, 0xFFFFFFFFFFFFFFF9), (0x9D, 1)], false, false) := by decide
-- v − a
theorem test_rsub : given (go (.aluRsub r0 false 10) (withA 0x80 3)) = ([(0x9C, 7), (0x9D, 0)], false, false) := by decide
theorem test_andn : given (go (.aluAndn r0 false 0x0F) (withA 0x80 0xFF)) = ([(0x9C, 0xF0), (0x9D, 0)], false, false) := by decide
theorem test_and_or_xor : given (go (.aluAnd r0 false 0xC) (withA 0x80 0xA)) = ([(0x9C, 0x8), (0x9D, 0)], false, false)
    ∧ given (go (.aluOr r0 false 0xC) (withA 0x80 0xA)) = ([(0x9C, 0xE), (0x9D, 0)], false, false)
    ∧ given (go (.aluXor r0 false 0xC) (withA 0x80 0xA)) = ([(0x9C, 0x6), (0x9D, 0)], false, false) := by decide
-- R90: the negation and the absolute value of MIN are MIN, with V; a is unused
theorem test_neg_min : given (go (.aluNeg r0 false 0x8000000000000000) (withA 0x80 5)) = ([(0x9C, 0x8000000000000000), (0x9D, 0)], true, false) := by decide
theorem test_abs : given (go (.aluAbs r0 false 0xFFFFFFFFFFFFFFFB) (withA 0x80 1)) = ([(0x9C, 5), (0x9D, 0)], false, false)
    ∧ given (go (.aluAbs r0 false 0x8000000000000000) (withA 0x80 1)) = ([(0x9C, 0x8000000000000000), (0x9D, 0)], true, false) := by decide
-- −1 is the signed minimum and the unsigned maximum
theorem test_min_max : given (go (.aluMin r0 false 0xFFFFFFFFFFFFFFFF) (withA 0x80 1)) = ([(0x9C, 0xFFFFFFFFFFFFFFFF), (0x9D, 0)], false, false)
    ∧ given (go (.aluMax r0 false 0xFFFFFFFFFFFFFFFF) (withA 0x80 1)) = ([(0x9C, 1), (0x9D, 0)], false, false)
    ∧ given (go (.aluMinu r0 false 0xFFFFFFFFFFFFFFFF) (withA 0x80 1)) = ([(0x9C, 1), (0x9D, 0)], false, false)
    ∧ given (go (.aluMaxu r0 false 0xFFFFFFFFFFFFFFFF) (withA 0x80 1)) = ([(0x9C, 0xFFFFFFFFFFFFFFFF), (0x9D, 0)], false, false) := by decide
theorem test_counts : given (go (.aluPop r0 false 0xF0F) (busy {})) = ([(0x9C, 8), (0x9D, 0)], false, false) ∧ given (go (.aluClz r0 false 1) (busy {})) = ([(0x9C, 63), (0x9D, 0)], false, false)
    ∧ given (go (.aluCtz r0 false 0) (busy {})) = ([(0x9C, 64), (0x9D, 0)], false, false) := by decide

-- R84, R90: a count of 64 clears a left shift; bit 7 of v is ignored, so 0x81 shifts by 1
theorem test_shl : given (go (.shfShl r0 64) (withA 0xC0 1)) = ([(0xDC, 0)], false, false) ∧ given (go (.shfShl r0 0x81) (withA 0xC0 1)) = ([(0xDC, 2)], false, false) := by decide
theorem test_shr_sar : given (go (.shfShr r0 4) (withA 0xC0 0x8000000000000000)) = ([(0xDC, 0x0800000000000000)], false, false)
    ∧ given (go (.shfSar r0 4) (withA 0xC0 0x8000000000000000)) = ([(0xDC, 0xF800000000000000)], false, false) := by decide
theorem test_rotates : given (go (.shfRol r0 8) (withA 0xC0 0xAB00000000000000)) = ([(0xDC, 0xAB)], false, false)
    ∧ given (go (.shfRor r0 8) (withA 0xC0 0xAB)) = ([(0xDC, 0xAB00000000000000)], false, false) := by decide
-- field at 4 of width 8: 0xA5 of 0x0A5F; sign-extended from its top bit
theorem test_fields : given (go (.shfExt r0 0x0804) (withA 0xC0 0x0A5F)) = ([(0xDC, 0xA5)], false, false)
    ∧ given (go (.shfExts r0 0x0804) (withA 0xC0 0x0A5F)) = ([(0xDC, 0xFFFFFFFFFFFFFFA5)], false, false) := by decide
-- a field of width 8 at 60 ends at bit 63
theorem test_field_cut : given (go (.shfExts r0 0x083C) (withA 0xC0 0x9000000000000000)) = ([(0xDC, 0xFFFFFFFFFFFFFFF9)], false, false) := by decide
theorem test_dep : given (go (.shfDep r0 0x0804) (with2 0xC0 0xFFFF 0xC2 0x1CD)) = ([(0xDC, 0xFCDF)], false, false) := by decide
theorem test_bswap : given (go (.shfBswap r0 0) (withA 0xC0 0x0102030405060708)) = ([(0xDC, 0x0807060504030201)], false, false) := by decide

-- −1 × −1 signed is 1; unsigned its high half is 2^64 − 2
theorem test_products : given (go (.mulMul r0 0xFFFFFFFFFFFFFFFF) (withA 0xE0 0xFFFFFFFFFFFFFFFF)) = ([(0xFC, 1), (0xFD, 0)], false, false)
    ∧ given (go (.mulMulu r0 0xFFFFFFFFFFFFFFFF) (withA 0xE0 0xFFFFFFFFFFFFFFFF)) = ([(0xFC, 1), (0xFD, 0xFFFFFFFFFFFFFFFE)], false, false) := by decide
-- −7 ÷ 2 is −3 with remainder −1
theorem test_div : given (go (.mulDiv r0 2) (withA 0xE0 0xFFFFFFFFFFFFFFF9)) = ([(0xFC, 0xFFFFFFFFFFFFFFFD), (0xFD, 0xFFFFFFFFFFFFFFFF)], false, false) := by decide
-- R90: by 0 gives 0 and a, with DZ; MIN ÷ −1 gives MIN and 0, with V
theorem test_div_corners : given (go (.mulDivu r0 0) (withA 0xE0 9)) = ([(0xFC, 0), (0xFD, 9)], false, true)
    ∧ given (go (.mulDiv r0 0xFFFFFFFFFFFFFFFF) (withA 0xE0 0x8000000000000000)) = ([(0xFC, 0x8000000000000000), (0xFD, 0)], true, false) := by decide
-- R74, R14: t_mac2 raises the mode fault in SERVICE
theorem test_mac2_mode : (fault (go (.mulMac2 r0 8) (busy {}))).map (·.1) = some 4 := by decide

-- R88: −1 < 1 signed, not unsigned; g3 takes the result and g5 its complement
theorem test_lt : ((go (.cmpLt r0 1) (with2 0x100 0xFFFFFFFFFFFFFFFF 0x102 0x2B)).runner r0).grd = 0x08 := by decide
theorem test_ltu : ((go (.cmpLtu r0 1) (with2 0x100 0xFFFFFFFFFFFFFFFF 0x102 0x2B)).runner r0).grd = 0x20 := by decide
-- R89: where both fields name g3, it takes the result
theorem test_cmp_same_guard : ((go (.cmpTst r0 2) (with2 0x100 3 0x102 0x1B)).runner r0).grd = 0x08 := by decide

/-! Memory and host access (R67, R92 to R106) -/

-- little-endian, zero-extended
theorem test_ld32 : given (go (.lsuLd32 r0 false 4) (spad (withA 0x120 0x100) [(0x104, 0x11), (0x105, 0x22), (0x106, 0x33), (0x107, 0xF4), (0x108, 0x55)]))
    = ([(0x13C, 0xF4332211)], false, false) := by decide
-- R67: a load finds the newest of the runner's own stores
theorem test_ld_forwards : given (go (.lsuLd8 r0 false 1) (busy { oport := [(0x120, 0x10)], stores := [{ addr := 0x10, size := 8, data := 0x1122 }, { addr := 0x11, size := 1, data := 0x77 }] }))
    = ([(0x13C, 0x77)], false, false) := by decide
-- R93: an 8-byte access at 4 is misaligned: cause 0x0A with the address
theorem test_ld_misaligned : fault (go (.lsuLd r0 false 4) (withA 0x120 0)) = some (0x0A, 4) := by decide
-- R93, R271: past the scratchpad: cause 0x09; the Service world in the secure part: cause 0x02
theorem test_ld_range : fault (go (.lsuLd r0 false 0) (withA 0x120 0x600000)) = some (9, 0x600000) := by decide
theorem test_ld_secure : fault (go (.lsuLd r0 false 0) (busy { cust := false, oport := [(0x120, 0x580000)] })) = some (2, 0x580000) := by decide
theorem test_st : ((go (.lsuSt16 r0 true 0xABCD) (withA 0x140 0x20)).runner r0).stores = [{ addr := 0x20, size := 2, data := 0xABCD }] := by decide
-- R67: the ninth store stalls
theorem test_st_full : ((go (.lsuSt r0 false 1) (busy { stores := List.replicate 8 { addr := 0, size := 8, data := 0 } })).runner r0).stallAt = some 0 := by decide
-- the head entry reaches the scratchpad, its low bytes lowest
theorem test_drain : (go (.storeDrain r0 false) (busy { stores := [{ addr := 0x20, size := 2, data := 0xABCD }] })).spads = [(0x20, 0xCD), (0x21, 0xAB)] := by decide
-- R240: a store into the baton area is discarded and reported: RMISUSE cause 4
theorem test_drain_reserved : (go (.storeDrain r0 false) (busy { stores := [{ addr := 0x370000, size := 8, data := 1 }] })).spads = [] := by decide
-- R302: a collision of a runner's access: both counts of SPAD advance
theorem test_drain_refused : (go (.storeDrain r0 true) (busy { stores := [{ addr := 0x20, size := 2, data := 0xABCD }] })).rfld 0x30 0x110 31 16 = 1 := by decide
-- R105: test-and-set gives the old word and sets bit 0
theorem test_tas : given (go (.atmTas r0 0) (spad (withA 0x1A0 0x40) [(0x40, 0x10)])) = ([(0x1BC, 0x10)], false, false)
    ∧ (go (.atmTas r0 0) (spad (withA 0x1A0 0x40) [(0x40, 0x10)])).spads = [(0x40, 0x11)] := by decide
theorem test_lr : ((go (.atmLr r0 8) (withA 0x1A0 0x40)).runner r0).resv = some (1, 0) := by decide
-- with the granule reserved the store is made and gives 0; without, 1
theorem test_sc : given (go (.atmSc r0 5) (busy { oport := [(0x1A0, 0x48)], resv := some (1, 0) })) = ([(0x1BC, 0)], false, false)
    ∧ (go (.atmSc r0 5) (busy { oport := [(0x1A0, 0x48)], resv := some (1, 0) })).spads = [(0x48, 5)]
    ∧ given (go (.atmSc r0 5) (busy { oport := [(0x1A0, 0x48)], resv := some (2, 0) })) = ([(0x1BC, 1)], false, false) := by decide
-- R106: 4,096 CLK_R cycles are 2,048 CLK_S cycles
theorem test_resv_expires : ((go (.reservationExpiry r0) { busy { resv := some (1, 0) } with clkS := 2048 }).runner r0).resv = none
    ∧ ((go (.reservationExpiry r0) { busy { resv := some (1, 0) } with clkS := 2047 }).runner r0).resv = some (1, 0) := by decide
-- R98: an uncached load leaves under the lowest identifier
def linked (x : Runner) : State := { busy x with linkUp := 1, winbase := 0xFFFFFF, caches := [(0, { init := false })] }
theorem test_ldnc : (go (.hauLdnc r0 8) (linked { oport := [(0x160, 0x1000)] })).out = [.rdNc 0 true r0 0 0x1008 8] := by decide
theorem test_stnc : (go (.hauStnc r0 7) (linked { oport := [(0x160, 0x1000)], hau := [{ id := 0, load := true, size := 8, addr := 0 }] })).out = [.wrNc 0 true r0 1 0x1000 8 7] := by decide +kernel
-- a 4-byte load takes the low 4 bytes of the response
theorem test_hau_response : ((go (.hauResponse r0 0 .ok 0xFFFFFFFF12345678) (busy { hau := [{ id := 0, load := true, size := 4, addr := 0 }], ops := [{ unit := .hau, res := [(0x17C, {})], kind := .host 0 }] })).runner r0).qport = [(0x17C, { val := 0x12345678 })] := by decide

/-! Deliveries (R62, R91) -/

-- V raises FLG.V, and the V trap where CTL asks for it
theorem test_delivery : let y := (go (.unitResultDelivery r0 .alu0) (busy { ctlEff := 1, ops := [{ unit := .alu0, res := [(0x9C, { val := 3 })], v := true }] })).runner r0
    y.qport = [(0x9C, { val := 3 })] ∧ y.flgV = true ∧ y.pendV = true ∧ y.ops = [] := by decide
-- R87: a MAC adds as it is delivered
theorem test_mac_delivery : let y := (go (.unitResultDelivery r0 .mul) (busy { oport := [(0xE2, 40)], ops := [{ unit := .mul, res := [(0xFC, {}), (0xFD, {})], kind := .mac 2 false }] })).runner r0
    y.oport = [(0xE2, 42)] ∧ y.qport = [(0xFC, { val := 42 })] := by decide

/-! Words, traps, flow (R50 to R76, R124 to R176) -/

/-- A move word with its parity bits (R51): each 20-bit group and its bit hold an even number of ones. -/
def parityBit (w k : Nat) : Nat := ((List.range 20).filter fun j => w.testBit (20 * k + j)).length % 2
def sealed (w : Nat) : MoveWord := BitVec.ofNat 168 (w + ((List.range 8).map fun k => parityBit w k * 2 ^ (160 + k)).foldl (· + ·) 0)
def empty4 : Nat := 8 * 2 ^ 28 * (2 ^ 64 + 2 ^ 96)
/-- `w` at address 0, in the fetch buffer, the store holding four words. -/
def fetched (w : MoveWord) (x : Runner) : State := { busy { x with fbuf := [(0, [w, 0, 0, 0])] } with cstores := [(0, { valid := true, count := 4 })] }
/-- R60: slot 0 moves G3 to G4, slot 1 G4 to G3; slots 2 and 3 are empty. -/
def exchange : MoveWord := sealed (3 * 2 ^ 16 + 4 * 2 ^ 5 + (4 * 2 ^ 16 + 3 * 2 ^ 5) * 2 ^ 32 + empty4)
theorem test_exchange : let y := (go (.moveWord r0 false false) (fetched exchange { g := [(3, 0xAA), (4, 0xBB)] })).runner r0
    y.g = [(3, 0xBB), (4, 0xAA)] ∧ y.pc = 1 ∧ y.wcnt = 1 := by decide
/-- R57: slot 0 moves the immediate −1 at SIZE 8 to G1, where g2 is 0 (guard code 0xA); slot 1 is not performed where g2 is 0 (guard code 2). -/
def byteMove : MoveWord := sealed (0xA * 2 ^ 28 + 2 ^ 27 + 0x7FF * 2 ^ 16 + 1 * 2 ^ 5 + 3 * 2 ^ 3 + (2 * 2 ^ 28 + 2 ^ 27 + 5 * 2 ^ 16 + 2 * 2 ^ 5) * 2 ^ 32 + empty4)
theorem test_immediate_byte : ((go (.moveWord r0 false false) (fetched byteMove {})).runner r0).g = [(1, 0xFF)] := by decide
-- R71: a word whose parity fails commits nothing and is tried again; its third failure goes to machine check
theorem test_parity_fails : let y := (go (.moveWord r0 false false) (fetched (exchange ^^^ 1) { g := [(3, 0xAA)] })).runner r0
    y.g = [(3, 0xAA)] ∧ y.pc = 0 ∧ y.tries = 1 := by decide
theorem test_third_failure : ((go (.wordRetry r0 true false false) (fetched exchange { tries := 2 })).runner r0).pendM = some 0x30 := by decide
theorem test_retry_counts : let s := go (.wordRetry r0 false false false) (fetched exchange { tries := 1, g := [(3, 7)] })
    (s.runner r0).rty = 1 ∧ s.reg 0x100 0x104 = 1 ∧ (s.runner r0).g = [(4, 7)] := by decide
-- R73: a move to the result port of ALU0 (0x9C) is illegal: cause 1, slot 0, detail the port
theorem test_illegal_move : ((go (.moveWord r0 false false) (fetched (sealed (0x9C * 2 ^ 5 + 8 * 2 ^ 28 * 2 ^ 32 + empty4)) {})).runner r0).pendW
    = some { code := 1, sv := true, slot := 0, detail := 0x9C } := by decide

-- R120: slot 0 moves the immediate 5 to the operand port at offset 0 of extension block 0; a unit that cannot accept stalls the word, else it is delivered
theorem test_ext : let s : State := { fetched (sealed (2 ^ 27 + 5 * 2 ^ 16 + 0x600 * 2 ^ 5 + 8 * 2 ^ 28 * 2 ^ 32 + empty4)) { cust := false, sup := true } with fuses := { extAtt := [(0, true)], extPorts := [(0, 4)], extKind := [(0, 1)] } }
    ((go (.moveWord r0 false true) s).runner r0).pc = 0 ∧ (go (.moveWord r0 false true) s).out = [] ∧ ((go (.moveWord r0 false false) s).runner r0).pc = 1 ∧ (go (.moveWord r0 false false) s).out = [.ext 0 0 0 5 false true] := by decide

/-- The worked case of chapter "Worlds, Levels and Traps": a string copy in the Service supervisor level, an interrupt source pending. -/
def interrupted : State :=
  { busy { cust := false, sup := true, hold := some { kind := .copy, rpc := 0x740, npc := 0x760 }, fspS := 0x1000 } with
    slices := [(0, { prio := [(0xC0, 5)], pend := [(0xC0, true)], rp := [(0, { seen := [0xC0] })] })] }
-- its check figures: frame word 0 = 0x4820, word 1 = 0x0760_0740; the detail is the source
theorem test_frame_words : ((go (.trapEntry r0 false) interrupted).runner r0).frame.map (fun e => (e.1, e.2.toNat))
    = [(0xFC0, 0x4820), (0xFC8, 0x07600740), (0xFD0, 0), (0xFD8, 0), (0xFE0, 0xC0), (0xFE8, 0x1000), (0xFF0, 0), (0xFF8, 0)] := by decide
-- R168: group 2 of the Service vectors begins at TVEC + 32; the entry hold begins at the source's priority
theorem test_interrupt_vector : let s := go (.trapEntry r0 false) { interrupted with regs := [(1024 * 0x100 + 0x44, 0x40)] }
    (s.runner r0).pc = 0x60 ∧ ((s.slice 0).rprio 0).ehold = some 5 := by decide
-- R173: no room below o_fsp is the stack-exhausted condition, 0x31
theorem test_exhausted : ((go (.trapEntry r0 false) (busy { pendW := some { code := 9 }, fspC := 0 })).runner r0).pendM = some 0x31 := by decide
-- R176, R76: machine check hands the runner on, counts in MCCNT and is reported (class RMCK cause 0)
theorem test_machine_check : let s := go (.machineCheck r0 false) (busy { pendM := some 0x30 })
    (s.runner r0).run = .handoff ∧ s.rfld 0x100 0x108 15 0 = 1 ∧ told s = [(8, 0x100)] := by decide
-- R163: kind D traps are taken in ascending code order
theorem test_trap_order : ((go (.trapEntry r0 false) (busy { fspC := 0x580100, pendV := true, pendDZ := true })).runner r0).qcause = 0x6011 := by decide

-- R128, R134: bits above [14:0] are ignored; the stack takes PC + 1
theorem test_calli : let y := (go (.seqCalli r0 0x18010) (busy { pc := 5 })).runner r0
    y.pc = 0x10 ∧ y.rs = [6] := by decide
-- R135: at depth 16 with CTL bit 2 the call raises cause 0x07
theorem test_calli_deep : (fault (go (.seqCalli r0 0x10) { busy { rs := List.replicate 16 1 } with regs := [(1024 * 0x100 + 0x40, 4)] })).map (·.1) = some 7 := by decide
-- R181: the Arbiter runner's addresses are modulo 8,192
theorem test_arbiter_target : ((go (.seqJmpi .arb 0x2001) { served with arbRun := { run := .running } }).runner .arb).pc = 1 := by decide
-- R137: the return address goes to G63 − 8 through the store buffer
theorem test_callm : let y := (go (.seqCallm r0 0x20) (busy { pc := 5, g := [(63, 0x108)] })).runner r0
    y.g = [(63, 0x100)] ∧ y.stores = [{ addr := 0x100, size := 8, data := 6 }] ∧ y.pc = 0x20 := by decide
theorem test_retm : let y := (go (.seqRetm r0 0) (spad (busy { g := [(63, 0x100)] }) [(0x100, 0x34), (0x101, 0x12)])).runner r0
    y.pc = 0x1234 ∧ y.g = [(63, 0x108)] ∧ y.noTrap = true := by decide
-- R129: count 3, block of 2 words; a count of 0 skips the block
theorem test_rep : let y := (go (.seqRep r0 0x10003) (busy { pc := 5 })).runner r0
    y.rep = { act := true, count := 3, rend := 7, rbeg := 6 } ∧ y.pc = 6 := by decide
theorem test_rep_zero : ((go (.seqRep r0 0x10000) (busy { pc := 5 })).runner r0).pc = 8 := by decide
-- R157: t_call through entry 1 of the Custody world fills the bank and goes up
theorem test_call : let y := (go (.trpCall r0 1) (busy { pc := 5, sup := false, grd := 0x0A, entry := [(9, 0x8040)] })).runner r0
    y.pc = 0x40 ∧ y.sup = true ∧ y.bankC = { spc := 6, sgrd := 0x0A, gate := false, busy := true, world := true, level := false } := by decide
-- R158: the gate takes the Service world to the Custody world; from there it raises cause 0x02
theorem test_gate : let y := (go (.trpGate r0 2) (busy { cust := false, pc := 5, gates := [(2, 0x8050)] })).runner r0
    y.pc = 0x50 ∧ y.cust = true ∧ y.sup = true := by decide
theorem test_gate_custody : fault (go (.trpGate r0 2) (busy { gates := [(2, 0x8050)] })) = some (2, 0x2B5) := by decide
-- R159: t_sret restores world, level, guards and address
theorem test_sret : let y := (go (.trpSret r0 0) (busy { bankC := { spc := 0x70, sgrd := 6, gate := true, busy := true, world := false, level := false } })).runner r0
    y.pc = 0x70 ∧ y.cust = false ∧ y.sup = false ∧ y.grd = 6 ∧ y.bankC.busy = false := by decide
-- R174: t_eret restores from the frame at o_fsp and releases it
theorem test_eret : let y := (go (.trpEret r0 0) (spad (busy { fspC := 0x580000 }) [(0x580001, 0x20), (0x580008, 0x21), (0x580010, 4)])).runner r0
    y.pc = 0x21 ∧ y.sup = false ∧ y.grd = 4 ∧ y.fspC = 0x580040 := by decide

-- R101: an element of a copy advances both addresses and stores the word
theorem test_string_element : let y := (go (.stringElement r0) (spad (busy { hold := some { kind := .copy, rpc := 0, npc := 1 }, oport := [(0x180, 0x10), (0x181, 0x20), (0x182, 3)] }) [(0x10, 9)])).runner r0
    y.oport = [(0x180, 0x18), (0x181, 0x28), (0x182, 2)] ∧ y.stores = [{ addr := 0x20, size := 8, data := 9 }] := by decide
theorem test_string_hold : ((go (.strScan r0) (busy { pc := 5 })).runner r0).hold = some { kind := .scan, rpc := 5, npc := 6 } := by decide
-- R102: a string that ran to its end gives 0
theorem test_string_done : let y := (go (.stringDone r0) (busy { hold := some { kind := .cmp, rpc := 0, npc := 1 } })).runner r0
    y.hold = none := by decide

/-! Rings, the slice interface, timers, batons (R108 to R115) -/

def ring5 (x : Ring) : State := { busy {} with rings := [(5, { x with en := true, placed := true, cls := 2 })] }
-- an empty mask gives no ring
theorem test_pop_none : given (go (.ringPop r0 0) (busy {})) = ([(0x1FC, 0), (0x1FD, 0)], false, false) := by decide
-- R213, R214: the waiting runner gets the head of the queue: valid, cons 1, prod 3, ring 5
theorem test_handout : let s := go (.ringHandout 0) { ring5 { cons := 1, prod := 3, base := 2 } with queues := [(2, [5])], runners := [(0, { run := .running, ops := [{ unit := .ring, res := [(0x1FC, {}), (0x1FD, {})], kind := .pop 4 }] })] }
    ((s.runner r0).q 0x1FC).val = 0x8000000100030005 ∧ ((s.runner r0).q 0x1FD).val = 0x2040 ∧ (s.ring 5).held = true ∧ s.queues = [] := by decide
-- R210, limit 16: 17 past cons overflows, 16 is applied, one behind prod is stale
theorem test_doorbell_overflow : let s := go (.doorbell 0 0x2000028 0x50012) (ring5 { cons := 1, prod := 3 })
    ((s.ring 5).ovf, (s.ring 5).err, (s.ring 5).prod, told s) = (1, true, 3, [(0x30, 0xC)]) := by decide +kernel
theorem test_doorbell_applied : ((go (.doorbell 0 0x2000028 0x50011) (ring5 { cons := 1, prod := 3 })).ring 5).prod = 17 := by decide +kernel
theorem test_doorbell_stale : let x := (go (.doorbell 0 0x2000028 0x50002) (ring5 { cons := 1, prod := 3 })).ring 5
    (x.prod, x.stale) = (3, 1) := by decide +kernel
-- R41: a ring number that does not match the offset is a layout error
theorem test_doorbell_layout : (go (.doorbell 0 0x2000028 0x60004) (ring5 {})).rfld 0xC 0x118 15 0 = 1 := by decide +kernel
-- R110: the claimed source and its priority; it is active and its priority is pushed
theorem test_claim : let s := go (.sigClaim r0 0) { busy {} with slices := [(0, { prio := [(0xC0, 5)], pend := [(0xC0, true)] })] }
    (given s).1 = [(0x21C, 0x500C0), (0x21D, 0x15)] ∧ (s.slice 0).pend = [] := by decide
theorem test_claim_spurious : (given (go (.sigClaim r0 0) (busy {}))).1.head? = some (0x21C, 0x3FF) := by decide
-- a source that is not active: RMISUSE cause 1
theorem test_eoi_misuse : told (go (.sigEoi r0 0xC0) (busy {})) = [(0x21, 0x100)] := by decide
theorem test_pend : (go (.sigPend r0 0x10) (busy {})).slices.map (fun e => (e.1, e.2.pend)) = [(0, [(0x10, true)])] := by decide
theorem test_snap : (given (go (.timSnap r0 0) { busy {} with lap := 0x123 })).1.head? = some (0x23C, 0x123) := by decide
-- R111: at most 10,000 CLK_S cycles
theorem test_wdog : ((go (.timWdog r0 20000) { busy {} with clkS := 7 }).runner r0).wdog = some 10007 := by decide
-- a timer whose time has come raises source 0xC1 of the slice
theorem test_timer : let s := go (.timerFire r0 true) { busy { tim1 := some 9 } with lap := 9 }
    (s.slice 0).pend = [(0xC1, true)] ∧ (s.runner r0).tim1 = none := by decide
theorem test_watchdog : told (go (.watchdogExpiry r0) { busy { wdog := some 9 } with clkS := 9 }) = [(0x10, 0x100)] := by decide
-- the check value of CRC-32C
theorem test_crc : crc32c [0x31, 0x32, 0x33, 0x34, 0x35, 0x36, 0x37, 0x38, 0x39] = 0xE3069283 := by decide +kernel
-- R112: an empty slot gives status 4
theorem test_get_empty : (given (go (.batGet r0 0) (busy {}))).1 = [(0x25C, 4)] := by decide
-- R114: a word goes into the inbound FIFO of pacer 2; a number above 15 is misuse, cause 3
theorem test_push : let s := go (.pcrPush r0 0x1FFFFFFFF) (withA 0x260 2)
    (s.pacer 2).inq = [0xFFFFFFFF] ∧ (given s).1 = [(0x27D, 1)] := by decide
theorem test_push_misuse : told (go (.pcrPush r0 1) (withA 0x260 16)) = [(0x23, 0x100)] := by decide
-- R136: the entry one place below the top, depth 2
theorem test_rsrd : (given (go (.seqRsrd r0 1) (busy { rs := [7, 9] }))).1 = [(0x1DC, 0x20009)] := by decide
theorem test_prd_bar : ((go (.prdBar r0 0) (busy {})).runner r0).barStop = true := by decide

/-! Register pages, runners, images, rings, the Arbiter (R5 to R24, R177 to R295) -/

/-- The word at `off` of `page`, where a register of the table holds it. -/
def held (page off : Nat) (v : Reg) : Nat × Reg := (1024 * page + off / 4, v)
def withRegs (l : List (Nat × Reg)) : State := { served with regs := l }
-- R24, R428: an accepted write advances PSEQ and enters an AUDIT record; page 0x80 is PACER 0, offset 0x104 its CFG
theorem test_write_counts : let s := go (.registerWrite host 0x30 0x100 1) served
    s.reg 0x30 0x18 = 1 ∧ s.scs.fifo.length = 1 := by decide +kernel
-- R23: the Service world at a Custody page: reason 2 in PWERR, PSEQ unmoved
theorem test_write_world : let s := go (.registerWrite (.link 0 false) 6 0x104 1) served
    (s.reg 6 0x10).toNat / 2 ^ 24 % 16 = 2 ∧ s.reg 6 0x18 = 0 := by decide +kernel
-- R7: the page of an absent unit: answered OK, nothing changes (a variant of 4 heats has no page 0x3F)
theorem test_write_absent : go (.registerWrite host 0x2FF 0x100 1) served = { served with out := [.resp host .ok 0] } := by decide +kernel
-- R353: the low half of the lap counter, the high half latched
theorem test_lap_read : (go (.lapCntRead host) { served with lap := 0x500000007 }).out = [.resp host .ok 7] := by decide +kernel
-- R474, R191: no image: rejected with reason 3
theorem test_start_no_image : (go (.runnerStart host r0) served).reg 0x100 0x10 = 0xC3000008 := by decide +kernel
theorem test_start : let s := go (.runnerStart host r0) { withRegs [held 0x100 0x114 0x40] with cstores := [(0, { valid := true, count := 4 })] }
    (s.runner r0).run = .running ∧ (s.runner r0).pc = 0x70 ∧ (s.runner r0).bankC.busy = true := by decide +kernel
theorem test_stop : ((go (.runnerStop host r0) (busy { stallAt := some 0 })).runner r0).run = .stopping := by decide +kernel
theorem test_fence : let s := go (.runnerFence r0) (busy { stores := [{ addr := 0, size := 8, data := 1 }] })
    (s.runner r0).fenced = true ∧ (s.runner r0).stores = [] := by decide +kernel
-- R261: the heat's rings go to its partner, frozen

theorem test_heat_fence_rings : let s := go (.heatFence 0) (ring5 {})
    ((s.ring 5).heat, (s.ring 5).frozen || (s.ring 5).unprot) = (1, true) := by decide +kernel
-- R177: the line of the word at pc is read whole
theorem test_line_fetch : ((go (.lineFetch r0) { busy { pc := 6 } with cstores := [(0, { valid := true, count := 8 })], cwords := [(5, 3)] }).runner r0).fbuf = [(1, [0, 3, 0, 0])] := by decide +kernel
-- R201: a go in IDLE begins a load, whose header of the wrong magic ends with code FORMAT
theorem test_img_format : let s := go (.imgGo host { resp := .ok, bytes := List.replicate 32 0 }) { withRegs [held 6 0x104 1] with linkUp := 1 }
    (s.img.state, s.img.code) = (0, 2) := by decide +kernel
theorem test_img_abort : (go (.imgAbort host) { served with img := { state := 1 } }).img.abort = true := by decide +kernel
-- R190: an answer other than OK ends a load with code HOST
theorem test_img_host : (go (.imgSegment { resp := .err, bytes := [] }) { served with img := { state := 1, heats := 1 } }).img.code = 9 := by decide +kernel

-- R209, R235: the pair commits word 0: base 0x12345 × 4 KiB + 2^32, lsz 3, class 5, en
theorem test_ring_enable : let x := (go (.ringEnable host 0x00700001) { withRegs [held 0xC 0x100 9] with lohold := [held 0xC 0x108 0x123453A8] }).ring 9
    (x.burst, x.base, x.lsz, x.cls, x.en, x.placed) = (7, 0x112345, 3, 5, true, false) := by decide +kernel
-- an enabled ring: any other change is rejected with reason STATE
theorem test_ring_change : (go (.ringEnable host 1) { withRegs [held 0xC 0x100 5] with rings := [(5, { en := true })], lohold := [held 0xC 0x108 8] }).reg 0xC 0x10 = 0xC300010C := by decide +kernel
theorem test_ring_disable : ((go (.ringDisable host 0) { withRegs [held 0xC 0x100 5] with rings := [(5, { en := true, held := true })], lohold := [held 0xC 0x108 0] }).ring 5).en = true := by decide +kernel
theorem test_disable_effect : ((go (.ringDisableEffect 5) { served with rings := [(5, { en := true, clrEn := true })] }).ring 5).en = false := by decide +kernel
-- R279, R280: op 1, ctag 0xAB, dest 3, ring 5; it waits while the result FIFO is full
theorem test_place : (go (.place host 0x4AB30005) { served with arb := { fb := false, res := List.replicate 16 { ctag := 0, code := 0, ring := 0 } } }).arb.cmds = [{ mig := false, ctag := 0xAB, dest := 3, ring := 5 }] := by decide +kernel
-- R281: PLACE of an enabled ring, en 1 and placed 0: OK
theorem test_place_begins : let s := go .commandBegin { served with arb := { fb := false, cmds := [{ mig := false, ctag := 0xAB, dest := 3, ring := 5 }] }, rings := [(5, { en := true })] }
    ((s.ring 5).placed, (s.ring 5).heat, s.arb.res) = (true, 3, [{ ctag := 0xAB, code := 0, ring := 5 }]) := by decide +kernel
-- its bit of aff clear: AFF
theorem test_place_aff : let s := go .commandBegin { served with arb := { fb := false, cmds := [{ mig := false, ctag := 1, dest := 3, ring := 5 }] }, rings := [(5, { en := true, aff := 0xFFF7 })] }
    ((s.ring 5).placed, s.arb.res.map (·.code)) = (false, [5]) := by decide +kernel
-- R280: valid, ctag 0xAB, code 5, ring 5
theorem test_pres : (go (.presRead host) { served with arb := { res := [{ ctag := 0xAB, code := 5, ring := 5 }] } }).out = [.resp host .ok 0x8AB50005] := by decide +kernel
-- R463: 100.0 °C raises level 0 to 1, reported (SYS cause 3); 97.75 °C lowers 1 to 0
theorem test_throttle_up : let s := go (.windowEnd [0x190]) { served with fuses := { variant := .tq9_4h } }
    (tget 0 s.arb.throt 0, told s) = (1, [(0x103, 0x10)]) := by decide +kernel
theorem test_throttle_down : tget 0 (go (.windowEnd [0x187]) { served with fuses := { variant := .tq9_4h }, arb := { throt := [(0, 1)] } }).arb.throt 0 = 0 := by decide +kernel
-- R294: the fallback cancels what waits (code 0xA)
theorem test_fallback : let s := go (.fallbackBegin 4) { served with arb := { fb := false, cmds := [{ mig := false, ctag := 1, dest := 3, ring := 5 }] }, arbRun := { fenced := true } }
    (s.arb.fb, s.arb.res.map (·.code)) = (true, [0xA]) := by decide +kernel

/-! Scratchpads, heat caches, the Starter (R303 to R350) -/

theorem test_ecc_writeback : (go (.eccWriteback 0 7) { served with memUp := [(0, { ecc := [(7, .single)], held := [(7, true)] })] }).memUp = [] := by decide +kernel
theorem test_scrub : let s := go (.scrubRead 0 0) (withRegs [held 0x30 0x100 1])
    s.rfld 0x30 0x114 14 0 = 1 := by decide +kernel
-- R306, R307: only the secure part becomes zero
theorem test_wipe : (go (.wipeEnd 0) { served with memUp := [(0, { wipe := true })], spads := [(0x57FFFF, 1), (0x580000, 2), (0x5FFFFF, 3)] }).spads = [(0x57FFFF, 1)] := by decide +kernel
-- R265: the record of the occupied slot 2 is copied with its entry, mok set
theorem test_remirror : let s := go (.remirrorEnd 0) { served with mstate := [(0, 2)], spads := [(0x378017, 0x80), (0x380200, 9)] }
    s.spads = [(0x378017, 0x80), (0x380200, 9), (0x800000 + 0x370017, 0xA0), (0x800000 + 0x480200, 9)] ∧ s.mstate = [] := by decide +kernel
/-- The heat cache of heat 0 on, runner 0 as `x`, `c` its state. -/
def cached (x : Runner) (c : Cache) : State := { linked x with caches := [(0, { c with init := false })] }
-- R311: a hit takes the bytes of the line: 0x1008 is byte 8 of line 0x10
theorem test_cache_hit : ((go (.hauLd r0 8) (cached { oport := [(0x160, 0x1000)] } { lines := [(0x80, { line := 0x10, data := 0x55 <<< 64 })] })).runner r0).ops.map (fun o => o.res)
    = [[(0x17C, { val := 0x55 })]] := by decide +kernel
-- R313: the first allocating miss after cold reset advances the LFSR to 0x59C3, takes the lowest way, and asks for the line and the next
theorem test_cache_miss : let s := go (.hauLd r0 8) (cached { oport := [(0x160, 0x1000)] } {})
    (s.cache 0).fills.head?.map (fun f => (f.line, f.way, f.unique)) = some (0x10, some 0, false) ∧ s.out.head? = some (.rdShared 0 0x10 true) := by decide +kernel
theorem test_lfsr : ((go (.hauLd r0 8) (cached { oport := [(0x160, 0x1000)] } { fills := [{ line := 0x11, way := none, unique := false, kind := .next }] })).cache 0).lfsr = 0x59C3 := by decide +kernel
-- a fill is installed
theorem test_fill : let s := go (.fillResponse 0 0x10 .ok 7 none) (cached {} { fills := [{ line := 0x10, way := some 0, unique := true, kind := .demand }] })
    (s.cache 0).lines = [(0x80, { line := 0x10, owned := true, data := 7 })] ∧ (s.cache 0).fills = [] := by decide +kernel
-- R319: a dirty line's data is returned, and the line is gone
theorem test_snoop : let s := go (.snpInv 1 0x1000) (cached {} { lines := [(0x80, { line := 0x10, owned := true, dirty := true, data := 7 })] })
    (s.cache 0).lines = [] ∧ s.out = [.snoop 1 .ok true (some 7)] := by decide +kernel
-- R322: a dirty line with a double error is lost (class 0x0D cause 1), its snoop answered ERR (class 0x10 cause 4); a clean one is filled again
theorem test_line_lost : let s := go (.snpInv 1 0x1000) (cached {} { lines := [(0x80, { line := 0x10, owned := true, dirty := true, err := some .double, data := 7 })] })
    s.out = [.snoop 1 .err true none] ∧ s.ref.arriving.map (fun r => r.src) = [0x69, 0x84] := by decide +kernel
theorem test_line_refill : let s := go (.hauLd r0 8) (cached { oport := [(0x160, 0x1000)] } { lines := [(0x80, { line := 0x10, err := some .double, data := 7 })] })
    (s.cache 0).lines = [] ∧ s.out = [.rdShared 0 0x10 true] ∧ (s.cache 0).fills.map (fun f => (f.way, f.wait.length)) = [(some 0, 1)] := by decide +kernel
-- R326: outside FACTORY the seed is rejected with reason MODE
theorem test_seed : (go (.seedWrite host 0 5) served).reg 0x40 0x10 = 0xC5000120 := by decide +kernel
theorem test_seed_factory : ((go (.seedWrite host 0 5) { served with mode := .factory }).cache 0).lfsr = 5 := by decide +kernel
-- R328: an edge source pends on its rising edge
theorem test_source : ((go (.sourceEvent 0 0xF2 true) served).slice 0).pend = [(0xF2, true)] := by decide +kernel
-- R330, R338: of the sources 0x10 (priority 3) and 0xC0 (priority 5) the higher is offered
theorem test_present : (((go (.sourcePresent r0) { busy {} with slices := [(0, { prio := [(0x10, 3), (0xC0, 5)], pend := [(0x10, true), (0xC0, true)] })] }).slice 0).rprio 0).offers = [(0xC0, 5)] := by decide +kernel
-- SPEND word 1, bit 3 is source 35 of the Arbiter's numbering 32 × 1 + 3 = 0x23
theorem test_spend : ((go (.spendWrite host 0 1 8) served).slice 0).pend = [(0x23, true)] := by decide +kernel
/-- Queue 7 enabled, delivering at once. -/
def queue7 (q : HQueue) : State := { served with hq := [(7, { q with en := true })], linkUp := 1 }
theorem test_forward : ((go (.messageForward r0) { queue7 {} with runners := [(0, { run := .running, msgs := [{ queue := 7, data := 0x99, ids := [] }] })] }).hqueue 7).acc = 1 := by decide +kernel
theorem test_delivery_msg : let s := go .msgIntDelivery (queue7 { acc := 1, addr := 0x100, data := 0x99 })
    s.out = [.msgInt 0 0x1000 (0x99 + 2 ^ 64 + 7 * 2 ^ 112)] ∧ (s.hqueue 7).acc = 0 ∧ (s.hqueue 7).seq = 1 := by decide +kernel

/-! States that meet the hypotheses of the statements: one theorem for each statement that has hypotheses, a state for each of its clauses. -/

def okB (s : State) : Bool :=
  twf {} s.runners && twf {} s.slices && twf {} s.memUp && twf {} s.caches && twf {} s.cstores && twf {} s.rings && twf {} s.hq && twf {} s.ports && twf {} s.jobs
    && twf {} s.pacers && twf {} s.pins && twf 0 s.mstate && twf false s.carFen && decide (s.regs.Pairwise fun a b => a.1 < b.1)
theorem ok {s : State} (h : okB s = true) : s.TablesOk := by
  simp only [okB, Bool.and_eq_true, decide_eq_true_eq] at h
  obtain ⟨⟨⟨⟨⟨⟨⟨⟨⟨⟨⟨⟨⟨a, b⟩, c⟩, d⟩, e⟩, f⟩, g⟩, h⟩, i⟩, j⟩, k⟩, l⟩, m⟩, n⟩ := h
  exact ⟨a, b, c, d, e, f, g, h, i, j, k, l, m, n⟩
theorem memOk {s : State} (h : (Memory.wf s.spads && Memory.wf s.arbMem && twf 0 s.cwords) = true) : s.MemOk := by
  simp only [Bool.and_eq_true] at h
  exact ⟨h.1.1, h.1.2, h.2⟩

theorem witness_StepRunsTheFrontOfTheQueue : ({ served with pending := [.wake, .safeReq] } : State).pending = .wake :: [.safeReq] := by decide
theorem witness_AnEmptyQueueTicks : State.reset.pending = [] ∧ State.reset.mode ≠ .quiesce ∧ State.reset.TablesOk ∧ ({ served with mode := .quiesce } : State).pending = [] := by and_intros <;> first | decide +kernel | exact ok (by decide +kernel) | exact memOk (by decide +kernel)
theorem witness_EveryStepKeepsTheTablesAndFuses : let s : State := { served with pending := [.wake] }
    s.TablesOk ∧ s.MemOk ∧ ∃ t, step s = .next t := ⟨ok (by decide), memOk (by decide), _, rfl⟩
-- the two ends of the kept range, with writes that touch it by one byte and that stop short of it
theorem witness_WritesStoreTheirBytes : served.MemOk ∧ served.TablesOk ∧ 0x5FFFFF + [(1 : Byte)].length ≤ memLen 0 ∧ 0x36DFFF + [(1 : Byte), 2].length ≤ memLen 15 ∧ 0x57FFFF + [(1 : Byte), 2].length ≤ memLen 0
    ∧ 0x580000 + [(1 : Byte)].length ≤ memLen 0 ∧ 0xFFF8 + [(1 : Byte)].length ≤ memLen 16 ∧ ((go (.lsuSt r0 false 1) (busy { resv := some (1, 0) })).runner r0).resv = some (1, 0) := by and_intros <;> first | decide +kernel | exact ok (by decide +kernel) | exact memOk (by decide +kernel)
theorem witness_RegisterTriggersFrame : (busy {}).TablesOk ∧ r0.wf = true ∧ ((busy {}).runner r0).run ≠ .stopping ∧ Instr.aluAdd r0 false 1 ∈ [Instr.aluAdd r0 false 1] ∧ ∃ t, exec (.aluAdd r0 false 1) (busy {}) = .next t :=
  ⟨ok (by decide), by decide, by decide, by decide, _, rfl⟩

/-- A runner that takes triggers in supervisor level, in a state whose tables are canonical. -/
def ready (s : State) (r : Rid) : Prop := s.TablesOk ∧ s.executes r ∧ (s.runner r).sup = true
theorem rdy {s : State} {r : Rid} (h : (okB s && s.canTrig r && !(s.runner r).resFail && (s.runner r).sup) = true) : ready s r := by
  simp only [Bool.and_eq_true, Bool.not_eq_true'] at h
  exact ⟨ok h.1.1.1, ⟨h.1.1.2, h.1.2⟩, h.2⟩
def arbBusy : State := { served with linkUp := 1, winbase := 0xFFFFFF, arbRun := { run := .running } }
theorem heat_ready : ready (busy {}) r0 := rdy (by decide)
theorem arb_ready : ready arbBusy .arb := rdy (by decide)
theorem witness_AluComplete : ready (busy {}) r0 ∧ ready arbBusy .arb := ⟨heat_ready, arb_ready⟩
theorem witness_ShiftsComplete : ready (withA 0xC0 1) r0 := rdy (by decide)
theorem witness_ComparisonsComplete : ready (with2 0x100 1 0x102 0x1B) r0 := rdy (by decide)
theorem witness_MulComplete : ready (withA 0xE0 5) r0 ∧ ((withA 0xE0 5).runner r0).dividing = false := ⟨rdy (by decide), by decide⟩
theorem witness_TestFeaturesKeepToTheirModes :
    let s (m : Mode) : State := { busy {} with mode := m }
    let d : Reg := 0x80370200
    ready (s .recovery) r0 ∧ ((s .recovery).runner r0).dividing = false ∧ (s .recovery).dataOk r0 0x57FFF8 8 ∧ (s .recovery).plainRead r0 0x57FFF8 8 ∧ ready (s .service) r0 ∧ (s .service).mode ∉ [.factory, .coldstart, .recovery]
      ∧ (s .service).takesWrites host ∧ (s .service).mode ≠ .factory ∧ 15 < (busy {}).nHeats ∧ (s .factory).takesWrites host ∧ d.getLsbD 31 = true ∧ fld d 30 28 = 0 ∧ (pageType (s .factory).fuses.variant (fld d 24 16)).isSome = true
      ∧ srcListed (fld d 8 0) = true ∧ fld d 15 0 ≠ 0 := by and_intros <;> first | decide +kernel | exact ok (by decide +kernel) | exact memOk (by decide +kernel)
theorem witness_LoadsAndStoresComplete :
    let s := busy { stores := [{ addr := 0x10, size := 8, data := 3 }] }
    let e : State := { busy {} with memUp := [(0, { ecc := [(2, .double)] })] }
    let f := busy { stores := List.replicate 8 { addr := 0x10, size := 8, data := 3 } }
    ready s r0 ∧ s.dataOk r0 0x10 8 ∧ s.dataOk r0 0x5FFFFF 1 ∧ (s.runner r0).loads (lsuUnit false) < 4 ∧ (s.runner r0).stores.length < 8 ∧ (∀ k < 8, (bufByte (s.runner r0).writes (0x10 + k)).isSome = true)
      ∧ s.plainRead r0 0x18 8 ∧ ready e r0 ∧ (∀ k < 8, bufByte (e.runner r0).writes (0x10 + k) = none) ∧ (e.up 0).ecc.find? (fun e => e.1 == 0x10 / 8) = some (2, .double)
      ∧ ready f r0 ∧ f.dataOk r0 0x10 8 ∧ 8 ≤ (f.runner r0).stores.length := by and_intros <;> first | decide +kernel | exact ok (by decide +kernel) | exact memOk (by decide +kernel)
theorem witness_AtomicsComplete :
    let s (x : Runner) := busy { x with oport := [(0x1A0, 0x40)], stores := [{ addr := 0x80, size := 8, data := 3 }] }
    ready (s {}) r0 ∧ (s {}).dataOk r0 0x40 8 ∧ (∀ e ∈ (((s {}).drainAll r0).up 0).ecc, e.1 ≠ 0x40 / 8) ∧ (((s {}).drainAll r0).runner r0).resv = none
      ∧ (((s { resv := some (1, 0) }).drainAll r0).runner r0).resv = some (0x40 / 64, 0) ∧ (((s { resv := some (2, 0) }).drainAll r0).runner r0).resv = none := by and_intros <;> first | decide +kernel | exact ok (by decide +kernel) | exact memOk (by decide +kernel)
theorem witness_HostUncachedComplete :
    let s : State := { linked { hau := [{ id := 0, load := true, size := 8, addr := 0 }] } with regs := [held 0x40 0x100 0] }
    ready s r0 ∧ s.linkLive = true ∧ s.hostOk r0 0x1000 8 ∧ s.hostOk r0 0xFFFFFEFFFFFFC 4 ∧ s.lineFree r0 0x1000 ∧ s.cacheOn 0 = false ∧ (s.cache 0).find (0x1000 / 256) = none ∧ (s.runner r0).hau.length < 16
      ∧ ready arbBusy .arb ∧ arbBusy.linkLive = true ∧ arbBusy.hostOk .arb 0x1000 8 ∧ arbBusy.lineFree .arb 0x1000
      ∧ (s.linkUp.getLsbD ((0x1100 / 256 + 3) % 4) = true ∧ ∀ j < 3, s.linkUp.getLsbD ((0x1100 / 256 + j) % 4) = false) := by and_intros <;> first | decide +kernel | exact ok (by decide +kernel) | exact memOk (by decide +kernel)
theorem witness_CachedAccessesComplete :
    let l : Line := { line := 0x10, owned := true }
    let s := cached {} { lines := [(0x80, l)] }
    let m := cached {} { lines := [(0x88, { line := 0x11 })] }
    ready s r0 ∧ s.cacheOn 0 = true ∧ (∀ j < 4, (s.reg 0x40 (0x130 + 4 * j)).getLsbD 31 = false) ∧ s.hostOk r0 0x10F8 8 ∧ s.hostOk r0 0x10FC 4 ∧ (s.cache 0).find (0x1000 / 256) = some (0x80, l) ∧ s.lineFree r0 0x1000
      ∧ ready m r0 ∧ m.cacheOn 0 = true ∧ m.linkLive = true ∧ m.hostOk r0 0x1000 8 ∧ (m.cache 0).find 0x10 = none ∧ (m.cache 0).fillOf 0x10 = none ∧ ((m.cache 0).find 0x11).isSome = true
      ∧ (m.reg 0x40 0x104).getLsbD 0 = false ∧ (∀ e ∈ (m.cache 0).lines, e.1 ≠ 8 * (0x1000 / 256 % 512) + 0) ∧ (m.cache 0).fills = [] ∧ l.poison = false ∧ l.err = none := by and_intros <;> first | decide +kernel | exact ok (by decide +kernel) | exact memOk (by decide +kernel)
theorem witness_CachedAccessesComplete_errors : ∀ x ∈ [({ line := 0x10, err := some .single } : Line), { line := 0x10, dirty := true, err := some .double }, { line := 0x10, err := some .double }],
    let d := cached {} { lines := [(0x80, x)] }
    ready d r0 ∧ d.cacheOn 0 = true ∧ (d.cache 0).find (0x1000 / 256) = some (0x80, x) ∧ d.lineFree r0 0x1000 ∧ x.poison = false ∧ d.linkLive = true ∧ (d.cache 0).fillOf 0x10 = none ∧ ∀ e ∈ (d.cache 0).lines, e.2.line = 0x10 → e.1 = 0x80 := by
  intro x hx
  simp only [List.mem_cons, List.not_mem_nil, or_false] at hx
  rcases hx with rfl | rfl | rfl <;> exact ⟨rdy (by decide +kernel), by decide +kernel⟩
theorem witness_HostOrderComplete :
    let s : State := { linked {} with regs := [held 0x40 0x100 0] }
    let c (x : Cache) := cached {} x
    ready s r0 ∧ s.hostOk r0 0xFF 1 ∧ s.cacheOn 0 = false ∧ arbBusy.hostOk .arb 0xFF 1 ∧ 256 % 8 = 0 ∧ 0x1000 % 256 + 256 ≤ 256 ∧ s.hostOk r0 0x1000 8 ∧ s.lineFree r0 0x1000 ∧ s.dataOk r0 0x100 8 ∧ s.dataOk r0 (0x100 + 256 - 8) 8
      ∧ (s.runner r0).stores = [] ∧ (s.runner r0).frame = [] ∧ s.plainRead r0 0x100 256 ∧ s.linkLive = true ∧ ready (c {}) r0 ∧ (c {}).cacheOn 0 = true ∧ (c {}).hostOk r0 0x1000 1
      ∧ ((c { lines := [(0x80, { line := 0x10 })] }).cache 0).find 0x10 = some (0x80, { line := 0x10 }) ∧ (((c { fills := [{ line := 0x10, way := none, unique := false, kind := .pref }] }).cache 0).fillOf 0x10).isSome = true
      ∧ ((c {}).reg 0x40 0x104).getLsbD 0 = false := by and_intros <;> first | decide +kernel | exact ok (by decide +kernel) | exact memOk (by decide +kernel)
/-- Sources 0xC0 (priority 5) pending, presented and still offered as told. -/
def sliced (x : Runner) (offers : List (Nat × Nat)) : State :=
  { busy x with slices := [(0, { prio := [(0xC0, 5)], pend := [(0xC0, true)], act := [(0x10, 1)], rp := [(0, { stack := [(0x10, 3)], offers := offers, seen := [0xC0] })] })] }
theorem witness_RingsComplete :
    let s := busy { ring := some 5 }
    let two : State := { s with rings := [(5, { prod := 2, held := true })] }
    let mig : State := { s with rings := [(5, { held := true, migTo := some (1, 0) })] }
    let i := sliced {} []
    ready s r0 ∧ (s.runner r0).popping = false ∧ (s.runner r0).ring.isSome = true ∧ (s.ring 5).migTo = none ∧ ((s.ring 5).prod - (s.ring 5).cons).toNat < 65535
      ∧ ready two r0 ∧ 2 ≤ ((two.ring 5).prod - (two.ring 5).cons).toNat ∧ ((two.ring 5).prod - (two.ring 5).cons).toNat < 3 ∧ ready mig r0 ∧ (mig.ring 5).migTo.isSome = true ∧ ((busy {}).runner r0).ring = none ∧ (busy {}).intrPending r0 = false
      ∧ ready i r0 ∧ i.intrPending r0 = true ∧ ((withA 0x1E0 32767).operand r0 0x1E0).toNat < 32768 ∧ 32768 ≤ ((withA 0x1E0 32768).operand r0 0x1E0).toNat := by and_intros <;> first | decide +kernel | exact ok (by decide +kernel) | exact memOk (by decide +kernel)
theorem witness_SignalsComplete :
    let s := sliced {} []
    let o := sliced {} [(0xC0, 5)]
    let full := busy { msgs := List.replicate 4 { queue := 0, data := 0, ids := [] } }
    ready s r0 ∧ (s.runner r0).run = .running ∧ twf {} (s.slice 0).rp = true ∧ s.canDeliver r0 ((s.slice 0).rprio 0).cur 0xC0 = true ∧ s.srcPrio 0 0xC0 = 5 ∧ (s.slice 0).offersOf 0 0 = [] ∧ ready o r0 ∧ (o.slice 0).offersOf 0 0 = [(0xC0, 5)]
      ∧ (s.slice 0).isAct 0 0x10 0 = true ∧ ((s.slice 0).rprio 0).stack.any (fun e => e.1 == 0x10) = true ∧ ((busy {}).slice 0).isAct 0 0x10 0 = false ∧ s.srcOk 0 0x3F = true ∧ srcHand 0 0x3F = false ∧ s.srcOk 0 0xF0 = true ∧ srcHand 0 0xF0 = true
      ∧ twf false (s.slice 0).handP = true ∧ s.srcOk 0 255 = false ∧ (s.runner r0).msgs.length < 4 ∧ ready full r0 ∧ 4 ≤ (full.runner r0).msgs.length := by and_intros <;> first | decide +kernel | exact ok (by decide +kernel) | exact memOk (by decide +kernel)
theorem witness_SignalsComplete_none : (∀ c < 256, (busy {}).canDeliver r0 (((busy {}).slice 0).rprio 0).cur c = false) ∧ ((busy {}).slice 0).offersOf 0 0 = [] := by decide +kernel
theorem witness_TimersComplete : ready (busy {}) r0 ∧ (0 : Word).toNat ≤ (busy {}).lap.toNat ∧ ¬(1 : Word).toNat ≤ (busy {}).lap.toNat ∧ (busy {}).intrPending r0 = false ∧ (sliced {} []).intrPending r0 = true := by and_intros <;> first | decide +kernel | exact ok (by decide +kernel) | exact memOk (by decide +kernel)
/-- The bytes of a record of zeros that are not zero: its CRC. -/
def zeroRec (k : Nat) : List (Nat × Byte) := [(k + 0xFC, 33), (k + 0xFD, 83), (k + 0xFE, 230), (k + 0xFF, 103)]
set_option maxRecDepth 20000 in
theorem witness_BatonsComplete :
    let s := withA 0x240 0x36DF00
    let g := spad s (((0x370007, 0x80) : Nat × Byte) :: (0x378007, 0x80) :: zeroRec 0x380000 ++ zeroRec 0x480000)
    let m := spad s (((0x378007, 0x80) : Nat × Byte) :: zeroRec 0x800000 ++ zeroRec (0x800000 + 0x480000))
    let alone : State := { m with heatFen := 2 }
    ready s r0 ∧ (s.runner r0).passing = false ∧ s.dataOk r0 0x36DF00 256 ∧ s.MemOk ∧ (s.runner r0).stores = [] ∧ (s.runner r0).frame = [] ∧ (s.runner r0).late = none ∧ (s.runner r0).ring = none ∧ s.memUp = [] ∧ s.heatUp 1 = true
      ∧ (s.dirAt 0 0x378000).getLsbD 63 = false ∧ (s.dirAt 0 0x378000).getLsbD 62 = false ∧ ready g r0 ∧ g.MemOk ∧ (g.dirAt 0 0x378000).getLsbD 63 = true ∧ recordGood (g.bytesAt 0 0x380000 256) = true ∧ (g.dirAt 0 0x370000).getLsbD 63 = true
      ∧ recordGood (g.bytesAt 0 0x480000 256) = true ∧ ready m r0 ∧ m.MemOk ∧ (m.dirAt 0 0x378000).getLsbD 63 = true ∧ recordGood (m.bytesAt 0 0x380000 256) = false ∧ recordGood (m.bytesAt 1 0x480000 256) = true
      ∧ ready alone r0 ∧ alone.heatUp 1 = false := by and_intros <;> first | decide +kernel | exact ok (by decide +kernel) | exact memOk (by decide +kernel)
theorem witness_MailboxComplete :
    let s (x : Pacer) : State := { withA 0x260 15 with pacers := [(15, { x with started := true })] }
    ready (s {}) r0 ∧ (s {}).fuses.variant.full = true ∧ ((s {}).operand r0 0x260).toNat ≤ 15 ∧ 15 < ((withA 0x260 16).operand r0 0x260).toNat ∧ 8 ≤ ((s { inq := List.replicate 8 0 }).pacer 15).inq.length ∧ ((s {}).pacer 15).outq = []
      ∧ ready (s { wait := .take }) r0 ∧ ((s { wait := .take }).pacer 15).inq = [] ∧ ready (s { outq := [1] }) r0 ∧ ((s { outq := [1] }).pacer 15).wait ≠ .give ∧ ((s { wait := .give, outq := [1, 2] }).pacer 15).outq = 1 :: [2] := by and_intros <;> first | decide +kernel | exact ok (by decide +kernel) | exact memOk (by decide +kernel)
theorem witness_PredictionAndReturnStackComplete :
    let s (c : Reg) (n : Nat) : State := { busy { rs := List.replicate n 7 } with regs := [held 0x100 0x100 c] }
    let ctl (c : Reg) := (((s c 16).beginWord r0).runner r0).ctlEff.getLsbD 2
    ready (s 4 16) r0 ∧ ctl 4 = true ∧ ctl 0 = false ∧ ready (s 0 15) r0 ∧ ((s 0 15).runner r0).rs.length = 15 ∧ ((s 0 16).runner r0).rs[15]? = some 7 ∧ ready (s 0 0) r0 ∧ ((s 0 0).runner r0).rs = [] ∧ ((s 0 1).runner r0).rs = 7 :: [] := by and_intros <;> first | decide +kernel | exact ok (by decide +kernel) | exact memOk (by decide +kernel)
theorem witness_StringsComplete : let s := busy { pc := 3, rep := { act := true, count := 2, rend := 3, rbeg := 1 } }
    ready s r0 ∧ (StrKind.copy, Instr.strCopy r0) ∈ [(StrKind.copy, Instr.strCopy r0)] ∧ (s.runner r0).pc = (s.runner r0).rep.rend := by and_intros <;> first | decide +kernel | exact ok (by decide +kernel) | exact memOk (by decide +kernel)
theorem witness_JumpsComplete :
    let s := busy { g := [(63, 0x108)] }
    let d (c : Reg) : State := { busy { rs := List.replicate 16 7, rep := { act := true, count := 1, rend := 9, rbeg := 1 } } with regs := [held 0x100 0x100 c] }
    ready s r0 ∧ s.dataOk r0 (0x108 - 8) 8 ∧ s.dataOk r0 0x108 8 ∧ (s.runner r0).stores.length < 8 ∧ s.plainRead r0 0x108 8 ∧ (s.runner r0).rs.length < 16 ∧ ready (d 4) r0 ∧ ((d 4).reg 0x100 0x100).getLsbD 2 = true
      ∧ ((d 0).reg 0x100 0x100).getLsbD 2 = false ∧ ((d 4).runner r0).rs.length = 16 ∧ ((d 4).runner r0).stallAt = none := by and_intros <;> first | decide +kernel | exact ok (by decide +kernel) | exact memOk (by decide +kernel)
theorem witness_CallsAndReturnsComplete :
    let s := busy { cust := false, gates := [(3, 0x8050)], entry := [(7, 0x8040)], fspS := 0x1000, bankS := { busy := true } }
    ready s r0 ∧ tget 0 (s.runner r0).entry 7 = 0x8040 ∧ tget 0 (s.runner r0).gates 3 = 0x8050 ∧ (s.runner r0).bankC.busy = false ∧ (s.runner r0).bankS.busy = true
      ∧ s.dataOk r0 0x1000 64 ∧ s.plainRead r0 0x1000 64 ∧ (s.runner r0).frame = [] ∧ s.chainSource r0 = none ∧ (s.wordAt r0 0x1000).getLsbD 13 = (s.runner r0).cust := by and_intros <;> first | decide +kernel | exact ok (by decide +kernel) | exact memOk (by decide +kernel)
-- slot 1's guard code 2 is false, slot 0's 0xA true: the word passes every check; its parity copy does not
theorem witness_WordsComplete :
    let s (x : Runner) := fetched byteMove x
    let p : State := { s { tries := 1, failPar := true } with cwords := [(0, byteMove)] }
    (s {}).TablesOk ∧ (s {}).canStep r0 = true ∧ (s {}).throttled r0 = false ∧ ((s {}).runner r0).fetched 0 = some byteMove ∧ 0 < ((s {}).cstore 0).count ∧ parityOk byteMove = true ∧ byteMove.toNat / 2 ^ 159 % 2 = 0 ∧ byteMove.toNat / 2 ^ 156 % 4 < 3
      ∧ byteMove.toNat / 2 ^ 154 % 4 = 0 ∧ byteMove.toNat / 2 ^ 149 % 8 = 0 ∧ byteMove.toNat / 2 ^ 143 % 64 < 24 ∧ byteMove.toNat / 2 ^ 28 % 16 = 0xA ∧ byteMove.toNat / 2 ^ 60 % 16 = 2 ∧ byteMove.toNat / 2 ^ 64 % 2 ^ 28 = 0
      ∧ twf 0 ((s {}).runner r0).g = true ∧ ((s {}).runner r0).ops = [] ∧ (s { tries := 2 }).TablesOk ∧ (s { tries := 2 }).canStep r0 = true ∧ ((s { tries := 2 }).runner r0).failPar = false ∧ (s { resFail := true }).canStep r0 = true
      ∧ parityOk (byteMove ^^^ 1) = false ∧ p.TablesOk ∧ p.canStep r0 = true ∧ (p.lineWords 0 0)[0]? = some byteMove ∧ (p.runner r0).injPar = false ∧ p.fenceOf 0 0 = 0
      ∧ State.fenceOf { p with cstores := [(0, { valid := true, count := 4, fence := [(0, { state := 1, line := 0 })] })] } 0 0 = 1 := by and_intros <;> first | decide +kernel | exact ok (by decide +kernel) | exact memOk (by decide +kernel)
theorem witness_TrapsComplete :
    let w := busy { pendW := some { code := 9 }, fspC := 0x580040 }
    let d (b v z : Bool) := busy { pendBat := b, pendV := v, pendDZ := z, fspC := 0x580040 }
    w.TablesOk ∧ w.ridPresent r0 = true ∧ w.mode ≠ .quiesce ∧ (w.runner r0).run = .running ∧ (w.runner r0).pendM = none ∧ (w.runner r0).frame = [] ∧ (w.runner r0).pendW = some { code := 9 }
      ∧ (d true true true).TablesOk ∧ ((d true true true).runner r0).atBoundary = true ∧ ((d true true true).runner r0).pendBat = true ∧ (d false true true).TablesOk ∧ ((d false true true).runner r0).pendV = true
      ∧ (d false false true).TablesOk ∧ ((d false false true).runner r0).pendDZ = true ∧ interrupted.TablesOk ∧ interrupted.ridPresent r0 = true ∧ (interrupted.runner r0).cust = false ∧ interrupted.intrSource r0 = some (0xC0, 5)
      ∧ State.intrSource (busy { cust := false }) r0 = none := by and_intros <;> first | decide +kernel | exact ok (by decide +kernel) | exact memOk (by decide +kernel)
theorem witness_MachineChecksComplete :
    let s := busy { pendM := some 0x30, ring := some 5 }
    s.TablesOk ∧ s.ridPresent r0 = true ∧ s.mode ≠ .quiesce ∧ r0.wf = true ∧ (s.runner r0).pendM = some 0x30 ∧ (s.runner r0).run = .running ∧ (s.runner r0).ring = some 5 ∧ ((busy {}).runner r0).pendM = none := by and_intros <;> first | decide +kernel | exact ok (by decide +kernel) | exact memOk (by decide +kernel)
theorem witness_ResultsComplete :
    let o : Op := { unit := .alu0, res := [(0x9C, { val := 3 })] }
    let m : Op := { unit := .mul, res := [(0xFC, {})], kind := .mac 2 false }
    let w : Op := { unit := .tim, res := [(0x23D, {})], kind := .wait 5 }
    let s := busy { ops := [m, o, w], injRes := true }
    s.TablesOk ∧ s.ridPresent r0 = true ∧ s.mode ≠ .quiesce ∧ (s.runner r0).ops = [m] ++ o :: [w] ∧ (∀ e ∈ [m], e.unit ≠ .alu0) ∧ (s.runner r0).injRes = true ∧ ((busy { ops := [o] }).runner r0).injRes = false ∧ (s.runner r0).ops = [] ++ m :: [o, w] := by and_intros <;> first | decide +kernel | exact ok (by decide +kernel) | exact memOk (by decide +kernel)
theorem witness_DrainsComplete :
    let e : StoreEnt := { addr := 0x580000, size := 8, data := 1 }
    let s := busy { stores := [e], frame := [(0x20, 3)], frameOld := 1, resv := some (1, 0) }
    let wiped (x : Runner) : State := { busy x with memUp := [(0, { wipe := true })] }
    let f := busy { frame := [(0x20, 3)], ops := [{ unit := .lsu0, res := [(0x13C, {})], kind := .load 0x28 8 }, { unit := .ext 0, res := [(0x600, {})], kind := .ext 0x600 }] }
    s.TablesOk ∧ s.ridPresent r0 = true ∧ s.mode ≠ .quiesce ∧ (s.runner r0).stores = [e] ∧ 0 < (s.runner r0).frameOld ∧ (s.up 0).wipe = false ∧ (s.runner r0).resv = some (1, 0) ∧ (wiped { stores := [e] }).TablesOk ∧ inSecure 0 e.addr = true
      ∧ ((wiped { stores := [e] }).up 0).wipe = true ∧ inSecure 0 0x580040 = true ∧ f.TablesOk ∧ (f.runner r0).frame ≠ [] ∧ (f.runner r0).frameOld = 0 ∧ (∀ e ∈ (f.runner r0).frame, inSecure 0 e.1 = false)
      ∧ (f.runner r0).ops.head?.map (·.kind) = some (.load 0x28 8) ∧ (∀ k < 8, bufByte (f.runner r0).writes (0x28 + k) = none) ∧ (f.runner r0).ops.any (fun o => o.kind == .ext 0x600) = true ∧ (∀ o ∈ (f.runner r0).ops, o.unit ≠ .seq) ∧ served.heatPresent 15 = true := by and_intros <;> first | decide +kernel | exact ok (by decide +kernel) | exact memOk (by decide +kernel)
/-- R121: slot 0 moves extension port 0x600 to G1; the runner waits for it, and has waited 25,000 CLK_R cycles. -/
def extMove : MoveWord := sealed (0x600 * 2 ^ 16 + 2 ^ 5 + 8 * 2 ^ 28 * 2 ^ 32 + empty4)
theorem witness_DrainsComplete_ext : let s : State := { fetched extMove { stallAt := some 0, ops := [{ unit := .ext 0, res := [(0x600, {})], kind := .ext 0x600 }] } with clkS := 12500 }
    s.TablesOk ∧ s.canStep r0 = true ∧ (s.runner r0).fetched 0 = some extMove ∧ extMove.toNat / 2 ^ 154 % 4 = 0 ∧ extMove.toNat / 2 ^ 28 % 16 = 0 ∧ extMove.toNat / 2 ^ 16 % 2048 = 0x600 ∧ (s.runner r0).stallAt = some 0 := by and_intros <;> first | decide +kernel | exact ok (by decide +kernel) | exact memOk (by decide +kernel)
theorem witness_HostResponsesComplete :
    let e : HauReq := { id := 2, load := true, size := 4, addr := 0x1004 }
    let o : Op := { unit := .hau, res := [(0x17C, {})], kind := .host 2 }
    let w : HauReq := { id := 2, load := false, size := 8, addr := 0x1000 }
    let q : Out := .rdNc 0 true r0 2 0x1000 8
    let s : State := { linked { hau := [e], ops := [o] } with out := [q] }
    let t (x : HauReq) := busy { hau := [x], ops := [{ unit := .hau, res := [(0x17D, {})], kind := .fence [1] false }] }
    s.TablesOk ∧ s.ridPresent r0 = true ∧ s.mode ≠ .quiesce ∧ (s.runner r0).hau.find? (fun e => e.id == 2) = some e ∧ s.hauCached r0 2 = false ∧ (s.runner r0).ops = [] ++ o :: [] ∧ s.out = [] ++ q :: [] ∧ s.linkLive = true ∧ e.addr % e.size = 0
      ∧ (t w).TablesOk ∧ ((t w).runner r0).hau.find? (fun e => e.id == 2) = some w ∧ (t w).hauCached r0 2 = false ∧ (t w).linkLive = false ∧ ((t { w with dead := true }).runner r0).hau.find? (fun e => e.id == 2) = some { w with dead := true } := by and_intros <;> first | decide +kernel | exact ok (by decide +kernel) | exact memOk (by decide +kernel)
theorem witness_TimeEventsComplete :
    let s (k : StrKind) (n : Word) := busy { hold := some { kind := k, rpc := 0, npc := 1 }, oport := [(0x181, 0x5FFFF8), (0x182, n)] }
    let m : LateMirror := { heat := 15, slot := 4095, bytes := List.replicate 256 0, dir := 1 }
    let t := busy { tim0 := some 0, tim1 := some 1, wdog := some 0, ops := [{ unit := .tim, res := [(0x23D, {})], kind := .wait 0 }] }
    let b := busy { ops := [{ unit := .bat, res := [(0x25C, {})], kind := .baton }] }
    let l := busy { late := some m }
    let c := s .copy 1
    c.TablesOk ∧ c.ridPresent r0 = true ∧ c.mode ≠ .quiesce ∧ c.throttled r0 = false ∧ State.throttled { c with arb := { throt := [(0, 8)] } } r0 = true ∧ (c.runner r0).hold = some { kind := .copy, rpc := 0, npc := 1 } ∧ (c.runner r0).pendW = none
      ∧ (c.runner r0).op 0x182 ≠ 0 ∧ (c.runner r0).stores.length < 8 ∧ c.dataOk r0 0 8 ∧ c.plainRead r0 0 8 ∧ c.dataOk r0 0x5FFFF8 8 ∧ c.plainRead r0 0x5FFFF8 8
      ∧ ((s .fill 0).runner r0).op 0x182 = 0 ∧ (s .fill 0).TablesOk ∧ t.TablesOk ∧ (t.runner r0).tim0 = some 0 ∧ (t.runner r0).tim1 = some 1 ∧ (t.runner r0).wdog = some 0
      ∧ (t.runner r0).ops = [] ++ { unit := .tim, res := [(0x23D, {})], kind := .wait 0 } :: [] ∧ b.TablesOk ∧ (b.runner r0).ops = [{ unit := .bat, res := [(0x25C, {})], kind := .baton }]
      ∧ l.TablesOk ∧ l.MemOk ∧ (l.runner r0).late = some m ∧ (l.runner r0).ops = [] ∧ m.heat < 16 ∧ m.slot < 4096 ∧ m.bytes.length = 256 := by and_intros <;> first | decide +kernel | exact ok (by decide +kernel) | exact memOk (by decide +kernel)
theorem witness_PresenceIsAsFused : served.TablesOk ∧ served.mode ≠ .quiesce ∧ pageType served.fuses.variant 0x2FF = none ∧ pageType Variant.tq9_4h 0x14 = none ∧ (pageType Variant.tq9_4h 0x13).isSome = true :=
  ⟨ok (by decide), by decide, by decide, by decide, by decide⟩
theorem writes : served.TablesOk ∧ served.takesWrites host ∧ 0 < served.nHeats ∧ 15 < served.nHeats ∧ State.takesWrites { served with life := 3 } .tap := by and_intros <;> first | decide +kernel | exact ok (by decide +kernel) | exact memOk (by decide +kernel)
theorem witness_RegisterWritesComplete : State.takesWrites { served with life := 0 } .tap ∧ 0xFFC < 0x1000 ∧ pageType served.fuses.variant 0x2FF = none ∧ Origin.cust (.link 0 false) = false ∧ served.heatPresent (0x1F - 0x10) = true
    ∧ served.heatPresent (0x3F - 0x30) = true ∧ served.portPresent (0x6F - 0x60) = true := by and_intros <;> first | decide +kernel | exact ok (by decide +kernel) | exact memOk (by decide +kernel)
theorem witness_PageReadsComplete : served.mode ≠ .quiesce ∧ State.arb { served with arb := { res := [{ ctag := 0, code := 5, ring := 5 }] } } = { res := { ctag := 0, code := 5, ring := 5 } :: [] } ∧ served.arb.res = [] ∧ 0x1FFFFC < 0x200000 ∧ 0x1FFFFC % 4 = 0
    ∧ pageType served.fuses.variant (0x1FFFFC / 4096) = none ∧ served.life ≠ 0 ∧ served.life ≠ 3 ∧ TapOp.idcode ∈ [TapOp.bypass, .idcode] := by and_intros <;> first | decide +kernel | exact ok (by decide +kernel) | exact memOk (by decide +kernel)
-- the last 8 bytes of heat 15's window; ring 5 holds two entries of the sixteen it may hold, so that prod may reach cons + 16 and no more
theorem witness_WindowComplete :
    let w : State := { served with memUp := [(15, { wipe := true })] }
    let r : State := ring5 { cons := 1, prod := 3 }
    served.TablesOk ∧ served.MemOk ∧ served.mode ≠ .quiesce ∧ (0xDFFFFF8 - 0x8000000) / 0x600000 = 15 ∧ 0xDFFFFF8 % 8 = 0 ∧ served.heatPresent 15 = true ∧ (0xDFFFFF8 - 0x8000000) % 0x600000 = 0x5FFFF8 ∧ (served.up 15).wipe = false ∧ (served.up 15).ecc = []
      ∧ w.TablesOk ∧ (w.up 15).wipe = true ∧ (0xDF80000 - 0x8000000) % 0x600000 = 0x580000 ∧ (0xDF7FFF8 - 0x8000000) % 0x600000 < 0x580000 ∧ State.mode { served with mode := .quiesce } = .quiesce ∧ served.qpend = false
      ∧ (0x2000028 - 0x2000000) / 8 = 5 ∧ (0x50011 : Nat) / 2 ^ 16 = 5 ∧ (0x60011 : Nat) / 2 ^ 16 ≠ 5 ∧ r.TablesOk ∧ (r.ring 5).en = true ∧ (r.ring 5).lsz = 0
      ∧ 16 < ((0x12 : BitVec 16) - 1).toNat ∧ ((0x11 : BitVec 16) - 1).toNat ≤ 16 ∧ ((2 : BitVec 16) - 1).toNat < ((3 : BitVec 16) - 1).toNat ∧ (served.ring 5).en = false := by and_intros <;> first | decide +kernel | exact ok (by decide +kernel) | exact memOk (by decide +kernel)
theorem witness_RunnerControlsComplete :
    let s (x : Runner) : State := { served with runners := [(0, x)], cstores := [(0, { valid := true, count := 4 })], heatFen := 2 }
    let u : State := { s { run := .handoff } with memUp := [(0, { wipe := true, restart := true })] }
    (s { run := .handoff }).TablesOk ∧ (s { run := .handoff }).takesWrites host ∧ 1 < (s {}).nHeats ∧ ((s {}).cstore 0).valid = true ∧ (s {}).heatFen.getLsbD 0 = false ∧ (s {}).lorph 0 = 0 ∧ ((s { run := .handoff }).runner r0).run = .handoff
      ∧ ((s {}).up 0).restart = false ∧ u.TablesOk ∧ u.takesWrites host ∧ (u.up 0).restart = true ∧ ((s { starting := true }).runner r0).starting = true
      ∧ (s { run := .running, stallAt := some 0 }).TablesOk ∧ ((s { run := .running, stallAt := some 0 }).runner r0).stallAt.isSome = true ∧ ((s { run := .running }).runner r0).stallAt = none ∧ ((s { run := .running }).runner r0).tries = 0 ∧ ((s {}).cstore 1).valid = false
      ∧ ((s { fenced := true }).runner r0).fenced = true ∧ ((s { run := .running }).runner r0).fenced = false ∧ (s {}).heatFen.getLsbD 1 = true ∧ (s {}).morph 0 = 0 ∧ r0.wf = true ∧ (s {}).MemOk ∧ 1 ^^^ 1 = 0
      ∧ State.morph { s {} with rings := [(5, { en := true, placed := true, heat := 0 })], regs := [held 0x10 0x144 0x10000] } (1 ^^^ 1) ≠ 0 ∧ twf {} ((s {}).slice 0).rp = true := by and_intros <;> first | decide +kernel | exact ok (by decide +kernel) | exact memOk (by decide +kernel)
theorem leNat_leBytes : ∀ n x, leNat (leBytes n x) = x % 256 ^ n
  | 0, x => by simp [leNat, leBytes, Nat.mod_one]
  | n + 1, x => by
    rw [leBytes, leNat, leNat_leBytes n, Nat.pow_succ', Nat.mod_mul, BitVec.toNat_ofNat]
theorem leBytes_length : ∀ n x, (leBytes n x).length = n
  | 0, _ => rfl
  | n + 1, x => by rw [leBytes, List.length_cons, leBytes_length n]
/-- A header of one segment of four words with the digest of the segment in its place. -/
def oneSegment (d : BitVec 384) : List Byte := ((List.range 256).map fun k => if k = 0x10 then 4 else if k = 0x14 then 1 else 0) ++ (leBytes 48 d.toNat).reverse
set_option exponentiation.threshold 512 in
theorem oneSegment_digest (d : BitVec 384) : digestOf (oneSegment d) 0x100 = d := by
  have h : bslice (oneSegment d) 0x100 48 = (leBytes 48 d.toNat).reverse := by
    unfold bslice oneSegment
    rw [List.drop_left' (by simp), List.take_of_length_le (by simp [leBytes_length])]
  unfold digestOf
  rw [h, List.reverse_reverse, leNat_leBytes]
  apply BitVec.eq_of_toNat_eq
  rw [BitVec.toNat_ofNat, show (256 : Nat) ^ 48 = 2 ^ 384 from rfl, Nat.mod_mod]
  exact Nat.mod_eq_of_lt d.isLt
/-- What a state of the load of `oneSegment` over four words of zeros holds. -/
def loading (abort : Bool) : State :=
  { served with img := { state := 1, hdr := oneSegment (Config.sha384 ((List.replicate 128 (0 : Byte)).take (32 * 4))), heats := 1, abort := abort } }
theorem witness_ImageCommandsComplete :
    let seg : List Byte := List.replicate 128 0
    let s := loading false
    let m := s.img
    served.TablesOk ∧ served.takesWrites host ∧ Origin.cust host = true ∧ s.TablesOk ∧ s.MemOk ∧ s.mode ≠ .quiesce ∧ s.img.state = 1 ∧ s.img.hdr ≠ [] ∧ s.img.paused = false ∧ s.img.abort = false ∧ (loading true).img.abort = true
      ∧ min 2048 (bnat m.hdr 0x10 4 - 2048 * m.seg) = 4 ∧ Config.sha384 (seg.take (32 * 4)) = digestOf m.hdr (0x100 + 48 * m.seg) ∧ (∀ j < 4, segWordOk seg j = true) ∧ m.seg < 16 ∧ bnat m.hdr 0x14 4 ≤ m.seg + 1 := by
  refine ⟨writes.1, writes.2.1, by decide, ok rfl, memOk (by decide), by decide, rfl, ?_, rfl, rfl, rfl, ?_, ?_, by decide, by decide, ?_⟩
  · simp [loading, oneSegment]
  · exact congrArg (fun n => min 2048 (n - 2048 * 0)) (show bnat (oneSegment _) 0x10 4 = 4 from rfl)
  · exact (oneSegment_digest _).symm
  · exact le_of_eq (show bnat (oneSegment _) 0x14 4 = 1 from rfl)
-- a running target; none; a header with nothing in it; reloads that wait, and one that runs inside a load
theorem witness_ImageCommandsComplete_ends :
    let m (h : Bool) : State := { busy {} with linkUp := 1, regs := [held 6 0x104 (if h then 1 else 2)] }
    let q : State := { served with img := { rq := [(0, 1)] } }
    let w : State := { served with img := { state := 1, paused := true, rq := [(0, 1)] } }
    (m true).TablesOk ∧ (m true).takesWrites host ∧ (m true).img.state = 0 ∧ (m true).img.rq = [] ∧ (m true).mode ≠ .coldstart ∧ (BitVec.ofNat 16 (((m true).reg 6 0x104).toNat % 2 ^ (m true).nHeats)).getLsbD 0 = true
      ∧ ((m true).runner r0).fenced = false ∧ ((m true).runner r0).run = .running ∧ (m false).TablesOk ∧ (m false).imgFree 2 false = true ∧ (m false).linkLive = true ∧ (m false).imgCheck 2 false { resp := .ok, bytes := [] } = 2 ∧ served.linkLive = false
      ∧ q.img.state ≠ 1 ∧ q.img.rq = (0, 1) :: [] ∧ w.img.paused = true ∧ w.img.rq = (0, 1) :: [] ∧ 31 < 32 := by and_intros <;> first | decide +kernel | exact ok (by decide +kernel) | exact memOk (by decide +kernel)
/-- A header of one segment of four words for a heat: magic, format 1, class 1, security version 0, key slot 0, lifecycle FIELD. -/
def goodHeader : List Byte :=
  [0x4F, 0x42, 0x44, 0x58, 1, 0, 1, 0, 0, 0, 0, 0, 0, 4, 0, 0, 4, 0, 0, 0, 1, 0, 0, 0] ++ List.replicate 4072 0
-- R190: what no fixed header can show: with the key's digest in its fuse slot and a signature that the check of R189 accepts, every check passes
theorem witness_ImageCommandsComplete_passes (sig : Config.ecdsaP384 (bslice goodHeader 0x80 97) (Config.sha384 (bslice goodHeader 0 0x400)) (bslice goodHeader 0x400 96) = true) :
    let s : State := { served with fuses := { key0 := { digest := Config.sha384 (bslice goodHeader 0x80 97) } } }
    s.TablesOk ∧ s.imgCheck 1 false { resp := .ok, bytes := goodHeader } = 0 := by
  refine ⟨ok rfl, ?_⟩
  unfold State.imgCheck
  rw [if_neg (by decide +kernel), if_neg (by decide), if_neg (by decide +kernel), if_neg (fun h => h rfl), if_neg (by rw [sig]; decide), if_neg (by decide +kernel), if_neg (by decide +kernel), if_neg (by decide +kernel)]
-- the second line, of two, holds a word of the wrong parity; FENCE registers 1 to 3 are taken
theorem witness_ControlStoreUpkeepComplete :
    let s (f : List (Nat × CFence)) (x : Runner) : State :=
      { busy x with cstores := [(0, { valid := true, count := 8, line := 1, fence := f })], regs := [(1024 * storePage 0 + storeOff 0 / 4, 1)], cwords := [(5, 1)], img := { rq := [(0, 1)] }, linkUp := 1 }
    let a := s [] { pc := 6 }
    let c : CFence := { state := 2, line := 7 }
    a.TablesOk ∧ a.MemOk ∧ a.mode ≠ .quiesce ∧ a.ridPresent r0 = true ∧ a.heatPresent 0 = true ∧ (a.runner r0).ahead = [] ∧ (a.runner r0).fetched 6 = none ∧ a.fenceOf 0 (6 / 4) = 0 ∧ (a.runner r0).injPar = false
      ∧ (s [(0, { state := 1, line := 1 })] {}).fenceOf 0 1 = 1 ∧ (s [(3, { state := 2, line := 1 })] {}).fenceOf 0 1 = 2 ∧ (((s [] { pc := 6, fbuf := [(1, [0, 0, 0, 0])] }).runner r0).fetched 6).isSome = true
      ∧ (a.reg (storePage 0) (storeOff 0)).getLsbD 0 = true ∧ (a.cstore 0).valid = true ∧ (a.cstore 0).line = 1 ∧ parityOk (a.cword 0 (4 * 1 + 1)) = false ∧ (∀ j < 4, parityOk (a.cword 0 (4 * 0 + j)) = true)
      ∧ (tget {} (a.cstore 0).fence 0).state = 0 ∧ (∀ j < 3, (tget {} ((s [(0, c), (1, c), (2, c)] {}).cstore 0).fence j).state ≠ 0) ∧ (s [(0, c), (1, c), (2, c)] {}).fenceOf 0 1 = 0
      ∧ (∀ k < 4, (tget {} ((s [(0, c), (1, c), (2, c), (3, c)] {}).cstore 0).fence k).state ≠ 0) ∧ a.img.rq = (0, 1) :: [] ∧ a.img.state ≠ 1 ∧ a.linkLive = true ∧ (served.cstore 16).valid = false := by and_intros <;> first | decide +kernel | exact ok (by decide +kernel) | exact memOk (by decide +kernel)
theorem witness_RingTableComplete :
    let s (x : Ring) (lo : Reg) : State := { withRegs [held 0xC 0x100 32767] with rings := [(32767, x)], lohold := [held 0xC 0x108 lo] }
    let w : Ring := { en := true, clrEn := true, held := true }
    (s { cls := 2 } 8).TablesOk ∧ (s { cls := 2 } 8).takesWrites host ∧ (s { cls := 2 } 8).rfld 0xC 0x100 14 0 = 32767 ∧ Origin.cust host = true ∧ ((s { cls := 2 } 8).ring 32767).en = false ∧ ((s { cls := 2 } 8).loHalf 0xC 0x108 0).getLsbD 3 = true
      ∧ (s { en := true } 0).TablesOk ∧ (s { en := true } 0).takesWrites host ∧ ((s { en := true } 0).ring 32767).en = true ∧ ((s { en := true } 0).loHalf 0xC 0x108 0).getLsbD 3 = false
      ∧ putBit ((s { en := true } 0).loHalf 0xC 0x108 0) 3 false = putBit (BitVec.ofNat 32 ((s { en := true } 0).ringWord 32767 0).toNat) 3 false ∧ (0 : Reg) = BitVec.ofNat 32 (((s { en := true } 0).ringWord 32767 0).toNat / 2 ^ 32)
      ∧ (s w 0).TablesOk ∧ ((s w 0).ring 32767).clrEn = true := by and_intros <;> first | decide +kernel | exact ok (by decide +kernel) | exact memOk (by decide +kernel)
-- two rings wait in class 2, whose credit is one and at which ptr stands
theorem witness_HandoutComplete :
    let o : Op := { unit := .ring, res := [(0x1FC, {}), (0x1FD, {})], kind := .pop 4 }
    let s : State := { ring5 {} with queues := [(2, [5, 6])], runners := [(0, { run := .running, ops := [o] })] }
    s.TablesOk ∧ twf (1 : Nat) s.credit = true ∧ twf (2 : Nat) s.qptr = true ∧ twf [] s.queues = true ∧ s.heatUp 0 = true ∧ s.qpend = false ∧ s.pfw = false ∧ s.mode = .service ∧ (s.runner r0).popMask = some 4 ∧ (s.chooseRing 0 4).1 = some 5
      ∧ s.creditOf 0 2 = 1 ∧ s.ptrOf 0 = 2 ∧ (4 : BitVec 8).getLsbD 0 = false ∧ (4 : BitVec 8).getLsbD 1 = false ∧ (4 : BitVec 8).getLsbD 2 = true ∧ s.queue 0 2 ≠ [] ∧ (s.runner r0).ops = [o]
      ∧ twf {} (s.runner r0).qport = true ∧ State.creditOf { s with credit := [(2, 0)] } 0 2 = 0 ∧ 0 < fld (s.reg 0xC (0x110 + 2 / 6 * 4)) (8 * ((2 - 2) % 4) + 7) (8 * ((2 - 2) % 4)) ∧ (∀ j < 9, j ≠ 0 → (s.runner (.heat 0 j)).popMask = none)
      ∧ State.queue { s with queues := [(0, [7])] } 0 0 ≠ [] ∧ (3 : BitVec 8).getLsbD 0 = true ∧ served.queue 0 0 = []
      ∧ ((busy {}).runner r0).popping = false ∧ ((busy {}).runner r0).ring = none ∧ (busy {}).intrPending r0 = false ∧ (busy {}).executes r0 := by and_intros <;> first | decide +kernel | exact ok (by decide +kernel) | exact memOk (by decide +kernel)
/-- The Arbiter off its fallback, with one command for ring 5. -/
def placing (c : PCmd) (x : Ring) : State := { served with arb := { fb := false, cmds := [c] }, rings := [(5, x)] }
-- the checks of R281 in order: code 0, then codes 1, 5 and 6; four migrations under way leave no room for a fifth
theorem witness_PlacementCommandsComplete :
    let p (x : Ring) := placing { mig := false, ctag := 1, dest := 15, ring := 5 } x
    let g (x : Ring) := placing { mig := true, ctag := 1, dest := 1, ring := 5 } x
    let e := p { en := true }
    let f := g { en := true, placed := true }
    let full : State := { served with arb := { fb := false, cmds := List.replicate 16 { mig := false, ctag := 0, dest := 0, ring := 0 } } }
    let four : State := { e with rings := [(1, { migTo := some (1, 1) }), (2, { migTo := some (1, 2) }), (3, { migTo := some (1, 3) }), (4, { migTo := some (1, 4) })] }
    e.TablesOk ∧ e.mode ≠ .quiesce ∧ e.takesWrites host ∧ e.arb.fb = false ∧ e.arb.cmds.length < 16 ∧ e.arb.cmds ≠ [] ∧ e.migsOpen < 4 ∧ (e.ring 5).migTo = none ∧ e.arb.res.length < 16 ∧ ¬four.migsOpen < 4
      ∧ e.placeCheck false 5 15 = 0 ∧ (p {}).placeCheck false 5 15 = 1 ∧ (p { en := true, aff := 0x7FFF }).placeCheck false 5 15 = 5 ∧ (p { en := true, world := true }).placeCheck false 5 15 = 6
      ∧ f.TablesOk ∧ f.placeCheck true 5 1 = 0 ∧ (f.ring 5).held = false ∧ (f.ring 5).fzRun = false ∧ (f.ring 5).fzHeat = false ∧ ((g { en := true, placed := true, held := true }).ring 5).held = true ∧ (g { en := true, placed := true, heat := 1 }).placeCheck true 5 1 = 1
      ∧ full.TablesOk ∧ full.takesWrites host ∧ 16 ≤ full.arb.cmds.length ∧ served.arb.fb = true := by and_intros <;> first | decide +kernel | exact ok (by decide +kernel) | exact memOk (by decide +kernel)
theorem witness_PlacementCommandsComplete_moves :
    let mv : Ring := { en := true, placed := true, frozen := true, migTo := some (1, 7), migMv := true }
    let g := placing { mig := true, ctag := 1, dest := 1, ring := 5 } mv
    let w (a : BitVec 16) : State := { served with rings := [(5, { en := true, aff := a })] }
    g.TablesOk ∧ (g.ring 5).migTo = some (1, 7) ∧ (g.ring 5).migMv = true ∧ (g.ring 5).frozen = true ∧ (g.ring 5).fzRun = false ∧ (g.ring 5).fzHeat = false ∧ g.passPending 5 = false ∧ g.placeCheck true 5 1 = 0
      ∧ g.arb.fb = false ∧ State.fallbackDue { g with arbRun := { fenced := true } } 4 = true ∧ (w 0xFFFF).arb.fb = true ∧ ((w 0xFFFF).ring 5).en = true ∧ ((w 0xFFFF).ring 5).placed = false
      ∧ State.destCheck (w 0xFFFF) 5 (served.smap 5 % 16) = 0 ∧ (∀ i < 16, State.destCheck (w 0) 5 ((served.smap 5 + i) % 16) ≠ 0) := by and_intros <;> first | decide +kernel | exact ok (by decide +kernel) | exact memOk (by decide +kernel)
-- a pool of four blocks of 256 bytes in heat 0; the same pool past the end of its memory is refused
theorem witness_ArbiterRegistersComplete :
    served.TablesOk ∧ served.MemOk ∧ served.takesWrites host ∧ twf (0, 0) served.arb.pools = true ∧ twf 0 served.arb.paths = true ∧ twf 0 served.arb.temp = true ∧ twf 0 served.arb.throt = true ∧ Origin.cust host = true
      ∧ served.poolBad 63 (0x02000004, 0x36D) = false ∧ served.poolBad 63 (0x02000011, 0x36D) = true ∧ served.arbRun.run ≠ .running ∧ State.takesWrites { served with arbRun := { run := .running } } host
      ∧ served.lap.toNat % 1250 = 0 ∧ served.arb.winAt ≠ some served.clkS := by and_intros <;> first | decide +kernel | exact ok (by decide +kernel) | exact memOk (by decide +kernel)
theorem witness_ThrottleFollowsTheTemperature : let s : State := { served with arb := { throt := [(0, 8)] }, lap := 1250 }
    s.TablesOk ∧ s.mode ≠ .quiesce ∧ twf 0 s.arb.throt = true ∧ (∀ h, tget 0 s.arb.throt h ≤ 8) ∧ s.lap.toNat % 1250 = 0 ∧ s.arb.winAt ≠ some s.clkS ∧ State.arb { s with arb := { winAt := some s.clkS } } = { winAt := some s.clkS } := by
  refine ⟨ok (by decide), by decide, by decide, fun h => ?_, by decide, by decide, by decide⟩
  simp only [tget]; split <;> simp_all
theorem witness_MemoryUpkeepComplete :
    let s (u : MemUp) : State := { withRegs [held 0x3F 0x100 1, held 0x3F 0x114 24575] with memUp := [(15, u)], runners := [(9 * 15, { starting := true })] }
    let w := 24575 * 32 + 31
    let r : State := { served with mstate := [(0, 2)], spads := [(0x378017, 0x80), (0x380200, 9)] }
    let z := s { wipe := true, restart := true }
    let e := s { ecc := [(w, .single)] }
    z.TablesOk ∧ z.MemOk ∧ z.mode ≠ .quiesce ∧ z.heatPresent 15 = true ∧ (z.reg 0x3F 0x100).getLsbD 0 = true ∧ z.rfld 0x3F 0x114 14 0 = 24575
      ∧ (z.up 15).wipe = true ∧ Rid.wf (.heat 15 0) = true ∧ (z.runner (.heat 15 0)).starting = true ∧ (served.up 15).wipe = false ∧ tget false ((s { ecc := [(7, .single)], held := [(7, true)] }).up 15).held 7 = true
      ∧ w / 32 = 24575 ∧ (e.up 15).ecc = [(w, .single)] ∧ (e.up 15).held = [] ∧ e.TablesOk ∧ (served.reg 0x30 0x100).getLsbD 0 = true ∧ State.rfld (withRegs [held 0x30 0x100 0]) 0x30 0x100 0 0 = 0
      ∧ r.TablesOk ∧ r.MemOk ∧ r.heatUp 0 = true ∧ r.mstateOf 0 = 2 ∧ (r.byteAt 0 (0x378000 + 8 * 2 + 7)).getLsbD 7 = true ∧ served.mstateOf 0 ≠ 2 := by and_intros <;> first | decide +kernel | exact ok (by decide +kernel) | exact memOk (by decide +kernel)
theorem witness_HeatCacheRegistersComplete :
    let s (c : Cache) : State := { withRegs [held 0x40 0x104 0x80] with caches := [(0, { c with init := false })], linkUp := 1, lohold := [held 0x40 0x108 0x00001007] }
    let a := s {}
    a.TablesOk ∧ a.takesWrites host ∧ 0 < a.nHeats ∧ (a.cache 0).lines.Pairwise (fun a b => a.1 < b.1) ∧ (a.reg 0x40 0x100).getLsbD 0 = true ∧ (a.cache 0).lfill = false ∧ (a.cache 0).draining = false ∧ (a.cache 0).rinv = false
      ∧ fld (a.loHalf 0x40 0x108 0) 2 0 = 7 ∧ lockedWay a 0 7 = true ∧ lockedWay a 0 6 = false ∧ a.linkLive = true ∧ (a.cache 0).find 0x10 = none ∧ (a.cache 0).fillOf 0x10 = none ∧ (∀ e ∈ (a.cache 0).lines, e.1 ≠ 8 * (0x10 % 512) + 7)
      ∧ ((s { fills := [{ line := 0x10, way := some 0, unique := false, kind := .demand }] }).cache 0).fillOf 0x10 ≠ none
      ∧ (s { lfill := true }).TablesOk ∧ ((s { lfill := true }).cache 0).lfill = true ∧ ((s { rinv := true }).cache 0).rinv = true ∧ ((s { draining := true }).cache 0).draining = true ∧ (withRegs [held 0x40 0x100 0]).rfld 0x40 0x100 0 0 = 0
      ∧ a.mode ≠ .factory ∧ fld (5 : Reg) 15 0 ≠ 0 ∧ State.takesWrites { served with mode := .factory } host ∧ fld (0x83000000 : Reg) 27 24 < 9 ∧ (0x83000000 : Reg).getLsbD 29 = false ∧ fld (0xA3000000 : Reg) 27 24 < 4
      ∧ (0xA3000000 : Reg).getLsbD 29 = true ∧ a.fuses.variant.full = true := by and_intros <;> first | decide +kernel | exact ok (by decide +kernel) | exact memOk (by decide +kernel)
theorem witness_HeatCacheEventsComplete :
    let f (k : FillKind) (l : Bool) (w : List Waiter) : Fill := { line := 0x10, way := some 7, unique := false, kind := k, locked := l, wait := w }
    let s (g : Fill) := cached { ops := [{ unit := .hau, res := [(0x17C, {})], kind := .host 0 }], hau := [{ id := 0, load := true, size := 8, addr := 0x1000 }] } { fills := [g], lfill := g.locked }
    let d := f .demand false [.hauLoad r0 0 0x1000 8]
    let w : State := { cached {} { wbs := [0x10, 0x11], draining := true } with linkUp := 1 }
    let l (f : List Fill) (x : Line) := cached {} { lines := [(0x80, x)], fills := f }
    (s d).TablesOk ∧ (s d).mode ≠ .quiesce ∧ 0 < served.nHeats ∧ (s d).ridPresent r0 = true ∧ r0.wf = true ∧ ((s d).cache 0).fillOf 0x10 = some d ∧ d.snooped = false ∧ d.way = some 7 ∧ d.kind = .demand
      ∧ ((s d).runner r0).ops = [{ unit := .hau, res := [(0x17C, {})], kind := .host 0 }] ∧ ((s d).runner r0).hau.find? (fun e => e.id == 0) = some { id := 0, load := true, size := 8, addr := 0x1000 }
      ∧ (served.cache 0).fillOf 0x10 = none ∧ (s d).linkLive = true ∧ (s (f .locked true [])).TablesOk ∧ ((s (f .locked true [])).cache 0).fillOf 0x10 = some (f .locked true []) ∧ (s (f (.stride 3) false [])).TablesOk
      ∧ w.TablesOk ∧ 0x10 ∈ (w.cache 0).wbs ∧ w.qpend = false ∧ (w.cache 0).draining = true
      ∧ (l [] { line := 0x10, dirty := true, data := 7 }).TablesOk ∧ ((l [] { line := 0x10, dirty := true, data := 7 }).cache 0).init = false
      ∧ ((l [] { line := 0x10, dirty := true, err := some .double }).cache 0).find (0x1000 / 256) = some (0x80, { line := 0x10, dirty := true, err := some .double })
      ∧ ((l [f .demand false []] { line := 0x10 }).cache 0).fillOf 0x10 ≠ none ∧ (∀ g < 16, g ≠ 0 → ((s d).cache g).init = true) := by and_intros <;> first | decide +kernel | exact ok (by decide +kernel) | exact memOk (by decide +kernel)
theorem witness_SourcesAndMessagesComplete :
    let s (x : Slice) (y : Runner) : State := { busy y with slices := [(0, x)] }
    let p : Slice := { prio := [(0xC0, 5)], pend := [(0xC0, true)] }
    let t : Op := { unit := .tim, res := [(0x23D, {})], kind := .wait 0 }
    let m (ids : List Nat) : State := { queue7 { acc := 1 } with runners := [(0, { run := .running, msgs := [{ queue := 7, data := 0x99, ids := ids }] })] }
    (s p {}).TablesOk ∧ (s p {}).mode ≠ .quiesce ∧ (s p {}).ridPresent r0 = true ∧ (s p {}).takesWrites host ∧ twf false ((s p {}).slice 0).pend = true ∧ twf {} ((s p {}).slice 0).rp = true ∧ twf false ((s p {}).slice 0).handP = true
      ∧ (s p {}).heatPresent 15 = true ∧ (s p {}).srcOk 15 0x40 = true ∧ 64 ≤ 0x40 ∧ srcLevel 15 0x80 = false ∧ srcHand 15 0x80 = false ∧ (s p {}).srcOk 15 0x80 = true ∧ (s p {}).srcOk 15 0xF0 = true ∧ srcHand 15 0xF0 = true
      ∧ ((List.range 192).any fun c => srcLevel 0 (64 + c) && (s p {}).srcOk 0 (64 + c)) = true ∧ (s p {}).deliverable r0 (((s p {}).slice 0).rprio 0).thr = some (0xC0, 5) ∧ (s p { ops := [t] }).TablesOk ∧ ((s p { ops := [t] }).runner r0).ops = [t]
      ∧ (s {} {}).deliverable r0 0 = none ∧ (m []).TablesOk ∧ ((m []).runner r0).msgs = { queue := 7, data := 0x99, ids := [] } :: [] ∧ ((m []).hqueue 7).en = true ∧ ((m [3]).runner r0).msgs = { queue := 7, data := 0x99, ids := [3] } :: []
      ∧ (served.hqueue 7).en = false ∧ (served.hlast + 1 + 7) % 64 = 7 ∧ (m []).qReady 7 = true ∧ (∀ j < 7, (m []).qReady ((served.hlast + 1 + j) % 64) = false) ∧ (∀ j < 64, served.qReady j = false) ∧ (m []).linkLive = true := by and_intros <;> first | decide +kernel | exact ok (by decide +kernel) | exact memOk (by decide +kernel)
/-- Pacer 0 as `x` with pin 3, in effect as `v`, as `y`; its configuration selects the pin clock, rising edges, on pin 0. -/
def pinned (x : Pacer) (v : Reg) (y : Pin) : State := { withRegs [held 0x80 0x108 0x80000000] with pacers := [(0, x)], pins := [(3, { y with eff := v })], clkS := 10 }
/-- With pin 3 driven and sensed high. -/
def paced (x : Pacer) (v : Reg) : State := pinned x v { oe := true, drvn := true, sense := true }
theorem witness_PacerControlsAndEventsComplete :
    let s (x : Pacer) := paced x 0x80000000
    (s { st := .faulted }).TablesOk ∧ (s { st := .faulted }).takesWrites host ∧ (s {}).fuses.variant.full = true ∧ (s { st := .faulted }).safeNow = false ∧ ((s { st := .faulted }).pacer 0).st = .faulted ∧ State.safeNow { s {} with safeReq := true } = true
      ∧ State.takesWrites { served with mode := .factory } host ∧ (s { st := .running, wait := .shift true }).TablesOk ∧ ((s { st := .running, wait := .shift true }).pacer 0).wait = .shift true ∧ ((s { st := .stalled, wait := .take }).pacer 0).st = .stalled
      ∧ ((s { st := .stopped }).pacer 0).st = .stopped ∧ (∀ k < 64, k / 32 = 0 → served.ownsPin 0 k = false ∧ (served.reg 0xE (0x100 + 4 * k)).getLsbD 31 = false) := by and_intros <;> first | decide +kernel | exact ok (by decide +kernel) | exact memOk (by decide +kernel)
-- pin 3 is low where it is driven high: at once, and at a second check; with its neighbour as low as it is, and 5 cycles after the edge
theorem witness_PacerControlsAndEventsComplete_pins :
    let s (x : Pacer) := paced x 0x80000000
    let a : Timed := { t := 0, pins := [], ev := false }
    let u : Pacer := { st := .running, wait := .until, tq := [a] }
    let p (y : Pin) : State := pinned { st := .running } 0x80000000 { y with oe := true, drvn := true, lvl := true }
    let sh (b : Nat) (e : Option Nat) : State := s { st := .running, wait := .shift true, bits := b, edgeAt := e }
    (s u).TablesOk ∧ ((s u).pacer 0).tq = a :: [] ∧ (s {}).reached 0 = true ∧ (s {}).reached 1 = false ∧ (p { chk := some 4 }).TablesOk ∧ (p {}).ownsPin 0 3 = true ∧ ((p {}).pin 3).oe = true ∧ ((p { chk := some 4 }).pin 3).chk = some 4
      ∧ 4 + 6 ≤ (p {}).clkS ∧ ¬5 + 6 ≤ (p {}).clkS ∧ ((p { chk := some 4, diff := true }).pin 3).diff = true ∧ State.pad { p {} with pins := [(2, { lvl := false, oe := true, drvn := true, eff := 0x80000000 })] } 2 = some false ∧ 3 % 32 ≠ 31
      ∧ ((s {}).reg 0x80 0x108).getLsbD 31 = true ∧ (served.reg 0x80 0x108).getLsbD 31 = false ∧ (∀ m < 16, ((s {}).pacer m).wait = .none) ∧ (sh 1 none).TablesOk ∧ ((sh 0 (some 6)).pacer 0).bits = 0 ∧ 4 ≤ (sh 0 none).clkS - 6 ∧ ¬4 ≤ (sh 0 none).clkS - 7
      ∧ ((s { st := .stopping, wait := .shift true, bits := 1 }).pacer 0).st = .stopping ∧ ((s { st := .running, wait := .await 3 true }).pacer 0).wait = .await 3 true ∧ (s { st := .running, wait := .await 3 true }).TablesOk := by and_intros <;> first | decide +kernel | exact ok (by decide +kernel) | exact memOk (by decide +kernel)
-- the open test of pin 3, sensed high, with either pull; the training of the pair at pin 2 with the pattern at the first sample, inverted at the second, and nowhere
theorem witness_PacerControlsAndEventsComplete_tests :
    let o (v : Reg) : State := paced { st := .running, test := true } v
    let t : State := { withRegs [held 0x80 0x138 0xF0F0F0F1] with pacers := [(0, { st := .running, test := true })], pins := [(2, { eff := 0x80000C00 })] }
    let bits (x : BitVec 32) : List Bool := (List.range 32).map fun i => x.getLsbD i
    let seen (l : List Bool) (j : Nat) : BitVec 32 := BitVec.ofNat 32 (((List.range 32).map fun i => if l.getD (j + i) false then 2 ^ i else 0).sum)
    (o 0x80000040).TablesOk ∧ (o 0x80000040).openPins 0 = [3] ∧ (o 0x80000040).trainPins 0 = [] ∧ ((o 0x80000040).pin 3).sense = true ∧ fld ((o 0x80000040).pin 3).eff 7 6 = 1
      ∧ (o 0x80000080).TablesOk ∧ (o 0x80000080).openPins 0 = [3] ∧ fld ((o 0x80000080).pin 3).eff 7 6 ≠ 1
      ∧ t.TablesOk ∧ t.openPins 0 = [] ∧ t.trainPins 0 = [2] ∧ (t.reg 0x80 0x108).getLsbD 29 = false ∧ seen (bits 0xF0F0F0F1) 0 = t.reg 0x80 0x138 ∧ seen (true :: bits 0x0F0F0F0E) 1 = ~~~(t.reg 0x80 0x138)
      ∧ seen (true :: bits 0x0F0F0F0E) 0 ≠ t.reg 0x80 0x138 ∧ seen (true :: bits 0x0F0F0F0E) 0 ≠ ~~~(t.reg 0x80 0x138) ∧ ([] : List (Nat × List Bool)).find? (fun e => e.1 == 2) = none := by and_intros <;> first | decide +kernel | exact ok (by decide +kernel) | exact memOk (by decide +kernel)
/-- Pacer 0 runs `w` at address 63. -/
def pacing (w : Nat) (x : Pacer) : State := paced { x with st := .running, pc := 63, pm := [(63, BitVec.ofNat 24 w)] } 0x80000000
theorem witness_PacerInstructionsComplete :
    let now (s : State) (w op : Nat) : Bool := let x := s.pacer 0; okB s && x.st == .running && x.wait == .none && !x.test && s.pinstr 0 == BitVec.ofNat 24 w && fld (s.pinstr 0) 23 19 == op && pacOk (s.pinstr 0)
    (∀ op < 15, (fun w => now (pacing w {}) w op) (op * 2 ^ 19 + if op = 1 ∨ op = 2 then 32 else 0) = true) ∧ pacOk (pacing (0x0F * 2 ^ 19) {} |>.pinstr 0) = false ∧ pacOk (pacing (0x01 * 2 ^ 19 + 33) {} |>.pinstr 0) = false
      ∧ ((pacing 0 { inq := [7] }).pacer 0).inq = 7 :: [] ∧ 8 ≤ ((pacing 0 { outq := List.replicate 8 1 }).pacer 0).outq.length ∧ 4 ≤ ((pacing 0 { tq := List.replicate 4 { t := 0, pins := [], ev := false } }).pacer 0).tq.length
      ∧ (pacing 0 {}).sensed (gpin 0 3) = true ∧ ((pacing 0 { resumed := true, bits := 3 }).pacer 0).bits ≠ 0 := by decide +kernel
/-- Root port 0 as `x`, out of reset and enabled. -/
def ported (x : Port) (l : List (Nat × Reg)) : State := { withRegs l with ports := [(0, x)], perst := 1 }
theorem witness_RootPortRegistersComplete :
    let s (x : Port) := ported x [held 0x60 0x100 0x30000000]
    let ctl := (s {}).reg 0x60 0x100
    let u (n : Nat) := s { ls := .up, live := true, np := (List.range n).map fun k => (k, .car 0 0 0) }
    (s { ls := .contained }).TablesOk ∧ (s { ls := .contained }).takesWrites host ∧ 0 < (s {}).nPorts ∧ fld ctl 23 22 ≠ 3 ∧ fld ctl 21 19 < 6 ∧ fld ctl 18 16 < 6 ∧ ctl.getLsbD 30 = false ∧ ctl.getLsbD 31 = false ∧ ctl.getLsbD 29 = (s {}).perst.getLsbD 0
      ∧ ((s { ls := .contained }).port 0).ls = .contained ∧ (s { ls := .contained }).safeNow = false ∧ (u 2).TablesOk ∧ (u 2).takesWrites host ∧ (u 2).rfld 0x60 0x12C 31 31 = 0 ∧ ((u 2).port 0).live = true ∧ ctl.getLsbD 25 = false
      ∧ ((u 2).port 0).np.length < 256 ∧ (∀ e ∈ ((u 2).port 0).np, e.1 ≠ 2) ∧ (∀ a < 2, ((u 2).port 0).np.any (fun e => e.1 == a) = true) ∧ 256 ≤ ((u 256).port 0).np.length
      ∧ ((s {}).port 0).live = false ∧ (ported {} [held 0x60 0x12C 0x80000000]).rfld 0x60 0x12C 31 31 = 1 ∧ State.safeNow { s { ls := .contained } with safeReq := true } = true ∧ 0 < (s {}).nHeats := by and_intros <;> first | decide +kernel | exact ok (by decide +kernel) | exact memOk (by decide +kernel)
theorem witness_RootPortEventsComplete :
    let s (x : Port) := ported x [held 0x60 8 1, held 0x60 0x100 0x3405C000, held 0x60 0x104 0x03100000, held 0x60 0x114 8, held 0x60 0x130 0x30000000, held 0x60 0x138 0x8000, held 0x60 0x148 0x40000000]
    let u := s { ls := .up, np := [(3, .cfg false)], live := true }
    let t := s { ls := .training, relAt := some 0 }
    let b := ported { ls := .up } [held 0x60 0x108 0x8000]
    t.TablesOk ∧ u.TablesOk ∧ u.mode ≠ .quiesce ∧ 0 < u.nPorts ∧ (5 : BitVec 3).toNat ≤ u.rfld 0x60 0x100 18 16 ∧ (3 : BitVec 2).toNat ≤ u.rfld 0x60 0x100 15 14 ∧ (t.port 0).relAt ≠ none ∧ (t.port 0).ls = .training
      ∧ (∀ j < 8, laneUsed 3 false j = true → (t.reg 0x60 0x108).getLsbD (8 + j) = false) ∧ laneUsed 3 false 7 = true ∧ (b.reg 0x60 0x108).getLsbD (8 + 7) = true ∧ u.rfld 0x60 0x100 26 26 = 1 ∧ b.rfld 0x60 0x100 26 26 = 0
      ∧ (u.port 0).ls = .up ∧ u.rfld 0x60 0x104 20 20 = 1 ∧ ((s { ls := .contained }).port 0).ls = .contained ∧ (u.port 0).np = [(3, .cfg false)] ∧ (u.port 0).tagq = [] ∧ (u.reg 0x60 0x114).getLsbD 3 = true ∧ (u.reg 0x60 0x114).getLsbD 9 = false
      ∧ (u.reg 0x60 8).getLsbD 0 = true ∧ u.rfld 0x60 0x148 30 30 = 1 ∧ u.rfld 0x60 0x104 25 24 = 3 ∧ laneUsed 3 (u.rfld 0x60 0x104 21 21 == 1) 7 = true ∧ (∀ j < 8, laneUsed 2 false j = true → j ≠ 7) := by and_intros <;> first | decide +kernel | exact ok (by decide +kernel) | exact memOk (by decide +kernel)
-- the last four bytes below the baton area of heat 15, and four bytes past them; the notification of source 63
theorem witness_RootPortEventsComplete_inbound :
    let u := ported { ls := .up, live := true } [held 0x60 0x130 0x30000000, held 0x60 0x138 0x8000]
    let a : Word := 0x3F000000 + 0x36DFFC
    let b : Word := 0x3F000000 + 0x800000
    u.TablesOk ∧ (u.port 0).ls = .up ∧ fld a 63 28 = u.rfld 0x60 0x130 31 28 + 16 * u.rfld 0x60 0x134 31 0 ∧ fld a 27 24 = 15 ∧ u.heatUp 15 = true ∧ (u.reg 0x60 0x138).getLsbD 15 = true ∧ fld a 1 0 = 0 ∧ a.toNat % 64 + 4 ≤ 64
      ∧ a.getLsbD 23 = false ∧ fld a 22 0 + 4 ≤ 0x36E000 ∧ fld b 63 28 = 3 ∧ fld b 27 24 = 15 ∧ b.getLsbD 23 = true ∧ fld b 22 0 = 0 ∧ leNat (leBytes 4 63) < 64 ∧ b.toNat % 64 + 4 ≤ 64 := by and_intros <;> first | decide +kernel | exact ok (by decide +kernel) | exact memOk (by decide +kernel)
/-- R391: an entry that moves `n` bytes within the scratchpad. -/
def jobEntry (w src dst n : Nat) : List Byte := leBytes 4 w ++ leBytes 4 n ++ leBytes 8 src ++ leBytes 8 dst ++ List.replicate 40 0
/-- Ring 0 of carrier 0 of heat 0 as `j`, with its entry taken up. -/
def carrying (j : Job) : State := { withRegs [held 0x70 8 1, held 0x70 0x104 15] with jobs := [(0, { j with active := true, prod := 32 })], linkUp := 1 }
-- 24 bytes from 0x100, of which the first element takes the 8 up to a boundary at 0x300, or up to the end of what it may write, and no more
theorem witness_CarriersComplete :
    let move (x : Job) : Job := { x with ent := jobEntry 0 0x100 0x2F8 24, src := { addr := 0x100, left := 24 } }
    let s := carrying (move { dst := { addr := 0x2F8, left := 24 } })
    let last := carrying (move { dst := { addr := 0x36DFF8, left := 24 } })
    let past := carrying (move { dst := { addr := 0x36DFF9, left := 7 } })
    let high := carrying (move { dst := { addr := 0x36E000, left := 24 } })
    let z := carrying (move { moved := 24 })
    s.TablesOk ∧ s.MemOk ∧ s.mode ≠ .quiesce ∧ 0 < s.nHeats ∧ s.carRuns 0 0 = true ∧ s.carThrottled 0 = false ∧ s.heatUp 0 = true ∧ s.carReady 0 0 0 = true ∧ (∀ m < 8, s.carReady 0 0 ((tget 0 s.carLast 0 + 1 + m) % 9) = false) ∧ (tget 0 s.carLast 0 + 1 + 8) % 9 = 0
      ∧ (s.job 0).ent'.sspc = 0 ∧ (s.job 0).ent'.dspc = 0 ∧ (s.job 0).ent'.slist = false ∧ (s.job 0).ent'.dlist = false ∧ (s.job 0).ent'.xform = false ∧ (s.job 0).ent'.disc = false ∧ (s.job 0).obuf = [] ∧ (s.job 0).rbuf = [] ∧ (s.job 0).rd = 0 ∧ (s.job 0).stop = false
      ∧ (s.job 0).ent'.len = 24 ∧ 256 - 0x2F8 % 256 = 8 ∧ jkey 0 0 0 = 0 ∧ 0x36DFF8 + 8 ≤ 0x36E000 ∧ 0x36E000 < 0x36E000 + 24 ∧ last.TablesOk ∧ high.TablesOk ∧ (high.job 0).dst.left = 24 ∧ (past.job 0).dst.addr + 7 = 0x36E000
      ∧ z.TablesOk ∧ (z.job 0).ent'.len ≤ (z.job 0).moved ∧ (z.job 0).st = .idle ∧ served.carRuns 0 0 = false ∧ State.carThrottled { s with arb := { throt := [(0, 1)] } } 0 = true
      ∧ s.jentAddr 0 0 0 0 + 64 ≤ 0x36E000 ∧ s.jctl 0 0 0 + 64 ≤ 0x36E000 ∧ s.jentAddr 0 0 0 0 + 64 ≤ s.jctl 0 0 0 := by and_intros <;> first | decide +kernel | exact ok (by decide +kernel) | exact memOk (by decide +kernel)
theorem witness_CarriersComplete_answers :
    let x (j : Job) := carrying { j with ent := jobEntry (2 ^ 25) 0x100 0x200 24 }
    let r (o : Out) (st : JStage) := carrying { ent := jobEntry 0 0x100 0x2F8 24, req := some o, st := st }
    let a := carrying { ent := jobEntry (3 * 2 ^ 28) 0x100 0x200 24, st := .dst 8 }
    (x {}).TablesOk ∧ ((x {}).job 0).ent'.xform = true ∧ ((x {}).job 0).xend = false ∧ ((x {}).job 0).stop = false ∧ ((x { moved := 24 }).job 0).ent'.len ≤ 24 ∧ ((x { xend := true, moved := 24 }).job 0).xend = true ∧ (x {}).linkLive = true
      ∧ (r (.rdNcCar 0 0 0 0 0x1000 8) (.src 8)).TablesOk ∧ ((r (.rdNcCar 0 0 0 0 0x1000 8) (.src 8)).job 0).req = some (.rdNcCar 0 0 0 0 0x1000 8) ∧ ((r (.wrNcCar 0 0 0 0 0x1000 [1]) (.dst 1)).job 0).req = some (.wrNcCar 0 0 0 0 0x1000 [1])
      ∧ ((r (.wrNcCar 0 0 0 0 0x1000 [1]) (.dst 1)).job 0).st = .dst 1 ∧ ((x {}).job 0).late = 0 ∧ a.TablesOk ∧ (a.job 0).ent'.dspc = 3 ∧ (a.job 0).req = none ∧ (a.job 0).rd = 0 ∧ 0 < ((carrying { rd := 24 }).job 0).rd
      ∧ (∀ p < a.nPorts, (a.port p).np = []) := by and_intros <;> first | decide +kernel | exact ok (by decide +kernel) | exact memOk (by decide +kernel)
/-- A report of class RSPAD's kind: class 0, cause 0, from runner 0. -/
def rep0 (src : Nat) (h : Bool) : Report := { src := src, reporter := 0x100, suspect := 0x100, elem := 0, live := false, detail := 0, stamp := 0, held := h }
set_option maxRecDepth 20000 in
theorem witness_RefereeComplete :
    let a (h : Bool) (n m : Nat) : State := { served with ref := { arriving := [rep0 0 h], fifo := List.replicate n (rep0 0 false), admN := m } }
    let w (n m : Nat) : State := { served with ref := { offered := [rep0 0 true], fifo := List.replicate n (rep0 0 false), admN := m } }
    served.TablesOk ∧ served.takesWrites host ∧ served.ref.cls.Pairwise (fun a b => a.1 < b.1) ∧ (a false 895 3).TablesOk ∧ (a false 895 3).ref.offered = [] ∧ (a false 895 3).ref.arriving = rep0 0 false :: [] ∧ (a false 895 3).ref.fifo.length < 896
      ∧ (a false 0 3).ref.admAt = (a false 0 3).clkS / 4 ∧ (a false 0 3).ref.admN < 4 ∧ 4 ≤ (a false 0 4).ref.admN ∧ (a true 1023 0).ref.fifo.length < 1024 ∧ 1024 ≤ (a true 1024 0).ref.fifo.length ∧ 896 ≤ (a false 896 0).ref.fifo.length
      ∧ (w 1023 3).TablesOk ∧ (w 1023 3).ref.offered = [rep0 0 true] ∧ (w 1023 3).ref.fifo.length < 1024 ∧ 1024 ≤ (w 1024 0).ref.fifo.length ∧ 4 ≤ (w 0 4).ref.admN := by and_intros <;> first | decide +kernel | exact ok (by decide +kernel) | exact memOk (by decide +kernel)
theorem witness_RefereeComplete_events :
    let t (src : Nat) : State := { served with ref := { fifo := [rep0 src false] } }
    let e : Suspect := { src := 0, unit := 0x100, elem := 0, count := 0, t0 := 0, tev := 0, nrep := 1, sev := true }
    let v : State := { served with ref := { susp := [e] }, lap := 1250000 }
    (t 0).TablesOk ∧ (t 0).takesWrites host ∧ (t 0).ref.fifo = rep0 0 false :: [] ∧ condSource 0 = false ∧ (∀ x ∈ (t 0).ref.susp, sameKey x (rep0 0 false) = false) ∧ ((t 0).ref.susp.filter fun x => (t 0).inUse x 0).length < 256
      ∧ 1 < fld ((t 0).cls 0).cfg 31 24 ∧ ((t 8).cls 1).sev = false ∧ fld ((t 0).cls 3).cfg 5 2 = 0 ∧ fld ((t 0).cls 3).cfg 31 24 ≤ 1 ∧ condSource (8 * 0x20) = true ∧ (t (8 * 0x20)).ref.fifo = rep0 (8 * 0x20) false :: []
      ∧ v.TablesOk ∧ v.ref.susp = e :: [] ∧ v.mrg ≤ lapSub v.lap.toNat e.tev ∧ v.ref.fifo = [] ∧ v.pfw = false ∧ v.scs.fifo.length ≤ 447 ∧ (classRow 0x3F).isSome = true ∧ served.mode ≠ .factory ∧ State.takesWrites { served with mode := .factory } host
      ∧ (∀ x ∈ served.ref.cls, x.2.sev = true → fld x.2.eff 23 20 ≤ 0) ∧ served.ref.fo.toNat = 0 ∧ (pageType served.fuses.variant 0x190).isSome = true ∧ srcListed 0 = true ∧ served.heatPresent (0x3F - 0x30) = true
      ∧ fld (0x5FFFF8 : Reg) 22 3 * 8 < 0x600000 ∧ 0x100 + 9 * 15 + 8 = 0x18F := by and_intros <;> first | decide +kernel | exact ok (by decide +kernel) | exact memOk (by decide +kernel)
def rec1 (q : Nat) : Rec := { seq := q, origin := 0, kind := 0, pcc := 1, optime := 0, lap := 0, p0 := 0, p1 := 0, p2 := 0 }
-- records 256 and 257 stand in the two halves of one 64-byte beat, as the region's size is even
theorem witness_ScoresheetComplete :
    let s (x : Scores) : State := { served with scs := x }
    let b : Scores := { flushing := true, pend := [(256, 0)], buf := [(0, rec1 256)], next := 257, old := 256 }
    let two : Scores := { flushing := true, pend := [(256, 0), (257, 1)], buf := [(0, rec1 256), (1, rec1 257)], next := 258, old := 256 }
    let i := s { fifo := [rec1 0] }
    let w : Scores := { wbusy := true, win := List.replicate 8 none, wcur := 256 }
    i.TablesOk ∧ i.takesWrites host ∧ i.scs.fifo = rec1 0 :: [] ∧ served.pfw = false ∧ i.scs.pend.length < i.scs.limit ∧ i.scs.slot = some 0 ∧ i.scs.lost = none
      ∧ (s b).TablesOk ∧ b.flushing = true ∧ b.beat = [] ∧ b.pend = [(256, 0)] ∧ b.at' 0 = some (rec1 256) ∧ two.pend = (256, 0) :: (256 + 1, 1) :: [] ∧ 256 % (served.fuses.nvSize.toNat * 32768 - 128) % 2 = 0 ∧ two.at' 1 = some (rec1 257)
      ∧ Scores.nvdown { beat := [256] } = false ∧ Scores.segw { beat := [256] } = 0 ∧ Scores.fcount { beat := [256] } < 256 ∧ clearFrom host = true ∧ clearFrom (.link 0 false) = false ∧ (s {}).scs.clearing = false ∧ 2 ≤ (s {}).scs.limit
      ∧ (s { clearing := true }).scs.clearing = true ∧ (s { clearing := true }).takesWrites host ∧ (s w).scs.wbusy = true ∧ (s w).TablesOk ∧ (two.old ≤ 256 ∧ 256 < two.next) ∧ (two.buf.find? fun e => e.2.seq == 256) = some (0, rec1 256)
      ∧ (b.old ≤ 256 ∧ (Scores.buf { b with buf := [] }).find? (fun e => e.2.seq == 256) = none) := by and_intros <;> first | decide +kernel | exact ok (by decide +kernel) | exact memOk (by decide +kernel)
theorem witness_ModeRequestsComplete :
    let r : State := { State.reset with hwdone := true, life := 3, arbRun := { fenced := true }, cstores := (List.range 16).map fun h => (h, { valid := true }) }
    let q : State := { served with regs := (List.range 16).map fun h => held (0x40 + h) 0x100 0 }
    let z : State := { served with mode := .quiesce, gateRun := [(0, true)], regs := [held 2 0x180 5, held 2 0x188 1], lap := 5 }
    r.TablesOk ∧ r.takesWrites host ∧ r.mode = .coldstart ∧ r.hwdone = true ∧ r.pfw = false ∧ r.life = 3 ∧ (∀ h < r.nHeats, (r.cstore h).valid = true) ∧ r.arbRun.fenced = true ∧ r.img.state = 0 ∧ r.img.rq = [] ∧ Origin.cust host = true
      ∧ served.TablesOk ∧ served.takesWrites host ∧ served.mode ≠ .coldstart ∧ q.TablesOk ∧ q.takesWrites host ∧ q.mode = .service ∧ (∀ e ∈ q.rings, e.2.en = true → e.2.cons = e.2.prod ∧ e.2.held = false) ∧ (∀ e ∈ q.jobs, e.2.active = false)
      ∧ (∀ n < 16, (q.pacer n).stopped = true) ∧ (∀ h < q.nHeats, (q.cache h).rinv = false ∧ (q.cache h).lfill = false ∧ (q.reg (0x40 + h) 0x100).getLsbD 0 = false ∧ (q.cache h).draining = false) ∧ q.scs.clearing = false ∧ q.qpend = false
      ∧ (∀ p < q.nPorts, (q.port p).live = false) ∧ State.qpend { q with qpend := true } = true ∧ Origin.cust (.link 0 false) = false
      ∧ z.TablesOk ∧ z.mode = .quiesce ∧ z.safeNow = false ∧ z.qpend = false ∧ tget false z.gateRun 0 = true ∧ (z.reg 2 0x188).getLsbD 0 = true ∧ (z.reg 2 0x180).toNat + (z.reg 2 0x184).toNat * 2 ^ 32 ≤ z.lap.toNat
      ∧ (∀ p < z.nPorts, (z.port p).live = false) := by and_intros <;> first | decide +kernel | exact ok (by decide +kernel) | exact memOk (by decide +kernel)
theorem witness_ResetsComplete : let c : ColdIn := { bist := 0, arbFail := false, hdrs := [] }
    c.bist = 0 ∧ c.arbFail = false ∧ c.hdrs = [] ∧ served.safeReq = false ∧ served.mode ≠ .factory ∧ served.pfw = false ∧ served.TablesOk ∧ served.MemOk ∧ State.mode { served with mode := .factory } = .factory := by and_intros <;> first | decide +kernel | exact ok (by decide +kernel) | exact memOk (by decide +kernel)
theorem witness_EdgeEventsComplete : served.TablesOk ∧ served.mode ≠ .quiesce ∧ served.pfw = false ∧ served.safeReq = false ∧ served.tamper = false ∧ (1 : BitVec 3) ≠ served.life ∧ State.mode { served with mode := .factory } = .factory ∧ (1 : BitVec 3) ≠ 0
    ∧ (1 : BitVec 3) ≠ 3 ∧ State.pfw { served with pfw := true } = true ∧ State.linkUp { served with linkUp := 8 } = 8 ∧ (8 : BitVec 4).getLsbD 3 = true := by and_intros <;> first | decide +kernel | exact ok (by decide +kernel) | exact memOk (by decide +kernel)

/-! Pacers, root ports, carriers, the Referee, the Scoresheet, modes (R351 to R476) -/

def pac (s : State) : Pacer := s.pacer 0
-- R359: with msbfirst 0 bit 0 goes out first; the second of two bits is left
theorem test_emit : let x := pac (go (.emit 0) (pacing (2 ^ 19 + 2) { sr := 5 }))
    (x.sr, x.bits, x.wait, x.pc) = (2, 1, .shift true, 63) := by decide +kernel
-- outpin 3 of the group is driven with that bit
theorem test_emit_drives : ((go (.emit 0) { paced { st := .running, pm := [(0, 0x080001)], sr := 1 } 0x80000000 with regs := [held 0x80 0x108 0x80030000] }).pin 3).lvl = true := by decide +kernel
-- the sampled bit enters at bit 31; inpin 0 reads 0, and SR moves down
theorem test_capt : (pac (go (.capt 0) (pacing (2 * 2 ^ 19 + 1) { sr := 6 }))).sr = 3 := by decide +kernel
-- the instruction after address 63 is at address 0
theorem test_take : let x := pac (go (.take 0) (pacing (3 * 2 ^ 19) { inq := [9, 8] }))
    (x.sr, x.inq, x.pc, x.lastTake) = (9, [8], 0, 9) := by decide +kernel
theorem test_take_stalls : (pac (go (.take 0) (pacing (3 * 2 ^ 19) {}))).st = .stalled := by decide +kernel
-- R364: a TAKE with arg 1 on an empty FIFO goes on with the last word, marked stale
theorem test_take_repeats : let x := pac (go (.take 0) (pacing (3 * 2 ^ 19 + 1) { lastTake := 4 }))
    (x.sr, x.stale, x.pc) = (4, true, 0) := by decide +kernel
theorem test_give : (pac (go (.give 0) (pacing (4 * 2 ^ 19) { sr := 7, outq := [1] }))).outq = [1, 7] := by decide +kernel
theorem test_goto : (pac (go (.goto 0) (pacing (7 * 2 ^ 19 + 3 * 64 + 20) { inq := [1] }))).pc = 20 ∧ (pac (go (.goto 0) (pacing (7 * 2 ^ 19 + 3 * 64 + 20) {}))).pc = 0 := by decide +kernel
-- R362: time 2^31 is not reached at lap 0, time 0 is
theorem test_sched_late : (go (.sched 0) (pacing (10 * 2 ^ 19) { sr := 0 })).rfld 0x80 0x124 15 0 = 1 ∧ (go (.sched 0) (pacing (10 * 2 ^ 19) { sr := 0x80000000 })).rfld 0x80 0x124 15 0 = 0 := by decide +kernel
theorem test_timed_action : ((go (.timedAction 0) (paced { st := .running, tq := [{ t := 0, pins := [(3, true)], ev := false }] } 0x80000000)).pin 3).lvl = true := by decide +kernel
theorem test_illop : let x := pac (go (.illop 0) (pacing (0x1F * 2 ^ 19) {}))
    (x.st, x.fcode) = (.faulted, 4) := by decide +kernel
-- R369: fault code 1, the pin's result 1, class of the pacers, cause 0
theorem test_short : let s := go (.short 0 3) (pinned { st := .running } 0x80000000 { oe := true, drvn := true, chk := some 4, diff := true })
    ((pac s).fcode, (pac s).fpin, s.rfld 0xE 0x10C 27 26, told s) = (1, 3, 1, [(0xE0, 0x80)]) := by decide +kernel
theorem test_await : (pac (go (.pinLevelChange 3 false) (paced { st := .running, wait := .await 3 false } 0x80000000))).pc = 1 := by decide +kernel
-- R367: rejected with reason 6 in STALLED; in SAFE the word goes to its address and PMADDR moves on
theorem test_pmdata_stalled : (go (.pmdataWrite host 0 0x123456) (paced { st := .stalled } 0)).reg 0x80 0x10 = 0xC6000134 := by decide +kernel
theorem test_pmdata : let s := go (.pmdataWrite host 0 0x123456) { served with regs := [held 0x80 0x130 63] }
    ((pac s).pm, s.rfld 0x80 0x130 5 0) = ([(63, 0x123456)], 0) := by decide +kernel
theorem test_start_pacer : let x := pac (go (.pacerStart host 0) { served with pacers := [(0, { st := .stopped, pc := 9, sr := 4, pm := [(1, 2)] })] })
    x = { st := .running, wait := .start 4, started := true, pm := [(1, 2)] } := by decide +kernel
-- R353: outside FACTORY a write of LAP.SET is rejected with reason 5
theorem test_lap_set : (go (.lapSet host 1) served).reg 0xD 0x10 = 0xC500010C ∧ (go (.lapSet host 1) { served with mode := .factory, lohold := [held 0xD 0x108 7] }).lap = 0x100000007 := by decide +kernel

-- R380: cause SW is 1; what was outstanding fails, the port is not live
theorem test_contain : let s := go (.contain host 0) (ported { ls := .up, live := true } [])
    ((s.port 0).ls, (s.port 0).live, s.rfld 0x60 0x104 18 16) = (.contained, false, 1) := by decide +kernel
theorem test_release : ((go (.release host 0) (ported { ls := .contained } [held 0x60 8 1, held 0x60 0x100 0x30000000])).port 0).ls = .detect := by decide +kernel
-- R385: a port that is not live answers with PORT, 5
theorem test_cfg_dead : (go (.cfgRead host 0) (ported {} [])).reg 0x60 0x12C = 5 := by decide +kernel
theorem test_cfg_read : (go (.cfgRead host 0) (ported { ls := .up, live := true } [held 0x60 0x120 0x44])).out = [.cfgReq 0 false true false 0x44 0, .resp host .ok 0] := by decide +kernel
theorem test_surprise_down : let s := go (.surpriseDown 0) (ported { ls := .up, live := true } [])
    ((s.port 0).ls, s.rfld 0x60 0x104 18 16, (s.reg 0x60 0x110).getLsbD 1) = (.contained, 5, true) := by decide +kernel
-- lane 3 of a x8 link is bad: x2 on lanes 0 and 1 is not the widest, x4 on lanes 7 to 4 is
theorem test_lane : let s := go (.laneNarrow 0 3) (ported { ls := .up, live := true } [held 0x60 0x104 0x03000000])
    (s.rfld 0x60 0x104 25 24, s.rfld 0x60 0x104 21 21, s.rfld 0x60 0x108 15 8) = (2, 1, 8) := by decide +kernel
theorem test_inbound : (go (.inboundWrite 0 0x3F000100 [1, 2, 3, 4] 0 false) (ported { ls := .up, live := true } [held 0x60 0x130 0x30000000, held 0x60 0x138 0x8000])).spads
    = [(15 * 0x800000 + 0x100, 1), (15 * 0x800000 + 0x101, 2), (15 * 0x800000 + 0x102, 3), (15 * 0x800000 + 0x103, 4)] := by decide +kernel
-- the window's mask does not name heat 15: AERU bit 9
theorem test_inbound_masked : (go (.inboundWrite 0 0x3F000100 [1, 2, 3, 4] 0 false) (ported { ls := .up, live := true } [held 0x60 0x130 0x30000000])).reg 0x60 0x110 = 0x200 := by decide +kernel
-- an interrupt number of 5 is source 0x85 of the heat's slice
theorem test_notification : ((go (.inboundNotification 0 0x3F800000 [5, 0, 0, 0]) (ported { ls := .up, live := true } [held 0x60 0x130 0x30000000, held 0x60 0x138 0x8000])).slice 15).pend = [(0x85, true)] := by decide +kernel

/-- A job that moves two bytes from 0x100 within the scratchpad. -/
def moves2 (b : Nat) : State := spad (carrying { ent := jobEntry 0 0x100 b 2, src := { addr := 0x100, left := 2 }, dst := { addr := b, left := 2 } }) [(0x100, 0xAA), (0x101, 0xBB)]
-- two bytes within the scratchpad in one element
theorem test_element : let s := go (.carrierElement 0 0 false) (moves2 0x200)
    (s.spads, (s.job 0).moved, (s.job 0).outlen) = ([(0x100, 0xAA), (0x101, 0xBB), (0x200, 0xAA), (0x201, 0xBB)], 2, 2) := by decide +kernel
-- a destination in the kept range: code 2
theorem test_element_range : let s := go (.carrierElement 0 0 false) (moves2 0x36E000)
    (s.spads.length, (s.job 0).code) = (2, 2) := by decide +kernel
-- R390: 33 entries ahead of cons is misuse, cause 5
theorem test_job_post : let b := served.jctl 0 0 0
    ((go (.jobPost 0 0 0) { served with spads := [(b, 32)] }).job 0).prod = 32 ∧ told (go (.jobPost 0 0 0) { served with spads := [(b, 33)] }) = [(0x25, 0x100)] := by decide +kernel

-- R410, R405: class 0 counts 16 in its window: the first report is no severe event; class 2's N is 1
theorem test_report : let s := go .reportTake { served with ref := { fifo := [rep0 0 false] } }
    (s.ref.susp.map (·.count), (s.cls 0).ccnt, (s.cls 0).sev) = ([1], 1, false) := by decide +kernel
theorem test_severe : let s := go .reportTake { served with ref := { fifo := [rep0 0x10 true] } }
    (s.ref.susp.map (·.sev), (s.cls 2).sev, (s.cls 2).sevcnt, s.ref.logHead) = ([true], true, 1, 1) := by decide +kernel
-- R417: FAULT_OUT follows the class's level once 64 CLK_S cycles (4 of CLK_A) have passed
theorem test_fault_out : let f : Referee := { cls := [(2, { clsReset 2 with sev := true })] }
    (go .faultOutUpdate { served with ref := f, clkS := 64 }).ref.fo = 4 ∧ (go .faultOutUpdate { served with ref := f, clkS := 63 }).ref.fo = 0 := by decide +kernel
-- injection outside FACTORY: reason 5
theorem test_inject : (go (.injectReport host 0x80000000) served).reg 9 0x10 = 0xC5000300 := by decide +kernel

-- R427, R430: the oldest record commits with the next sequence number
theorem test_record : let x := (go .recordCommit { served with scs := { fifo := [rec1 0, rec1 1], next := 300 } }).scs
    (x.buf, x.pend, x.next, x.fifo.length) = ([(0, rec1 300)], [(300, 0)], 301, 1) := by decide +kernel
-- R430, R434: record 300 fills the slot of 32 bytes with its sequence number at byte 2 and pcc at byte 13
theorem test_flush_beat : (go (.flush []) { served with scs := { flushing := true, pend := [(300, 0)], buf := [(0, rec1 300)], next := 301, old := 300 } }).out = [.beat (0x1000 + 32 * 300) ([0, 0, 0x2C, 1, 0, 0, 0, 0, 0, 0, 0, 0, 0, 1, 0, 0] ++ List.replicate 16 0)] := by decide +kernel
theorem test_beat_ack : let x := (go .flushBeatAck { served with scs := { flushing := true, beat := [300], pend := [(300, 0)] } }).scs
    (x.pend, x.flushed) = ([], 300) := by decide +kernel
-- R434: every 1,024 of optime
theorem test_optime : (go .optimeTick { served with scs := { optime := 1023 } }).scs.flushing = true ∧ (go .optimeTick { served with scs := { optime := 1022 } }).scs.flushing = false := by decide +kernel
theorem test_window_fetch : let s := go (.windowFetch host 0 []) { served with scs := { buf := [(0, rec1 256)], next := 257, old := 0 }, lohold := [held 0xA 0x140 255] }
    (s.scs.win.map Option.isSome, s.scs.wbusy) = ([false, true, false, false, false, false, false, false], true) := by decide +kernel

-- R449: FACTORY from a complete COLDSTART, LIFE RETURN (3), by the Custody world only; SERVICE needs its images
theorem test_factory : (go (.modeReqFactory host) { State.reset with hwdone := true, life := 3 }).mode = .factory ∧ (go (.modeReqFactory (.link 0 false)) { State.reset with hwdone := true, life := 3 }).reg 1 0x10 = 0x82000104 := by decide +kernel
theorem test_service_images : (go (.modeReqService host) { State.reset with hwdone := true }).reg 1 0x10 = 0xC3000104 := by decide +kernel
theorem test_wake : ((go .wake { served with mode := .quiesce, gateRun := [(0, true)] }).runner r0).run = .running := by decide +kernel
theorem test_cold : let s := go (.coldReset 0xABC { bist := 0, arbFail := false, hdrs := [] }) { served with lap := 9, spads := [(1, 1)] }
    s.mode = .coldstart ∧ s.hwdone = true ∧ s.lap = 0 ∧ s.byteAt 0 1 = 0 ∧ s.winbase = 0xABC ∧ s.scs.pcc = 1 := by decide +kernel
theorem test_warm : let s := go (.warmReset { bist := 0, arbFail := false, hdrs := [] }) { served with lap := 9, spads := [(1, 1)], rings := [(5, { en := true })] }
    (s.mode, s.lap, s.byteAt 0 1, s.rings) = (.coldstart, 9, 1, []) := by decide +kernel
theorem test_pfw : let s := go .pfwNFall { served with pacers := [(0, { st := .running })] }
    (s.pfw, (pac s).st, s.scs.flushing) = (true, .safe, true) := by decide +kernel
-- SYS cause 2 begins (R405); every secure part is wiped (R306)
theorem test_tamper : let s := go .tamper served
    (told s, (s.up 3).wipe, (s.up 16).wipe) = ([(0x102, 0)], true, true) := by decide +kernel
theorem test_link_lost : let s := go (.hostLinkLost 2) { served with linkUp := 15 }
    (s.linkUp, told s) = (11, [(0x89, 0)]) := by decide +kernel
end Sys2Proof.Tests
end

section
/-! What one command and one step keep: tables, memories, the queue behind the front, and the fuses (R2, R29, R452, R455). -/
namespace Sys2Proof.Machine

/-- The fuse load a command makes from `s`: it is, or acts as, a cold reset (R29, R452, R455). -/
def State.coldLoad (s : State) (c : Instr) : Option ColdIn :=
  match c with
  | .coldReset _ i => some i
  | .warmReset i => if s.mode = .factory then some i else none
  | .lifeChange code i => if s.mode = .factory ∧ code ≠ 0 ∧ code ≠ 3 ∧ code ≠ s.life then some i else none
  | _ => none

/-- `s` with the fuses loaded where a command loads them. -/
def State.loaded (s : State) : Option ColdIn → State
  | some i => s.loadFuses i
  | none => s

theorem Kept.next {z t : State} (h : Kept z t) : ∃ t', (.next t : Res) = .next t' ∧ Kept z t' := ⟨t, rfl, h⟩

theorem execWarmReset_keeps (i : ColdIn) (s : State) :
    ∃ t, exec (.warmReset i) s = .next t ∧ Kept (s.loaded (s.coldLoad (.warmReset i))) t := by
  refine ⟨_, rfl, ?_⟩
  by_cases hm : s.mode = .factory
  · simp only [State.coldLoad, if_pos hm]
    exact coldStart_kept (.refl s) fun _ _ h => h
  · simp only [State.coldLoad, if_neg hm]
    exact warmStart_kept (.refl s)

theorem execLifeChange_keeps (code : BitVec 3) (i : ColdIn) (s : State) :
    ∃ t, exec (.lifeChange code i) s = .next t ∧ Kept (s.loaded (s.coldLoad (.lifeChange code i))) t := by
  refine ⟨_, rfl, ?_⟩
  by_cases hl : code = s.life
  · simp only [State.coldLoad, hl, if_true, ne_eq, not_true, and_false, if_false]
    exact .refl s
  by_cases hm : s.mode = .factory ∧ code ≠ 0 ∧ code ≠ 3
  · obtain ⟨hf, h0, h3⟩ := hm
    simp only [State.coldLoad, if_neg hl, if_pos (⟨hf, h0, h3⟩ : s.mode = .factory ∧ code ≠ 0 ∧ code ≠ 3),
      if_pos (⟨hf, h0, h3, hl⟩ : s.mode = .factory ∧ code ≠ 0 ∧ code ≠ 3 ∧ code ≠ s.life)]
    exact coldStart_kept (Kept.refl s).of fun _ _ h => when_kept (record_kept h) fun _ h => report_kept h
  · have hn : ¬(s.mode = .factory ∧ code ≠ 0 ∧ code ≠ 3 ∧ code ≠ s.life) := fun ⟨hf, h0, h3, _⟩ => hm ⟨hf, h0, h3⟩
    simp only [State.coldLoad, if_neg hl, if_neg hm, if_neg hn]
    exact lifeTo_kept (.refl s)

/-- Every command answers a next state; from the state with the fuses loaded, where it loads them, to that one everything of `Kept` stands. -/
theorem exec_keeps (c : Instr) (s : State) : ∃ t, exec c s = .next t ∧ Kept (s.loaded (s.coldLoad c)) t := by
  have k : Kept s s := .refl s
  cases c with
  -- triggers of a runner's units, words, traps
  | aluAdd | aluSub | aluRsub | aluAnd | aluOr | aluXor | aluAndn | aluNeg | aluAbs | aluMin | aluMax | aluMinu | aluMaxu | aluPop | aluClz | aluCtz
  | shfShl | shfShr | shfSar | shfRol | shfRor | shfExt | shfExts | shfDep | shfBswap | mulMul | mulMulu | mulMac | mulMac2 | mulDiv | mulDivu
  | cmpEq | cmpNe | cmpLt | cmpLe | cmpGt | cmpGe | cmpLtu | cmpLeu | cmpGtu | cmpGeu | cmpTst | cmpTstz
  | lsuLd | lsuLd32 | lsuLd16 | lsuLd8 | lsuSt | lsuSt32 | lsuSt16 | lsuSt8 | lsuSync
  | hauLd | hauLd32 | hauLdnc | hauSt | hauSt32 | hauStnc | hauCpy | hauPref | hauFence | atmTas | atmLr | atmSc | atmClr
  | ringPop | ringAdv | ringRel | ringStat | sigClaim | sigEoi | sigPend | sigHmsg | timSnap | timArm0 | timArm1 | timDis | timWdog | timWait
  | batGet | batFree | pcrPush | pcrPull | prdFlush | prdBar | prdSnap | prdClrc | seqRspush | seqRspop | seqRsclr | seqRsrd =>
    exact (trigger_kept k).next
  | strCopy | strFill | strCmp | strScan | trpCall | trpGate | trpSret | trpEret | seqJmpi | seqCalli | seqCallm | seqRetm | seqRep =>
    exact (flowTrigger_kept k).next
  | batPass => exact (passCmd_kept k).next
  | moveWord => exact (moveWord_kept k).next
  | wordRetry => exact (wordRetry_kept k).next
  | trapEntry => exact (trapEntry_kept k).next
  -- register writes and reads, the window
  | registerWrite | imgAbort | rselSnapshot | mselSnapshot | place | migrate | poolWrite | pathw | fallbackResume | qack | lapSet | sevClear
  | flushRequest | clear | windowFetch | modeReqFactory | modeReqService | modeReqQuiesce => exact (regWrite_kept k).next
  | heatStart | lockedFill | rangeInvalidate | cacheClean | cacheEnable | seedWrite | pacerStart | pacerStop | pacerResume | pmdataWrite | contain
  | release | cfgRead | cfgWrite | marginGo | carrierEnable => exact (unitWrite_kept k).next
  | strideDetectorAssign | spendWrite => exact (Kept.ite (unitWrite_kept k) k).next
  | injectReport | injectSingleBit | injectDoubleBit | injectCsParity | injectResidue => exact (injectCmd_kept k).next
  | runnerStart | runnerStop => exact (pctlWrite_kept k).next
  | pctlFence => exact Kept.next (by split <;> exact regWrite_kept k)
  | ringEnable => exact (Kept.ite (regWrite_kept k) k).next
  | ringDisable => exact (Kept.ite k (regWrite_kept k)).next
  | imgGo => exact (Kept.ite (imgHeader_kept (regWrite_kept k)) (regWrite_kept k)).next
  | presRead | lapCntRead => exact (regRead_kept k).next
  | winRd => exact (Kept.ite (windowRd_kept k) k).next
  | winWr | doorbell => exact (Kept.ite (windowWr_kept k) k).next
  | scratchpadWindowAccess =>
    refine (Kept.ite ?_ k).next
    split
    next e => exact asleep_kept k e
    next => exact spadWindow_kept k
  | snpInv | snpCleanInv => exact (snoopCmd_kept k).next
  | tapAccess => exact (awake_kept k fun _ h => tap_kept h).next
  -- resets, pins, links, modes
  | coldReset => exact (coldStart_kept k.of fun _ _ h => h).next
  | warmReset i => exact execWarmReset_keeps i s
  | lifeChange code i => exact execLifeChange_keeps code i s
  | pfwNFall => exact (Kept.ite k (when_kept (safeState_kept (report_kept (updScs_kept k.of))) fun _ h => flushTrigger_kept h)).next
  | tamper => exact (Kept.ite k (wipeAll_kept (report_kept k.of))).next
  | safeReq => exact (Kept.ite k (safeState_kept (report_kept k.of))).next
  | safeReqRelease | tamperFall | hostLinkLost => exact (Kept.ite (report_kept k.of) k).next
  | hostLinkUp => exact (Kept.ite (when_kept k.of fun _ h => report_kept h) k).next
  | linkErrorCorrected => exact (Kept.ite (report_kept k) k).next
  | vddCoreLoss => exact k.of.next
  | wakeTimer => exact (wakeTimer_kept k).next
  | wake => exact (wakeUp_kept k).next
  | windowEnd => exact (windowEnd_kept k).next
  -- events of a runner
  | machineCheck => exact (onRunner_kept k fun _ h => Kept.ite (romFail_kept h) (machineCheck_kept h)).next
  | unitResultDelivery => exact (onRunner_kept k fun _ h => deliverUnit_kept h).next
  | residueRerun => exact (onRunner_kept k fun _ h => Kept.ite (updR_kept h) h).next
  | loadReplay r u win =>
    cases win with
    | none => exact (onRunner_kept k fun _ h => loadReplay_kept h).next
    | some => exact (onRunner_kept k fun _ h => Kept.ite (collide_kept h) h).next
  | storeDrain => exact (onRunner_kept k fun _ h => Kept.ite h (Kept.ite (countReplay_kept h) (drainStore_kept h))).next
  | frameDrain => exact (onRunner_kept k fun _ h => Kept.ite h (Kept.ite (countReplay_kept h) (drainFrame_kept h))).next
  | reservationExpiry =>
    refine (onRunner_kept k fun _ h => ?_).next
    split
    · exact Kept.ite (updR_kept h) h
    · exact h
  | extResultTimeout =>
    refine (onRunner_kept k fun _ h => ?_).next
    split
    · exact report_kept (faultNow_kept h)
    · exact h
  | extResultReady => exact (onRunner_kept k fun _ h => extReady_kept h).next
  | hauResponse => exact (onRunner_kept k fun _ h => hauAnswer_kept h).next
  | hauRequestTimeout =>
    refine (onRunner_kept k fun _ h => ?_).next
    split
    · exact h
    · exact report_kept (hauDone_kept (Kept.ite (updCache_kept h) h))
  | stringElement => exact (onRunner_kept k fun _ h => strElement_kept h).next
  | stringDone => exact (onRunner_kept k fun _ h => strDone_kept h).next
  | timerFire => exact (onRunner_kept k fun _ h => fireTimer_kept h).next
  | watchdogExpiry => exact (onRunner_kept k fun _ h => fireWatchdog_kept h).next
  | tWaitTimeReached => exact (onRunner_kept k fun _ h => Kept.ite (updR_kept h) h).next
  | batonTimeout r =>
    cases r with
    | heat => exact (onRunner_kept k fun _ h => passTimeout_kept h).next
    | arb => exact (onRunner_kept k fun _ h => h).next
  | lateMirrorWrite => exact (onRunner_kept k fun _ h => lateMirror_kept h).next
  | lineFetch => exact (onRunner_kept k fun _ h => lineFetch_kept h).next
  | runnerFence => exact (onRunner_kept k fun _ h => runnerFence_kept h).next
  | sourcePresent => exact (onRunner_kept k fun _ h => Kept.ite (updR_kept (present_kept h)) h).next
  | offerWithdraw => exact (onRunner_kept k fun _ h => updSl_kept h).next
  | messageForward => exact (onRunner_kept k fun _ h => forward_kept h).next
  -- control stores and images, rings, heats, the Arbiter
  | cstoreScrubRead => exact (onStore_kept k fun _ h => scrubLine_kept h).next
  | reload => exact (awake_kept k fun _ h => reload_kept h).next
  | imgSegment => exact (awake_kept k fun _ h => imgSegment_kept h).next
  | imgRequestTimeout => exact (awake_kept k fun _ h => imgTimeout_kept h).next
  | ringHandout => exact (onHeat_kept k fun _ h => Kept.ite h (handout_kept h)).next
  | ringDisableEffect => exact (onRing_kept k fun _ h => disableRing_kept h).next
  | heatFence => exact (onHeat_kept k fun _ h => heatFence_kept h).next
  | remirrorEnd => exact (onHeat_kept k fun _ h => Kept.ite (remirrorEnd_kept h) h).next
  | commandBegin => exact (awake_kept k fun _ h => Kept.ite (beginCmd_kept h) h).next
  | migrateMove => exact (onRing_kept k fun _ h => Kept.ite (moveRing_kept h) h).next
  | fallbackBegin => exact (awake_kept k fun _ h => Kept.ite (fallback_kept h) h).next
  | fallbackPlace => exact (onRing_kept k fun _ h => fallbackPlace_kept h).next
  -- scratchpads, heat caches, the Starter
  | eccWriteback => exact (onStore_kept k fun _ h => Kept.ite (updUp_kept h) h).next
  | scrubRead => exact (onHeat_kept k fun _ h => Kept.ite (collide_kept (scrubWords_kept h)) h).next
  | wipeEnd => exact (onStore_kept k fun _ h => Kept.ite (wipeEnd_kept h) h).next
  | fillResponse => exact (onHeat_kept k fun _ h => each_kept (fillResponse_kept h) fun _ _ h => carNote_kept h).next
  | writebackAck => exact (onHeat_kept k fun _ h => quiesceEnd_kept (wbAck_kept h)).next
  | sourceEvent => exact (sourceInput_kept k).next
  | coalesceTimeout => exact (awake_kept k fun _ h => Kept.ite (queueDue_kept h) h).next
  | msgIntDelivery => exact (awake_kept k fun _ h => deliverMsg_kept h).next
  -- pacers
  | idle | emit | capt | take | give | drive | await | goto | latch | flag | sched | untilI | bump | stamp | halt =>
    exact (onPacer_kept k fun _ h => pacRun_kept h).next
  | illop => exact (onPacer_kept k fun _ h => pacIllop_kept h).next
  | timedAction => exact (onPacer_kept k fun _ h => timedAction_kept h).next
  | short => exact (onPacer_kept k fun _ h => pacShort_kept h).next
  | pinClockEdge => exact (onPacer_kept k fun _ h => pinClock_kept h).next
  | pinLevelChange => exact (pinLevel_kept k).next
  | untilReached => exact (onPacer_kept k fun _ h => untilEnd_kept h).next
  | pacerTestsEnd => exact (onPacer_kept k fun _ h => pacTestsEnd_kept h).next
  -- root ports and carriers
  | linkTrained => exact (onRp_kept k fun _ h => linkTrained_kept h).next
  | laneNarrow => exact (onRp_kept k fun _ h => laneNarrow_kept h).next
  | containment => exact (onRp_kept k fun _ h => Kept.ite (containPort_kept h) h).next
  | surpriseDown => exact (onRp_kept k fun _ h => surpriseDown_kept h).next
  | aerMessage => exact (onRp_kept k fun _ h => aerMessage_kept h).next
  | trainTimeout => exact (onRp_kept k fun _ h => trainTimeout_kept h).next
  | completionTimeout => exact (onRp_kept k fun _ h => npTimeout_kept h).next
  | inboundWrite => exact (onRp_kept k fun _ h => Kept.ite (inboundOther_kept h) (Kept.ite h (inbound_kept h))).next
  | inboundNotification => exact (onRp_kept k fun _ h => Kept.ite (inbound_kept h) h).next
  | cfgCompletion => exact (onRp_kept k fun _ h => cfgDone_kept h).next
  | linkPartnerPresent => exact (onRp_kept k fun _ h => partnerFound_kept h).next
  | portErrorDetected => exact (onRp_kept k fun _ h => portError_kept h).next
  | marginingEnd => exact (onRp_kept k fun _ h => marginEnd_kept h).next
  | jobPost => exact (onJob_kept k fun _ h => jobPost_kept h).next
  | carrierElement => exact (onJob_kept k fun _ h => carElement_kept h).next
  | jobEnd => exact (onJob_kept k fun _ h => jobEnd_kept h).next
  | xformTimeout => exact (onJob_kept k fun _ h => Kept.ite (carFail_kept h) h).next
  | carrierHostResponse => exact (onJob_kept k fun _ h => carHost_kept h).next
  | adapterCompletion =>
    refine (onJob_kept k fun _ h => ?_).next
    split
    · exact syncPort_kept (cplError_kept (carAdapter_kept h))
    · exact carAdapter_kept h
  | transformEnd => exact (onJob_kept k fun _ h => xformEnd_kept h).next
  -- the Referee and the Scoresheet
  | reportArrival => exact (awake_kept k fun _ h => arrive_kept h).next
  | reportTake => exact (awake_kept k fun _ h => takeReport_kept h).next
  | entryClose => exact (awake_kept k fun _ h => closeEntry_kept h).next
  | faultOutUpdate => exact (awake_kept k fun _ h => driveFault_kept h).next
  | recordCommit => exact (awake_kept k fun _ h => recordCommit_kept h).next
  | flush => exact (awake_kept k fun _ h => flushStep_kept h).next
  | flushBeatAck => exact (awake_kept k fun _ h => beatAck_kept h).next
  | optimeTick => exact (optimeTick_kept k).next
  | nvPathDown => exact (awake_kept k fun _ h => pathDown_kept h).next
  | windowReadResponse => exact (awake_kept k fun _ h => windowRead_kept h).next
  | windowFetchTimeout => exact (awake_kept k fun _ h => updScs_kept h).next

/-- The fuse load of the command at the front of the queue. -/
def State.frontLoad (s : State) : Option ColdIn :=
  match s.pending with
  | c :: _ => s.coldLoad c
  | [] => none

theorem State.frontLoad_cons {s : State} {c : Instr} {rest : List Instr} (h : s.pending = c :: rest) : s.frontLoad = s.coldLoad c := by
  unfold State.frontLoad
  rw [h]

theorem State.frontLoad_nil {s : State} (h : s.pending = []) : s.frontLoad = none := by
  unfold State.frontLoad
  rw [h]

theorem step_cons {s : State} {c : Instr} {rest : List Instr} (h : s.pending = c :: rest) : step s = exec c { s with pending := rest } := by
  unfold step
  rw [h]

theorem step_nil {s : State} (h : s.pending = []) : step s = .next s.tick := by
  unfold step
  rw [h]

theorem State.withTail_of_nil {s : State} (h : s.pending = []) : { s with pending := s.pending.tail } = s := by
  rw [h, List.tail_nil, ← h]

/-- A step keeps what `Kept` names, of the state whose queue has lost its front and whose fuses that front has loaded. -/
theorem step_keeps {s t : State} (h : step s = .next t) : Kept ({ s with pending := s.pending.tail }.loaded s.frontLoad) t := by
  cases hq : s.pending with
  | cons c rest =>
    rw [step_cons hq] at h
    obtain ⟨t', ht', k⟩ := exec_keeps c { s with pending := rest }
    cases ht'.symm.trans h
    rw [State.frontLoad_cons hq]
    exact k
  | nil =>
    rw [step_nil hq] at h
    cases h
    have e := State.withTail_of_nil hq
    rw [hq] at e
    rw [State.frontLoad_nil hq, e]
    exact tick_kept (.refl s)

theorem State.loaded_pending (s : State) (l : Option ColdIn) : (s.loaded l).pending = s.pending := by
  cases l <;> rfl

theorem State.loaded_memOk {s : State} (l : Option ColdIn) (h : s.MemOk) : (s.loaded l).MemOk := by
  cases l
  · exact h
  · exact { h with }

theorem State.loaded_tablesOk {s : State} (l : Option ColdIn) (h : s.TablesOk) : (s.loaded l).TablesOk := by
  cases l
  · exact h
  · exact { h with }

/-- The commands that load the fuses: a cold reset, and in FACTORY a warm one or a change of the lifecycle. -/
theorem State.coldLoad_eq_some {s : State} {c : Instr} {i : ColdIn} (h : s.coldLoad c = some i) :
    (∃ w, c = .coldReset w i) ∨ s.mode = .factory ∧ (c = .warmReset i ∨ ∃ code, c = .lifeChange code i) := by
  unfold State.coldLoad at h
  split at h
  next w i' => cases h; exact .inl ⟨w, rfl⟩
  next i' =>
    split at h
    next hm => cases h; exact .inr ⟨hm, .inl rfl⟩
    next => cases h
  next code i' =>
    split at h
    next hm => cases h; exact .inr ⟨hm.1, .inr ⟨code, rfl⟩⟩
    next => cases h
  next => cases h

/-- What the fuses are after a step. -/
theorem step_fuses {s t : State} (h : step s = .next t) :
    t.fuses = s.fuses ∨ ∃ i, t.fuses = { i.fuses.getD s.fuses with variant := s.fuses.variant } ∧ s.frontLoad = some i := by
  have k := (step_keeps h).fuses
  cases hl : s.frontLoad with
  | none => rw [hl] at k; exact .inl k
  | some i => rw [hl] at k; exact .inr ⟨i, k, rfl⟩

/-- Settles O5: each command, by its own lemma of `Kept`, keeps the tables and memories of the state whose fuses it may load. -/
theorem everyStepKeepsTheTablesAndFuses : Obligations.EveryStepKeepsTheTablesAndFuses := by
  refine ⟨fun s t h => ?_, fun s t h => ?_⟩
  · have k := step_keeps h
    exact ⟨fun hs => k.tab (State.loaded_tablesOk _ { hs with }), fun hs => k.mem (State.loaded_memOk _ { hs with })⟩
  · refine ⟨(step_keeps h).pending.trans (State.loaded_pending _ _), (step_fuses h).imp_right fun ⟨i, hi, hf⟩ => ⟨i, hi, ?_⟩⟩
    cases hq : s.pending with
    | nil => cases (State.frontLoad_nil hq).symm.trans hf
    | cons c rest =>
      rcases State.coldLoad_eq_some ((State.frontLoad_cons hq).symm.trans hf) with ⟨w, rfl⟩ | ⟨hm, rfl | ⟨code, rfl⟩⟩
      · exact .inl ⟨w, rest, rfl⟩
      · exact .inr ⟨hm, 0, rest, .inl rfl⟩
      · exact .inr ⟨hm, code, rest, .inr rfl⟩

end Sys2Proof.Machine
end

section
/-! What reset leaves. -/
namespace Sys2Proof.Machine

theorem runner_reset (r : Rid) : State.reset.runner r = {} := by cases r <;> rfl

/-- The heat caches are enabled after reset (R320). -/
theorem cacheEnable_reset : ∀ h < 16, (State.reset.reg (0x40 + h) 0x100).getLsbD 0 = true := by decide

/-- Settles O6: every part that reset lists nothing of reads as its default, a register as its layout's reset value. -/
theorem resetValues : Obligations.ResetValues := by
  unfold Obligations.ResetValues
  refine ⟨rfl, rfl, rfl, rfl, rfl, ?modeLast, ?runners, ?rings, ?queues, rfl, rfl, rfl, ?caches, rfl, fun _ => rfl, fun _ => ⟨rfl, rfl⟩, fun _ => rfl,
    ?classN, rfl, rfl, rfl, rfl⟩
  case modeLast => decide
  case runners =>
    intro r
    rw [runner_reset]
    exact ⟨rfl, rfl, rfl, rfl, rfl, rfl, rfl, rfl, rfl, rfl, rfl⟩
  case rings => exact fun _ => ⟨rfl, rfl, rfl, rfl, rfl⟩
  case queues => exact fun _ _ => ⟨rfl, rfl, rfl⟩
  case caches => exact fun h => ⟨rfl, rfl, cacheEnable_reset (h % 16) (Nat.mod_lt h (by decide))⟩
  case classN => decide

end Sys2Proof.Machine
end

section
/-! Presence of heats and root ports, and the pages of absent units (R2, R3, R5, R7). -/
namespace Sys2Proof.Machine

/-! Bits of a sum of powers of two -/

theorem sumBits_succ (f : Nat → Bool) (n : Nat) :
    (List.range (n + 1)).foldl (fun a h => a + b2n (f h) * 2 ^ h) 0 = 2 ^ n * b2n (f n) + (List.range n).foldl (fun a h => a + b2n (f h) * 2 ^ h) 0 := by
  rw [List.range_succ, List.foldl_append, List.foldl_cons, List.foldl_nil, Nat.mul_comm, Nat.add_comm]

theorem sumBits_lt (f : Nat → Bool) (n : Nat) : (List.range n).foldl (fun a h => a + b2n (f h) * 2 ^ h) 0 < 2 ^ n := by
  induction n with
  | zero => exact Nat.one_pos
  | succ n ih =>
    rw [sumBits_succ, Nat.pow_succ]
    have hb : b2n (f n) ≤ 1 := by cases f n <;> decide
    have := Nat.mul_le_mul_left (2 ^ n) hb
    omega

/-- Bit `j` of the sum of `2 ^ h` over the `h` below `n` for which `f` holds. -/
theorem testBit_sumBits (f : Nat → Bool) (n j : Nat) :
    ((List.range n).foldl (fun a h => a + b2n (f h) * 2 ^ h) 0).testBit j = (decide (j < n) && f j) := by
  induction n with
  | zero => simp
  | succ n ih =>
    rw [sumBits_succ, Nat.testBit_two_pow_mul_add _ (sumBits_lt f n)]
    by_cases hj : j < n
    · rw [if_pos hj, ih, decide_eq_true hj, decide_eq_true (by omega)]
    · rw [if_neg hj]
      by_cases he : j = n
      · subst he
        cases f j <;> simp [b2n]
      · have hb : (b2n (f n)).testBit (j - n) = false := by
          refine Nat.testBit_lt_two_pow (Nat.lt_of_le_of_lt (m := 1) ?_ (Nat.one_lt_two_pow (by omega)))
          cases f n <;> decide
        rw [hb, decide_eq_false (by omega), Bool.false_and]

/-! Presence (R2, R3, R5) -/

theorem heats_le (v : Variant) : v.heats ≤ 16 := by cases v <;> decide

theorem xor_one_lt_two_pow {n h : Nat} (hn : 0 < n) : h ^^^ 1 < 2 ^ n ↔ h < 2 ^ n := by
  have h1 : 1 < 2 ^ n := Nat.one_lt_two_pow (by omega)
  refine ⟨fun h' => ?_, fun h' => Nat.xor_lt_two_pow h' h1⟩
  have := Nat.xor_lt_two_pow h' h1
  rwa [Nat.xor_assoc, Nat.xor_self, Nat.xor_zero] at this

/-- Partners are present together (R3). -/
theorem heatPresent_partner (s : State) (h : Nat) : s.heatPresent (partner h) = s.heatPresent h := by
  have hv : ∃ n, 0 < n ∧ s.fuses.variant.heats = 2 ^ n := by
    cases s.fuses.variant
    · exact ⟨4, by decide, rfl⟩
    · exact ⟨3, by decide, rfl⟩
    · exact ⟨2, by decide, rfl⟩
  obtain ⟨n, hn, hv⟩ := hv
  unfold State.heatPresent State.nHeats partner
  rw [hv]
  exact decide_eq_decide.2 (xor_one_lt_two_pow hn)

theorem pageRead_heatMap (s : State) (o : Origin) : (s.pageRead o 0 0x104).1 = nreg (2 ^ s.nHeats - 1) := rfl

theorem pageRead_heatLive (s : State) (o : Origin) : (s.pageRead o 0 0x108).1 = nreg s.heatLive := rfl

theorem getLsbD_heatMap (s : State) (o : Origin) {j : Nat} (hj : j < 32) : (s.pageRead o 0 0x104).1.getLsbD j = s.heatPresent j := by
  rw [pageRead_heatMap, nreg, BitVec.getLsbD_ofNat, Nat.testBit_two_pow_sub_one, decide_eq_true hj, Bool.true_and]
  rfl

theorem getLsbD_heatLive (s : State) (o : Origin) {j : Nat} (hj : j < 32) :
    (s.pageRead o 0 0x108).1.getLsbD j = (s.heatPresent j && !s.heatFen.getLsbD j) := by
  rw [pageRead_heatLive, nreg, BitVec.getLsbD_ofNat, State.heatLive, testBit_sumBits, decide_eq_true hj, Bool.true_and]
  unfold State.heatUp
  by_cases h : j < 16
  · rw [decide_eq_true h, Bool.true_and]
  · have hp : s.heatPresent j = false := decide_eq_false (by have := heats_le s.fuses.variant; unfold State.nHeats; omega)
    rw [decide_eq_false h, hp, Bool.false_and, Bool.false_and]

/-! What a register write leaves -/

/-- A register write is one of its page, or none; a link and the TAP are answered. -/
theorem regWrite_cases {s : State} (hm : s.mode ≠ .quiesce) (o : Origin) (p off : Nat) (d : Reg) (lost : List Nat) :
    ∃ u, (u = s ∨ u = (s.pageWrite o p off d lost).1) ∧ (s.regWrite o p off d lost = u ∨ ∃ x, s.regWrite o p off d lost = u.put x) := by
  unfold State.regWrite
  cases o with
  | link k c =>
    simp only [State.asleep, hm, if_false]
    split
    next t e => exact ⟨t, .inr (by rw [e]), .inr ⟨_, rfl⟩⟩
    next t _ _ e => exact ⟨t, .inr (by rw [e]), .inr ⟨_, rfl⟩⟩
  | tap =>
    simp only [hm, if_false]
    unfold State.tapWrite
    split
    · exact ⟨s, .inl rfl, .inr ⟨_, rfl⟩⟩
    · split
      next => exact ⟨s, .inl rfl, .inl rfl⟩
      next t _ _ e => exact ⟨t, .inr (by rw [e]), .inr ⟨_, rfl⟩⟩
  | runner r c u =>
    simp only [hm, if_false]
    split
    next => exact ⟨s, .inl rfl, .inl rfl⟩
    next t _ _ e => exact ⟨t, .inr (by rw [e]), .inl rfl⟩

theorem acceptWrite_heatFen (s : State) (o : Origin) (p off : Nat) (d : Reg) (rsvd quiet : Bool) {eff : State → State}
    (he : ∀ s, (eff s).heatFen = s.heatFen) : (s.acceptWrite o p off d rsvd quiet eff).1.heatFen = s.heatFen := by
  unfold State.acceptWrite State.when
  dsimp only
  split
  · rfl
  · rw [he]
    split <;> split <;> rfl

theorem rejectWrite_heatFen (s : State) (o : Origin) (p off reason : Nat) (d : Reg) : (s.rejectWrite o p off reason d).1.heatFen = s.heatFen := rfl

/-- A write of the page CPX fences nothing (R5). -/
theorem pageWrite_cpx_heatFen (s : State) (o : Origin) (off : Nat) (d : Reg) (lost : List Nat) :
    (s.pageWrite o 0 off d lost).1.heatFen = s.heatFen := by
  have hp : pageType s.fuses.variant 0 = some (.cpx, 0) := rfl
  unfold State.pageWrite
  simp only [hp]
  split
  · exact rejectWrite_heatFen ..
  split
  · exact acceptWrite_heatFen _ _ _ _ _ _ _ fun _ => rfl
  split
  · exact acceptWrite_heatFen _ _ _ _ _ _ _ fun _ => rfl
  split
  · exact rejectWrite_heatFen ..
  split
  · exact rejectWrite_heatFen ..
  split
  · exact acceptWrite_heatFen _ _ _ _ _ _ _ fun _ => rfl
  · exact rejectWrite_heatFen ..

theorem heatLive_congr {s t : State} (hf : t.fuses = s.fuses) (hh : t.heatFen = s.heatFen) : t.heatLive = s.heatLive := by
  unfold State.heatLive State.heatUp State.heatPresent State.nHeats
  rw [hf, hh]

/-- A page that is reserved or belongs to an absent unit takes nothing (R7). -/
theorem pageWrite_absent {s : State} {p : Nat} (h : pageType s.fuses.variant p = none) (o : Origin) (off : Nat) (d : Reg) (lost : List Nat) :
    s.pageWrite o p off d lost = (s, .ok) := by
  unfold State.pageWrite
  rw [h]

theorem pageRead_absent {s : State} {p : Nat} (h : pageType s.fuses.variant p = none) (o : Origin) (off : Nat) : s.pageRead o p off = (0, s) := by
  unfold State.pageRead
  rw [h]

/-- Neither the map nor the live heats change with a write of the page CPX. -/
theorem regWrite_cpx_reads {s : State} (hm : s.mode ≠ .quiesce) (o : Origin) (off : Nat) (d : Reg) :
    ((s.regWrite o 0 off d).pageRead o 0 0x104).1 = (s.pageRead o 0 0x104).1
    ∧ ((s.regWrite o 0 off d).pageRead o 0 0x108).1 = (s.pageRead o 0 0x108).1 := by
  have hf : (s.regWrite o 0 off d).fuses = s.fuses := (regWrite_kept (.refl s)).fuses
  have hh : (s.regWrite o 0 off d).heatFen = s.heatFen := by
    obtain ⟨u, hu, hr⟩ := regWrite_cases hm o 0 off d []
    have hu : u.heatFen = s.heatFen := by
      rcases hu with rfl | rfl
      · rfl
      · exact pageWrite_cpx_heatFen ..
    rcases hr with e | ⟨x, e⟩ <;> rw [e]
    · exact hu
    · exact hu
  rw [pageRead_heatMap, pageRead_heatMap, pageRead_heatLive, pageRead_heatLive, heatLive_congr hf hh]
  exact ⟨by unfold State.nHeats; rw [hf], rfl⟩

/-- Settles O35: presence is a matter of the variant alone, and a page without a unit neither reads nor takes anything. -/
theorem presenceIsAsFused : Obligations.PresenceIsAsFused := by
  intro s o k p off h c d _ hm
  refine ⟨rfl, rfl, rfl, heatPresent_partner s h, fun j hj => ⟨getLsbD_heatMap s o hj, getLsbD_heatLive s o hj⟩,
    fun _ => ⟨_, rfl, regWrite_cpx_reads hm o off d⟩, fun hp => ⟨pageRead_absent hp o off, ?_⟩⟩
  exact congrArg Host.Outcome.next (regWrite_ok hm (fun e => by cases e) (pageWrite_absent hp (.link k c) off d []))

end Sys2Proof.Machine
end

section
/-! Register writes: fields as masks, the registers that a write only stores into, and rejections (R17, R20 to R24, R476). -/
namespace Sys2Proof.Machine

/-! Fields as masks (R18, R20 to R22) -/

/-- The bits of a field that a write may change. -/
def Fld.mask (f : Fld) : Reg := if f.acc = .rw then BitVec.ofNat 32 ((2 ^ (f.hi - f.lo + 1) - 1) * 2 ^ f.lo) else 0

/-- The bits of a register that a write may change. -/
def rwMask (fs : List Fld) : Reg := fs.foldr (fun f m => f.mask ||| m) 0

/-- One field of `d` written over `a`, directly (`m` 0), by setting bits (1) or by clearing them (2). -/
def Fld.written (f : Fld) (d : Reg) (m : Nat) (a : Reg) : Reg :=
  if f.acc = .rw ∧ (m = 0 ∨ (f.hi = f.lo ∧ d.getLsbD f.lo = true)) then
    setFld a f.hi f.lo (if m = 0 then fld d f.hi f.lo else if m = 1 then 1 else 0)
  else a

/-- What a write of `d` leaves of `a` in the bits of `mask`, directly (`m` 0), by setting bits (1) or by clearing them (2) (R21, R22). -/
def maskWrite (mask d : Reg) (m : Nat) (a : Reg) : Reg :=
  if m = 0 then (a &&& ~~~mask) ||| (d &&& mask) else if m = 1 then a ||| (d &&& mask) else a &&& ~~~(d &&& mask)

theorem getLsbD_fldMask (hi lo j : Nat) (hj : j < 32) :
    (BitVec.ofNat 32 ((2 ^ (hi - lo + 1) - 1) * 2 ^ lo)).getLsbD j = decide (lo ≤ j ∧ j - lo < hi - lo + 1) := by
  rw [BitVec.getLsbD_ofNat, decide_eq_true hj, Bool.true_and, Nat.testBit_mul_two_pow, Nat.testBit_two_pow_sub_one, Bool.decide_and]

/-- A field set to the same field of another word takes that word's bits. -/
theorem setFld_fld (a d : Reg) (hi lo : Nat) :
    setFld a hi lo (fld d hi lo) = (a &&& ~~~BitVec.ofNat 32 ((2 ^ (hi - lo + 1) - 1) * 2 ^ lo)) ||| (d &&& BitVec.ofNat 32 ((2 ^ (hi - lo + 1) - 1) * 2 ^ lo)) := by
  have h : BitVec.ofNat 32 (fld d hi lo % 2 ^ (hi - lo + 1) * 2 ^ lo) = d &&& BitVec.ofNat 32 ((2 ^ (hi - lo + 1) - 1) * 2 ^ lo) := by
    refine BitVec.eq_of_getLsbD_eq fun j hj => ?_
    rw [BitVec.getLsbD_and, getLsbD_fldMask hi lo j hj, BitVec.getLsbD_ofNat, decide_eq_true hj, Bool.true_and, Nat.testBit_mul_two_pow,
      Nat.testBit_mod_two_pow, fld, BitVec.testBit_toNat, BitVec.getLsbD_extractLsb']
    by_cases hl : lo ≤ j
    · rw [Nat.add_sub_cancel' hl]
      by_cases hb : j - lo < hi - lo + 1 <;> simp [hl, hb]
    · simp [hl]
  unfold setFld
  dsimp only
  rw [h]

/-- The mask of bit `b`. -/
def bitMask (b : Nat) : Reg := BitVec.ofNat 32 ((2 ^ (b - b + 1) - 1) * 2 ^ b)

theorem getLsbD_bitMask (b j : Nat) (hj : j < 32) : (bitMask b).getLsbD j = decide (j = b) := by
  rw [bitMask, getLsbD_fldMask b b j hj]
  exact decide_eq_decide.2 (by omega)

theorem and_bitMask (d : Reg) (b : Nat) : d &&& bitMask b = if d.getLsbD b = true then bitMask b else 0 := by
  refine BitVec.eq_of_getLsbD_eq fun j hj => ?_
  rw [BitVec.getLsbD_and, getLsbD_bitMask b j hj]
  by_cases hb : j = b
  · subst hb
    cases hd : d.getLsbD j <;> simp [getLsbD_bitMask j j hj]
  · cases hd : d.getLsbD b <;> simp [getLsbD_bitMask b j hj, hb]

theorem setFld_bit_one (a : Reg) (b : Nat) : setFld a b b 1 = a ||| bitMask b := by
  have h : setFld a b b 1 = (a &&& ~~~bitMask b) ||| bitMask b := by
    unfold setFld bitMask
    rw [Nat.sub_self]
    rfl
  rw [h]
  refine BitVec.eq_of_getLsbD_eq fun j hj => ?_
  simp only [BitVec.getLsbD_or, BitVec.getLsbD_and, BitVec.getLsbD_not, hj, decide_true, Bool.true_and]
  cases a.getLsbD j <;> cases (bitMask b).getLsbD j <;> rfl

theorem setFld_bit_zero (a : Reg) (b : Nat) : setFld a b b 0 = a &&& ~~~bitMask b := by
  unfold setFld bitMask
  rw [Nat.zero_mod, Nat.zero_mul]
  exact BitVec.or_zero

theorem and_not_zero (a : Reg) : a &&& ~~~(0 : Reg) = a := BitVec.and_allOnes

theorem maskWrite_zero_mask (d : Reg) (m : Nat) (a : Reg) : maskWrite 0 d m a = a := by
  unfold maskWrite
  have h : d &&& (0 : Reg) = 0 := BitVec.and_zero
  have h' : a ||| (0 : Reg) = a := BitVec.or_zero
  rw [h, h', and_not_zero, h', ite_self, ite_self]

/-- Setting and clearing change nothing where `d` has no one in a field. -/
theorem maskWrite_of_and_eq_zero {k d : Reg} {m : Nat} (a : Reg) (hm : m ≠ 0) (h : d &&& k = 0) : maskWrite k d m a = a := by
  have h' : a ||| (0 : Reg) = a := BitVec.or_zero
  unfold maskWrite
  rw [if_neg hm, h, h', and_not_zero, ite_self]

theorem Fld.written_eq (f : Fld) (d : Reg) (m : Nat) (a : Reg) (h : m = 0 ∨ f.hi = f.lo) : f.written d m a = maskWrite f.mask d m a := by
  unfold Fld.written Fld.mask
  by_cases hr : f.acc = .rw
  · by_cases hm : m = 0
    · simp only [hr, hm, true_or, and_self, if_true]
      exact setFld_fld ..
    · have hb := h.resolve_left hm
      have hk := and_bitMask d f.lo
      simp only [hr, hm, hb, true_and, false_or, if_false, if_true]
      rw [← bitMask]
      by_cases hd : d.getLsbD f.lo = true
      · rw [if_pos hd] at hk ⊢
        unfold maskWrite
        rw [if_neg hm, hk]
        by_cases h1 : m = 1
        · rw [if_pos h1, if_pos h1]; exact setFld_bit_one ..
        · rw [if_neg h1, if_neg h1]; exact setFld_bit_zero ..
      · rw [if_neg hd] at hk ⊢
        exact (maskWrite_of_and_eq_zero a hm hk).symm
  · rw [if_neg fun h => hr h.1, if_neg hr]
    exact (maskWrite_zero_mask d m a).symm

theorem getLsbD_maskWrite (k d : Reg) (m : Nat) (a : Reg) {j : Nat} (hj : j < 32) :
    (maskWrite k d m a).getLsbD j = if k.getLsbD j then
      (if m = 0 then d.getLsbD j else if m = 1 then a.getLsbD j || d.getLsbD j else a.getLsbD j && !d.getLsbD j) else a.getLsbD j := by
  unfold maskWrite
  split
  · simp only [BitVec.getLsbD_or, BitVec.getLsbD_and, BitVec.getLsbD_not, hj, decide_true, Bool.true_and]
    cases k.getLsbD j <;> simp
  · split
    · simp only [BitVec.getLsbD_or, BitVec.getLsbD_and]
      cases k.getLsbD j <;> simp
    · simp only [BitVec.getLsbD_and, BitVec.getLsbD_not, hj, decide_true, Bool.true_and]
      cases k.getLsbD j <;> simp

/-- Writing the bits of one mask and then those of another writes the bits of both. -/
theorem maskWrite_maskWrite (k l d : Reg) (m : Nat) (a : Reg) : maskWrite l d m (maskWrite k d m a) = maskWrite (k ||| l) d m a := by
  refine BitVec.eq_of_getLsbD_eq fun j hj => ?_
  simp only [getLsbD_maskWrite _ _ _ _ hj, BitVec.getLsbD_or]
  cases k.getLsbD j <;> cases l.getLsbD j <;> simp
  split
  · rfl
  · split
    · cases a.getLsbD j <;> cases d.getLsbD j <;> rfl
    · cases a.getLsbD j <;> cases d.getLsbD j <;> rfl

/-- The fields of a layout written one after the other. -/
theorem foldl_written (fs : List Fld) (d : Reg) (m : Nat) (a : Reg) (h : m = 0 ∨ ∀ f ∈ fs, f.hi = f.lo) :
    fs.foldl (fun a f => f.written d m a) a = maskWrite (rwMask fs) d m a := by
  induction fs generalizing a with
  | nil => exact (maskWrite_zero_mask d m a).symm
  | cons f fs ih =>
    rw [List.foldl_cons, ih _ (h.imp_right fun h f hf => h f (List.mem_cons_of_mem _ hf)), Fld.written_eq f d m a (h.imp_right fun h => h f (List.mem_cons_self ..)),
      maskWrite_maskWrite]
    rfl

/-- Storing the written fields over the old value writes them. -/
theorem maskWrite_over (k d : Reg) (m : Nat) (a : Reg) : maskWrite k (maskWrite k d m a) 0 a = maskWrite k d m a := by
  refine BitVec.eq_of_getLsbD_eq fun j hj => ?_
  rw [getLsbD_maskWrite _ _ _ _ hj, getLsbD_maskWrite _ _ _ _ hj]
  cases k.getLsbD j <;> simp

/-- The fields a write leaves, where no value of a field and no pair of fields is a reserved encoding. -/
theorem compose_legal {s : State} {t : PType} {inst u : Nat} {fs : List Fld} (hf : ∀ f x, s.fieldBad t inst u f x = false)
    (hc : ∀ v, comboBad s.fuses.variant.full t u v = none) (base d : Reg) (m : Nat) :
    s.compose t inst u fs base d m = (fs.foldl (fun a f => f.written d m a) base, false) := by
  unfold State.compose
  simp only [hf, hc, Bool.false_eq_true, if_false]
  refine List.foldl_hom (fun v => (v, false)) fun a f => ?_
  unfold Fld.written
  dsimp only
  split <;> rfl

theorem storeRw_eq (s : State) (p u : Nat) (fs : List Fld) (v : Reg) : s.storeRw p u fs v = s.setReg p u (maskWrite (rwMask fs) v 0 (s.reg p u)) := by
  unfold State.storeRw
  rw [← foldl_written fs v 0 _ (.inl rfl)]
  congr 2
  funext a f
  unfold Fld.written
  simp

theorem regKey_ne {p u v : Nat} (h : u / 4 ≠ v / 4) : regKey p u ≠ regKey p v := by
  unfold regKey
  omega

/-- Counting and recording a write touches no other register of its page. -/
theorem accepted_reg {s : State} (h : s.TablesOk) (o : Origin) (p off : Nat) (d : Reg) (b : Bool) {u : Nat} (hu : regKey p u ≠ regKey p 0x18) :
    (s.accepted o p off d b).reg p u = s.reg p u := by
  unfold State.accepted
  cases b <;> exact State.reg_setReg_other h hu _

/-- A register of page `p` that a write only stores into: its layout, and that nothing it may be written with is reserved or has an effect of its own. -/
structure StoresOnly (s : State) (t : PType) (inst p u : Nat) (fs : List Fld) : Prop where
  page    : pageType s.fuses.variant p = some (t, inst)
  fields  : fieldsAt t u = some fs := by rfl
  world   : t.custody = false := by rfl
  audited : unaudited t u = false := by rfl
  whole   : isLo t u = false := by rfl
  reads   : s.curVal t inst p u = s.reg p u := by rfl
  legal   : ∀ f x, s.fieldBad t inst u f x = false := by intros; rfl
  combo   : ∀ v, comboBad s.fuses.variant.full t u v = none := by intros; rfl
  act     : ∀ d, s.actBad t u d = false := by intros; rfl
  stores  : ∀ (s : State) v d b, s.writeUnit t inst p u fs v d b false [] = s.storeRw p u fs v := by intros; rfl
  apart   : u / 4 ≠ 0x18 / 4 := by decide

/-- A write of such a register that nothing rejects leaves its fields, written whole, set or cleared, and nothing else of its own. -/
theorem StoresOnly.regWrite {s : State} {t : PType} {inst p u : Nat} {fs : List Fld} (r : StoresOnly s t inst p u fs) (hs : s.TablesOk) {o : Origin}
    (ho : s.takesWrites o) {off m : Nat} {d : Reg} (h8 : 0x20 < off) (hu : unalias off = some (u, m)) (hm : m = 0 ∨ ∀ f ∈ fs, f.hi = f.lo)
    (hw : ∀ v, s.writeBad o t inst p u m fs v d = 0) :
    s.regWrite o p off d = ((s.accepted o p off d).setReg p u (maskWrite (rwMask fs) d m (s.reg p u))).replied o := by
  have hv := (compose_legal r.legal r.combo (s.reg p u) d m).trans (by rw [foldl_written fs d m _ hm])
  rw [regWrite_unit ho r.page (by rw [r.world]; rfl) h8 hu r.fields (by rw [r.act, Bool.and_false])
    (by rw [r.whole, if_neg Bool.false_ne_true, r.reads]; exact hv) (hw _), r.stores, storeRw_eq, r.audited, accepted_reg hs _ _ _ _ _ (regKey_ne r.apart), maskWrite_over]
  rfl

theorem changesS_eq_false {fs : List Fld} (h : ∀ f ∈ fs, f.cls ≠ .s) (a b : Reg) : changesS fs a b = false := by
  refine List.any_eq_false.2 fun f hf => ?_
  have := h f hf
  simp [this]

/-! Pages of present units (R470) -/

theorem pageType_heat {v : Variant} {h : Nat} (hh : h < v.heats) : pageType v (0x10 + h) = some (.heat, h) := by
  have all : ∀ v : Variant, ∀ h < v.heats, pageType v (0x10 + h) = some (.heat, h) := fun v => by cases v <;> decide
  exact all v h hh

theorem pageType_spad {v : Variant} {h : Nat} (hh : h < v.heats) : pageType v (0x30 + h) = some (.spad, h) := by
  have all : ∀ v : Variant, ∀ h < v.heats, pageType v (0x30 + h) = some (.spad, h) := fun v => by cases v <;> decide
  exact all v h hh

theorem pageType_hcache {v : Variant} {h : Nat} (hh : h < v.heats) : pageType v (0x40 + h) = some (.hcache, h) := by
  have all : ∀ v : Variant, ∀ h < v.heats, pageType v (0x40 + h) = some (.hcache, h) := fun v => by cases v <;> decide
  exact all v h hh

theorem pageType_rp {v : Variant} {p : Nat} (hp : p < v.rps) : pageType v (0x60 + p) = some (.rp, p) := by
  have all : ∀ v : Variant, ∀ p < v.rps, pageType v (0x60 + p) = some (.rp, p) := fun v => by cases v <;> decide
  exact all v p hp

/-! The registers named: each is only stored into -/

theorem storesOnly_wakec (s : State) : StoresOnly s .pwr 0 2 0x188 [rw 0 0] where
  page := rfl

theorem storesOnly_batctl {s : State} {h : Nat} (hh : s.heatPresent h = true) : StoresOnly s .heat h (0x10 + h) 0x140 [rw 8 0 0x1FF] where
  page := pageType_heat (of_decide_eq_true hh)

theorem storesOnly_spadCtl {s : State} {h : Nat} (hh : s.heatPresent h = true) : StoresOnly s .spad h (0x30 + h) 0x100 [rw 3 1, rw 0 0 1] where
  page := pageType_spad (of_decide_eq_true hh)

theorem storesOnly_note {s : State} {p : Nat} (hp : s.portPresent p = true) : StoresOnly s .rp p (0x60 + p) 0x138 [rw 15 0] where
  page := pageType_rp (of_decide_eq_true hp)

/-- The thirteen mask bits of RP.AERM. -/
def aermFields : List Fld := bits (fun a b c => rw a b c) 13 0x133C

theorem storesOnly_aerm {s : State} {p : Nat} (hp : s.portPresent p = true) : StoresOnly s .rp p (0x60 + p) 0x114 aermFields where
  page := pageType_rp (of_decide_eq_true hp)

/-- No state, world or mode rejects a write of them: they have no field of class S. -/
theorem writeBad_storesOnly {t : PType} {u : Nat} (h : (t, u) ∈ [(.pwr, 0x188), (.heat, 0x140), (.spad, 0x100), (PType.rp, 0x138), (.rp, 0x114)])
    (s : State) (o : Origin) (inst p m : Nat) {fs : List Fld} (hfs : ∀ f ∈ fs, f.cls ≠ .s) (v d : Reg) : s.writeBad o t inst p u m fs v d = 0 := by
  simp only [List.mem_cons, List.not_mem_nil, or_false, Prod.mk.injEq] at h
  rcases h with ⟨rfl, rfl⟩ | ⟨rfl, rfl⟩ | ⟨rfl, rfl⟩ | ⟨rfl, rfl⟩ | ⟨rfl, rfl⟩ <;> unfold State.writeBad <;> simp [changesS_eq_false hfs, isHi, isLo]

/-! Rejections (R7, R23, R476) -/

theorem pageWrite_world {s : State} {p inst : Nat} {t : PType} {o : Origin} (ht : pageType s.fuses.variant p = some (t, inst)) (hc : t.custody = true)
    (ho : o.cust = false) (off : Nat) (d : Reg) (lost : List Nat) : s.pageWrite o p off d lost = (s.pwerr o p off 2 d, .rejected) := by
  unfold State.pageWrite
  simp only [ht, hc, ho, Bool.not_false, Bool.and_self, if_true]
  rfl

/-- An offset that holds no register, by itself or with its bits set or cleared (R22). -/
theorem pageWrite_unknown {s : State} {p off inst : Nat} {t : PType} (ht : pageType s.fuses.variant p = some (t, inst)) (hc : t.custody = false)
    (h8 : off ≠ 8) (h20 : 0x20 < off) (hu : (unalias off).bind (fun e => fieldsAt t e.1) = none) (o : Origin) (d : Reg) (lost : List Nat) :
    s.pageWrite o p off d lost = (s.pwerr o p off 7 d, .rejected) := by
  unfold State.pageWrite
  simp only [ht, hc, Bool.false_and, Bool.false_eq_true, if_false, if_neg h8, if_neg (Nat.not_le.2 h20)]
  cases ha : unalias off with
  | none => rfl
  | some e =>
    rw [ha] at hu
    have hf : fieldsAt t e.1 = none := hu
    simp only [hf]
    rfl

theorem pwerr_eq (s : State) (o : Origin) (p reason : Nat) {off : Nat} (d : Reg) (h : off < 0x1000) :
    s.pwerr o p off reason d = (s.setReg p 0x10 (BitVec.ofNat 32 (2 ^ 31 + (if o.cust then 2 ^ 30 else 0) + o.code * 2 ^ 28 + reason * 2 ^ 24 + off))).setReg p 0x14 d := by
  unfold State.pwerr nreg
  rw [Nat.mod_eq_of_lt (by omega)]
  cases o.cust <;> rfl

/-- Offsets of CPX, MODE and PWR that the statement names hold nothing. -/
theorem unknown_offsets : ∀ t ∈ [PType.cpx, .mode, .pwr], ∀ off ∈ [0xFC, 0x200, 0x3FC, 0x400, 0x4FC, 0x800, 0xC00, 0xFFC],
    t.custody = false ∧ off ≠ 8 ∧ 0x20 < off ∧ (unalias off).bind (fun e => fieldsAt t e.1) = none := by decide

theorem maskWrite_unalias {off u m : Nat} (hu : unalias off = some (u, m)) (mask d a : Reg) :
    u = off % 0x400 ∧ maskWrite mask d m a
      = if off < 0x400 then (a &&& ~~~mask) ||| (d &&& mask) else if off < 0x800 then a ||| (d &&& mask) else a &&& ~~~(d &&& mask) := by
  unfold unalias at hu
  unfold maskWrite
  split at hu
  · obtain ⟨rfl, rfl⟩ := Prod.mk.inj (Option.some.inj hu)
    exact ⟨by omega, by rw [if_pos rfl, if_pos (by omega)]⟩
  split at hu
  · obtain ⟨rfl, rfl⟩ := Prod.mk.inj (Option.some.inj hu)
    exact ⟨by omega, by rw [if_neg (by decide), if_pos rfl, if_neg (by omega), if_pos (by omega)]⟩
  split at hu
  · obtain ⟨rfl, rfl⟩ := Prod.mk.inj (Option.some.inj hu)
    exact ⟨by omega, by rw [if_neg (by decide), if_neg (by decide), if_neg (by omega), if_neg (by omega)]⟩
  · cases hu

/-- The offsets of RP.AERM: its own, and those that set and clear (R22). -/
theorem aerm_offsets : ∀ off ∈ [0x114, 0x514, 0x914], ∃ m < 3, unalias off = some (0x114, m) ∧ 0x20 < off := by decide

/-- The registers of the statement's last clause: which they are, and the bits that can be written. -/
theorem storesOnly_named {s : State} {p off mask : Nat} (h : (p, off, mask) ∈ [(2, 0x188, 0x1)]
      ∨ (s.heatPresent (p - 0x10) = true ∧ 0x10 ≤ p ∧ p < 0x20 ∧ off = 0x140 ∧ mask = 0x1FF)
      ∨ (s.heatPresent (p - 0x30) = true ∧ 0x30 ≤ p ∧ p < 0x40 ∧ off = 0x100 ∧ mask = 0xF)
      ∨ (s.portPresent (p - 0x60) = true ∧ 0x60 ≤ p ∧ p < 0x70 ∧ (off = 0x138 ∧ mask = 0xFFFF ∨ off ∈ [0x114, 0x514, 0x914] ∧ mask = 0x1FFF))) :
    ∃ t inst u m fs, StoresOnly s t inst p u fs ∧ unalias off = some (u, m) ∧ 0x20 < off ∧ (m = 0 ∨ ∀ f ∈ fs, f.hi = f.lo)
      ∧ rwMask fs = BitVec.ofNat 32 mask ∧ ∀ (o : Origin) v d, s.writeBad o t inst p u m fs v d = 0 := by
  rcases h with h | ⟨hh, hp, _, rfl, rfl⟩ | ⟨hh, hp, _, rfl, rfl⟩ | ⟨hp, hl, _, ⟨rfl, rfl⟩ | ⟨ho, rfl⟩⟩
  · cases List.mem_singleton.1 h
    exact ⟨_, _, _, _, _, storesOnly_wakec s, rfl, by decide, .inl rfl, by decide, fun o => writeBad_storesOnly (by decide) s o _ _ _ (by decide)⟩
  · obtain ⟨h, rfl⟩ : ∃ h, p = 0x10 + h := ⟨p - 0x10, by omega⟩
    rw [Nat.add_sub_cancel_left] at hh
    exact ⟨_, _, _, _, _, storesOnly_batctl hh, rfl, by decide, .inl rfl, by decide, fun o => writeBad_storesOnly (by decide) s o _ _ _ (by decide)⟩
  · obtain ⟨h, rfl⟩ : ∃ h, p = 0x30 + h := ⟨p - 0x30, by omega⟩
    rw [Nat.add_sub_cancel_left] at hh
    exact ⟨_, _, _, _, _, storesOnly_spadCtl hh, rfl, by decide, .inl rfl, by decide, fun o => writeBad_storesOnly (by decide) s o _ _ _ (by decide)⟩
  · obtain ⟨q, rfl⟩ : ∃ q, p = 0x60 + q := ⟨p - 0x60, by omega⟩
    rw [Nat.add_sub_cancel_left] at hp
    exact ⟨_, _, _, _, _, storesOnly_note hp, rfl, by decide, .inl rfl, by decide, fun o => writeBad_storesOnly (by decide) s o _ _ _ (by decide)⟩
  · obtain ⟨q, rfl⟩ : ∃ q, p = 0x60 + q := ⟨p - 0x60, by omega⟩
    rw [Nat.add_sub_cancel_left] at hp
    obtain ⟨m, _, hu, h20⟩ := aerm_offsets off ho
    exact ⟨_, _, _, m, _, storesOnly_aerm hp, hu, h20, .inr (by decide), by decide, fun o => writeBad_storesOnly (by decide) s o _ _ _ (by decide)⟩

/-- Settles O36: an absent page takes nothing, a world or an unknown offset is rejected, and the registers named are only stored into. -/
theorem registerWritesComplete : Obligations.RegisterWritesComplete := by
  intro s o p off d hs ho gives pwerr hoff
  obtain ⟨hm, hr, hl⟩ := ho
  have rejected {reason : Nat} (h : s.pageWrite o p off d [] = (s.pwerr o p off reason d, .rejected)) : gives ((pwerr reason).replied o) := by
    refine congrArg Host.Outcome.next ((regWrite_rejected hm hl h).trans ?_)
    rw [pwerr_eq s o p reason d hoff]
  refine ⟨fun hp => ?absent, fun hc hp => ?world, fun hp hu => ?unknown, fun mask h => ?stored⟩
  case absent => exact congrArg Host.Outcome.next (regWrite_ok hm hl (pageWrite_absent hp o off d []))
  case world =>
    rcases hp with rfl | rfl | rfl | rfl <;> exact rejected (pageWrite_world rfl rfl hc off d [])
  case unknown =>
    have all {t : PType} (ht : pageType s.fuses.variant p = some (t, 0)) (h : t ∈ [PType.cpx, .mode, .pwr]) : gives ((pwerr 7).replied o) := by
      obtain ⟨hc, h8, h20, hn⟩ := unknown_offsets t h off hu
      exact rejected (pageWrite_unknown ht hc h8 h20 hn o d [])
    simp only [List.mem_cons, List.not_mem_nil, or_false] at hp
    rcases hp with rfl | rfl | rfl
    · exact all (t := .cpx) rfl (by decide)
    · exact all (t := .mode) rfl (by decide)
    · exact all (t := .pwr) rfl (by decide)
  case stored =>
    obtain ⟨t, inst, u, m, fs, r, hu, h20, h1, hmask, hw⟩ := storesOnly_named h
    obtain ⟨rfl, ha⟩ := maskWrite_unalias hu (rwMask fs) d (s.reg p u)
    refine congrArg Host.Outcome.next ((r.regWrite hs ⟨hm, hr, hl⟩ h20 hu h1 fun v => hw o v d).trans ?_)
    rw [ha, hmask]

end Sys2Proof.Machine
end

section
/-! Plain reads of a runner's memory, the two-fetch multiply-accumulate, and the registers that only FACTORY writes (R14, R85 to R87, R326, R419). -/
namespace Sys2Proof.Machine

/-! A plain read of a runner's memory (R67, R94, R303) -/

theorem bufByte_eq_none {l : List StoreEnt} {a : Nat} : bufByte l a = none ↔ ∀ e ∈ l, e.covers a = false := by
  unfold bufByte
  split
  next e h =>
    have hm := List.mem_reverse.1 (List.mem_of_find?_eq_some h)
    have hc := List.find?_some h
    exact iff_of_false (by simp) fun hn => by simp [hn e hm] at hc
  next h =>
    refine iff_of_true rfl fun e he => ?_
    simpa using List.find?_eq_none.1 h e (List.mem_reverse.2 he)

/-- Nothing drains where no buffered write satisfies `p`. -/
theorem drainWhile_none {s : State} {r : Rid} {p : StoreEnt → Bool} (h : ∀ e ∈ (s.runner r).writes, p e = false) (n : Nat) : s.drainWhile r p n = s := by
  cases n with
  | zero => rfl
  | succ n =>
    unfold State.drainWhile
    rw [if_neg]
    rw [Bool.not_eq_true]
    exact List.any_eq_false.2 fun e he => by simp [h e he]

theorem readWordErr_clean {s : State} {m w : Nat} (h : ∀ e ∈ (s.up m).ecc, e.1 ≠ w) : s.readWordErr m w = (s, false) := by
  have hf : (s.up m).ecc.find? (fun e => e.1 == w) = none := List.find?_eq_none.2 fun e he => by simp [h e he]
  unfold State.readWordErr
  simp only [hf]

/-- A read that touches no word in error gives the bytes and changes nothing. -/
theorem memRead_clean {s : State} {m a n : Nat} (h : ∀ e ∈ (s.up m).ecc, e.1 < a / 8 ∨ (a + n - 1) / 8 < e.1) : s.memRead m a n = (s, s.bytesAt m a n, false) := by
  have hw : ∀ w ∈ wordsOf a n, s.readWordErr m w = (s, false) := by
    intro w hw
    refine readWordErr_clean fun e he => ?_
    have := h e he
    unfold wordsOf at hw
    split at hw
    · cases hw
    · obtain ⟨k, hk, rfl⟩ := List.mem_map.1 hw
      have := List.mem_range.1 hk
      omega
  have hf : ∀ l : List Nat, (∀ w ∈ l, s.readWordErr m w = (s, false)) →
      l.foldl (fun (p : State × Bool) w => let (s1, b) := p.1.readWordErr m w; (s1, p.2 || b)) (s, false) = (s, false) := by
    intro l
    induction l with
    | nil => exact fun _ => rfl
    | cons w l ih =>
      intro hl
      rw [List.foldl_cons]
      simp only [hl w (List.mem_cons_self ..), Bool.or_self]
      exact ih fun w hw => hl w (List.mem_cons_of_mem _ hw)
  unfold State.memRead
  rw [hf _ hw]

theorem bytesAt_eq_map (s : State) (m a n : Nat) : s.bytesAt m a n = (List.range n).map fun k => s.byteAt m (a + k) := by
  induction n generalizing a with
  | zero => rfl
  | succ n ih =>
    rw [State.bytesAt, ih, List.range_succ_eq_map, List.map_cons, List.map_map, Nat.add_zero]
    congr 2
    funext k
    simp only [Function.comp_apply]
    congr 1
    omega

/-- A load that finds nothing buffered and no word in error: the bytes of the memory, and nothing changes. -/
theorem loadAt_plain {s : State} {r : Rid} {a n : Nat} (hn : 0 < n) (h : s.plainRead r a n) :
    s.loadAt r a n = (s, { val := BitVec.ofNat 64 (leNat ((List.range n).map fun k => s.byteAt r.home (a + k))) }) := by
  obtain ⟨hb, he⟩ := h
  have hc : ∀ k < n, ∀ e ∈ (s.runner r).writes, e.covers (a + k) = false := fun k hk => bufByte_eq_none.1 (hb k hk)
  have hany : ∀ e ∈ (s.runner r).writes, ((bytesFrom a n).any fun k => e.covers k) = false := by
    intro e hm
    refine List.any_eq_false.2 fun j hj => ?_
    obtain ⟨k, hk, rfl⟩ := List.mem_map.1 hj
    rw [hc k (List.mem_range.1 hk) e hm]
    exact Bool.false_ne_true
  have hall : (((bytesFrom a n).map fun k => bufByte (s.runner r).writes k).all Option.isSome) = false := by
    refine List.all_eq_false.2 ⟨none, List.mem_map.2 ⟨a + 0, List.mem_map.2 ⟨0, List.mem_range.2 hn, rfl⟩, hb 0 hn⟩, ?_⟩
    exact Bool.false_ne_true
  unfold State.loadAt
  dsimp only
  rw [if_neg (by rw [hall]; exact Bool.false_ne_true), drainWhile_none hany, memRead_clean he, bytesAt_eq_map]

/-! The beginning of a word leaves memories and operands -/

@[simp] theorem State.updR_up (s : State) (r : Rid) (f : Runner → Runner) (k : Nat) : (s.updR r f).up k = s.up k := by
  unfold State.up
  rw [State.updR_memUp]

@[simp] theorem State.updR_byteAt (s : State) (r : Rid) (f : Runner → Runner) (m a : Nat) : (s.updR r f).byteAt m a = s.byteAt m a := by
  unfold State.byteAt
  rw [State.updR_spads, State.updR_arbMem]

@[simp] theorem beginWord_mode (s : State) (r : Rid) : (s.beginWord r).mode = s.mode := by
  rcases beginWord_cases s r with e | e <;> rw [e]
  exact State.updR_mode ..

@[simp] theorem beginWord_up (s : State) (r : Rid) (k : Nat) : (s.beginWord r).up k = s.up k := by
  rcases beginWord_cases s r with e | e <;> rw [e]
  exact State.updR_up ..

@[simp] theorem beginWord_byteAt (s : State) (r : Rid) (m a : Nat) : (s.beginWord r).byteAt m a = s.byteAt m a := by
  rcases beginWord_cases s r with e | e <;> rw [e]
  exact State.updR_byteAt ..

theorem beginWord_opAddr {s : State} (h : s.TablesOk) (r : Rid) (p : Nat) : (s.beginWord r).opAddr r p = (s.operand r p).toNat := by
  obtain ⟨c, e⟩ := beginWord_runner h r
  unfold State.opAddr
  rw [e]
  rfl

theorem beginWord_dataOk {s : State} (h : s.TablesOk) {r : Rid} {a n : Nat} (hd : s.dataOk r a n) : (s.beginWord r).dataOk r a n := by
  obtain ⟨c, e⟩ := beginWord_runner h r
  unfold State.dataOk
  rw [e, beginWord_up]
  exact hd

theorem taking_plainRead {s : State} (h : s.TablesOk) {r : Rid} {a n : Nat} (hp : s.plainRead r a n) : (s.taking r).plainRead r a n := by
  obtain ⟨c, k, e⟩ := taking_runner h r
  have hu : (s.taking r).up r.home = s.up r.home := (State.updR_up ..).trans (beginWord_up ..)
  unfold State.plainRead
  rw [e, hu]
  exact hp

theorem taking_wordAt (s : State) (r : Rid) (a : Nat) : (s.taking r).wordAt r a = s.wordAt r a := by
  unfold State.wordAt State.taking
  simp only [State.updR_byteAt, beginWord_byteAt]

/-- An access that its runner may make raises no fault and waits for no wipe (R93, R307). -/
theorem addrFaults_eq_nil {s : State} {r : Rid} {a n : Nat} (h : s.dataOk r a n) : s.addrFaults r a n = [] := by
  obtain ⟨ha, hl, hs⟩ := h
  have h1 : ¬(inSecure r.home a && !(s.runner r).cust) = true := fun hc => by
    simp only [Bool.and_eq_true, Bool.not_eq_true'] at hc
    exact Bool.false_ne_true (hc.2.symm.trans (hs hc.1).1)
  unfold State.addrFaults
  dsimp only
  rw [if_neg h1, if_neg (Nat.not_le.2 hl), if_neg (not_not.2 ha)]
  rfl

theorem wipeWaits_eq_false {s : State} {r : Rid} {a n : Nat} (h : s.dataOk r a n) : s.wipeWaits r a = false := by
  unfold State.wipeWaits
  cases hs : inSecure r.home a with
  | false => rfl
  | true => exact (h.2.2 hs).2

/-! t_mac2 (R14, R85 to R87) -/

theorem portOpen_mac2 (s : State) (r : Rid) : s.portOpen r 0xEB := portOpen_user s r (by decide) (by decide) rfl rfl rfl (by decide)

theorem mac2_trigFaults {s : State} (h : s.TablesOk) {r : Rid} (v : Word) (hp : s.dataOk r (s.operand r 0xE3).toNat 8) (hq : s.dataOk r (s.operand r 0xE4).toNat 8) :
    (s.beginWord r).trigFaults r (.mul .mac2) v = if s.mode = .service ∨ s.mode = .degraded then [(4, BitVec.ofNat 64 0xEB)] else [] := by
  have e (z : State) : z.trigFaults r (.mul .mac2) v = (if z.mode = .service ∨ z.mode = .degraded then [(4, BitVec.ofNat 64 0xEB)] else [])
      ++ (z.addrFaults r (z.opAddr r 0xE3) 8 ++ (z.addrFaults r (z.opAddr r 0xE4) 8 ++ [])) := rfl
  rw [e, beginWord_opAddr h, beginWord_opAddr h, addrFaults_eq_nil (beginWord_dataOk h hp), addrFaults_eq_nil (beginWord_dataOk h hq), beginWord_mode]
  exact List.append_nil _

theorem mac2_trigBusy {s : State} (h : s.TablesOk) {r : Rid} (v : Word) (hd : (s.runner r).dividing = false) (hp : s.dataOk r (s.operand r 0xE3).toNat 8)
    (hq : s.dataOk r (s.operand r 0xE4).toNat 8) : (s.beginWord r).trigBusy r (.mul .mac2) v = false := by
  obtain ⟨c, e⟩ := beginWord_runner h r
  have hd' : ((s.beginWord r).runner r).dividing = false := by rw [e]; exact hd
  unfold State.trigBusy
  dsimp only
  rw [hd', beginWord_opAddr h, beginWord_opAddr h, wipeWaits_eq_false (beginWord_dataOk h hp), wipeWaits_eq_false (beginWord_dataOk h hq)]
  rfl

/-- What t_mac2 starts where both of its words are read plainly. -/
theorem runMac2_taking {s : State} (h : s.TablesOk) {r : Rid} (v : Word) (hp : s.plainRead r (s.operand r 0xE3).toNat 8)
    (hq : s.plainRead r (s.operand r 0xE4).toNat 8) :
    (s.taking r).runMac2 r v = ((s.taking r).updR r fun x => (x.setOp 0xE3 (s.operand r 0xE3 + v)).setOp 0xE4 (s.operand r 0xE4 + v)).start r
      (macOp (s.wordAt r (s.operand r 0xE3).toNat * s.wordAt r (s.operand r 0xE4).toNat) false) := by
  have ho (p : Nat) : ((s.taking r).runner r).op p = s.operand r p := taking_op h r p
  have ha (p : Nat) : (s.taking r).opAddr r p = (s.operand r p).toNat := congrArg BitVec.toNat (ho p)
  have hl {a : Nat} (hr : s.plainRead r a 8) : (s.taking r).loadAt r a 8 = (s.taking r, { val := s.wordAt r a }) := by
    rw [← taking_wordAt]
    exact loadAt_plain (by decide) (taking_plainRead h hr)
  unfold State.runMac2
  simp only [ha, hl hp, hl hq]
  unfold State.updR
  dsimp only
  rw [ho, ho]
  rfl

/-- A runner that executes words is not in QUIESCE (R456). -/
theorem mode_of_executes {s : State} {r : Rid} (h : s.executes r) : s.mode ≠ .quiesce := by
  obtain ⟨h, _⟩ := h
  unfold State.canTrig State.canStep at h
  intro hq
  simp [hq] at h

/-- Outside FACTORY, COLDSTART and RECOVERY a runner that executes is in SERVICE or DEGRADED. -/
theorem mac2_mode_iff {m : Mode} (hq : m ≠ .quiesce) : (m = .service ∨ m = .degraded) ↔ m ∉ [Mode.factory, .coldstart, .recovery] := by
  cases m <;> simp at hq ⊢

theorem resFail_beginWord {s : State} (h : s.TablesOk) {r : Rid} (hr : s.executes r) : ((s.beginWord r).runner r).resFail = false := by
  obtain ⟨c, e⟩ := beginWord_runner h r
  rw [e]
  exact hr.2

/-! Registers of the test features (R14, R326, R419) -/

/-- INJCTL and INJDET read zero outside FACTORY. -/
theorem refVal_injection (s : State) {u : Nat} (hu : u = 0x300 ∨ u = 0x304) : s.refVal u = if s.mode = .factory then s.reg 9 u else 0 := by
  unfold State.refVal
  by_cases hm : s.mode = .factory <;> rcases hu with rfl | rfl <;> simp [hm]

theorem unitVal_ref (s : State) (c : Bool) (inst p : Nat) {u : Nat} (h : (fieldsAt .ref u).isNone = false) : s.unitVal c .ref inst p u = s.refVal u := by
  unfold State.unitVal
  rw [h]
  exact if_neg Bool.false_ne_true

theorem curVal_ref (s : State) (inst p : Nat) {u : Nat} (h : (fieldsAt .ref u).isNone = false) : s.curVal .ref inst p u = s.refVal u := by
  unfold State.curVal
  rw [if_neg (by simp), unitVal_ref s true inst p h]

/-- A read of a unit register that nothing latches. -/
theorem pageRead_unit {s : State} {p off inst u m : Nat} {t : PType} {fs : List Fld} (ht : pageType s.fuses.variant p = some (t, inst))
    (hc : t.custody = false) (h8 : 0x100 ≤ off) (hu : unalias off = some (u, m)) (hf : fieldsAt t u = some fs) (hl : latched t u = false) (o : Origin) :
    (s.pageRead o p off).1 = s.unitVal o.cust t inst p u := by
  unfold State.pageRead
  simp only [ht, hc, hu, hf, hl, Bool.false_and, Bool.false_eq_true, if_false, if_neg (Nat.not_lt.2 h8)]

/-- INJCTL, INJDET and the seed of the heat caches: the registers that only FACTORY writes (R14). -/
def factoryRegs : List (PType × Nat) := [(.ref, 0x300), (.ref, 0x304), (.hcache, 0x120)]

/-- INJCTL and INJDET, by their own offsets and those that set and clear. -/
theorem injection_offsets : ∀ off ∈ [0x300, 0x304, 0x700, 0x704, 0xB00, 0xB04], 0x100 ≤ off ∧ ∃ u ∈ [0x300, 0x304], ∃ m < 3,
    unalias off = some (u, m) ∧ (fieldsAt .ref u).isSome = true ∧ (PType.ref, u) ∈ factoryRegs := by
  decide

theorem pageRead_injection (s : State) (o : Origin) {off : Nat} (h : off ∈ [0x300, 0x304, 0x700, 0x704, 0xB00, 0xB04]) :
    ∃ u m, unalias off = some (u, m) ∧ (s.pageRead o 9 off).1 = if s.mode = .factory then s.reg 9 u else 0 := by
  obtain ⟨h1, u, hu, m, _, hal, hfs, _⟩ := injection_offsets off h
  obtain ⟨fs, hfs⟩ := Option.isSome_iff_exists.1 hfs
  refine ⟨u, m, hal, ?_⟩
  rw [pageRead_unit (t := .ref) (inst := 0) rfl rfl h1 hal hfs rfl, unitVal_ref _ _ _ _ (by rw [hfs]; rfl), refVal_injection s (by simpa using hu)]

/-- A write of a unit register that is rejected whatever its fields would hold. -/
theorem pageWrite_rejected {s : State} {o : Origin} {p off inst u m n : Nat} {d : Reg} {t : PType} {fs : List Fld}
    (ht : pageType s.fuses.variant p = some (t, inst)) (hc : t.custody = false) (h8 : 0x20 < off) (hu : unalias off = some (u, m))
    (hf : fieldsAt t u = some fs) (hw : ∀ v, s.writeBad o t inst p u m fs v d = n + 1) (lost : List Nat) :
    s.pageWrite o p off d lost = (s.pwerr o p off (n + 1) d, .rejected) := by
  unfold State.pageWrite
  simp only [ht, hc, hu, hf, hw, Bool.false_and, Bool.false_eq_true, if_false, if_neg (show off ≠ 8 by omega), if_neg (Nat.not_le.2 h8)]
  rfl

/-- The registers that only FACTORY writes, outside it. -/
theorem writeBad_of_not_factory {s : State} (hm : s.mode ≠ .factory) {t : PType} {u : Nat}
    (h : (t, u) ∈ factoryRegs) (o : Origin) (inst p m : Nat) (fs : List Fld) (v d : Reg) :
    s.writeBad o t inst p u m fs v d = 5 := by
  simp only [factoryRegs, List.mem_cons, List.not_mem_nil, or_false, Prod.mk.injEq] at h
  unfold State.writeBad
  rcases h with ⟨rfl, rfl⟩ | ⟨rfl, rfl⟩ | ⟨rfl, rfl⟩ <;> simp [hm]

/-- The same registers in FACTORY: they have no field of class S, and no state rejects them. -/
theorem writeBad_of_factory {s : State} (hm : s.mode = .factory) {t : PType} {u : Nat}
    (h : (t, u) ∈ factoryRegs) (o : Origin) (inst p m : Nat) {fs : List Fld} (hfs : ∀ f ∈ fs, f.cls ≠ .s) (v d : Reg) :
    s.writeBad o t inst p u m fs v d = 0 := by
  simp only [factoryRegs, List.mem_cons, List.not_mem_nil, or_false, Prod.mk.injEq] at h
  unfold State.writeBad
  rcases h with ⟨rfl, rfl⟩ | ⟨rfl, rfl⟩ | ⟨rfl, rfl⟩ <;> simp [hm, changesS_eq_false hfs, isHi, isLo]

/-- By each of their offsets INJCTL and INJDET are rejected with reason MODE. -/
theorem regWrite_injection_rejected {s : State} {o : Origin} (ho : s.takesWrites o) (hm : s.mode ≠ .factory) {off : Nat}
    (h : off ∈ [0x300, 0x304, 0x700, 0x704, 0xB00, 0xB04]) (d : Reg) : s.regWrite o 9 off d = (s.pwerr o 9 off 5 d).replied o := by
  obtain ⟨h1, u, _, m, _, hal, hfs, hmem⟩ := injection_offsets off h
  obtain ⟨fs, hfs⟩ := Option.isSome_iff_exists.1 hfs
  refine regWrite_rejected ho.1 ho.2.2 (pageWrite_rejected (t := .ref) (inst := 0) rfl rfl (by omega) hal hfs (fun v => ?_) [])
  exact writeBad_of_not_factory hm hmem ..

theorem regWrite_seed_rejected {s : State} {o : Origin} (ho : s.takesWrites o) (hm : s.mode ≠ .factory) {h : Nat} (hh : h < s.nHeats) {off : Nat}
    (hoff : off ∈ [0x120, 0x520, 0x920]) (d : Reg) : s.regWrite o (0x40 + h) off d = (s.pwerr o (0x40 + h) off 5 d).replied o := by
  have all : ∀ off ∈ [0x120, 0x520, 0x920], 0x20 < off ∧ ∃ m < 3, unalias off = some (0x120, m) := by decide
  obtain ⟨h20, m, _, hal⟩ := all off hoff
  refine regWrite_rejected ho.1 ho.2.2 (pageWrite_rejected (pageType_hcache hh) rfl h20 hal rfl (fun v => ?_) [])
  exact writeBad_of_not_factory hm (by decide) ..

theorem maskWrite_whole (d a : Reg) : maskWrite (rwMask [rw 31 0]) d 0 a = d := by
  have h : rwMask [rw 31 0] = BitVec.allOnes 32 := by decide
  unfold maskWrite
  rw [if_pos rfl, h, BitVec.not_allOnes, BitVec.and_allOnes]
  exact (congrArg (· ||| d) BitVec.and_zero).trans BitVec.zero_or

/-- INJDET is only stored into, in FACTORY. -/
theorem storesOnly_injdet {s : State} (hm : s.mode = .factory) : StoresOnly s .ref 0 9 0x304 [rw 31 0] where
  page := rfl
  reads := (curVal_ref s 0 9 rfl).trans ((refVal_injection s (.inr rfl)).trans (if_pos hm))

theorem regWrite_injdet {s : State} (hs : s.TablesOk) {o : Origin} (ho : s.takesWrites o) (hm : s.mode = .factory) (d : Reg) :
    s.regWrite o 9 0x304 d = ((s.accepted o 9 0x304 d).setReg 9 0x304 d).replied o := by
  rw [(storesOnly_injdet hm).regWrite hs ho (by decide) rfl (.inl rfl) fun v => writeBad_of_factory hm (by decide) o _ _ _ (by decide) v d, maskWrite_whole]

theorem accepted_tablesOk {s : State} (hs : s.TablesOk) (o : Origin) (p off : Nat) (d : Reg) (b : Bool) : (s.accepted o p off d b).TablesOk := by
  have k := wrapInc_kept (.refl s) (a1 := p) (a2 := 0x18) (a3 := 31) (a4 := 0) (a5 := 1)
  cases b
  · exact k.tab hs
  · exact (audit_kept k).tab hs

theorem accepted_ref (s : State) (o : Origin) (p off : Nat) (d : Reg) (b : Bool) : (s.accepted o p off d b).ref = s.ref := by
  cases b <;> rfl

/-- The fields of INJCTL. -/
def injctlFields : List Fld := [w1s 31, rw 30 28, rw 24 16, rw 8 0]

theorem actBad_injctl {s : State} {d : Reg} (hok : s.injectOk d = true) : s.actBad .ref 0x300 d = false := by
  unfold State.actBad
  simp [hok]

theorem writeUnit_injctl (s : State) (v d : Reg) (hgo : d.getLsbD 31 = true) :
    s.writeUnit .ref 0 9 0x300 injctlFields v d true false [] = (s.storeRw 9 0x300 injctlFields v).inject d := by
  have h : s.writeUnit .ref 0 9 0x300 injctlFields v d true false [] = (s.storeRw 9 0x300 injctlFields v).when (d.getLsbD 31) fun s => s.inject d := rfl
  rw [h, hgo]
  rfl

/-- An accepted write of INJCTL with go 1: the fields are stored and the injection is made. -/
theorem regWrite_injctl {s : State} {o : Origin} (ho : s.takesWrites o) (hm : s.mode = .factory) {d : Reg} (hgo : d.getLsbD 31 = true)
    (hok : s.injectOk d = true) : ∃ v, s.regWrite o 9 0x300 d = (((s.accepted o 9 0x300 d).storeRw 9 0x300 injctlFields v).inject d).replied o := by
  have hw := regWrite_unit (t := .ref) (p := 9) (off := 0x300) (lost := []) ho rfl rfl (by decide) rfl (show _ = some injctlFields from rfl)
    (by rw [actBad_injctl hok]; rfl) (compose_legal (fun _ _ => rfl) (fun _ => rfl) _ d 0) (writeBad_of_factory hm (by decide) o _ _ _ (by decide) _ d)
  exact ⟨_, hw.trans (congrArg (State.replied · o) (writeUnit_injctl _ _ d hgo))⟩

/-- An injected report leaves for the Referee with the element that INJDET holds (R419). -/
theorem inject_report (s : State) {d : Reg} (h : fld d 30 28 = 0) : (s.inject d).ref.arriving = s.ref.arriving ++
    [{ src := fld d 8 0, reporter := 9, suspect := fld d 24 16, elem := fld (s.reg 9 0x304) 15 0, live := false, detail := 0, stamp := 0, held := true }] := by
  unfold State.inject
  simp only [h]
  rfl

theorem fld_setFld_fld (a d : Reg) (hi lo : Nat) : fld (setFld a hi lo (fld d hi lo)) hi lo = fld d hi lo := by
  unfold fld
  congr 1
  refine BitVec.eq_of_getLsbD_eq fun j hj => ?_
  rw [BitVec.getLsbD_extractLsb', BitVec.getLsbD_extractLsb']
  congr 1
  by_cases hn : lo + j < 32
  · have hmask := getLsbD_fldMask hi lo (lo + j) hn
    rw [decide_eq_true (by omega)] at hmask
    change (setFld a hi lo (fld d hi lo)).getLsbD (lo + j) = d.getLsbD (lo + j)
    rw [setFld_fld, BitVec.getLsbD_or, BitVec.getLsbD_and, BitVec.getLsbD_and, BitVec.getLsbD_not, hmask]
    simp
  · rw [BitVec.getLsbD_of_ge _ _ (by omega), BitVec.getLsbD_of_ge _ _ (by omega)]

theorem storeRw_reg_other {s : State} (hs : s.TablesOk) {p u v : Nat} (h : v / 4 ≠ u / 4) (fs : List Fld) (x : Reg) :
    (s.storeRw p u fs x).reg p v = s.reg p v := State.reg_setReg_other hs (regKey_ne h) _

/-- A report asked for with a page that exists and a listed source (R419). -/
theorem injectOk_report {s : State} {d : Reg} (hk : fld d 30 28 = 0) (hp : (pageType s.fuses.variant (fld d 24 16)).isSome = true)
    (hl : srcListed (fld d 8 0) = true) : s.injectOk d = true := by
  unfold State.injectOk
  simp only [hk, hp, hl, Bool.and_self]

/-- The seed's one field (R326). -/
def seedFields : List Fld := [rw 15 0 0xACE1]

theorem compose_seed (s : State) (h : Nat) (base : Reg) {d : Reg} (hd : fld d 15 0 ≠ 0) :
    s.compose .hcache h 0x120 seedFields base d 0 = (setFld base 15 0 (fld d 15 0), false) := by
  have hc (v : Reg) : comboBad s.fuses.variant.full .hcache 0x120 v = none := by simp [comboBad]
  have hb (f : Fld) : s.fieldBad .hcache h 0x120 f (fld d 15 0) = false := by simp [State.fieldBad, hd]
  unfold State.compose seedFields rw
  simp [hc, hb]

/-- An accepted write of the seed loads it (R326). -/
theorem regWrite_seed {s : State} {o : Origin} (ho : s.takesWrites o) (hm : s.mode = .factory) {h : Nat} (hh : h < s.nHeats) {d : Reg}
    (hd : fld d 15 0 ≠ 0) : s.regWrite o (0x40 + h) 0x120 d = (((s.accepted o (0x40 + h) 0x120 d).setRfld (0x40 + h) 0x120 15 0 (fld d 15 0)).updCache h
      fun c => { c with lfsr := BitVec.ofNat 16 (fld d 15 0) }).replied o := by
  have hw := regWrite_unit (t := .hcache) (p := 0x40 + h) (off := 0x120) (lost := []) ho (pageType_hcache hh) rfl (by decide) rfl rfl rfl
    (compose_seed s h _ hd) (writeBad_of_factory hm (by decide) o _ _ _ (by decide) _ d)
  have he (z : State) (v : Reg) : z.writeUnit .hcache h (0x40 + h) 0x120 seedFields v d true false []
      = (z.setRfld (0x40 + h) 0x120 15 0 (fld v 15 0)).updCache h fun c => { c with lfsr := BitVec.ofNat 16 (fld v 15 0) } := rfl
  refine hw.trans (congrArg (State.replied · o) ((he _ _).trans ?_))
  rw [fld_setFld_fld]
  rfl

/-- A trigger with one fault of its own raises that fault, in its slot. -/
theorem trigger_faulted {s : State} {r : Rid} {p c : Nat} {t : Trig} {v w : Word} (h : s.canTrig r = true)
    (hc : ((s.beginWord r).runner r).resFail = false) (hp : (s.beginWord r).portOpen r p) (ht : trigOf p = some t)
    (hf : (s.beginWord r).trigFaults r t v = [(c, w)]) :
    s.trigger r p v = (s.beginWord r).faultNow r { code := c, sv := true, slot := 0, detail := w } := by
  obtain ⟨i, hi, hw⟩ := hp
  simp [State.trigger, State.portLevel, h, hc, hi, hw, ht, hf, worst, WFault.record]

/-- Settles O12: each feature acts in its modes, and in the others its trigger faults and its registers take no write. -/
theorem testFeaturesKeepToTheirModes : Obligations.TestFeaturesKeepToTheirModes := by
  constructor
  · intro s r v hs hr p q on
    have hmode := mac2_mode_iff (mode_of_executes hr)
    refine ⟨fun hon hp hq hd hpr hqr => ?taken, fun hoff hp hq => ?faulted⟩
    case taken =>
      have ht := trigger_taken (v := v) hr.1 (resFail_beginWord hs hr) (portOpen_mac2 _ r) rfl
        ((mac2_trigFaults hs v hp hq).trans (if_neg fun hm => hmode.1 hm hon)) (mac2_trigBusy hs v hd hp hq)
      exact congrArg Host.Outcome.next (ht.trans (took_congr (runMac2_taking hs v hpr hqr)))
    case faulted =>
      exact congrArg Host.Outcome.next (trigger_faulted hr.1 (resFail_beginWord hs hr) (portOpen_mac2 _ r) rfl
        ((mac2_trigFaults hs v hp hq).trans (if_pos (hmode.2 hoff))))
  · intro s o h d hs ho hh gives seed
    refine ⟨fun hm => ⟨fun off hoff => ⟨?zero, ?rejected⟩, ?seedRejected⟩, fun hm => ⟨fun off hoff => ?reads, ?injdet, ?report, ?seedLoaded⟩⟩
    case zero =>
      obtain ⟨u, m, _, e⟩ := pageRead_injection s o hoff
      exact e.trans (if_neg hm)
    case rejected => exact congrArg Host.Outcome.next (regWrite_injection_rejected ho hm hoff d)
    case seedRejected => exact fun off hoff => congrArg Host.Outcome.next (regWrite_seed_rejected ho hm hh hoff d)
    case reads =>
      have direct : ∀ off ∈ [0x300, 0x304], off ∈ [0x300, 0x304, 0x700, 0x704, 0xB00, 0xB04] ∧ unalias off = some (off, 0) := by decide
      obtain ⟨hl, hu⟩ := direct off hoff
      obtain ⟨u, m, hu', e⟩ := pageRead_injection s o hl
      cases hu.symm.trans hu'
      exact e.trans (if_pos hm)
    case injdet => exact congrArg Host.Outcome.next (regWrite_injdet hs ho hm d)
    case report =>
      intro hgo hk hp hl
      obtain ⟨v, hw⟩ := regWrite_injctl ho hm hgo (injectOk_report hk hp hl)
      refine ⟨_, congrArg Host.Outcome.next hw, (inject_report _ hk).trans ?_⟩
      rw [storeRw_reg_other (accepted_tablesOk hs ..) (by decide), accepted_reg hs _ _ _ _ _ (regKey_ne (by decide))]
      exact congrArg (· ++ _) (congrArg Referee.arriving (accepted_ref ..))
    case seedLoaded => exact fun hd => congrArg Host.Outcome.next (regWrite_seed ho hm hh hd)

end Sys2Proof.Machine
end

section
/-! Fields and byte strings: what a field reads as after it is written, bytes as parts of a number (R17, R20). -/
namespace Sys2Proof.Machine

theorem getLsbD_setFld {n : Nat} (w : BitVec n) (hi lo x : Nat) {j : Nat} (hj : j < n) :
    (setFld w hi lo x).getLsbD j = if lo ≤ j ∧ j - lo < hi - lo + 1 then x.testBit (j - lo) else w.getLsbD j := by
  unfold setFld
  simp only [BitVec.getLsbD_or, BitVec.getLsbD_and, BitVec.getLsbD_not, BitVec.getLsbD_ofNat, hj, decide_true, Bool.true_and, Nat.testBit_mul_two_pow,
    Nat.testBit_two_pow_sub_one, Nat.testBit_mod_two_pow]
  by_cases hl : lo ≤ j
  · by_cases hh : j - lo < hi - lo + 1 <;> simp [hl, hh]
  · simp [hl]

/-- A field that has been written reads as what was written. -/
theorem fld_setFld {n : Nat} (w : BitVec n) {hi lo : Nat} (x : Nat) (h : lo + (hi - lo + 1) ≤ n) :
    fld (setFld w hi lo x) hi lo = x % 2 ^ (hi - lo + 1) := by
  refine Nat.eq_of_testBit_eq fun j => ?_
  rw [fld, BitVec.testBit_toNat, BitVec.getLsbD_extractLsb', Nat.testBit_mod_two_pow]
  by_cases hj : j < hi - lo + 1
  · rw [getLsbD_setFld w hi lo x (by omega), if_pos ⟨by omega, by omega⟩, Nat.add_sub_cancel_left]
  · simp [hj]

theorem State.rfld_setRfld {s : State} (h : s.TablesOk) (p off x : Nat) {hi lo : Nat} (hb : lo + (hi - lo + 1) ≤ 32) :
    (s.setRfld p off hi lo x).rfld p off hi lo = x % 2 ^ (hi - lo + 1) := by
  unfold State.rfld State.setRfld
  rw [State.reg_setReg h, fld_setFld _ _ hb]

/-- A field that is counted up saturates. -/
theorem State.rfld_satInc {s : State} (h : s.TablesOk) (p off k : Nat) {hi lo : Nat} (hb : lo + (hi - lo + 1) ≤ 32) :
    (s.satInc p off hi lo k).rfld p off hi lo = min (s.rfld p off hi lo + k) (2 ^ (hi - lo + 1) - 1) := by
  have := Nat.two_pow_pos (hi - lo + 1)
  unfold State.satInc satAdd
  rw [State.rfld_setRfld h p off _ hb, Nat.mod_eq_of_lt (by omega)]

theorem leBytes_eq_map (n x : Nat) : leBytes n x = (List.range n).map fun j => BitVec.ofNat 8 (x / 2 ^ (8 * j)) := by
  induction n generalizing x with
  | zero => rfl
  | succ n ih =>
    rw [leBytes, ih, List.range_succ_eq_map, List.map_cons, List.map_map]
    refine congrArg₂ _ (by simp) (List.map_congr_left fun j _ => ?_)
    rw [Nat.div_div_eq_div_mul, Function.comp_apply, Nat.mul_succ, Nat.add_comm, Nat.pow_add]

end Sys2Proof.Machine
end

section
/-! The complex window: scratchpads and doorbells (R40 to R42, R210, R302, R307, R458). -/
namespace Sys2Proof.Machine

/-! Scratchpad accesses (R42) -/

/-- Sizes and alignment of R42. -/
abbrev SpadFormed (off size : Nat) : Prop := size ∈ [8, 16, 32, 64, 256] ∧ off % size = 0

theorem spadFormed_iff (off size : Nat) :
    (!(size == 8 || size == 16 || size == 32 || size == 64 || size == 256) || !alignedTo off size) = false ↔ SpadFormed off size := by
  unfold SpadFormed alignedTo
  simp only [List.mem_cons, List.not_mem_nil, or_false, Bool.or_eq_false_iff, Bool.not_eq_false', Bool.or_eq_true, Bool.and_eq_true, beq_iff_eq, decide_eq_true_eq]
  constructor
  · rintro ⟨h, _, ha⟩
    exact ⟨by omega, ha⟩
  · rintro ⟨h, ha⟩
    exact ⟨by omega, by omega, ha⟩

theorem spadAccess_malformed {s : State} {off size : Nat} (h : ¬SpadFormed off size) (c : Bool) (k who : Nat) (wr : Bool) (d : LineData) (refused : Bool) :
    s.spadAccess c k who wr off size d refused = (s, .ur, 0) := by
  unfold State.spadAccess
  dsimp only
  rw [if_pos (by rw [← Bool.not_eq_false, spadFormed_iff]; exact h)]

/-- A well-formed access of a present heat's scratchpad: the checks of its secure part, a collision, the bytes. -/
theorem spadAccess_formed {s : State} {off size : Nat} (h : SpadFormed off size) (hp : s.heatPresent (spadHeat off) = true) (c : Bool) (k who : Nat) (wr : Bool)
    (d : LineData) (refused : Bool) :
    s.spadAccess c k who wr off size d refused =
      if inSecure (spadHeat off) (spadAddr off) = true ∧ c = false then (s.report 0x10 2 0 0 k off, .ok, 0)
      else if inSecure (spadHeat off) (spadAddr off) = true ∧ (s.up (spadHeat off)).wipe = true then (s, .busy, 0)
      else if refused = true then (s.collide (spadHeat off), .busy, 0)
      else if wr = true then (s.userWrite (spadHeat off) (spadAddr off) (leBytes size d.toNat) who, .ok, 0)
      else ((s.memRead (spadHeat off) (spadAddr off) size).1, if (s.memRead (spadHeat off) (spadAddr off) size).2.2 = true then (.err, 0)
        else (.ok, leNat (s.memRead (spadHeat off) (spadAddr off) size).2.1)) := by
  unfold State.spadAccess
  dsimp only
  rw [if_neg (by rw [Bool.not_eq_true, spadFormed_iff]; exact h), hp]
  simp only [Bool.not_true, Bool.false_eq_true, if_false, Bool.and_eq_true, Bool.not_eq_true']
  congr 4
  split <;> simp [*]


/-- The Service world's access to a secure part is discarded and reported (R303). -/
theorem spadAccess_foreign {s : State} {off size : Nat} (h : SpadFormed off size) (hp : s.heatPresent (spadHeat off) = true)
    (hi : inSecure (spadHeat off) (spadAddr off) = true) (k who : Nat) (wr : Bool) (d : LineData) (refused : Bool) :
    s.spadAccess false k who wr off size d refused = (s.report 0x10 2 0 0 k off, .ok, 0) :=
  (spadAccess_formed h hp ..).trans (if_pos ⟨hi, rfl⟩)

/-- While a wipe runs the secure part is busy (R307). -/
theorem spadAccess_wiping {s : State} {off size : Nat} (h : SpadFormed off size) (hp : s.heatPresent (spadHeat off) = true)
    (hi : inSecure (spadHeat off) (spadAddr off) = true) (hw : (s.up (spadHeat off)).wipe = true) (k who : Nat) (wr : Bool) (d : LineData) (refused : Bool) :
    s.spadAccess true k who wr off size d refused = (s, .busy, 0) :=
  (spadAccess_formed h hp ..).trans ((if_neg (by simp)).trans (if_pos ⟨hi, hw⟩))

/-- An access that neither world nor wipe stops. -/
theorem spadAccess_open {s : State} {off size : Nat} (h : SpadFormed off size) (hp : s.heatPresent (spadHeat off) = true) {c : Bool}
    (hi : inSecure (spadHeat off) (spadAddr off) = true → c = true ∧ (s.up (spadHeat off)).wipe = false) (k who : Nat) (wr : Bool) (d : LineData) (refused : Bool) :
    s.spadAccess c k who wr off size d refused = if refused = true then (s.collide (spadHeat off), .busy, 0)
      else if wr = true then (s.userWrite (spadHeat off) (spadAddr off) (leBytes size d.toNat) who, .ok, 0)
      else ((s.memRead (spadHeat off) (spadAddr off) size).1, if (s.memRead (spadHeat off) (spadAddr off) size).2.2 = true then (.err, 0)
        else (.ok, leNat (s.memRead (spadHeat off) (spadAddr off) size).2.1)) := by
  refine (spadAccess_formed h hp ..).trans ((if_neg fun hc => ?_).trans (if_neg fun hc => ?_))
  · exact Bool.false_ne_true (hc.2.symm.trans (hi hc.1).1)
  · exact Bool.false_ne_true ((hi hc.1).2.symm.trans hc.2)

theorem spadHeat_lt {off : Nat} (h : off < 0xE000000) : spadHeat off < 16 := by
  unfold spadHeat
  omega

theorem inSecure_spad {m a : Nat} (hm : m ≠ 16) (ha : a < 0x600000) : inSecure m a = true ↔ 0x580000 ≤ a := by
  unfold inSecure secBase memLen
  rw [if_neg hm, if_neg hm, decide_eq_true_eq]
  exact and_iff_left ha

/-! A host access reaches the scratchpad by WIN_RD, WIN_WR or SCRATCHPAD_WINDOW_ACCESS -/

theorem asleep_awake {s : State} (hm : s.mode ≠ .quiesce) (o : Origin) : s.asleep o = none := if_neg hm

theorem asleep_quiesce {s : State} (hm : s.mode = .quiesce) (o : Origin) : s.asleep o = some ((s.answer o .busy 0).wakeUp) := if_pos hm

theorem windowRd_spad {s : State} (hm : s.mode ≠ .quiesce) {off : Nat} (h : 0x8000000 ≤ off ∧ off < 0xE000000) (k : Nat) (c : Bool) (size : Nat) :
    s.windowRd k c off size = s.spadWindow (.link k c) k false off size 0 false := by
  unfold State.windowRd
  simp only [asleep_awake hm]
  rw [if_neg (by omega), if_neg (by omega), if_pos h]

theorem windowWr_spad {s : State} (hm : s.mode ≠ .quiesce) {off : Nat} (h : 0x8000000 ≤ off ∧ off < 0xE000000) (k : Nat) (c : Bool) (size : Nat) (d : LineData) :
    s.windowWr k c off size d = s.spadWindow (.link k c) k true off size d false := by
  unfold State.windowWr
  simp only [asleep_awake hm]
  rw [if_neg (by omega), if_neg (by omega), if_pos h]

theorem exec_spadAccess {s : State} (hm : s.mode ≠ .quiesce) {k off : Nat} (hk : k < 4) (h : 0x8000000 ≤ off ∧ off < 0xE000000) (c wr : Bool) (size : Nat) (d : LineData)
    (refused : Bool) : exec (.scratchpadWindowAccess k c wr off size d refused) s = .next (s.spadWindow (.link k c) k wr off size d refused) := by
  show execScratchpadWindowAccess k c wr off size d refused s = _
  unfold execScratchpadWindowAccess
  simp only [asleep_awake hm]
  rw [if_pos ⟨hk, h⟩]

/-- A write of a scratchpad by either command. -/
theorem exec_spadWrite {s : State} (hm : s.mode ≠ .quiesce) {k off : Nat} (hk : k < 4) (h : 0x8000000 ≤ off ∧ off < 0xE000000) (c f : Bool) (size : Nat) (d : LineData) :
    exec (if f then .winWr k c off size d else .scratchpadWindowAccess k c true off size d false) s = .next (s.spadWindow (.link k c) k true off size d false) := by
  cases f with
  | false => exact exec_spadAccess hm hk h c true size d false
  | true => exact congrArg Host.Outcome.next ((if_pos hk).trans (windowWr_spad hm h k c size d))

/-- A read of a scratchpad by either command: what comes as data with it does not matter. -/
theorem exec_spadRead {s : State} (hm : s.mode ≠ .quiesce) {k off : Nat} (hk : k < 4) (h : 0x8000000 ≤ off ∧ off < 0xE000000) (c f : Bool) (size : Nat) (d : LineData) :
    ∃ d', exec (if f then .winRd k c off size else .scratchpadWindowAccess k c false off size d false) s = .next (s.spadWindow (.link k c) k false off size d' false) := by
  cases f with
  | false => exact ⟨d, exec_spadAccess hm hk h c false size d false⟩
  | true => exact ⟨0, congrArg Host.Outcome.next ((if_pos hk).trans (windowRd_spad hm h k c size))⟩

/-- The answer to an access is that of its scratchpad. -/
theorem spadWindow_eq {s t : State} {k off size : Nat} {c wr refused : Bool} {d : LineData} {r : Resp} {v : Nat}
    (h : s.spadAccess c k 0 wr off size d refused = (t, r, v)) : s.spadWindow (.link k c) k wr off size d refused = t.answer (.link k c) r v := by
  have h' : s.spadAccess (Origin.link k c).cust k 0 wr off size d refused = (t, r, v) := h
  unfold State.spadWindow
  rw [h']

/-! Doorbells (R41, R210) -/

theorem exec_doorbell {s : State} (hm : s.mode ≠ .quiesce) {k off : Nat} (hk : k < 4) (h1 : 0x2000000 ≤ off) (h2 : off < 0x2040000) (h8 : off % 8 = 0) (w : Word) :
    exec (.doorbell k off w) s = .next ((s.ringBell off w).put (.resp (.link k false) .ok 0)) := by
  refine congrArg Host.Outcome.next ((if_pos ⟨hk, h1, h2, h8⟩).trans ?_)
  have hw : (w.setWidth 2048).setWidth 64 = w := by simp
  unfold State.windowWr
  simp only [asleep_awake hm]
  rw [if_neg (by omega), if_pos ⟨h1, h2⟩, if_pos ⟨trivial, h8⟩, hw]
  rfl

theorem fld_eq_div_mod {n : Nat} (w : BitVec n) (hi lo : Nat) : fld w hi lo = w.toNat / 2 ^ lo % 2 ^ (hi - lo + 1) := by
  unfold fld
  rw [BitVec.extractLsb'_toNat, Nat.shiftRight_eq_div_pow]

/-- The layout of a doorbell: the ring that its address names, and nothing above (R210). -/
theorem bellLayout_iff (w : Word) {q : Nat} (hq : q < 2 ^ 15) : (fld w 63 31 ≠ 0 ∨ fld w 30 16 ≠ q) ↔ ¬w.toNat / 2 ^ 16 = q := by
  have := w.isLt
  rw [fld_eq_div_mod, fld_eq_div_mod]
  omega

theorem ringBell_bad {s : State} {off : Nat} {w : Word} (h : off < 0x2040000) (hw : ¬w.toNat / 2 ^ 16 = (off - 0x2000000) / 8) :
    s.ringBell off w = s.satInc 0xC 0x118 15 0 := if_pos ((bellLayout_iff w (by omega)).2 hw)

theorem ringBell_good {s : State} {off : Nat} {w : Word} (h : off < 0x2040000) (hw : w.toNat / 2 ^ 16 = (off - 0x2000000) / 8) :
    s.ringBell off w = s.doorbell ((off - 0x2000000) / 8) (BitVec.ofNat 16 w.toNat) := by
  refine (if_neg fun hb => (bellLayout_iff w (by omega)).1 hb hw).trans ?_
  rw [fld_eq_div_mod]
  congr 1
  refine BitVec.eq_of_toNat_eq ?_
  simp

@[simp] theorem State.report_ring (s : State) (a b c d e g : Nat) (l : Bool) (q : Nat) : (s.report a b c d e g l).ring q = s.ring q := rfl

/-- A doorbell of an enabled ring: beyond the limit, back, on the spot, forward (R210). -/
theorem doorbell_enabled {s : State} {q : Nat} (he : (s.ring q).en = true) (new : BitVec 16) :
    s.doorbell q new =
      if (s.ring q).limit < (new - (s.ring q).cons).toNat then
        ((s.satInc 0xC 0x11C 31 16).updRing q fun x => { x with ovf := BitVec.ofNat 16 (satAdd 16 x.ovf.toNat 1), err := true }).report 0x06 0 0xC 0xC q new.toNat
      else if (new - (s.ring q).cons).toNat < ((s.ring q).prod - (s.ring q).cons).toNat then
        (s.satInc 0xC 0x11C 15 0).updRing q fun x => { x with stale := BitVec.ofNat 16 (satAdd 16 x.stale.toNat 1) }
      else if (new - (s.ring q).cons).toNat = ((s.ring q).prod - (s.ring q).cons).toNat then s
      else s.modRing q fun x => { x with prod := new, rung := x.rung + 1, lapDb := s.lap } := by
  unfold State.doorbell
  dsimp only
  rw [he]
  rfl

/-! Queue membership after a ring has changed (R212, R215) -/

theorem tget_tset_of_ne {α : Type} [DecidableEq α] {d v : α} (hv : v ≠ d) (t : Table α) (k : Nat) : tget d (tset d t k v) k = v := by
  induction t with
  | nil => simp [tset, hv, tget]
  | cons e t ih =>
    obtain ⟨j, u⟩ := e
    unfold tset
    rw [if_neg hv, if_neg hv]
    split
    · exact if_pos rfl
    · split
      · exact if_pos rfl
      · rw [tget_cons, if_neg (by omega), ih]

/-- Of the rings syncRing changes only when its own joined, and of its queue an eligible one is a member. -/
theorem syncRing_spec {s : State} (h : s.TablesOk) (q : Nat) :
    (∃ j, (s.syncRing q).ring q = { s.ring q with joined := j }) ∧ (∀ p ≠ q, (s.syncRing q).ring p = s.ring p)
    ∧ ((s.ring q).elig = true → q ∈ (s.syncRing q).queue (s.ring q).heat (s.ring q).cls.toNat) := by
  unfold State.syncRing
  dsimp only
  split
  next hj =>
    have hr (p : Nat) := tget_tset h.rings q p { s.ring q with joined := s.clkS }
    refine ⟨⟨s.clkS, (hr q).trans (if_pos rfl)⟩, fun p hp => (hr p).trans (if_neg hp), fun _ => ?_⟩
    show q ∈ tget [] (tset [] _ _ _) _
    rw [tget_tset_of_ne (by simp)]
    simp
  next hj =>
    refine ⟨⟨(s.ring q).joined, rfl⟩, fun _ _ => rfl, fun he => ?_⟩
    simp only [Bool.and_eq_true, Bool.not_eq_true', not_and, Bool.not_eq_false, List.contains_iff_mem] at hj
    exact hj he

theorem modRing_spec {s : State} (h : s.TablesOk) (q : Nat) (f : Ring → Ring) :
    (∃ j, (s.modRing q f).ring q = { f (s.ring q) with joined := j }) ∧ (∀ p ≠ q, (s.modRing q f).ring p = s.ring p)
    ∧ ((f (s.ring q)).elig = true → q ∈ (s.modRing q f).queue (f (s.ring q)).heat (f (s.ring q)).cls.toNat) := by
  have hq : (s.updRing q f).ring q = f (s.ring q) := (State.ring_updRing h ..).trans (if_pos rfl)
  obtain ⟨h1, h2, h3⟩ := syncRing_spec ((updRing_kept (.refl s)).tab h) (s := s.updRing q f) q
  rw [hq] at h1 h3
  exact ⟨h1, fun p hp => (h2 p hp).trans ((State.ring_updRing h ..).trans (if_neg hp)), h3⟩

/-- Settles O38: every access of the window, by the checks that it meets in order. -/
theorem windowComplete : Obligations.WindowComplete := by
  intro s k off size c d w hs _ hk h a o answer spad formed allowed reads writes bytes q x new rung bell good limit
  have ha : a < 0x600000 := Nat.mod_lt _ (by decide)
  have hsec (hsp : spad) : inSecure h a = true ↔ 0x580000 ≤ a := inSecure_spad (Nat.ne_of_lt (spadHeat_lt hsp.2)) ha
  have hw (hm : s.mode ≠ .quiesce) (hsp : spad) {t : State} {r : Resp} (f : Bool) (he : s.spadAccess c k 0 true off size d false = (t, r, 0)) :
      writes f (answer t r) := (exec_spadWrite hm hk hsp c f size d).trans (congrArg _ (spadWindow_eq he))
  have hr (hm : s.mode ≠ .quiesce) (hsp : spad) {t : State} {r : Resp} {v : Nat} (f : Bool) (he : ∀ d, s.spadAccess c k 0 false off size d false = (t, r, v)) :
      reads f (t.answer o r v) := by
    obtain ⟨d', e⟩ := exec_spadRead hm hk hsp c f size d
    exact e.trans (congrArg _ (spadWindow_eq (he d')))
  have hrung (hb : bell) {t : State} (he : s.ringBell off w = t) : rung t :=
    (exec_doorbell hb.2.2.2 hk hb.1 hb.2.1 hb.2.2.1 w).trans (by rw [he])
  have hgood (hb : bell) (hg : good) (he : x.en = true) := (ringBell_good (s := s) hb.2.1 hg).trans (doorbell_enabled he new)
  refine ⟨fun hm hsp hf hp hal hwipe f => ?access, fun hm hsp hf hp hc hsec' hwipe f => ?wiping, fun hm hsp hf hp hal f => ?foreign,
    fun hm hsp hf f => ?malformed, fun hm _ i hi => ?asleep, fun hb hg => ?layout, fun hb hg he => ?disabled, fun hb hg he hl => ?overflow,
    fun hb hg he hl hst => ?stale, fun hb hg he hn hl => ?same, fun hb hg he hl hfw => ?forward⟩
  case access =>
    have hopen := spadAccess_open hf hp (c := c) fun hi => ⟨hal.resolve_left (Nat.not_lt.2 ((hsec hsp).1 hi)), hwipe ((hsec hsp).1 hi)⟩
    refine ⟨?write, fun hecc => ?read, fun wr => ?collision⟩
    case write =>
      have hb : bytes = leBytes size d.toNat := (leBytes_eq_map ..).symm
      rw [hb]
      exact hw hm hsp f (hopen k 0 true d false)
    case read =>
      refine hr hm hsp f fun d => (hopen k 0 false d false).trans ?_
      rw [memRead_clean (m := spadHeat off) (a := spadAddr off) hecc, bytesAt_eq_map]
      rfl
    case collision =>
      refine (exec_spadAccess hm hk hsp c wr size d true).trans (congrArg _ (spadWindow_eq ((hopen k 0 wr d true).trans ?_)))
      unfold State.collide
      rw [if_pos rfl, if_neg (Nat.ne_of_lt (spadHeat_lt hsp.2))]
      rfl
  case wiping =>
    subst hc
    exact ⟨hw hm hsp f (spadAccess_wiping hf hp ((hsec hsp).2 hsec') hwipe ..), hr hm hsp f fun d => spadAccess_wiping hf hp ((hsec hsp).2 hsec') hwipe ..⟩
  case foreign =>
    obtain ⟨hlow, hc⟩ := not_or.1 hal
    obtain rfl := Bool.eq_false_of_not_eq_true hc
    have hi := (hsec hsp).2 (Nat.not_lt.1 hlow)
    exact ⟨hw hm hsp f (spadAccess_foreign hf hp hi ..), hr hm hsp f fun d => spadAccess_foreign hf hp hi ..⟩
  case malformed => exact ⟨hw hm hsp f (spadAccess_malformed hf ..), hr hm hsp f fun d => spadAccess_malformed hf ..⟩
  case asleep =>
    simp only [List.mem_cons, List.not_mem_nil, or_false] at hi
    rcases hi with rfl | rfl
    · refine congrArg Host.Outcome.next ((if_pos hk).trans ?_)
      unfold State.windowRd
      simp only [asleep_quiesce hm]
      rfl
    · refine congrArg Host.Outcome.next ((if_pos hk).trans ?_)
      unfold State.windowWr
      simp only [asleep_quiesce hm]
      rfl
  case layout => exact hrung hb (ringBell_bad hb.2.1 hg)
  case disabled =>
    refine hrung hb ((ringBell_good hb.2.1 hg).trans (if_pos ?_))
    rw [show (s.ring _).en = false from he]
    rfl
  case overflow =>
    have hc := (satInc_kept (.refl s) (a1 := 0xC) (a2 := 0x11C) (a3 := 31) (a4 := 16) (a5 := 1)).tab hs
    exact ⟨_, hrung hb ((hgood hb hg he).trans (if_pos hl)), (State.report_ring ..).trans ((State.ring_updRing hc ..).trans (if_pos rfl)),
      State.rfld_satInc hs 0xC 0x11C 1 (by decide)⟩
  case stale =>
    have hc := (satInc_kept (.refl s) (a1 := 0xC) (a2 := 0x11C) (a3 := 15) (a4 := 0) (a5 := 1)).tab hs
    exact ⟨_, hrung hb ((hgood hb hg he).trans ((if_neg (Nat.not_lt.2 hl)).trans (if_pos hst))), (State.ring_updRing hc ..).trans (if_pos rfl)⟩
  case same =>
    refine hrung hb ((hgood hb hg he).trans ((if_neg (Nat.not_lt.2 hl)).trans ?_))
    rw [hn]
    exact (if_neg (Nat.lt_irrefl _)).trans (if_pos rfl)
  case forward =>
    have hn : x.cons ≠ new := by
      rintro e
      rw [e] at hfw
      simp at hfw
    obtain ⟨⟨j, h1⟩, h2, h3⟩ := modRing_spec hs q fun x => { x with prod := new, rung := x.rung + 1, lapDb := s.lap }
    refine ⟨_, j, hrung hb ((hgood hb hg he).trans ((if_neg (Nat.not_lt.2 hl)).trans ((if_neg (Nat.not_lt.2 (Nat.le_of_lt hfw))).trans (if_neg (Nat.ne_of_gt hfw))))),
      h1, h2, fun hpl hhe hfz => h3 ?_⟩
    have e : (s.ring q) = x := rfl
    rw [e]
    simp [Ring.elig, he, hpl, hhe, hfz, hn]

end Sys2Proof.Machine
end

section
/-! Loops over a list: what each round keeps, and what each leaves for its own element. -/
namespace Sys2Proof.Machine

theorem each_nil {α : Type} (s : State) (f : State → α → State) : s.each [] f = s := rfl

theorem each_cons {α : Type} (s : State) (a : α) (l : List α) (f : State → α → State) : s.each (a :: l) f = (f s a).each l f := rfl

theorem each_append {α : Type} (s : State) (l m : List α) (f : State → α → State) : s.each (l ++ m) f = (s.each l f).each m f := List.foldl_append

/-- What every round keeps holds after the loop. -/
theorem each_inv {α : Type} {P : State → Prop} {l : List α} {f : State → α → State} {s : State} (h : P s) (hf : ∀ t, ∀ a ∈ l, P t → P (f t a)) :
    P (s.each l f) := by
  induction l generalizing s with
  | nil => exact h
  | cons a l ih => exact ih (hf s a (List.mem_cons_self ..) h) fun t b hb => hf t b (List.mem_cons_of_mem _ hb)

/-- What no round changes is unchanged after the loop. -/
theorem each_same {α β : Type} {g : State → β} {l : List α} {f : State → α → State} (hf : ∀ t, ∀ a ∈ l, g (f t a) = g t) (s : State) :
    g (s.each l f) = g s :=
  each_inv (P := fun t => g t = g s) rfl fun t a ha e => (hf t a ha).trans e

/-- What a round leaves for its own element, and the others keep, holds of every element after the loop. -/
theorem each_forall {α : Type} {P : State → Prop} {Q : α → State → Prop} {l : List α} {f : State → α → State} {s : State} (h : P s)
    (hf : ∀ t, ∀ a ∈ l, P t → P (f t a)) (hq : ∀ t, ∀ a ∈ l, P t → Q a (f t a)) (hk : ∀ t b, ∀ a ∈ l, P t → Q b t → Q b (f t a)) :
    ∀ a ∈ l, Q a (s.each l f) := by
  induction l generalizing s with
  | nil => exact fun a ha => nomatch ha
  | cons a l ih =>
    have hl {b : α} : b ∈ l → b ∈ a :: l := List.mem_cons_of_mem _
    have h' := hf s a (List.mem_cons_self ..) h
    intro b hb
    rcases List.mem_cons.1 hb with rfl | hb
    · exact (each_inv (P := fun t => P t ∧ Q b t) ⟨h', hq s b (List.mem_cons_self ..) h⟩
        fun t a ha ht => ⟨hf t a (hl ha) ht.1, hk t b a (hl ha) ht.1 ht.2⟩).2
    · exact ih h' (fun t a ha => hf t a (hl ha)) (fun t a ha => hq t a (hl ha)) (fun t b a ha => hk t b a (hl ha)) b hb

theorem when_same {β : Type} {g : State → β} {b : Bool} {f : State → State} (hf : ∀ t, g (f t) = g t) (s : State) : g (s.when b f) = g s := by
  cases b
  · rfl
  · exact hf s

end Sys2Proof.Machine
end

section
/-! The safe state reaches every pacer and every root port (R30, R45, R371, R380). -/
namespace Sys2Proof.Machine

/-- What the safe state is about, apart from what it does: fuses, the requests for it, the pacers, the root ports. -/
def State.sides (s : State) : Fuses × Bool × Bool × Table Pacer × Table Port := (s.fuses, s.pfw, s.safeReq, s.pacers, s.ports)

theorem setRunner_sides (s : State) (r : Rid) (x : Runner) : (s.setRunner r x).sides = s.sides := by cases r <;> rfl

theorem setByte_sides (s : State) (m a : Nat) (b : Byte) : (s.setByte m a b).sides = s.sides := by
  unfold State.setByte
  split <;> rfl

theorem setBytes_sides (s : State) (m a : Nat) (l : List Byte) : (s.setBytes m a l).sides = s.sides := by
  induction l generalizing s a with
  | nil => rfl
  | cons b l ih => exact (ih ..).trans (setByte_sides ..)

theorem raise_sides (s : State) (sl src : Nat) : (s.raise sl src).sides = s.sides := by
  unfold State.raise
  split
  · rfl
  · split
    · rfl
    · split <;> rfl

theorem readWordErr_sides (s : State) (m w : Nat) : (s.readWordErr m w).1.sides = s.sides := by
  unfold State.readWordErr
  dsimp only
  split
  · rfl
  · split
    · rfl
    · generalize decide (_ < 4) = room
      cases room <;> split <;> rfl
  · split
    · rfl
    · refine (raise_sides ..).trans ?_
      cases inSecure m (8 * w) <;> rfl

theorem writeWordErr_sides (s : State) (m w : Nat) (full : Bool) : (s.writeWordErr m w full).sides = s.sides := by
  unfold State.writeWordErr
  dsimp only
  split
  · rfl
  · split <;> rfl

theorem loseResv_sides (s : State) (m a n : Nat) : (s.loseResv m a n).sides = s.sides := by
  refine each_same (fun t r _ => ?_) s
  split
  · rfl
  · split
    · exact setRunner_sides ..
    · rfl

theorem memWrite_sides (s : State) (m a : Nat) (bs : List Byte) : (s.memWrite m a bs).sides = s.sides := by
  unfold State.memWrite
  dsimp only
  split
  · rfl
  · refine (loseResv_sides ..).trans ((each_same (fun t w _ => writeWordErr_sides t ..) _).trans ((setBytes_sides ..).trans (each_same (fun t w _ => ?_) s)))
    split
    · rfl
    · exact readWordErr_sides ..

theorem record_sides (s : State) (kind p0 p1 p2 lapAt : Nat) : (s.record kind p0 p1 p2 lapAt).sides = s.sides := by
  unfold State.record
  dsimp only
  split
  · rfl
  · split
    · rfl
    · split <;> rfl

theorem setMode_sides (s : State) (m : Mode) (c : Nat) : (s.setMode m c).sides = s.sides := record_sides ..

theorem refreshMode_sides (s : State) : s.refreshMode.sides = s.sides := by
  unfold State.refreshMode
  split
  · split
    · exact setMode_sides ..
    · rfl
  · split
    · rfl
    · exact setMode_sides ..
  · split
    · exact setMode_sides ..
    · rfl
  · rfl

theorem publish_sides (s : State) (l : List (Nat × List Byte)) : (s.publish l).sides = s.sides := by
  refine (each_same (fun t h _ => ?_) _).trans rfl
  split
  · exact (raise_sides ..).trans ((memWrite_sides ..).trans (each_same (fun t e _ => memWrite_sides t ..) t))
  · rfl

/-- From `z` to `s` nothing leaves the safe state: pacers and requests stand, a contained port stays contained. -/
structure SafeKept (z s : State) : Prop where
  fuses   : s.fuses = z.fuses
  pfw     : s.pfw = z.pfw
  safeReq : s.safeReq = z.safeReq
  pacers  : s.pacers = z.pacers
  ports   : twf {} z.ports = true → twf {} s.ports = true ∧ ∀ p, (z.port p).ls = .contained → (s.port p).ls = .contained

theorem SafeKept.refl (s : State) : SafeKept s s := ⟨rfl, rfl, rfl, rfl, fun h => ⟨h, fun _ h => h⟩⟩

theorem SafeKept.trans {a b c : State} (h : SafeKept a b) (k : SafeKept b c) : SafeKept a c where
  fuses := k.fuses.trans h.fuses
  pfw := k.pfw.trans h.pfw
  safeReq := k.safeReq.trans h.safeReq
  pacers := k.pacers.trans h.pacers
  ports hz := ⟨(k.ports (h.ports hz).1).1, fun p hp => (k.ports (h.ports hz).1).2 p ((h.ports hz).2 p hp)⟩

/-- An operation that touches none of it. -/
theorem SafeKept.same {z s t : State} (h : t.sides = s.sides) (k : SafeKept z s) : SafeKept z t := by
  simp only [State.sides, Prod.mk.injEq] at h
  obtain ⟨hf, hp, hs, hpac, hports⟩ := h
  have hport (p : Nat) : t.port p = s.port p := by unfold State.port; rw [hports]
  exact k.trans ⟨hf, hp, hs, hpac, fun hz => ⟨by rw [hports]; exact hz, fun p h => by rw [hport]; exact h⟩⟩

theorem SafeKept.unchanged {z s t : State} (k : SafeKept z s) (h : t.sides = s.sides) : SafeKept z t := k.same h

theorem updPort_safe {z s : State} (k : SafeKept z s) {p : Nat} {f : Port → Port} (hf : ∀ x, x.ls = .contained → (f x).ls = .contained) :
    SafeKept z (s.updPort p f) := by
  refine k.trans ⟨rfl, rfl, rfl, rfl, fun hz => ⟨twf_tset hz, fun q hq => ?_⟩⟩
  have e : (s.updPort p f).port q = if q = p then f (s.port p) else s.port q := tget_tset hz ..
  rw [e]
  split
  next h => subst h; exact hf _ hq
  next => exact hq

theorem each_safe {α : Type} {z s : State} {l : List α} {f : State → α → State} (k : SafeKept z s) (hf : ∀ t a, SafeKept z t → SafeKept z (f t a)) :
    SafeKept z (s.each l f) := each_inv k fun t a _ h => hf t a h

theorem when_safe {z s : State} {b : Bool} {f : State → State} (k : SafeKept z s) (hf : ∀ t, SafeKept z t → SafeKept z (f t)) : SafeKept z (s.when b f) := by
  cases b
  · exact k
  · exact hf s k

/-! What a containment does to the jobs of the carriers (R394, R395) -/

theorem forgetRead_safe {z s : State} (k : SafeKept z s) (h c i : Nat) : SafeKept z (s.forgetRead h c i) := by
  unfold State.forgetRead
  dsimp only
  split
  · exact k
  · exact each_safe k fun t p ht => updPort_safe ht fun _ hx => hx

theorem updJob_safe {z s : State} (k : SafeKept z s) {j : Nat} {f : Job → Job} : SafeKept z (s.updJob j f) := k.unchanged rfl

theorem discardJobs_safe {z s : State} (k : SafeKept z s) (h c i : Nat) : SafeKept z (s.discardJobs h c i) := by
  have := when_safe (b := ((s.job (jkey h c i)).prod - (s.job (jkey h c i)).cons).toNat != 0) (updJob_safe (forgetRead_safe k h c i)
      (j := jkey h c i) (f := fun j => { prod := j.prod, cons := j.prod, failed := j.failed, late := j.late }))
    fun t ht => SafeKept.same (memWrite_sides t h (t.jctl h c i + 8) (leBytes 8 (s.job (jkey h c i)).prod.toNat)) ht
  exact this.unchanged rfl

theorem elemEnd_safe {z s : State} (k : SafeKept z s) (h c i n code : Nat) : SafeKept z (s.elemEnd h c i n code) := by
  unfold State.elemEnd
  dsimp only
  have ended {t : State} (ht : SafeKept z t) {b : Bool} {f : Job → Job} : SafeKept z ((t.updJob (jkey h c i) f).when b fun s => s.countBytes h c n) :=
    when_safe (updJob_safe ht) fun u hu => hu.unchanged rfl
  have read : SafeKept z (s.when (code != 0) fun s => s.forgetRead h c i) := when_safe k fun t ht => forgetRead_safe ht h c i
  split
  · exact discardJobs_safe (ended read) h c i
  · exact ended read

theorem carFail_safe {z s : State} (k : SafeKept z s) (h c i code : Nat) : SafeKept z (s.carFail h c i code) := by
  unfold State.carFail
  dsimp only
  split
  · exact k
  · split
    · exact elemEnd_safe k ..
    · exact updJob_safe (forgetRead_safe k ..)

theorem readFail_safe {z s : State} (k : SafeKept z s) (h c i code : Nat) : SafeKept z (s.readFail h c i code) := by
  unfold State.readFail
  split
  · exact carFail_safe (updJob_safe k) ..
  · exact updJob_safe k

theorem npError_safe {z s : State} (k : SafeKept z s) (p res code : Nat) (r : NpReq) : SafeKept z (s.npError p res code r) := by
  cases r with
  | cfg w =>
    show SafeKept z (s.cfgEnd p res w 0)
    unfold State.cfgEnd
    dsimp only
    split <;> exact k.unchanged rfl
  | car h c i => exact readFail_safe k ..
  | gone => exact k

theorem postedStand_safe {z s : State} (k : SafeKept z s) (p : Nat) : SafeKept z (s.postedStand p) := by
  refine each_safe k fun t key ht => ?_
  dsimp only
  split
  · split
    · exact carFail_safe (elemEnd_safe ht ..) ..
    · exact ht
  · exact ht

theorem setLive_safe {z s : State} (k : SafeKept z s) (p : Nat) (b : Bool) : SafeKept z (s.setLive p b) := by
  unfold State.setLive
  split
  · exact k
  · exact .same (publish_sides ..) (updPort_safe k fun _ hx => hx)

/-- A present port is contained, and what was contained stays so (R380). -/
theorem containPort_safe {s : State} (hs : twf {} s.ports = true) {p : Nat} (hp : p < s.nPorts) (cause : Nat) :
    SafeKept s (s.containPort p cause) ∧ ((s.containPort p cause).port p).ls = .contained := by
  have hpres : s.portPresent p = true := decide_eq_true hp
  unfold State.containPort
  rw [hpres]
  dsimp only
  split
  next h => exact ⟨.refl s, by simpa using h⟩
  next h =>
    have ends {z t : State} (ht : SafeKept z t) (l : List NpReq) : SafeKept z (((((((t.noRate p).setRfld (rpPage p) 0x104 18 16 cause).each l fun s r =>
        s.npError p 5 5 r).postedStand p).setLive p false).report 0x15 1 (rpPage p) (rpPage p) 0 cause true).refreshMode) := by
      have base : SafeKept z ((t.noRate p).setRfld (rpPage p) 0x104 18 16 cause) := ht.unchanged rfl
      have live := setLive_safe (postedStand_safe (each_safe (l := l) base fun u r hu => npError_safe hu p 5 5 r) p) p false
      exact .same (refreshMode_sides _) (live.unchanged rfl)
    have e := tget_tset hs p p { s.port p with ls := .contained, relAt := none, np := [], tagq := [], hold := [] }
    rw [if_pos rfl] at e
    exact ⟨ends (updPort_safe (.refl s) fun _ _ => rfl) _, ((ends (.refl _) _).ports (twf_tset hs)).2 p (congrArg Port.ls e)⟩

/-- Every pacer in the safe state, every root port contained. -/
def State.allSafe (s : State) : Prop := (∀ n < 16, s.pacerPresent n = true → (s.pacer n).st = .safe) ∧ ∀ p < s.nPorts, (s.port p).ls = .contained

theorem containAll_safe {s : State} (hs : twf {} s.ports = true) : SafeKept s s.containAll ∧ ∀ p < s.nPorts, (s.containAll.port p).ls = .contained := by
  have step (t : State) (p : Nat) (hp : p ∈ List.range s.nPorts) (h : SafeKept s t) := containPort_safe (h.ports hs).1 (p := p)
    (by unfold State.nPorts at *; rw [h.fuses]; exact List.mem_range.1 hp) 2
  refine ⟨each_inv (P := SafeKept s) (.refl s) fun t p hp h => h.trans (step t p hp h).1, fun p hp => ?_⟩
  exact each_forall (P := SafeKept s) (Q := fun p t => (t.port p).ls = .contained) (.refl s) (fun t p hp h => h.trans (step t p hp h).1)
    (fun t p hp h => (step t p hp h).2) (fun t q p hp h hq => ((step t p hp h).1.ports (h.ports hs).1).2 q hq) p (List.mem_range.2 hp)

theorem pacersSafe_eq (s : State) : ∃ t, s.pacersSafe = { s with pacers := t } :=
  each_inv (P := fun t => ∃ x, t = { s with pacers := x }) ⟨_, rfl⟩ fun t n _ ⟨x, h⟩ => by
    subst h
    split
    · exact ⟨_, rfl⟩
    · exact ⟨_, rfl⟩

/-- A pacer in the safe state (R371). -/
def Pacer.safe (x : Pacer) : Pacer := { x with st := .safe, wait := .none, test := false }

/-- Every present pacer takes the safe state (R371). -/
theorem pacersSafe_st {s : State} (hs : twf {} s.pacers = true) {n : Nat} (hn : n < 16) (hp : s.pacerPresent n = true) : (s.pacersSafe.pacer n).st = .safe := by
  have inv (t : State) (m : Nat) (h : twf {} t.pacers = true ∧ t.fuses = s.fuses) :
      twf {} (if t.pacerPresent m then t.updPacer m Pacer.safe else t).pacers = true ∧ (if t.pacerPresent m then t.updPacer m Pacer.safe else t).fuses = s.fuses := by
    split
    · exact ⟨twf_tset h.1, h.2⟩
    · exact h
  have set {t : State} (h : twf {} t.pacers = true) (m j : Nat) : (t.updPacer m Pacer.safe).pacer j = if j = m then (t.pacer m).safe else t.pacer j := tget_tset h ..
  have all := each_forall (P := fun t => twf {} t.pacers = true ∧ t.fuses = s.fuses) (Q := fun m t => s.pacerPresent m = true → (t.pacer m).st = .safe)
    (l := List.range 16) (s := s) ⟨hs, rfl⟩ (fun t m _ => inv t m) ?own ?others n (List.mem_range.2 hn)
  · exact all hp
  case own =>
    intro t m _ ⟨ht, hf⟩ hm
    have hm' : t.pacerPresent m = true := by unfold State.pacerPresent at *; rw [hf]; exact hm
    rw [if_pos hm', set ht, if_pos rfl]
    rfl
  case others =>
    intro t j m _ ⟨ht, hf⟩ hj hjp
    split
    · rw [set ht]
      split
      · rfl
      · exact hj hjp
    · exact hj hjp

theorem safeState_awake {s : State} (hm : s.mode ≠ .quiesce) : s.safeState = s.pacersSafe.containAll := by
  obtain ⟨x, e⟩ := pacersSafe_eq s
  unfold State.safeState
  rw [e]
  simp only [State.when]
  rw [if_pos (by simp [hm])]

/-- The safe state has come everywhere; the requests for it stand as they were. -/
theorem safeState_spec {s : State} (hs : s.TablesOk) (hm : s.mode ≠ .quiesce) :
    s.safeState.allSafe ∧ s.safeState.fuses = s.fuses ∧ s.safeState.pfw = s.pfw ∧ s.safeState.safeReq = s.safeReq := by
  obtain ⟨x, e⟩ := pacersSafe_eq s
  have hf : s.pacersSafe.fuses = s.fuses := by rw [e]
  have hpf : s.pacersSafe.pfw = s.pfw := by rw [e]
  have hsr : s.pacersSafe.safeReq = s.safeReq := by rw [e]
  have hports : s.pacersSafe.ports = s.ports := by rw [e]
  obtain ⟨k, hc⟩ := containAll_safe (s := s.pacersSafe) (by rw [hports]; exact hs.ports)
  rw [safeState_awake hm]
  refine ⟨⟨fun n hn hp => ?_, fun p hp => hc p ?_⟩, k.fuses.trans hf, k.pfw.trans hpf, k.safeReq.trans hsr⟩
  · have hp' : s.pacerPresent n = true := by unfold State.pacerPresent at *; rw [← hf, ← k.fuses]; exact hp
    have hn' : s.pacersSafe.containAll.pacer n = s.pacersSafe.pacer n := by unfold State.pacer; rw [k.pacers]
    rw [hn']
    exact pacersSafe_st hs.pacers hn hp'
  · unfold State.nPorts at *
    rw [← k.fuses]
    exact hp

end Sys2Proof.Machine
end

section
/-! Memories of a complex whose runners hold nothing: a whole word is written, the publication is written (R106, R288, R304). -/
namespace Sys2Proof.Machine

/-- Bytes written into a memory from key `k` up. -/
def putBytes (t : Table Byte) (k : Nat) : List Byte → Table Byte
  | [] => t
  | b :: l => putBytes (tset 0 t k b) (k + 1) l

theorem twf_putBytes {t : Table Byte} (h : twf 0 t = true) (k : Nat) (l : List Byte) : twf 0 (putBytes t k l) = true := by
  induction l generalizing t k with
  | nil => exact h
  | cons b l ih => exact ih (twf_tset h) (k + 1)

theorem tget_putBytes {t : Table Byte} (h : twf 0 t = true) (k : Nat) (l : List Byte) (j : Nat) :
    tget 0 (putBytes t k l) j = if k ≤ j ∧ j < k + l.length then l.getD (j - k) 0 else tget 0 t j := by
  induction l generalizing t k with
  | nil => exact (if_neg (by simp)).symm
  | cons b l ih =>
    rw [putBytes, ih (twf_tset h), tget_tset h, List.length_cons]
    by_cases hj : j = k
    · subst hj
      rw [if_neg (by omega), if_pos rfl, if_pos (by omega), Nat.sub_self, List.getD_cons_zero]
    · rw [if_neg hj]
      by_cases hr : k + 1 ≤ j ∧ j < k + 1 + l.length
      · rw [if_pos hr, if_pos (by omega), show j - k = j - (k + 1) + 1 by omega, List.getD_cons_succ]
      · rw [if_neg hr, if_neg (by omega)]

theorem setBytes_eq {m : Nat} (hm : m ≠ 16) (s : State) (a : Nat) (l : List Byte) :
    s.setBytes m a l = { s with spads := putBytes s.spads (spadKey m a) l } := by
  induction l generalizing s a with
  | nil => rfl
  | cons b l ih =>
    rw [State.setBytes, ih]
    unfold State.setByte
    rw [if_neg hm]
    rfl

theorem loseResv_idle {s : State} (h : ∀ r, (s.runner r).resv = none) (m a n : Nat) : s.loseResv m a n = s := by
  refine each_inv (P := fun t => t = s) rfl fun t r _ e => ?_
  subst e
  simp only [h]

theorem writeWordErr_eq (s : State) (m w : Nat) (full : Bool) : ∃ u, s.writeWordErr m w full = { s with memUp := u } := by
  unfold State.writeWordErr
  dsimp only
  split
  · exact ⟨_, rfl⟩
  · split <;> exact ⟨_, rfl⟩

/-- One whole word of a scratchpad is written where no runner has a reservation. -/
theorem memWrite_word {s : State} (hr : ∀ r, (s.runner r).resv = none) {m a : Nat} (hm : m ≠ 16) (ha : a % 8 = 0) {bs : List Byte} (hb : bs.length = 8) :
    ∃ u, s.memWrite m a bs = { s with spads := putBytes s.spads (spadKey m a) bs, memUp := u } := by
  have hw : wordsOf a 8 = [a / 8] := by
    unfold wordsOf
    rw [if_neg (by decide), show (a + 8 - 1) / 8 - a / 8 + 1 = 1 by omega]
    rfl
  have hfull : wholeWord a 8 (a / 8) = true := by
    unfold wholeWord
    exact decide_eq_true (by omega)
  obtain ⟨u, hu⟩ := writeWordErr_eq { s with spads := putBytes s.spads (spadKey m a) bs } m (a / 8) true
  refine ⟨u, ?_⟩
  unfold State.memWrite
  simp only [hb, hw, each_cons, each_nil, hfull, setBytes_eq hm, hu, if_true, if_neg (show ¬(8 : Nat) = 0 by decide)]
  exact loseResv_idle (fun r => by
    cases r with
    | heat h i => exact hr (.heat h i)
    | arb => exact hr .arb) ..

/-- A scratchpad address's key names its heat and its address. -/
theorem spadKey_inj {h h' a a' : Nat} (ha : a < 0x600000) (ha' : a' < 0x600000) : spadKey h a = spadKey h' a' ↔ h = h' ∧ a = a' := by
  unfold spadKey
  omega

/-- Outside the publication area of a scratchpad (R288). -/
def outsidePub (a : Nat) : Prop := ¬(0x36E000 ≤ a ∧ a < 0x370000)

/-- A state in which a publication runs plainly: no runner holds anything, no pool or path is committed, no heat is fenced. -/
structure Plain (s : State) : Prop where
  runners : s.runners = []
  arbRun  : s.arbRun = {}
  pools   : s.arb.pools = []
  paths   : s.arb.paths = []
  heatFen : s.heatFen = 0
  mode    : s.mode ≠ .quiesce
  spads   : twf 0 s.spads = true

theorem Plain.resv {s : State} (h : Plain s) (r : Rid) : (s.runner r).resv = none := by
  cases r with
  | heat => unfold State.runner; rw [h.runners]; rfl
  | arb => exact congrArg Runner.resv h.arbRun

/-- From `z` to `t` only the publication areas, the upkeep of the memories and the slices have changed. -/
structure PubOnly (z t : State) : Prop where
  frame : ∃ sp mu sl, t = { z with spads := sp, memUp := mu, slices := sl }
  spads : twf 0 t.spads = true
  bytes : ∀ h < 16, ∀ a < 0x600000, outsidePub a → t.byteAt h a = z.byteAt h a

theorem PubOnly.plain {z t : State} (h : PubOnly z t) (hz : Plain z) : Plain t := by
  obtain ⟨⟨sp, mu, sl, rfl⟩, hs, -⟩ := h
  exact { hz with spads := hs }

theorem PubOnly.pubWord {z t : State} (h : PubOnly z t) : t.pubWord = z.pubWord := by
  obtain ⟨⟨sp, mu, sl, rfl⟩, -, -⟩ := h
  rfl

theorem byteAt_spad (s : State) {h : Nat} (hh : h < 16) (a : Nat) : s.byteAt h a = tget 0 s.spads (spadKey h a) := if_neg (by omega)

/-- Writes into the publication area of one heat. -/
theorem PubOnly.put {z t : State} (h : PubOnly z t) {g : Nat} {keep : Nat → Bool} (hk : ∀ h < 16, ∀ a < 0x600000, outsidePub a → keep (spadKey h a) = true) {l : List Byte}
    (hl : l.length = 8) (mu : Table MemUp) (sl : Table Slice) :
    PubOnly z { t with spads := putBytes (tkeep keep t.spads) (spadKey g 0x36F400) l, memUp := mu, slices := sl } := by
  obtain ⟨⟨sp, mu', sl', rfl⟩, hs, hb⟩ := h
  refine ⟨⟨_, _, _, rfl⟩, twf_putBytes (twf_tkeep hs) .., fun h hh a ha ho => ?_⟩
  have hne : ¬(spadKey g 0x36F400 ≤ spadKey h a ∧ spadKey h a < spadKey g 0x36F400 + l.length) := by
    unfold spadKey outsidePub at *
    omega
  rw [← hb h hh a ha ho, byteAt_spad _ hh, byteAt_spad _ hh]
  dsimp only
  rw [tget_putBytes (twf_tkeep hs), if_neg hne, tget_tkeep, if_pos (hk h hh a ha ho)]

theorem pubWord_length (s : State) : s.pubWord.length = 8 := by
  unfold State.pubWord
  rw [leBytes_eq_map, List.length_map, List.length_range]

theorem tkeep_all {α : Type} (t : Table α) : tkeep (fun _ => true) t = t := List.filter_true t

theorem publishAll_eq {s : State} (hz : Plain s) {h : Nat} (hh : h < 16) :
    ∃ mu, s.publishAll h = { s with spads := putBytes (tkeep (fun k => !decide (spadKey h 0x36E000 ≤ k ∧ k < spadKey h 0x370000)) s.spads) (spadKey h 0x36F400) s.pubWord, memUp := mu } := by
  unfold State.publishAll
  dsimp only
  obtain ⟨u, e⟩ := memWrite_word (s := { s with spads := tkeep (fun k => !decide (spadKey h 0x36E000 ≤ k ∧ k < spadKey h 0x370000)) s.spads }.updUp h fun u =>
    { u with ecc := tkeep (fun w => !decide (0x36E000 / 8 ≤ w ∧ w < 0x370000 / 8)) u.ecc, held := tkeep (fun w => !decide (0x36E000 / 8 ≤ w ∧ w < 0x370000 / 8)) u.held })
    (fun r => by
      cases r with
      | heat h i => exact hz.resv (.heat h i)
      | arb => exact hz.resv .arb) (m := h) (a := 0x36F400) (by omega) (by decide) (pubWord_length s)
  refine ⟨u, ?_⟩
  simp only [State.updUp_arb, hz.paths, hz.pools, each_nil]
  exact e

/-- The whole publication of a heat that is not fenced (R288). -/
theorem PubOnly.publishAll {z t : State} (k : PubOnly z t) (hz : Plain z) {h : Nat} (hh : h < 16) : PubOnly z (t.publishAll h) := by
  obtain ⟨mu, e⟩ := publishAll_eq (k.plain hz) hh
  rw [e]
  refine k.put (fun g hg a ha ho => ?_) (pubWord_length t) mu t.slices
  unfold spadKey outsidePub at *
  simp only [Bool.not_eq_true', decide_eq_false_iff_not]
  omega

/-- A slice whose source 0xF2 is pending as well. -/
def withPub (x : Slice) : Slice := { x with pend := tset false x.pend 0xF2 true }

/-- One heat takes the generation word and its source 0xF2. -/
theorem pubHeat_eq {s : State} (hz : Plain s) {h : Nat} (hh : h < 16) :
    ∃ mu, (s.memWrite h 0x36F400 s.pubWord).raise h 0xF2 = { s with spads := putBytes s.spads (spadKey h 0x36F400) s.pubWord, memUp := mu, slices := tset {} s.slices h (withPub (s.slice h)) } := by
  obtain ⟨u, e⟩ := memWrite_word hz.resv (m := h) (a := 0x36F400) (by omega) (by decide) (pubWord_length s)
  refine ⟨u, ?_⟩
  have hsrc (t : State) : t.srcOk h 0xF2 = true := by
    unfold State.srcOk
    rw [if_neg (by omega)]
    rfl
  rw [e]
  unfold State.raise
  rw [hsrc]
  simp only [Bool.not_true, Bool.false_eq_true, if_false, if_neg hz.mode]
  rw [if_neg (by simp [srcHand])]
  rfl

end Sys2Proof.Machine
end

section
/-! The publication of a reset: every heat holds the generation word and its source 0xF2 alone is pending (R288). -/
namespace Sys2Proof.Machine

theorem leNat_of_leBytes (n x : Nat) : leNat (leBytes n x) = x % 256 ^ n := by
  induction n generalizing x with
  | zero => simp [leNat, leBytes, Nat.mod_one]
  | succ n ih => rw [leBytes, leNat, ih, Nat.pow_succ', Nat.mod_mul, BitVec.toNat_ofNat]

/-- The bytes of the generation word from the fifth on are the generation. -/
theorem pubWord_getD (s : State) {j : Nat} (hj : j < 4) : s.pubWord.getD (4 + j) 0 = (leBytes 4 s.arb.gen.toNat).getD j 0 := by
  have hh : s.heatLive < 2 ^ 16 := sumBits_lt ..
  have hp : s.portsLive < 2 ^ 16 := sumBits_lt ..
  have hb (n x i : Nat) (hi : i < n) : (leBytes n x).getD i 0 = BitVec.ofNat 8 (x / 2 ^ (8 * i)) := by
    rw [leBytes_eq_map, List.getD_eq_getElem _ _ (by simpa using hi), List.getElem_map, List.getElem_range]
  unfold State.pubWord
  rw [hb _ _ _ (by omega), hb _ _ _ hj, Nat.mul_add, Nat.pow_add, ← Nat.div_div_eq_div_mul]
  exact congrArg (fun x => BitVec.ofNat 8 (x / 2 ^ (8 * j))) (by omega)

/-- The slice of a heat after a reset's publication. -/
def pubSlice : Slice := { pend := [(0xF2, true)] }

/-- Heat `h` has the generation in its publication area and its source 0xF2 pending. -/
def Published (h : Nat) (s : State) : Prop := s.slice h = pubSlice ∧ s.numAt h 0x36F404 4 = s.arb.gen.toNat

theorem numAt_pubWord {s : State} (hs : twf 0 s.spads = true) (w : State) {h : Nat} (hh : h < 16) {sl : Table Slice} {mu : Table MemUp} :
    State.numAt { s with spads := putBytes s.spads (spadKey h 0x36F400) w.pubWord, slices := sl, memUp := mu } h 0x36F404 4 = w.arb.gen.toNat := by
  have e (j : Nat) (hj : j ∈ List.range 4) :
      State.byteAt { s with spads := putBytes s.spads (spadKey h 0x36F400) w.pubWord, slices := sl, memUp := mu } h (0x36F404 + j) = (leBytes 4 w.arb.gen.toNat).getD j 0 := by
    have hj := List.mem_range.1 hj
    rw [byteAt_spad _ hh]
    dsimp only
    rw [tget_putBytes hs, pubWord_length, if_pos (by unfold spadKey; omega), ← pubWord_getD _ hj,
      show spadKey h (0x36F404 + j) - spadKey h 0x36F400 = 4 + j by unfold spadKey; omega]
  unfold State.numAt
  rw [bytesAt_eq_map, List.map_congr_left e]
  exact (leNat_of_leBytes 4 _).trans (Nat.mod_eq_of_lt w.arb.gen.isLt)

/-- The rounds of a publication: only publication areas and slices have changed, and no slice holds anything but the source 0xF2. -/
structure Publishing (z t : State) : Prop where
  only   : PubOnly z t
  twf    : twf {} t.slices = true
  slices : ∀ h, t.slice h = {} ∨ t.slice h = pubSlice

theorem withPub_pubSlice {x : Slice} (h : x = {} ∨ x = pubSlice) : withPub x = pubSlice := by
  rcases h with rfl | rfl <;> rfl

/-- What one heat's round of the publication does. -/
theorem Publishing.round {z t : State} (hz : Plain z) (k : Publishing z t) {h : Nat} (hh : h < z.nHeats) :
    ∃ u, u = (if t.heatUp h then (t.memWrite h 0x36F400 t.pubWord).raise h 0xF2 else t) ∧ Publishing z u ∧ Published h u ∧ ∀ g, Published g t → Published g u := by
  have h16 : h < 16 := Nat.lt_of_lt_of_le hh (heats_le _)
  have ht := k.only.plain hz
  have hup : t.heatUp h = true := by
    obtain ⟨⟨sp, mu, sl, rfl⟩, -, -⟩ := k.only
    unfold State.heatUp State.heatPresent
    rw [ht.heatFen, Bool.and_eq_true]
    exact ⟨decide_eq_true hh, by simp⟩
  obtain ⟨mu, e⟩ := pubHeat_eq ht h16
  have hsl (g : Nat) : tget {} (tset {} t.slices h pubSlice) g = if g = h then pubSlice else t.slice g := tget_tset k.twf ..
  rw [if_pos hup]
  refine ⟨_, rfl, ?_⟩
  rw [e, withPub_pubSlice (k.slices h)]
  have put := k.only.put (g := h) (keep := fun _ => true) (fun _ _ _ _ _ => rfl) (pubWord_length t) mu (tset {} t.slices h pubSlice)
  rw [tkeep_all] at put
  have own : Published h { t with spads := putBytes t.spads (spadKey h 0x36F400) t.pubWord, memUp := mu, slices := tset {} t.slices h pubSlice } :=
    ⟨(hsl h).trans (if_pos rfl), numAt_pubWord k.only.spads t h16⟩
  refine ⟨⟨put, twf_tset k.twf, fun g => ?_⟩, own, fun g hg => ?_⟩
  · show tget {} (tset {} t.slices h pubSlice) g = {} ∨ tget {} (tset {} t.slices h pubSlice) g = pubSlice
    rw [hsl]
    split
    · exact .inr rfl
    · exact k.slices g
  · by_cases hgh : g = h
    · rw [hgh]; exact own
    · refine ⟨((hsl g).trans (if_neg hgh)).trans hg.1, ?_⟩
      refine Eq.trans ?_ hg.2
      unfold State.numAt
      rw [bytesAt_eq_map, bytesAt_eq_map]
      refine congrArg leNat (List.map_congr_left fun j hj => ?_)
      have hj := List.mem_range.1 hj
      have hl := pubWord_length t
      unfold State.byteAt
      dsimp only
      split
      · rfl
      · rw [tget_putBytes k.only.spads, if_neg (by unfold spadKey; omega)]

theorem publishAll_slices {s : State} (hz : Plain s) {h : Nat} (hh : h < 16) : (s.publishAll h).slices = s.slices := by
  obtain ⟨mu, e⟩ := publishAll_eq hz hh
  rw [e]

/-- A state in which a publication runs plainly publishes in every heat. -/
theorem publishHeats_spec {z : State} (hz : Plain z) (hsl : z.slices = []) :
    PubOnly (z.updArb fun a => { a with gen := a.gen + 1 }) z.publishHeats ∧ ∀ h < z.nHeats, Published h z.publishHeats := by
  have all : PubOnly z (z.each ((List.range z.nHeats).filter z.heatUp) State.publishAll) ∧ (z.each ((List.range z.nHeats).filter z.heatUp) State.publishAll).slices = [] := by
    refine each_inv (P := fun t => PubOnly z t ∧ t.slices = []) ⟨⟨⟨_, _, _, rfl⟩, hz.spads, fun _ _ _ _ _ => rfl⟩, hsl⟩ fun t h hm ⟨k, e⟩ => ?_
    have h16 : h < 16 := Nat.lt_of_lt_of_le (List.mem_range.1 (List.mem_filter.1 hm).1) (heats_le _)
    exact ⟨k.publishAll hz h16, (publishAll_slices (k.plain hz) h16).trans e⟩
  obtain ⟨kall, eall⟩ := all
  have hz' : Plain (z.updArb fun a => { a with gen := a.gen + 1 }) := { hz with }
  have begun : Publishing (z.updArb fun a => { a with gen := a.gen + 1 })
      ((z.each ((List.range z.nHeats).filter z.heatUp) State.publishAll).updArb fun a => { a with gen := a.gen + 1 }) := by
    obtain ⟨⟨sp, mu, sl, e⟩, hs, hb⟩ := kall
    refine ⟨⟨⟨sp, mu, sl, by rw [e]; rfl⟩, hs, hb⟩, ?_, fun h => .inl ?_⟩
    · rw [State.updArb_slices, eall]; rfl
    · unfold State.slice
      rw [State.updArb_slices, eall]; rfl
  have hn : ((z.each ((List.range z.nHeats).filter z.heatUp) State.publishAll).updArb fun a => { a with gen := a.gen + 1 }).nHeats = z.nHeats := by
    obtain ⟨⟨sp, mu, sl, e⟩, -, -⟩ := kall
    rw [e]; rfl
  unfold State.publishHeats State.publish
  dsimp only
  rw [hn]
  have step (t : State) (h : Nat) (hm : h ∈ List.range z.nHeats) (k : Publishing (z.updArb fun a => { a with gen := a.gen + 1 }) t) :=
    Publishing.round hz' k (h := h) (List.mem_range.1 hm)
  constructor
  · refine (each_inv (P := Publishing (z.updArb fun a => { a with gen := a.gen + 1 })) begun fun t h hm k => ?_).only
    obtain ⟨u, rfl, hu, -, -⟩ := step t h hm k
    exact hu
  · refine fun h hh => each_forall (P := Publishing (z.updArb fun a => { a with gen := a.gen + 1 })) (Q := Published) begun (fun t h hm k => ?_) (fun t h hm k => ?_)
      (fun t g h hm k hg => ?_) h (List.mem_range.2 hh)
    · obtain ⟨u, rfl, hu, -, -⟩ := step t h hm k
      exact hu
    · obtain ⟨u, rfl, -, hu, -⟩ := step t h hm k
      exact hu
    · obtain ⟨u, rfl, -, -, hu⟩ := step t h hm k
      exact hu g hg

end Sys2Proof.Machine
end

section
/-! What a cold and a warm start do to registers, memories and pins before they publish (R438, R447, R452, R454). -/
namespace Sys2Proof.Machine

/-- MODE.LAST and PWR.REFCNT, which no calibration touches. -/
def startKeys : List Nat := [regKey 1 0x108, regKey 8 0x110]

/-- From `z` to `t` only registers, the upkeep of the memories, the wipes that completed and the pins have changed; MODE.LAST and REFCNT stand. -/
structure Boot (z t : State) : Prop where
  frame : ∃ rg mu so pn, t = { z with regs := rg, memUp := mu, arb := { z.arb with secok := so }, pins := pn }
  keys  : t.regs.Pairwise fun a b => a.1 < b.1
  regs  : ∀ k ∈ startKeys, ∀ d, tget d t.regs k = tget d z.regs k

theorem Boot.refl {z : State} (h : z.regs.Pairwise fun a b => a.1 < b.1) : Boot z z := ⟨⟨_, _, _, _, rfl⟩, h, fun _ _ _ => rfl⟩

theorem Boot.setReg {z t : State} (k : Boot z t) {p off : Nat} (hk : regKey p off ∉ startKeys) (v : Reg) : Boot z (t.setReg p off v) := by
  obtain ⟨⟨rg, mu, so, pn, rfl⟩, hp, hr⟩ := k
  exact ⟨⟨_, _, _, _, rfl⟩, keysRise_tset hp, fun j hj d => (tget_tset_other hp (fun e : j = regKey p off => hk (e ▸ hj)) v).trans (hr j hj d)⟩

theorem Boot.setRfld {z t : State} (k : Boot z t) {p off : Nat} (hk : regKey p off ∉ startKeys) (hi lo x : Nat) : Boot z (t.setRfld p off hi lo x) := k.setReg hk _

theorem notMem_startKeys {p off : Nat} (h : p ≠ 1 ∧ p ≠ 8) (ho : off < 4096) : regKey p off ∉ startKeys := by
  simp only [startKeys, regKey, List.mem_cons, List.not_mem_nil, or_false]
  omega

theorem Boot.calHeat {z t : State} (k : Boot z t) {h : Nat} (hh : h < 16) : Boot z (t.calHeat h) :=
  (k.setRfld (notMem_startKeys (by omega) (by omega)) ..).setRfld (notMem_startKeys (by omega) (by omega)) ..

theorem Boot.calPin {z t : State} (k : Boot z t) {n : Nat} (hn : n < 64) : Boot z (t.calPin n) := by
  have pin {u : State} (k : Boot z u) (f : Pin → Pin) : Boot z (u.updPin n f) := by
    obtain ⟨⟨rg, mu, so, pn, rfl⟩, hp, hr⟩ := k
    exact ⟨⟨_, _, _, _, rfl⟩, hp, hr⟩
  exact (pin (k.setRfld (notMem_startKeys (by omega) (by omega)) ..) _).setRfld (notMem_startKeys (by omega) (by omega)) ..

/-- The calibrations of every heat and of every pin (R454). -/
theorem Boot.cal {z t : State} (k : Boot z t) : Boot z ((t.each (List.range t.nHeats) State.calHeat).each (List.range 64) State.calPin) :=
  each_inv (each_inv k fun _ _ hm h => h.calHeat (Nat.lt_of_lt_of_le (List.mem_range.1 hm) (heats_le _))) fun _ _ hm h => h.calPin (List.mem_range.1 hm)

theorem Boot.calRet {z t : State} (k : Boot z t) : Boot z t.calRet :=
  (k.setRfld (notMem_startKeys (by omega) (by omega)) ..).setRfld (notMem_startKeys (by omega) (by omega)) ..

theorem Boot.updUp {z t : State} (k : Boot z t) (m : Nat) (f : MemUp → MemUp) : Boot z (t.updUp m f) := by
  obtain ⟨⟨rg, mu, so, pn, rfl⟩, hp, hr⟩ := k
  exact ⟨⟨_, _, _, _, rfl⟩, hp, hr⟩

theorem Boot.secok {z t : State} (k : Boot z t) (f : BitVec 16 → BitVec 16) : Boot z (t.updArb fun a => { a with secok := f a.secok }) := by
  obtain ⟨⟨rg, mu, so, pn, rfl⟩, hp, hr⟩ := k
  exact ⟨⟨_, _, _, _, rfl⟩, hp, hr⟩

/-- In memories that are all zero a wipe ends with a change of their upkeep only. -/
theorem zeroSecure_zero {s : State} (hs : s.spads = []) (hm : s.arbMem = []) (m : Nat) : ∃ f, s.zeroSecure m = s.updUp m f := by
  have spads (p : Nat → Bool) : { s with spads := tkeep p s.spads } = s := by rw [hs]; exact congrArg (fun t => { s with spads := t }) hs.symm
  have arbMem (p : Nat → Bool) : { s with arbMem := tkeep p s.arbMem } = s := by rw [hm]; exact congrArg (fun t => { s with arbMem := t }) hm.symm
  unfold State.zeroSecure
  dsimp only
  rw [spads, arbMem, ite_self]
  exact ⟨_, rfl⟩

/-- A wipe ends in a memory that is all zero, of runners that hold nothing. -/
theorem Boot.endWipe {z t : State} (k : Boot z t) (hr : ∀ r, (z.runner r).resv = none) (hs : z.spads = []) (hm : z.arbMem = []) {m : Nat} (h16 : m ≤ 16) :
    Boot z (t.endWipe m) := by
  obtain ⟨hts, htm, htr⟩ : t.spads = [] ∧ t.arbMem = [] ∧ ∀ r, t.runner r = z.runner r := by
    obtain ⟨⟨rg, mu, so, pn, rfl⟩, -, -⟩ := k
    exact ⟨hs, hm, fun r => by cases r <;> rfl⟩
  obtain ⟨f, e⟩ := zeroSecure_zero hts htm m
  have idle (f g : MemUp → MemUp) (r : Rid) : (((t.updUp m f).updUp m g).runner r).resv = none := by
    rw [show ((t.updUp m f).updUp m g).runner r = t.runner r by cases r <;> rfl, htr, hr]
  unfold State.endWipe
  dsimp only
  rw [e, loseResv_idle (idle f _)]
  have ended := (k.updUp m f).updUp m fun u => { u with wipe := false, restart := false }
  split
  · exact (ended.setRfld (notMem_startKeys (p := 0x30 + m) (off := 0x104) (by omega) (by omega)) 30 30 1).secok fun so => putBit so m true
  · exact ended

/-- The units of a cold start up to its tests' results (R447, R453). -/
def State.bootUnits (s : State) (c : ColdIn) : State :=
  let s := s.each (List.range s.nHeats ++ [16]) State.endWipe
  let s := (s.each (List.range s.nHeats) State.calHeat).each (List.range 64) State.calPin
  s.calRet.bistFail c

theorem bistFail_passed {s : State} {c : ColdIn} (hb : c.bist = 0) (ha : c.arbFail = false) :
    s.bistFail c = s.setReg 1 0x10C (BitVec.ofNat 32 (b2n c.arbFail * 2 ^ 16 + c.bist.toNat % 2 ^ s.nHeats)) := by
  unfold State.bistFail
  rw [ha, hb]
  simp [State.each, State.when]

theorem Boot.units {z : State} (hk : z.regs.Pairwise fun a b => a.1 < b.1) (hr : ∀ r, (z.runner r).resv = none) (hs : z.spads = []) (hm : z.arbMem = []) {c : ColdIn}
    (hb : c.bist = 0) (hf : c.arbFail = false) : Boot z (z.bootUnits c) := by
  have wiped : Boot z (z.each (List.range z.nHeats ++ [16]) State.endWipe) := by
    refine each_inv (.refl hk) fun t m h k => k.endWipe hr hs hm ?_
    rcases List.mem_append.1 h with h | h
    · exact Nat.le_trans (Nat.le_of_lt (List.mem_range.1 h)) (heats_le _)
    · exact Nat.le_of_eq (List.mem_singleton.1 h)
  unfold State.bootUnits
  dsimp only
  rw [bistFail_passed hb hf]
  exact wiped.cal.calRet.setReg (by decide) _

end Sys2Proof.Machine
end

section
/-! The cold start (R44, R426, R438, R447, R452, R453). -/
namespace Sys2Proof.Machine

theorem record_room {s : State} (hp : s.pfw = false) (hl : s.scs.fifo.length ≤ 447) (kind p0 p1 p2 : Nat) (lapAt : Nat) :
    ∃ r, s.record kind p0 p1 p2 lapAt = { s with scs := { s.scs with fifo := s.scs.fifo ++ [r] } } := by
  unfold State.record
  dsimp only
  rw [if_neg (by rw [hp]; exact Bool.false_ne_true), if_pos hl]
  exact ⟨_, rfl⟩

/-- MODE.LAST at a change of mode (R447). -/
def lastVal (s : State) (m : Mode) (cause : Nat) : Reg := BitVec.ofNat 32 (cause * 2 ^ 16 + m.code * 2 ^ 8 + s.mode.code)

theorem setMode_room {s : State} (hp : s.pfw = false) (hl : s.scs.fifo.length ≤ 447) (m : Mode) (cause : Nat) :
    ∃ fi, s.setMode m cause = { s with mode := m, scs := { s.scs with fifo := fi }, regs := tset (resetOf s.fuses.variant 1 0x108) s.regs (regKey 1 0x108) (lastVal s m cause) } := by
  obtain ⟨r, e⟩ := record_room (s := { s with mode := m }.setReg 1 0x108 (lastVal s m cause)) hp hl 2 (cause * 2 ^ 16 + m.code * 2 ^ 8 + s.mode.code) 0 0 s.lap.toNat
  exact ⟨_, e⟩

theorem slot_first {x : Scores} (hf : x.segf = 0) (hp : x.pos = 0) : x.slot = some 0 := by
  have h : List.range 2048 = 0 :: (List.range 2047).map Nat.succ := List.range_succ_eq_map
  unfold Scores.slot
  rw [hf, hp, h]
  rfl

/-- The header copy that a cold start goes on from (R438). -/
def bootHeader (s : State) (hdrs : List (List Byte)) : NvHeader :=
  let ok := (hdrs.map readHeader).filter fun h => h.good && h.nsize == s.fuses.nvSize.toNat
  let best := ok.foldl (fun (a : Option NvHeader) h => match a with | none => some h | some b => if b.gen < h.gen then some h else some b) none
  best.getD { good := true, gen := 0, next := 0, old := 0, pcc := 0, pfw := false, optime := 0, nsize := s.fuses.nvSize.toNat }

/-- The Scoresheet as its POWERUP record finds it. -/
def Scores.fromHeader (x : Scores) (h : NvHeader) : Scores :=
  { x with next := h.next + 256, old := h.old, pcc := BitVec.ofNat 24 (h.pcc + 1), optime := BitVec.ofNat 40 h.optime, hdrGen := h.gen, prevPfw := h.pfw }

theorem coldScores_commit (s : State) (hdrs : List (List Byte)) : ∃ r, s.coldScores hdrs = (s.updScs fun x => x.fromHeader (bootHeader s hdrs)).commitRec r := by
  unfold State.coldScores
  exact ⟨_, rfl⟩

/-- A record in an empty buffer. -/
theorem commitRec_first {s : State} (hp : s.scs.pend = []) (hf : s.scs.segf = 0) (ho : s.scs.pos = 0) (r : Rec) :
    ∃ x, s.commitRec r = { s with scs := x } ∧ x.next = s.scs.next + 1 ∧ x.pcc = s.scs.pcc := by
  have fresh : (s.scs.pend.any fun e => e.2 == 0) = false := by rw [hp]; rfl
  unfold State.commitRec
  rw [slot_first hf ho]
  dsimp only
  rw [fresh]
  unfold State.when
  rw [if_neg Bool.false_ne_true]
  split
  · exact ⟨_, rfl, rfl, rfl⟩
  · exact ⟨_, rfl, rfl, rfl⟩

/-- The POWERUP record of a Scoresheet that holds none; where no header was found its number is 256. -/
theorem coldScores_eq {s : State} (hp : s.scs.pend = []) (hf : s.scs.segf = 0) (ho : s.scs.pos = 0) (hdrs : List (List Byte)) :
    ∃ x, s.coldScores hdrs = { s with scs := x } ∧ (hdrs = [] → x.next = 257 ∧ x.pcc = 1) := by
  obtain ⟨r, e⟩ := coldScores_commit s hdrs
  obtain ⟨x, e', hn, hc⟩ := commitRec_first (s := s.updScs fun x => x.fromHeader (bootHeader s hdrs)) hp hf ho r
  refine ⟨x, e.trans e', fun h => ?_⟩
  subst h
  exact ⟨hn, hc⟩

/-- The end of a cold start: heats publish, no cache waits (R447, R452). -/
def State.bootEnd (s : State) : State :=
  let s := s.publishHeats
  let s := s.each (List.range s.nHeats) fun s h => s.updCache h fun c => { c with init := false }
  { s with hwdone := true, cstep := 5 }

/-- The registers and the Scoresheet as the cold start's units find them. -/
def State.bootEntry (s : State) (cause : Nat) (c : ColdIn) (pre : State → State) : State :=
  ((pre (s.coldBase.loadFuses c)).setMode .coldstart cause).coldScores c.hdrs

theorem coldStart_eq (s : State) (cause : Nat) (c : ColdIn) (pre : State → State) :
    s.coldStart cause c pre = (((s.bootEntry cause c pre).bootUnits c).bootEnd).when ((s.bootEntry cause c pre).bootUnits c).bootEnd.safeReq State.containAll := rfl

/-- What comes between the reset values and the change of mode: at most a record and a report. -/
def Notes (pre : State → State) : Prop :=
  ∀ b, b.pfw = false → b.scs.fifo = [] → ∃ fi rf, pre b = { b with scs := { b.scs with fifo := fi }, ref := rf } ∧ fi.length ≤ 447

theorem bootEntry_eq (s : State) (cause : Nat) (c : ColdIn) {pre : State → State} (hpre : Notes pre) :
    ∃ x rf, s.bootEntry cause c pre = { s.coldBase.loadFuses c with
        mode := .coldstart, scs := x, ref := rf
        regs := tset (resetOf (s.coldBase.loadFuses c).fuses.variant 1 0x108) [] (regKey 1 0x108) (lastVal s .coldstart cause) }
      ∧ (c.hdrs = [] → x.next = 257 ∧ x.pcc = 1) := by
  obtain ⟨fi, rf, e, hl⟩ := hpre (s.coldBase.loadFuses c) rfl rfl
  obtain ⟨fi', e'⟩ := setMode_room (s := pre (s.coldBase.loadFuses c)) (by rw [e]; rfl) (by rw [e]; exact hl) .coldstart cause
  obtain ⟨x, e'', hx⟩ := coldScores_eq (s := (pre (s.coldBase.loadFuses c)).setMode .coldstart cause) (by rw [e', e]; rfl) (by rw [e', e]; rfl) (by rw [e', e]; rfl) c.hdrs
  refine ⟨x, rf, ?_, hx⟩
  unfold State.bootEntry
  rw [e'', e', e]
  rfl

/-- From `z` to `t` a start has run its units and published. -/
structure Started (z t : State) : Prop where
  frame : ∃ rg mu so pn sp sl ca, t = { z with regs := rg, memUp := mu, arb := { z.arb with secok := so, gen := z.arb.gen + 1 }, pins := pn, spads := sp, slices := sl, caches := ca, hwdone := true, cstep := 5 }
  bytes : ∀ h < 16, ∀ a < 0x600000, outsidePub a → t.byteAt h a = z.byteAt h a
  heats : ∀ h < z.nHeats, Published h t
  regs  : ∀ k ∈ startKeys, ∀ d, tget d t.regs k = tget d z.regs k

theorem Boot.plain {z t : State} (k : Boot z t) (hz : Plain z) : Plain t := by
  obtain ⟨⟨rg, mu, so, pn, rfl⟩, -, -⟩ := k
  exact { hz with }

/-- Units that have run, and the publication. -/
theorem Boot.publish {z t : State} (k : Boot z t) (hz : Plain z) (hsl : z.slices = []) : Started z { t.publishHeats with hwdone := true, cstep := 5 } := by
  have hsl' : t.slices = [] := by
    obtain ⟨⟨rg, mu, so, pn, rfl⟩, -, -⟩ := k
    exact hsl
  obtain ⟨⟨⟨sp, mu', sl, e⟩, -, hb⟩, hp⟩ := publishHeats_spec (k.plain hz) hsl'
  obtain ⟨⟨rg, mu, so, pn, rfl⟩, -, hr⟩ := k
  rw [e] at hb hp ⊢
  exact ⟨⟨rg, mu', so, pn, sp, sl, _, rfl⟩, hb, hp, hr⟩

theorem updCaches_eq (s : State) (l : List Nat) (f : Cache → Cache) : ∃ ca, s.each l (fun s h => s.updCache h f) = { s with caches := ca } := by
  refine each_inv (P := fun t => ∃ ca, t = { s with caches := ca }) ⟨_, rfl⟩ fun t h _ ⟨ca, e⟩ => ?_
  subst e
  exact ⟨_, rfl⟩

/-- The cold start up to the safe state. -/
theorem bootEnd_started {z : State} (hk : z.regs.Pairwise fun a b => a.1 < b.1) (hz : Plain z) (hs : z.spads = []) (hm : z.arbMem = []) (hsl : z.slices = []) {c : ColdIn}
    (hb : c.bist = 0) (hf : c.arbFail = false) : Started z (z.bootUnits c).bootEnd := by
  obtain ⟨⟨rg, mu, so, pn, sp, sl, ca, e⟩, hby, hp, hr⟩ := (Boot.units hk hz.resv hs hm hb hf).publish hz hsl
  obtain ⟨ca', e'⟩ := updCaches_eq (z.bootUnits c).publishHeats (List.range (z.bootUnits c).publishHeats.nHeats) fun c => { c with init := false }
  have e2 : (z.bootUnits c).bootEnd = { { (z.bootUnits c).publishHeats with hwdone := true, cstep := 5 } with caches := ca' } := by
    unfold State.bootEnd
    dsimp only
    rw [e']
  rw [e2]
  rw [e] at hby hp hr ⊢
  exact ⟨⟨rg, mu, so, pn, sp, sl, ca', rfl⟩, hby, hp, hr⟩

/-- The cold start, where nothing failed its test, up to the safe state that a standing request brings. -/
theorem coldStart_started (s : State) (cause : Nat) {c : ColdIn} (hb : c.bist = 0) (hf : c.arbFail = false) {pre : State → State} (hpre : Notes pre) :
    ∃ t, s.coldStart cause c pre = t.when s.safeReq State.containAll ∧ Started (s.bootEntry cause c pre) t := by
  obtain ⟨x, rf, e, -⟩ := bootEntry_eq s cause c hpre
  have k : Started (s.bootEntry cause c pre) ((s.bootEntry cause c pre).bootUnits c).bootEnd := by
    refine bootEnd_started ?_ ?_ ?_ ?_ ?_ hb hf
    · rw [e]; exact keysRise_tset .nil
    · rw [e]; exact ⟨rfl, rfl, rfl, rfl, rfl, show Mode.coldstart ≠ .quiesce by decide, rfl⟩
    · rw [e]; rfl
    · rw [e]; rfl
    · rw [e]; rfl
  refine ⟨_, (coldStart_eq ..).trans (congrArg (State.when _ · _) ?_), k⟩
  obtain ⟨⟨rg, mu, so, pn, sp, sl, ca, e'⟩, -, -, -⟩ := k
  rw [e', e]
  rfl

theorem notes_id : Notes id := fun b _ h => ⟨[], b.ref, congrArg (fun fi => { b with scs := { b.scs with fifo := fi } }) h, Nat.zero_le _⟩

/-- What a cold start leaves, apart from the safe state (R447, R452 to R454). -/
structure ColdLeft (s : State) (cause : Nat) (c : ColdIn) (t : State) : Prop where
  frame  : ∃ x rf rg mu so pn sp sl ca, t = { s.coldBase.loadFuses c with
    mode := .coldstart, scs := x, ref := rf, regs := rg, memUp := mu, arb := { secok := so, gen := 1 }, pins := pn, spads := sp, slices := sl, caches := ca, hwdone := true, cstep := 5 }
  bytes  : ∀ h < 16, ∀ a < 0x600000, outsidePub a → t.byteAt h a = 0
  heats  : ∀ h < t.nHeats, Published h t
  last   : t.reg 1 0x108 = lastVal s .coldstart cause
  scores : c.hdrs = [] → t.scs.next = 257 ∧ t.scs.pcc = 1

theorem coldStart_left (s : State) (cause : Nat) {c : ColdIn} (hb : c.bist = 0) (hf : c.arbFail = false) {pre : State → State} (hpre : Notes pre) :
    ∃ t : State, s.coldStart cause c pre = t.when s.safeReq State.containAll ∧ ColdLeft s cause c t := by
  obtain ⟨x, rf, e, hx⟩ := bootEntry_eq s cause c hpre
  obtain ⟨t, e', ⟨rg, mu, so, pn, sp, sl, ca, et⟩, hby, hp, hr⟩ := coldStart_started s cause hb hf hpre
  refine ⟨t, e', ⟨x, rf, rg, mu, so, pn, sp, sl, ca, by rw [et, e]; rfl⟩, fun h hh a ha ho => ?_, fun h hh => hp h ?_, ?_, fun h => ?_⟩
  · rw [hby h hh a ha ho, byteAt_spad _ hh, e]
    exact tget_nil 0 _
  · have hn : t.nHeats = (s.bootEntry cause c pre).nHeats := by
      unfold State.nHeats
      rw [et]
    exact hn ▸ hh
  · have last := hr (regKey 1 0x108) (by decide) (resetOf t.fuses.variant 1 0x108)
    unfold State.reg
    rw [last, et, e]
    exact (tget_tset_rise .nil ..).trans (if_pos rfl)
  · rw [et, e]
    exact hx h

end Sys2Proof.Machine
end

section
/-! The warm start (R447, R454, R455). -/
namespace Sys2Proof.Machine

/-! Tables of which entries are dropped or changed, in order of their keys -/

theorem tget_filterMap_kept {α : Type} {d : α} {f : Nat × α → Option (Nat × α)} {k : Nat} (hk : ∀ v, f (k, v) = some (k, v)) (hf : ∀ e e', f e = some e' → e'.1 = e.1) (t : Table α) :
    tget d (t.filterMap f) k = tget d t k := by
  induction t with
  | nil => rfl
  | cons e t ih =>
    obtain ⟨j, v⟩ := e
    rw [List.filterMap_cons, tget_cons]
    by_cases hj : j = k
    · subst hj
      rw [hk, if_pos rfl]
      exact (tget_cons ..).trans (if_pos rfl)
    · rw [if_neg hj]
      cases hfe : f (j, v) with
      | none => exact ih
      | some e' =>
        obtain ⟨j', v'⟩ := e'
        exact ((tget_cons ..).trans (if_neg (fun h => hj ((hf _ _ hfe).symm.trans h)))).trans ih

/-- Values changed by `g`, defaults dropped. -/
theorem tget_map_ne {α β : Type} [BEq β] [LawfulBEq β] {d : α} {d' : β} {g : α → β} (hg : g d = d') {t : Table α} (ht : t.Pairwise fun a b => a.1 < b.1) (k : Nat) :
    tget d' ((t.map fun e => (e.1, g e.2)).filter fun e => e.2 != d') k = g (tget d t k) := by
  induction t with
  | nil => exact hg.symm
  | cons e t ih =>
    obtain ⟨j, v⟩ := e
    obtain ⟨hlt, ht⟩ := List.pairwise_cons.1 ht
    rw [List.map_cons, tget_cons, List.filter_cons]
    have low : ∀ e ∈ (t.map fun e => (e.1, g e.2)).filter fun e => e.2 != d', j < e.1 := by
      intro e he
      obtain ⟨e', he', rfl⟩ := List.mem_map.1 (List.mem_filter.1 he).1
      exact hlt e' he'
    by_cases hj : j = k
    · subst hj
      rw [if_pos rfl]
      split
      · exact (tget_cons ..).trans (if_pos rfl)
      next h => exact (tget_below low).trans (by simpa using h : g v = d').symm
    · rw [if_neg hj]
      split
      · exact ((tget_cons ..).trans (if_neg hj)).trans (ih ht)
      · exact ih ht

theorem ring_warmRings {t : Table Ring} (ht : t.Pairwise fun a b => a.1 < b.1) (q : Nat) : tget {} (warmRings t) q = { migs := (tget ({} : Ring) t q).migs } :=
  tget_map_ne (d := ({} : Ring)) (d' := ({} : Ring)) (g := fun r => { migs := r.migs }) rfl ht q

/-- No class's safe reaction stands after a warm reset. -/
theorem warmCls_safeOn (t : Table ClassSt) : (warmCls t).any (fun e => e.2.safeOn) = false := by
  rw [List.any_eq_false]
  intro e he
  obtain ⟨e', -, rfl⟩ := List.mem_map.1 (List.mem_filter.1 he).1
  exact Bool.false_ne_true

/-! A warm reset's parts -/

/-- A register under a warm reset (R454). -/
def warmReg (e : Nat × Reg) : Option (Nat × Reg) :=
  let p := e.1 / 1024
  if warmClears e.1 then none
  else if (decide (0x60 ≤ p ∧ p < 0x60 + 16)) && e.1 % 1024 * 4 == 0x104 then (if e.2 &&& 0x00500000 = 0 then none else some (e.1, e.2 &&& 0x00500000))
  else some e

theorem warmReg_key (e e' : Nat × Reg) (h : warmReg e = some e') : e'.1 = e.1 := by
  unfold warmReg at h
  dsimp only at h
  split at h
  · exact nomatch h
  · split at h
    · split at h
      · exact nomatch h
      · exact (Option.some.inj h) ▸ rfl
    · exact (Option.some.inj h) ▸ rfl

/-- What a warm reset returns to its reset value and what it keeps (R454). -/
def State.warmBase (s : State) : State :=
  { s with
    regs := s.regs.filterMap warmReg, runners := [], arbRun := {}, slices := [], rings := warmRings s.rings, queues := [], credit := [], qptr := [], rent := [], hq := [], hlast := 63
    ref := { log := s.ref.log, logHead := s.ref.logHead, logCnt := s.ref.logCnt, cls := warmCls s.ref.cls }
    arb := { secok := s.arb.secok, fbCnt := s.arb.fbCnt, gen := s.arb.gen, temp := s.arb.temp, throt := s.arb.throt }
    ports := [], jobs := [], carFen := [], heatFen := 0, linkDown := 0, perst := 0, gateRun := [], qpend := false, mstate := s.mstate.filter fun e => e.2 != 1
    caches := (s.caches.map fun e => (e.1, ({ lfsr := e.2.lfsr, init := false, sd := e.2.sd } : Cache))).filter fun e => e.2 != ({} : Cache)
    img := { s.img with state := 0, paused := false, abort := false, hdr := [] } }

/-- The caches are ready, the units calibrated. -/
def State.warmUnits (s : State) : State :=
  let s := s.each (List.range s.nHeats) fun s h => s.updCache h fun c => { c with init := false }
  (s.each (List.range s.nHeats) State.calHeat).each (List.range 64) State.calPin

/-- Pacers take the safe state, the mode changes, heats publish. -/
def State.warmEnd (s : State) : State := (s.warmUnits.pacersSafe.setMode .coldstart 2).publishHeats

theorem warmStart_eq (s : State) :
    s.warmStart = State.when { s.flushAll.warmBase.warmEnd with hwdone := true, cstep := 5 } s.flushAll.warmBase.warmEnd.safeNow State.containAll := rfl

/-- From `s` to `t` only the Scoresheet and what leaves the edge have changed. -/
def ScsOut (s t : State) : Prop := ∃ x o, t = { s with scs := x, out := o }

theorem ScsOut.updScs {s t : State} (h : ScsOut s t) (f : Scores → Scores) : ScsOut s (t.updScs f) := by
  obtain ⟨x, o, rfl⟩ := h
  exact ⟨_, _, rfl⟩

theorem ScsOut.put {s t : State} (h : ScsOut s t) (out : Out) : ScsOut s (t.put out) := by
  obtain ⟨x, o, rfl⟩ := h
  exact ⟨_, _, rfl⟩

theorem ScsOut.fenceSegs {s t : State} (h : ScsOut s t) : ScsOut s t.fenceSegs := by
  refine each_inv h fun u g _ hu => ?_
  split
  · exact hu.updScs _
  · exact hu

theorem ScsOut.writeBeat {s t : State} (h : ScsOut s t) (l : List (Nat × Nat)) : ScsOut s (t.writeBeat l) := by
  have old : ScsOut s (t.each l fun s e => s.raiseOld e.1) := each_inv h fun u e _ hu => hu.updScs _
  unfold State.writeBeat
  cases l with
  | nil => exact old
  | cons => exact old.put _

/-- A flush changes the Scoresheet and what leaves the edge (R435). -/
theorem flushAll_eq (s : State) : ScsOut s s.flushAll := by
  have kept : ScsOut s s := ⟨_, _, rfl⟩
  unfold State.flushAll
  split
  · exact kept
  · have beats : ScsOut s (s.each s.scs.pend fun s e => s.writeBeat [e]) := each_inv kept fun u e _ hu => hu.writeBeat _
    dsimp only
    generalize (!s.scs.pend.isEmpty) = b
    cases b
    · exact (beats.updScs _).fenceSegs
    · exact (((beats.updScs _).put _).updScs _).fenceSegs

theorem record_eq (s : State) (kind p0 p1 p2 lapAt : Nat) : ∃ x ar, s.record kind p0 p1 p2 lapAt = { s with scs := x, ref := { s.ref with arriving := ar } } := by
  unfold State.record
  dsimp only
  split
  · exact ⟨_, _, rfl⟩
  · split
    · exact ⟨_, _, rfl⟩
    · split
      · exact ⟨_, _, rfl⟩
      · exact ⟨_, _, rfl⟩

theorem setMode_eq (s : State) (m : Mode) (cause : Nat) : ∃ x ar, s.setMode m cause = { s with
    mode := m, regs := tset (resetOf s.fuses.variant 1 0x108) s.regs (regKey 1 0x108) (lastVal s m cause), scs := x, ref := { s.ref with arriving := ar } } := by
  obtain ⟨x, ar, e⟩ := record_eq ({ s with mode := m }.setReg 1 0x108 (lastVal s m cause)) 2 (cause * 2 ^ 16 + m.code * 2 ^ 8 + s.mode.code) 0 0 s.lap.toNat
  exact ⟨x, ar, e⟩

/-- What the parts of a warm start do not change. -/
def State.core (s : State) : State :=
  { s with regs := [], memUp := [], pins := [], caches := [], pacers := [], scs := {}, out := [], mode := .coldstart, arb := { s.arb with secok := 0 }, ref := { s.ref with arriving := [] } }

theorem core_fuses (s : State) : s.core.fuses = s.fuses := rfl
theorem core_spads (s : State) : s.core.spads = s.spads := rfl

theorem Boot.core {z t : State} (k : Boot z t) : t.core = z.core := by
  obtain ⟨⟨rg, mu, so, pn, rfl⟩, -, -⟩ := k
  rfl

theorem pacersSafe_core (s : State) : s.pacersSafe.core = s.core := by
  obtain ⟨pc, e⟩ := pacersSafe_eq s
  rw [e]
  rfl

theorem setMode_core (s : State) (m : Mode) (cause : Nat) : (s.setMode m cause).core = s.core := by
  obtain ⟨x, ar, e⟩ := setMode_eq s m cause
  rw [e]
  rfl

theorem pacersSafe_regs (s : State) : s.pacersSafe.regs = s.regs := by
  obtain ⟨pc, e⟩ := pacersSafe_eq s
  rw [e]

theorem setMode_regs (s : State) (m : Mode) (cause : Nat) :
    (s.setMode m cause).regs = tset (resetOf s.fuses.variant 1 0x108) s.regs (regKey 1 0x108) (lastVal s m cause) := by
  obtain ⟨x, ar, e⟩ := setMode_eq s m cause
  rw [e]

theorem setMode_mode (s : State) (m : Mode) (cause : Nat) : (s.setMode m cause).mode = m := by
  obtain ⟨x, ar, e⟩ := setMode_eq s m cause
  rw [e]

theorem setMode_pacers (s : State) (m : Mode) (cause : Nat) : (s.setMode m cause).pacers = s.pacers := by
  obtain ⟨x, ar, e⟩ := setMode_eq s m cause
  rw [e]

/-- What a warm start leaves of its base `z`, beside its publication. -/
structure WarmLeft (z t : State) : Prop where
  core   : ∃ sp sl, t.core = { z.core with spads := sp, slices := sl, arb := { z.core.arb with gen := z.arb.gen + 1 } }
  mode   : t.mode = .coldstart
  bytes  : ∀ h < 16, ∀ a < 0x600000, outsidePub a → t.byteAt h a = z.byteAt h a
  heats  : ∀ h < z.nHeats, Published h t
  refcnt : t.reg 8 0x110 = z.reg 8 0x110
  pacers : ∀ n < 16, z.pacerPresent n = true → (t.pacer n).st = .safe

theorem warmUnits_boot {z : State} (hk : z.regs.Pairwise fun a b => a.1 < b.1) : ∃ ca, Boot { z with caches := ca } z.warmUnits := by
  obtain ⟨ca, ec⟩ := updCaches_eq z (List.range z.nHeats) fun c => { c with init := false }
  refine ⟨ca, ?_⟩
  unfold State.warmUnits
  dsimp only
  rw [ec]
  exact (Boot.refl (z := { z with caches := ca }) hk).cal

theorem warmUnits_core {z : State} (hk : z.regs.Pairwise fun a b => a.1 < b.1) : z.warmUnits.core = z.core := by
  obtain ⟨ca, k⟩ := warmUnits_boot hk
  exact k.core

theorem warmUnits_pacers {z : State} (hk : z.regs.Pairwise fun a b => a.1 < b.1) : z.warmUnits.pacers = z.pacers := by
  obtain ⟨ca, ⟨rg, mu, so, pn, e⟩, -, -⟩ := warmUnits_boot hk
  rw [e]

/-- REFCNT up to the publication. -/
theorem warmUnits_refcnt {z : State} (hk : z.regs.Pairwise fun a b => a.1 < b.1) (d : Reg) :
    tget d (z.warmUnits.pacersSafe.setMode .coldstart 2).regs (regKey 8 0x110) = tget d z.regs (regKey 8 0x110) := by
  obtain ⟨ca, -, hkeys, hr⟩ := warmUnits_boot hk
  have e1 : regKey 8 0x110 ≠ regKey 1 0x108 := by decide
  rw [setMode_regs, pacersSafe_regs, tget_tset_other hkeys e1]
  exact hr _ (by decide) d

theorem warmEnd_left {z : State} (hk : z.regs.Pairwise fun a b => a.1 < b.1) (hp : twf {} z.pacers = true) (hz : Plain z.core) (hsl : z.slices = []) :
    WarmLeft z z.warmEnd := by
  have core : (z.warmUnits.pacersSafe.setMode .coldstart 2).core = z.core := (setMode_core ..).trans ((pacersSafe_core _).trans (warmUnits_core hk))
  have refcnt := warmUnits_refcnt hk (resetOf z.fuses.variant 8 0x110)
  have mode : (z.warmUnits.pacersSafe.setMode .coldstart 2).mode = .coldstart := setMode_mode ..
  have safe (n : Nat) (hn : n < 16) (h : z.pacerPresent n = true) : ((z.warmUnits.pacersSafe.setMode .coldstart 2).pacer n).st = .safe := by
    have hf := congrArg State.fuses (warmUnits_core hk)
    rw [core_fuses, core_fuses] at hf
    have here : z.warmUnits.pacerPresent n = true := by
      unfold State.pacerPresent at *
      rw [hf]
      exact h
    have st := pacersSafe_st (by rw [warmUnits_pacers hk]; exact hp) hn here
    unfold State.pacer at st ⊢
    rw [setMode_pacers]
    exact st
  unfold State.warmEnd
  generalize z.warmUnits.pacersSafe.setMode .coldstart 2 = y at *
  have plain : Plain y := ⟨(congrArg State.runners core).trans hz.runners, (congrArg State.arbRun core).trans hz.arbRun, (congrArg (fun u => u.arb.pools) core).trans hz.pools,
    (congrArg (fun u => u.arb.paths) core).trans hz.paths, (congrArg State.heatFen core).trans hz.heatFen, mode ▸ show Mode.coldstart ≠ .quiesce by decide,
    (congrArg (fun u => twf 0 u.spads) core).trans hz.spads⟩
  have hspads := congrArg State.spads core
  have hfuses := congrArg State.fuses core
  rw [core_spads, core_spads] at hspads
  rw [core_fuses, core_fuses] at hfuses
  obtain ⟨⟨⟨sp, mu, sl, e⟩, -, hb⟩, hpub⟩ := publishHeats_spec plain ((congrArg State.slices core).trans hsl)
  refine ⟨⟨sp, sl, ?_⟩, ?_, fun h hh a ha ho => ?_, fun h hh => hpub h ?_, ?_, fun n hn h => ?_⟩
  · rw [e, ← core, ← show y.arb.gen = z.arb.gen from congrArg (fun u => u.arb.gen) core]
    rfl
  · rw [e]; exact mode
  · rw [hb h hh a ha ho, byteAt_spad _ hh, byteAt_spad _ hh, State.updArb_spads, hspads]
  · unfold State.nHeats at *
    rw [hfuses]
    exact hh
  · unfold State.reg
    rw [e, ← refcnt, ← hfuses]
    rfl
  · rw [e]
    exact safe n hn h

end Sys2Proof.Machine
end

section
/-! Cold and warm reset (R28, R44, R213, R447, R452 to R455). -/
namespace Sys2Proof.Machine

theorem lastVal_coldstart (s : State) (cause : Nat) : lastVal s .coldstart cause = BitVec.ofNat 32 (cause * 2 ^ 16 + 0x100 + s.mode.code) := rfl

theorem flushAll_warmBase (s : State) : s.flushAll.warmBase.core = s.warmBase.core ∧ s.flushAll.warmBase.regs = s.warmBase.regs ∧ s.flushAll.warmBase.pacers = s.warmBase.pacers := by
  obtain ⟨x, o, e⟩ := flushAll_eq s
  rw [e]
  exact ⟨rfl, rfl, rfl⟩

theorem warmReg_refcnt (v : Reg) : warmReg (regKey 8 0x110, v) = some (regKey 8 0x110, v) := by
  simp [warmReg, warmClears, regKey]

theorem warmBase_refcnt (s : State) : s.warmBase.reg 8 0x110 = s.reg 8 0x110 := tget_filterMap_kept warmReg_refcnt warmReg_key s.regs

theorem warmBase_plain {s : State} (hm : s.MemOk) : Plain s.warmBase.core := ⟨rfl, rfl, rfl, rfl, rfl, show Mode.coldstart ≠ .quiesce by decide, hm.spads⟩

/-- A warm reset outside FACTORY up to the safe state. -/
theorem warmPub_left {s : State} (hs : s.TablesOk) (hm : s.MemOk) : WarmLeft s.flushAll.warmBase s.flushAll.warmBase.warmEnd := by
  obtain ⟨hc, hk, hp⟩ := flushAll_warmBase s
  refine warmEnd_left ?_ ?_ ?_ ?_
  · rw [hk]; exact keysRise_filterMap warmReg_key hs.regs
  · rw [hp]; exact hs.pacers
  · rw [hc]; exact warmBase_plain hm
  · exact congrArg State.slices hc

/-- A warm reset outside FACTORY, where no request for the safe state stands. -/
theorem warmStart_left {s : State} (hs : s.TablesOk) (hm : s.MemOk) (hp : s.pfw = false) (hr : s.safeReq = false) :
    ∃ t : State, s.warmStart = { t with hwdone := true, cstep := 5 } ∧ WarmLeft s.flushAll.warmBase t := by
  have left := warmPub_left hs hm
  obtain ⟨hc, -, -⟩ := flushAll_warmBase s
  refine ⟨_, ?_, left⟩
  obtain ⟨⟨sp, sl, ec⟩, -, -, -, -, -⟩ := left
  rw [hc] at ec
  rw [warmStart_eq]
  generalize s.flushAll.warmBase.warmEnd = t at *
  have calm : t.safeNow = false := by
    have e1 : t.safeReq = s.safeReq := (congrArg State.safeReq ec :)
    have e2 : t.pfw = s.pfw := (congrArg State.pfw ec :)
    have e3 : t.ref.cls = warmCls s.ref.cls := congrArg (fun u : State => u.ref.cls) ec
    unfold State.safeNow
    rw [e1, e2, e3, warmCls_safeOn, hp, hr]
    rfl
  rw [calm]
  rfl

theorem execWarmReset_running {s : State} (c : ColdIn) (h : s.mode ≠ .factory) : exec (.warmReset c) s = .next s.warmStart := by
  show execWarmReset c s = _
  unfold execWarmReset
  rw [if_neg h]

theorem execWarmReset_factory {s : State} (c : ColdIn) (h : s.mode = .factory) : exec (.warmReset c) s = .next (s.coldStart 3 c) := by
  show execWarmReset c s = _
  unfold execWarmReset
  rw [if_pos h]

/-- Settles O59: the cold start and the warm start, each up to its publication, with no unit failed and no request for the safe state. -/
theorem resetsComplete : Obligations.ResetsComplete := by
  unfold Obligations.ResetsComplete
  intro s w c hb hf hr outside published done cold
  have coldDone {z t : State} {cause : Nat} (k : ColdLeft z cause c t)
      (hz : z.pending = s.pending ∧ z.out = s.out ∧ z.fuses = s.fuses ∧ z.life = s.life ∧ z.mode = s.mode) (hh : c.hdrs = []) : cold t cause := by
    obtain ⟨hpend, hout, hfuses, hlife, hmode⟩ := hz
    obtain ⟨⟨x, rf, rg, mu, so, pn, sp, sl, ca, e⟩, bytes, heats, last, scores⟩ := k
    obtain ⟨hnext, hpcc⟩ := scores hh
    have hn : t.nHeats = s.nHeats := by
      rw [e, ← show z.nHeats = s.nHeats from congrArg (fun f : Fuses => f.variant.heats) hfuses]
      rfl
    have hpub : published t := fun h hlt => heats h (by rw [hn]; exact hlt)
    rw [lastVal_coldstart, hmode] at last
    have hfin : t.fuses = { c.fuses.getD s.fuses with variant := s.fuses.variant } := by
      rw [e, ← hfuses]
      rfl
    subst e
    exact ⟨⟨rfl, rfl, rfl, rfl, hpend, rfl, hpub, rfl, rfl, rfl, rfl⟩, hout, hfin, rfl, bytes, rfl, rfl, rfl, rfl, hlife, hpcc, hnext, last⟩
  have winbase {z t : State} {cause : Nat} (k : ColdLeft z cause c t) : t.winbase = z.winbase ∧ t.vddLow = z.vddLow := by
    obtain ⟨⟨x, rf, rg, mu, so, pn, sp, sl, ca, e⟩, -, -, -, -⟩ := k
    rw [e]
    exact ⟨rfl, rfl⟩
  refine ⟨fun hh => ?_, fun hh hmode => ?_, fun hmode hp ht hm => ?_⟩
  · obtain ⟨t, e, k⟩ := coldStart_left { s with winbase := w, vddLow := false } 1 hb hf notes_id
    refine ⟨t, ?_, coldDone k ⟨rfl, rfl, rfl, rfl, rfl⟩ hh, winbase k⟩
    show execColdReset w c s = _
    unfold execColdReset
    rw [e, hr]
    rfl
  · obtain ⟨t, e, k⟩ := coldStart_left s 3 hb hf notes_id
    refine ⟨t, ?_, coldDone k ⟨rfl, rfl, rfl, rfl, rfl⟩ hh, (winbase k).1⟩
    rw [execWarmReset_factory c hmode, e, hr]
    rfl
  · obtain ⟨t, e, ⟨sp, sl, core⟩, mode, bytes, heats, refcnt, pacers⟩ := warmStart_left ht hm hp hr
    obtain ⟨base, hregs, -⟩ := flushAll_warmBase s
    rw [base] at core
    refine ⟨_, (execWarmReset_running c hmode).trans (congrArg _ e), ?_⟩
    have hf : s.flushAll.warmBase.fuses = s.fuses := (congrArg State.fuses base :)
    have hn : s.flushAll.warmBase.nHeats = s.nHeats := (congrArg (fun f : Fuses => f.variant.heats) hf :)
    have hpub : published t := fun h hlt => heats h (by rw [hn]; exact hlt)
    refine ⟨⟨mode, rfl, rfl, (congrArg State.qpend core :), (congrArg State.pending core :), (congrArg State.runners core :), hpub, (congrArg State.ports core :),
      (congrArg State.jobs core :), (congrArg State.credit core :), (congrArg State.qptr core :)⟩, (congrArg State.fuses core :), fun h hh a ha ho => ?_, (congrArg State.arbMem core :),
      (congrArg State.cwords core :), (congrArg State.cstores core :), (congrArg State.lap core :), (congrArg (fun u : State => u.ref.log) core :),
      (congrArg (fun u : State => u.img.state) core :), (congrArg State.heatFen core :), (congrArg State.linkDown core :), (congrArg State.perst core :), fun q => ?_,
      (congrArg (fun u : State => u.arb.fbCnt) core :), ?_, fun n hn h => pacers n hn ?_⟩
    · refine (bytes h hh a ha ho).trans ?_
      rw [byteAt_spad _ hh, byteAt_spad _ hh, show s.flushAll.warmBase.spads = s.spads from (congrArg State.spads base :)]
    · exact (congrArg (fun u : State => u.ring q) core :).trans (ring_warmRings (twf_iff.1 ht.rings).1 q)
    · refine refcnt.trans (Eq.trans ?_ (warmBase_refcnt s))
      unfold State.reg
      rw [hregs, hf]
      rfl
    · unfold State.pacerPresent at *
      rw [hf]
      exact h

end Sys2Proof.Machine
end

section
/-! What comes in at the pins and links (R27, R29, R30, R34, R43 to R45, R306, R380, R403, R425, R435, R451, R460). -/
namespace Sys2Proof.Machine

/-! The safe state of root ports that have nothing outstanding, in COLDSTART -/

/-- From `z` to `t` only registers, root ports and the Referee have changed, and no root port has a request outstanding or lives. -/
def PortsOnly (z t : State) : Prop :=
  ∃ rg pt rf, t = { z with regs := rg, ports := pt, ref := rf } ∧ twf {} pt = true ∧ ∀ p, (t.port p).np = [] ∧ (t.port p).tagq = [] ∧ (t.port p).live = false

theorem postedStand_none {s : State} (h : s.jobs = []) (p : Nat) : s.postedStand p = s := by
  refine each_inv (P := fun t => t = s) rfl fun t key _ e => ?_
  subst e
  have hj (k : Nat) : t.job k = {} := by unfold State.job; rw [h]; rfl
  simp only [hj]

theorem PortsOnly.setReg {z t : State} (k : PortsOnly z t) (p off : Nat) (v : Reg) : PortsOnly z (t.setReg p off v) := by
  obtain ⟨rg, pt, rf, rfl, hp, hq⟩ := k
  exact ⟨_, pt, rf, rfl, hp, hq⟩

theorem PortsOnly.contained {z t : State} (k : PortsOnly z t) (p : Nat) :
    PortsOnly z (t.updPort p fun x => { x with ls := .contained, relAt := none, np := [], tagq := [], hold := [] }) := by
  obtain ⟨rg, pt, rf, rfl, hp, hq⟩ := k
  refine ⟨rg, _, rf, rfl, twf_tset hp, fun q => ?_⟩
  unfold State.updPort State.port
  dsimp only
  rw [tget_tset hp]
  split
  · exact ⟨rfl, rfl, (hq p).2.2⟩
  · exact hq q

theorem PortsOnly.mode {z t : State} (k : PortsOnly z t) : t.mode = z.mode := by
  obtain ⟨rg, pt, rf, rfl, -, -⟩ := k
  rfl

theorem PortsOnly.jobs {z t : State} (k : PortsOnly z t) : t.jobs = z.jobs := by
  obtain ⟨rg, pt, rf, rfl, -, -⟩ := k
  rfl

theorem setLive_off {s : State} {p : Nat} (h : (s.port p).live = false) : s.setLive p false = s := if_pos h

theorem refreshMode_coldstart {s : State} (h : s.mode = .coldstart) : s.refreshMode = s := by
  unfold State.refreshMode
  rw [h]

theorem PortsOnly.report {z t : State} (k : PortsOnly z t) (cls cause reporter suspect elem detail : Nat) (live : Bool) :
    PortsOnly z (t.report cls cause reporter suspect elem detail live) := by
  obtain ⟨rg, pt, rf, rfl, hp, hq⟩ := k
  exact ⟨rg, pt, _, rfl, hp, hq⟩

theorem PortsOnly.containPort {z t : State} (hm : z.mode = .coldstart) (hj : z.jobs = []) (k : PortsOnly z t) (p cause : Nat) : PortsOnly z (t.containPort p cause) := by
  have hreq : (t.port p).np.map (·.2) ++ (t.port p).tagq.map (·.1) = [] := by
    obtain ⟨-, -, -, -, -, hq⟩ := k
    rw [(hq p).1, (hq p).2.1]
    rfl
  unfold State.containPort
  split
  · exact k
  · have ended {u : State} (hu : PortsOnly z u) : PortsOnly z ((((u.postedStand p).setLive p false).report 0x15 1 (rpPage p) (rpPage p) 0 cause true).refreshMode) := by
      obtain ⟨-, -, -, -, -, hq⟩ := id hu
      rw [postedStand_none (hu.jobs.trans hj), setLive_off (hq p).2.2, refreshMode_coldstart ((hu.report ..).mode.trans hm)]
      exact hu.report ..
    dsimp only
    rw [hreq, each_nil]
    exact ended (((k.contained p).setReg ..).setReg ..)

theorem PortsOnly.containAll {z : State} (hm : z.mode = .coldstart) (hj : z.jobs = []) (hp : z.ports = []) : PortsOnly z z.containAll := by
  have begun : PortsOnly z z := by
    refine ⟨z.regs, [], z.ref, congrArg (fun t => { z with ports := t }) hp, rfl, fun p => ?_⟩
    unfold State.port
    rw [hp]
    exact ⟨rfl, rfl, rfl⟩
  exact each_inv begun fun t p _ k => k.containPort hm hj p 2

/-! A change of LIFE in FACTORY is a cold reset (R451) -/

theorem notes_life (old code : BitVec 3) : Notes fun t => (t.record 3 (code.toNat * 2 ^ 8 + old.toNat) 0 0).when (decide (4 < code.toNat)) fun t => t.report 0x10 3 0 0 0 code.toNat := by
  intro b hp hf
  obtain ⟨r, e⟩ := record_room hp (by rw [hf]; exact Nat.zero_le _) 3 (code.toNat * 2 ^ 8 + old.toNat) 0 0 b.lap.toNat
  have len : (b.scs.fifo ++ [r]).length ≤ 447 := by rw [hf]; exact show 1 ≤ 447 by decide
  dsimp only
  rw [e]
  generalize decide (4 < code.toNat) = five
  cases five
  · exact ⟨_, b.ref, rfl, len⟩
  · exact ⟨_, _, rfl, len⟩

theorem lifeChange_factory {s : State} {code : BitVec 3} {c : ColdIn} (hc : code ≠ s.life) (hm : s.mode = .factory) (h0 : code ≠ 0) (h3 : code ≠ 3) (hb : c.bist = 0) (hf : c.arbFail = false) :
    ∃ t : State, exec (.lifeChange code c) s = .next t ∧ t.life = code ∧ t.mode = .coldstart ∧ ∀ h < 16, ∀ a < 0x600000, outsidePub a → t.byteAt h a = 0 := by
  obtain ⟨t, e, ⟨x, rf, rg, mu, so, pn, sp, sl, ca, et⟩, bytes, -, -, -⟩ := coldStart_left { s with life := code } 3 hb hf (notes_life s.life code)
  have hexec : exec (.lifeChange code c) s = .next (t.when s.safeReq State.containAll) := by
    show execLifeChange code c s = _
    unfold execLifeChange
    rw [if_neg hc, if_pos ⟨hm, h0, h3⟩]
    exact congrArg _ e
  have hlife : t.life = code := by rw [et]; rfl
  have hmode : t.mode = .coldstart := by rw [et]
  refine ⟨_, hexec, ?_⟩
  cases s.safeReq
  · exact ⟨hlife, hmode, bytes⟩
  · obtain ⟨rg, pt, rf, ec, -, -⟩ := PortsOnly.containAll hmode (by rw [et]; rfl) (by rw [et]; rfl)
    show t.containAll.life = code ∧ t.containAll.mode = .coldstart ∧ ∀ h < 16, ∀ a < 0x600000, outsidePub a → t.containAll.byteAt h a = 0
    rw [ec]
    exact ⟨hlife, hmode, bytes⟩

/-! Wipes (R306) -/

/-- The start of a wipe changes the upkeep of its memory, runners and the record of wipes that completed. -/
theorem startWipe_eq (s : State) (m : Nat) :
    ∃ ru ar ab, s.startWipe m = { s with memUp := tset {} s.memUp m { s.up m with wipe := true }, runners := ru, arbRun := ar, arb := ab } := by
  have drop (l : List Rid) (u : State) : ∃ ru ar, u.each l (fun s r => if (s.runner r).stores.any (fun e => inSecure m e.addr) then s.updR r fun x => x.dropSecure m else s)
      = { u with runners := ru, arbRun := ar } := by
    refine each_inv (P := fun t => ∃ ru ar, t = { u with runners := ru, arbRun := ar }) ⟨_, _, rfl⟩ fun t r _ ⟨ru, ar, e⟩ => ?_
    subst e
    split
    · cases r with
      | heat h i => exact ⟨_, _, rfl⟩
      | arb => exact ⟨_, _, rfl⟩
    · exact ⟨_, _, rfl⟩
  unfold State.startWipe
  dsimp only
  obtain ⟨ru, ar, e⟩ := drop (if m = 16 then [Rid.arb] else ridsOf m) (s.updUp m fun u => { u with wipe := true })
  rw [e]
  generalize decide (m < 16) = b
  cases b
  · exact ⟨ru, ar, _, rfl⟩
  · exact ⟨ru, ar, _, rfl⟩

/-- A wipe of every secure part is in progress. -/
def State.wiping (s : State) : Prop := ∀ m, m < s.nHeats ∨ m = 16 → (s.up m).wipe = true

theorem wipeAll_eq (s : State) : ∃ mu ru ar ab, s.wipeAll = { s with memUp := mu, runners := ru, arbRun := ar, arb := ab } := by
  refine each_inv (P := fun t => ∃ mu ru ar ab, t = { s with memUp := mu, runners := ru, arbRun := ar, arb := ab }) ⟨_, _, _, _, rfl⟩ fun t m _ ⟨mu, ru, ar, ab, e⟩ => ?_
  obtain ⟨ru', ar', ab', e'⟩ := startWipe_eq t m
  rw [e', e]
  exact ⟨_, _, _, _, rfl⟩

theorem wipeAll_wiping {s : State} (hs : twf {} s.memUp = true) : s.wipeAll.wiping := by
  have up {t : State} (ht : twf {} t.memUp = true) (m k : Nat) : ((t.startWipe m).up k).wipe = if k = m then true else (t.up k).wipe := by
    obtain ⟨ru, ar, ab, e⟩ := startWipe_eq t m
    rw [e]
    unfold State.up
    dsimp only
    rw [tget_tset ht]
    split <;> rfl
  have kept (t : State) (m : Nat) (ht : twf {} t.memUp = true) : twf {} (t.startWipe m).memUp = true := by
    obtain ⟨ru, ar, ab, e⟩ := startWipe_eq t m
    rw [e]
    exact twf_tset ht
  have all := each_forall (P := fun t => twf {} t.memUp = true) (Q := fun m t => (t.up m).wipe = true) (l := List.range s.nHeats ++ [16]) (f := State.startWipe) hs
    (fun t m _ => kept t m) (fun t m _ ht => (up ht m m).trans (if_pos rfl)) (fun t k m _ ht hk => (up ht m k).trans (by rw [hk, ite_self]))
  intro m hm
  refine all m ?_
  obtain ⟨mu, ru, ar, ab, e⟩ := wipeAll_eq s
  rw [e] at hm
  rw [List.mem_append, List.mem_range, List.mem_singleton]
  exact hm

theorem tamper_first {s : State} (hs : s.TablesOk) (h : s.tamper = false) :
    ∃ t : State, exec .tamper s = .next t ∧ t.tamper = true ∧ (∀ m, m < s.nHeats ∨ m = 16 → (t.up m).wipe = true) ∧ ∃ r, t.ref.arriving = s.ref.arriving ++ [r] ∧ r.src = 8 * 0x20 + 2 ∧ r.live = true := by
  have wiping := wipeAll_wiping (s := { s with tamper := true }.report 0x20 2 0 0 0 0 true) hs.memUp
  obtain ⟨mu, ru, ar, ab, e⟩ := wipeAll_eq ({ s with tamper := true }.report 0x20 2 0 0 0 0 true)
  refine ⟨({ s with tamper := true }.report 0x20 2 0 0 0 0 true).wipeAll, ?_, ?_⟩
  · show execTamper s = _
    unfold execTamper
    rw [if_neg (by rw [h]; exact Bool.false_ne_true)]
  · rw [e] at wiping ⊢
    exact ⟨rfl, wiping, _, rfl, rfl, rfl⟩

theorem lifeChange_running {s : State} (hs : s.TablesOk) {code : BitVec 3} (c : ColdIn) (hc : code ≠ s.life) (hm : s.mode ≠ .factory ∨ code = 0 ∨ code = 3) :
    ∃ t : State, exec (.lifeChange code c) s = .next t ∧ t.life = code ∧ t.mode = s.mode ∧ (∀ m, m < s.nHeats ∨ m = 16 → (t.up m).wipe = true)
      ∧ t.rfld 5 0x100 31 16 = min (s.rfld 5 0x100 31 16 + 1) 0xFFFF := by
  have hl : ({ s with life := code } : State).TablesOk := { hs with }
  have count := State.rfld_satInc hl 5 0x100 1 (hi := 31) (lo := 16) (by decide)
  obtain ⟨x, ar, er⟩ := record_eq (State.satInc { s with life := code } 5 0x100 31 16) 3 (code.toNat * 2 ^ 8 + s.life.toNat) 0 0 (State.satInc { s with life := code } 5 0x100 31 16).lap.toNat
  have wiping := wipeAll_wiping (s := (State.satInc { s with life := code } 5 0x100 31 16).record 3 (code.toNat * 2 ^ 8 + s.life.toNat) 0 0) (by rw [er]; exact hs.memUp)
  obtain ⟨mu, ru, arn, ab, ew⟩ := wipeAll_eq ((State.satInc { s with life := code } 5 0x100 31 16).record 3 (code.toNat * 2 ^ 8 + s.life.toNat) 0 0)
  refine ⟨s.lifeTo code, ?_, ?_⟩
  · show execLifeChange code c s = _
    unfold execLifeChange
    rw [if_neg hc, if_neg (by rintro ⟨hf, h0, h3⟩; rcases hm with h | h | h <;> contradiction)]
  · rw [ew, er] at wiping
    unfold State.lifeTo
    dsimp only
    rw [ew, er]
    generalize decide (4 < code.toNat) = b
    cases b
    · exact ⟨rfl, rfl, wiping, count⟩
    · exact ⟨rfl, rfl, wiping, count⟩

/-! The safe state (R30, R45, R380) -/

theorem pfwNFall_first {s : State} (hs : s.TablesOk) (hm : s.mode ≠ .quiesce) (h : s.pfw = false) :
    ∃ t : State, exec .pfwNFall s = .next t ∧ t.pfw = true ∧ t.scs.flushing = true ∧ t.allSafe ∧ t.fuses = s.fuses := by
  obtain ⟨safe, hf, hp, -⟩ := safeState_spec (s := (({ s with pfw := true }.updScs fun x => { x with clearing := false }).report 0x20 1 0 0 0)) { hs with } hm
  refine ⟨(({ s with pfw := true }.updScs fun x => { x with clearing := false }).report 0x20 1 0 0 0).safeState.flushTrigger, ?_, ?_⟩
  · show execPfwNFall s = _
    unfold execPfwNFall
    rw [if_neg (by rw [h]; exact Bool.false_ne_true)]
    rw [show (s.mode != Mode.quiesce) = true by simpa using hm]
    rfl
  · generalize (({ s with pfw := true }.updScs fun x => { x with clearing := false }).report 0x20 1 0 0 0).safeState = x at *
    exact ⟨hp, rfl, safe, hf⟩

theorem safeReq_first {s : State} (hs : s.TablesOk) (hm : s.mode ≠ .quiesce) (h : s.safeReq = false) :
    ∃ t : State, exec .safeReq s = .next t ∧ t.safeReq = true ∧ t.allSafe ∧ t.fuses = s.fuses := by
  obtain ⟨safe, hf, -, hr⟩ := safeState_spec (s := { s with safeReq := true }.report 0x20 0 0 0 0 0 true) { hs with } hm
  refine ⟨_, ?_, hr, safe, hf⟩
  show execSafeReq s = _
  unfold execSafeReq
  rw [if_neg (by rw [h]; exact Bool.false_ne_true)]

/-- Settles O60: the first arrival of each level by its own lemma; a level that stands, and the links, by the commands' definitions. -/
theorem edgeEventsComplete : Obligations.EdgeEventsComplete := by
  unfold Obligations.EdgeEventsComplete
  intro s code c k hs hm safe wiped lost
  have toSafe {t : State} (h : t.allSafe) (hf : t.fuses = s.fuses) : safe t := by
    unfold State.allSafe State.pacerPresent State.nPorts at h
    rw [hf] at h
    exact h
  refine ⟨fun h => ?_, fun h => ?_, fun h => ?_, fun h => ⟨?_, ?_⟩, tamper_first hs, fun h => ⟨?_, ?_⟩, ?_, lifeChange_running hs c, fun hc hf h0 h3 hb ha => ?_, fun hk hu => ⟨?_, ?_⟩, fun hk => ?_, rfl⟩
  · obtain ⟨t, e, hp, hfl, hsafe, hf⟩ := pfwNFall_first hs hm h
    exact ⟨t, e, hp, hfl, toSafe hsafe hf⟩
  · exact congrArg _ (if_pos h)
  · obtain ⟨t, e, hr, hsafe, hf⟩ := safeReq_first hs hm h
    exact ⟨t, e, hr, toSafe hsafe hf⟩
  · exact congrArg _ (if_pos h)
  · exact congrArg _ (if_pos h)
  · exact congrArg _ (if_pos h)
  · exact congrArg _ (if_pos h)
  · exact congrArg _ (if_pos rfl)
  · obtain ⟨t, e, hl, hmo, hby⟩ := lifeChange_factory hc hf h0 h3 hb ha
    exact ⟨t, e, hl, hmo, fun h hh a hlt ho => hby h hh a hlt (by unfold outsidePub; omega)⟩
  · exact congrArg _ (if_pos ⟨hk, hu⟩)
  · exact congrArg _ (if_pos ⟨hk, hu⟩)
  · exact congrArg _ (if_pos hk)

end Sys2Proof.Machine
end

section
/-! A HAU trigger as its unit takes it: what it reads of the state is as it was before its word began (R75, R96). -/
namespace Sys2Proof.Machine

/-- `u` is `s` as a word of `r` begins: runners apart nothing has changed, and of `r` only CTL's copy, STL and the mark of a stall. -/
structure Begun (s u : State) (r : Rid) : Prop where
  rest   : ∃ ru ar, u = { s with runners := ru, arbRun := ar }
  runner : ∃ c n m, u.runner r = { s.runner r with ctlEff := c, stl := n, stallAt := m }
  ok     : u.TablesOk

theorem updR_rest (s : State) (r : Rid) (f : Runner → Runner) : ∃ ru ar, s.updR r f = { s with runners := ru, arbRun := ar } := by
  cases r with
  | heat h i => exact ⟨_, _, rfl⟩
  | arb => exact ⟨_, _, rfl⟩

theorem begun_beginWord {s : State} (h : s.TablesOk) (r : Rid) : Begun s (s.beginWord r) r := by
  obtain ⟨c, e⟩ := beginWord_runner h r
  refine ⟨?_, ⟨c, _, _, e⟩, beginWord_ok h r⟩
  rcases beginWord_cases s r with e | e <;> rw [e]
  · exact ⟨_, _, rfl⟩
  · exact updR_rest ..

theorem begun_taking {s : State} (h : s.TablesOk) (r : Rid) : Begun s (s.taking r) r := by
  obtain ⟨c, n, e⟩ := taking_runner h r
  refine ⟨?_, ⟨c, n, _, e⟩, updR_ok (beginWord_ok h r) ..⟩
  obtain ⟨ru, ar, e1⟩ := (begun_beginWord h r).rest
  obtain ⟨ru', ar', e2⟩ := updR_rest (s.beginWord r) r fun x => x.stallEnd (s.beginWord r).clkS
  unfold State.taking
  rw [e2, e1]
  exact ⟨_, _, rfl⟩

section
variable {s u : State} {r : Rid} (k : Begun s u r)
include k

theorem Begun.cache (h : Nat) : u.cache h = s.cache h := by
  obtain ⟨⟨ru, ar, rfl⟩, -, -⟩ := k
  rfl

theorem Begun.reg (p off : Nat) : u.reg p off = s.reg p off := by
  obtain ⟨⟨ru, ar, rfl⟩, -, -⟩ := k
  rfl

theorem Begun.winbase : u.winbase = s.winbase := by
  obtain ⟨⟨ru, ar, rfl⟩, -, -⟩ := k
  rfl

theorem Begun.up (m : Nat) : u.up m = s.up m := by
  obtain ⟨⟨ru, ar, rfl⟩, -, -⟩ := k
  rfl

theorem Begun.byteAt (m a : Nat) : u.byteAt m a = s.byteAt m a := by
  obtain ⟨⟨ru, ar, rfl⟩, -, -⟩ := k
  rfl

theorem Begun.linkLive : u.linkLive = s.linkLive := by
  obtain ⟨⟨ru, ar, rfl⟩, -, -⟩ := k
  rfl

theorem Begun.linkOf (a : Nat) : u.linkOf a = s.linkOf a := by
  obtain ⟨⟨ru, ar, rfl⟩, -, -⟩ := k
  rfl

theorem Begun.cacheOn (h : Nat) : u.cacheOn h = s.cacheOn h := by
  unfold State.cacheOn
  rw [k.reg, k.cache]

theorem Begun.operand (p : Nat) : (u.runner r).op p = s.operand r p := by
  obtain ⟨-, ⟨c, n, m, e⟩, -⟩ := k
  rw [e]
  rfl

theorem Begun.opAddr (p : Nat) : u.opAddr r p = (s.operand r p).toNat := congrArg BitVec.toNat (k.operand p)

theorem Begun.sumAddr (p : Nat) (v : Word) : u.sumAddr r p v = (s.operand r p + v).toNat := congrArg (fun x => (x + v).toNat) (k.operand p)

theorem Begun.hau : (u.runner r).hau = (s.runner r).hau := by
  obtain ⟨-, ⟨c, n, m, e⟩, -⟩ := k
  rw [e]

theorem Begun.hauId : (u.runner r).hauId = (s.runner r).hauId := by
  unfold Runner.hauId
  rw [k.hau]

theorem Begun.cust : (u.runner r).cust = (s.runner r).cust := by
  obtain ⟨-, ⟨c, n, m, e⟩, -⟩ := k
  rw [e]

theorem Begun.sup : (u.runner r).sup = (s.runner r).sup := by
  obtain ⟨-, ⟨c, n, m, e⟩, -⟩ := k
  rw [e]

theorem Begun.hostOk {a n : Nat} (h : s.hostOk r a n) : u.hostOk r a n := by
  unfold State.hostOk
  rw [k.winbase, k.hau, k.cache]
  exact h

theorem Begun.lineFree {a : Nat} (h : s.lineFree r a) : u.lineFree r a := by
  unfold State.lineFree
  rw [k.cache]
  exact h

end

/-! What a HAU trigger meets at its port -/

/-- The trigger ports of the HAU. -/
def hauPort : HauOp → Nat
  | .ld => 0x168 | .ld32 => 0x169 | .ldnc => 0x16A | .st => 0x170 | .st32 => 0x171 | .stnc => 0x172 | .cpy => 0x173 | .pref => 0x174 | .fence => 0x178

theorem trigOf_hauPort (op : HauOp) : trigOf (hauPort op) = some (.hau op) := by cases op <;> rfl

theorem portOpen_hau {s : State} {r : Rid} (h : (s.runner r).sup = true) (op : HauOp) : s.portOpen r (hauPort op) := by
  cases op <;> exact portOpen_super h (by decide) (by decide) rfl rfl (.inr (by decide)) fun h => absurd h (by decide)

/-- A HAU trigger of a runner in the supervisor level that meets no fault and finds its unit ready is taken. -/
theorem hau_taken {s : State} (h : s.TablesOk) {r : Rid} (hr : s.executes r) (hsup : (s.runner r).sup = true) {op : HauOp} {v : Word}
    (hf : ∀ e ∈ (s.beginWord r).hauFaults r op v, e.fs = []) (hb : (s.beginWord r).trigBusy r (.hau op) v = false) :
    s.trigger r (hauPort op) v = s.took r fun u => u.runHau r op v := by
  have hsup' : ((s.beginWord r).runner r).sup = true := (begun_beginWord h r).sup.trans hsup
  exact trigger_taken hr.1 (resFail_beginWord h hr) (portOpen_hau hsup' op) (trigOf_hauPort op) (List.flatMap_eq_nil_iff.2 hf) hb

end Sys2Proof.Machine
end

section
/-! Uncached accesses of the HAU (R33, R34, R96, R98, R272). -/
namespace Sys2Proof.Machine

/-! Identifiers, links and blocks -/

/-- Fewer than 16 requests leave an identifier below 16 free, and the lowest free one is taken. -/
theorem hauId_free {x : Runner} (h : x.hau.length < 16) : x.hauId < 16 ∧ x.freeId x.hauId := by
  have hcard : (x.hau.map (·.id)).toFinset.card < (Finset.range 16).card :=
    Nat.lt_of_le_of_lt (List.toFinset_card_le _) (by rw [List.length_map, Finset.card_range]; exact h)
  obtain ⟨i, hi, hni⟩ := Finset.exists_mem_notMem_of_card_lt_card hcard
  have hi := Finset.mem_range.1 hi
  have hfree : (!x.hau.any fun e => e.id == i) = true := by
    rw [Bool.not_eq_true', List.any_eq_false]
    intro e he heq
    exact hni (List.mem_toFinset.2 (List.mem_map.2 ⟨e, he, by simpa using heq⟩))
  have hsome : ((List.range 17).find? fun i => !x.hau.any fun e => e.id == i).isSome = true :=
    List.find?_isSome.2 ⟨i, List.mem_range.2 (by omega), hfree⟩
  obtain ⟨j, hj⟩ := Option.isSome_iff_exists.1 hsome
  have hid : x.hauId = j := by
    unfold Runner.hauId
    rw [hj]
    rfl
  obtain ⟨hp, -, hlt⟩ := List.find?_range_eq_some.1 hj
  rw [hid]
  refine ⟨Nat.lt_of_le_of_lt (Nat.le_of_not_lt fun hij => ?_) hi, fun e he heq => ?_, fun k hk => ?_⟩
  · have := hlt i hij
    rw [hfree] at this
    exact Bool.false_ne_true this
  · rw [Bool.not_eq_true', List.any_eq_false] at hp
    exact hp e he (by simpa using heq)
  · have := hlt k hk
    rw [Bool.not_not, List.any_eq_true] at this
    obtain ⟨e, he, heq⟩ := this
    exact ⟨e, he, by simpa using heq⟩

/-- A link that requests may take: up, and not declared down (R34). -/
abbrev State.linkOk (s : State) (k : Nat) : Prop := s.linkUp.getLsbD k = true ∧ s.linkDown.getLsbD k = false

/-- The link of an address: the first from that of its bits 9 and 8 on (R34). -/
theorem linkOf_eq {s : State} {a i : Nat} (hi : i < 4) (h : s.linkOk ((a / 256 + i) % 4)) (hl : ∀ j < i, ¬s.linkOk ((a / 256 + j) % 4)) : s.linkOf a = (a / 256 + i) % 4 := by
  have ok (k : Nat) : (s.linkUp.getLsbD k && !s.linkDown.getLsbD k) = true ↔ s.linkOk k := by
    rw [Bool.and_eq_true, Bool.not_eq_true']
  have hf : (List.range 4).find? ((fun k => s.linkUp.getLsbD k && !s.linkDown.getLsbD k) ∘ fun i => (a / 256 + i) % 4) = some i := by
    refine List.find?_range_eq_some.2 ⟨(ok _).2 h, List.mem_range.2 hi, fun j hj => ?_⟩
    rw [Bool.not_eq_true', Bool.eq_false_iff]
    exact fun hc => hl j hj ((ok _).1 hc)
  unfold State.linkOf
  rw [List.find?_map, hf]
  rfl

theorem ncBlock_aligned {a n : Nat} (hn : n = 8 ∨ n = 4) (ha : a % n = 0) : ncBlock a n = (a / 8 * 8, 8) := by
  have h8 : ([8, 16, 32, 64, 128].find? fun z => a / z == (a + n - 1) / z) = some 8 := by
    refine List.find?_cons_of_pos ?_
    rw [beq_iff_eq]
    rcases hn with rfl | rfl <;> omega
  unfold ncBlock
  rw [h8]
  rfl

/-! An uncached request leaves -/

/-- A runner with one more request outstanding, and for a load its place among the operations in flight (R96). -/
def Runner.asks (x : Runner) (id : Nat) (load : Bool) (a n : Nat) : Runner :=
  { x with hau := x.hau ++ [{ id := id, load := load, size := n, addr := a, cust := x.cust }]
           ops := x.ops ++ if load then [{ unit := .hau, res := [(0x17C, {})], kind := .host id }] else [] }

theorem asks_store (x : Runner) (id a n : Nat) : x.asks id false a n = { x with hau := x.hau ++ [{ id := id, load := false, size := n, addr := a, cust := x.cust }] } := by
  unfold Runner.asks
  rw [if_neg Bool.false_ne_true, List.append_nil]

theorem newHau_eq {u : State} (r : Rid) (load : Bool) (a n : Nat) : u.newHau r load a n = (u.updR r fun x => x.asks (u.runner r).hauId load a n, (u.runner r).hauId) := rfl

theorem asks_hauCust {x : Runner} (h : x.hau.length < 16) (load : Bool) (a n : Nat) : (x.asks x.hauId load a n).hauCust x.hauId = x.cust := by
  obtain ⟨-, hn, -⟩ := hauId_free h
  have hold : (x.hau.any fun e => e.id == x.hauId && e.cust) = false := by
    rw [List.any_eq_false]
    intro e he
    simp [hn e he]
  unfold Runner.hauCust Runner.asks
  dsimp only
  rw [List.any_append, hold]
  simp

/-- No earlier access of the runner waits for the line. -/
theorem mine_eq_false {s : State} {r : Rid} {a : Nat} (h : s.lineFree r a) : (s.cache r.home).mine (a / 256) (.inl r) = false := by
  unfold Cache.mine
  split
  next f hf =>
    rw [List.any_eq_false]
    intro w hw
    have hline := List.find?_some hf
    simpa using h f (List.mem_of_find?_eq_some hf) (by simpa using hline) w hw
  next => rfl

/-- The request of an access as it leaves. -/
def State.ncOut (s : State) (r : Rid) (q : WinReq) : Out :=
  if q.write then .wrNc (s.linkOf q.addr) (s.runner r).cust r (s.runner r).hauId q.addr q.size q.data
  else .rdNc (s.linkOf q.addr) (s.runner r).cust r (s.runner r).hauId (ncBlock q.addr q.size).1 (ncBlock q.addr q.size).2

/-- An uncached access that waits for no earlier one is asked of the host at once (R34, R96). -/
theorem hauNc_sent {u : State} (hu : u.TablesOk) {r : Rid} {q : WinReq} (hid : (u.runner r).hau.length < 16) (hl : u.linkLive = true) (hf : u.lineFree r q.addr) :
    u.hauNc r q = (u.updR r fun x => x.asks (u.runner r).hauId (!q.write) q.addr q.size).put (u.ncOut r q) := by
  have hcust : ((u.updR r fun x => x.asks (u.runner r).hauId (!q.write) q.addr q.size).runner r).hauCust (u.runner r).hauId = (u.runner r).cust := by
    rw [State.runner_updR hu]
    exact asks_hauCust hid ..
  have hmine : ((u.updR r fun x => x.asks (u.runner r).hauId (!q.write) q.addr q.size).cache r.home).mine (q.addr / 256) (.inl r) = false := by
    have e : (u.updR r fun x => x.asks (u.runner r).hauId (!q.write) q.addr q.size).cache r.home = u.cache r.home := by
      obtain ⟨ru, ar, e⟩ := updR_rest u r fun x => x.asks (u.runner r).hauId (!q.write) q.addr q.size
      rw [e]
      rfl
    rw [e]
    exact mine_eq_false hf
  have hlive : (u.updR r fun x => x.asks (u.runner r).hauId (!q.write) q.addr q.size).linkLive = true ∧ (u.updR r fun x => x.asks (u.runner r).hauId (!q.write) q.addr q.size).linkOf q.addr = u.linkOf q.addr := by
    obtain ⟨ru, ar, e⟩ := updR_rest u r fun x => x.asks (u.runner r).hauId (!q.write) q.addr q.size
    rw [e]
    exact ⟨hl, rfl⟩
  unfold State.hauNc
  rw [newHau_eq]
  dsimp only
  unfold State.ncWriteTurn State.ncReadTurn State.ncWrite State.ncRead State.ncOut
  rw [hmine]
  dsimp only
  rw [if_neg Bool.false_ne_true, if_neg Bool.false_ne_true, hlive.1, hlive.2, hcust, if_pos rfl, if_pos rfl]
  cases q.write <;> rfl

/-! The heat cache is off and does not hold the line (R320) -/

theorem hitLine_of_find {s : State} {h line : Nat} (hf : (s.cache h).find line = none) : s.hitLine h line = none := by
  unfold State.hitLine
  rw [hf]

theorem lineCheck_of_find {s : State} {h line : Nat} (hf : (s.cache h).find line = none) (unique cust : Bool) : s.lineCheck h line unique cust = s := by
  unfold State.lineCheck
  rw [hitLine_of_find hf]

/-- An access is not served by the heat cache (R272, R320). -/
abbrev State.uncached (s : State) (r : Rid) (a : Nat) : Prop := r = .arb ∨ (s.cacheOn r.home = false ∧ (s.cache r.home).find (a / 256) = none)

theorem hauLoad_uncached {u : State} {h i a : Nat} (hoff : u.cacheOn h = false) (hf : (u.cache h).find (a / 256) = none) (n : Nat) (bell : Bool) (d : LineData) :
    u.hauLoad h i a n = u.hauNc (.heat h i) { write := false, bell := bell, addr := a, size := n, data := d } := by
  unfold State.hauLoad State.hauLoadGo State.strideAfter
  dsimp only
  rw [lineCheck_of_find hf, hitLine_of_find hf, hoff]
  rfl

theorem bypassDrop_of_find {s : State} {h line : Nat} (hf : (s.cache h).find line = none) : s.bypassDrop h line = s := by
  unfold State.bypassDrop
  rw [hf]

theorem hauStore_uncached {u : State} {h i a : Nat} (hoff : u.cacheOn h = false) (hf : (u.cache h).find (a / 256) = none) (n : Nat) (bell : Bool) (v : Word) :
    u.hauStore h i a n v = u.hauNc (.heat h i) { write := true, bell := bell, addr := a, size := n, data := BitVec.ofNat 2048 (v.toNat % 2 ^ (8 * n)) } := by
  have hf' : ((u.newHau (.heat h i) false a n).1.cache h).find (a / 256) = none := hf
  unfold State.hauStore State.hauStoreGo State.strideAfter
  dsimp only
  rw [lineCheck_of_find hf, hitLine_of_find hf, hoff]
  dsimp only
  rw [bypassDrop_of_find hf']
  rfl

/-! A trigger whose access is uncached -/

/-- The request of a load and of a store of the HAU at `a` (R96). -/
def loadReq (a n : Nat) : WinReq := { write := false, bell := false, addr := a, size := n, data := 0 }
def storeReq (r : Rid) (op : HauOp) (a n : Nat) (v : Word) : WinReq :=
  { write := true, bell := op == .st || (op == .stnc && r.isArb), addr := a, size := n, data := BitVec.ofNat 2048 (v.toNat % 2 ^ (8 * n)) }

theorem hauReq_load {op : HauOp} {n : Nat} (hop : op.load = some n) (u : State) (r : Rid) (v : Word) : u.hauReq r op v = some (loadReq (u.sumAddr r 0x160 v) n) := by
  cases op <;> cases hop <;> rfl

theorem hauReq_store {op : HauOp} {n : Nat} (hop : op.store = some n) (u : State) (r : Rid) (v : Word) :
    u.hauReq r op v = some (storeReq r op (u.opAddr r 0x160) n v) := by
  cases op <;> cases hop <;> rfl

theorem winOff_of_hostOk {u : State} {r : Rid} {a n : Nat} (h : u.hostOk r a n) : u.winOff a = none := by
  obtain ⟨-, -, hw, -, -⟩ := h
  exact if_neg hw

theorem trigBusy_hau {op : HauOp} (h : op ≠ .fence) (u : State) (r : Rid) (v : Word) :
    u.trigBusy r (.hau op) v = (decide (16 ≤ (u.runner r).hau.length) || u.hauBusy r op v) := by
  cases op with
  | fence => exact absurd rfl h
  | _ => rfl

/-- An access outside the complex window finds the HAU ready (R98, R321). -/
theorem hau_ready {u : State} {r : Rid} {op : HauOp} {v : Word} {q : WinReq} (hq : u.hauReq r op v = some q) (hc : op ≠ .cpy) {n : Nat} (h : u.hostOk r q.addr n) :
    u.trigBusy r (.hau op) v = false := by
  have hw := winOff_of_hostOk h
  obtain ⟨-, -, -, hlen, hinit⟩ := h
  have hini : (!r.isArb && (u.cache r.home).init) = false := by
    rcases hinit with rfl | h
    · rfl
    · rw [h, Bool.and_false]
  have hbusy : u.hauBusy r op v = false := by
    unfold State.hauBusy
    rw [hq]
    dsimp only
    rw [hw]
    dsimp only
    rw [hini, beq_false_of_ne hc]
    rfl
  have hfence : op ≠ .fence := by
    rintro rfl
    exact nomatch hq
  rw [trigBusy_hau hfence, hbusy, decide_eq_false (by omega)]
  rfl

theorem far_odd_nil {a n : Nat} (hf : a < 2 ^ 52) (ho : a % n = 0) :
    ((if 2 ^ 52 ≤ a then [(9, BitVec.ofNat 64 a)] else []) ++ (if a % n ≠ 0 then [(0xA, BitVec.ofNat 64 a)] else []) : List (Nat × Word)) = [] := by
  rw [if_neg (Nat.not_le.2 hf), if_neg (not_not.2 ho)]
  rfl

theorem hauFaults_load {op : HauOp} {n : Nat} (hop : op.load = some n) {u : State} {r : Rid} {v : Word} (h : u.hostOk r (u.sumAddr r 0x160 v) n) :
    ∀ e ∈ u.hauFaults r op v, e.fs = [] := by
  obtain ⟨ha, hlt, -, -, -⟩ := h
  have hnil := far_odd_nil hlt ha
  cases op <;> cases hop <;> exact List.forall_mem_singleton.2 hnil

theorem hauFaults_store {op : HauOp} {n : Nat} (hop : op.store = some n) {u : State} {r : Rid} {v : Word} (h : u.hostOk r (u.opAddr r 0x160) n) :
    ∀ e ∈ u.hauFaults r op v, e.fs = [] := by
  obtain ⟨ha, hlt, -, -, -⟩ := h
  have hnil := far_odd_nil hlt ha
  cases op <;> cases hop <;> exact List.forall_mem_singleton.2 hnil

/-- An access that is not cached goes to the host as it is (R272, R320). -/
theorem hauGo_load {op : HauOp} {n : Nat} (hop : op.load = some n) {u : State} {r : Rid} {a : Nat} (h : u.hostOk r a n) (hoff : op = .ldnc ∨ u.uncached r a) :
    u.hauGo r op (loadReq a n) = u.hauNc r (loadReq a n) := by
  unfold State.hauGo
  rw [show u.winOff (loadReq a n).addr = none from winOff_of_hostOk h]
  cases r with
  | arb => cases op <;> cases hop <;> rfl
  | heat m i =>
    rcases hoff with rfl | harb | ⟨hoff, hf⟩
    · rfl
    · exact nomatch harb
    · have cached (n : Nat) := hauLoad_uncached hoff hf (i := i) n false 0
      cases op <;> cases hop
      · exact cached 8
      · exact cached 4
      · rfl

theorem hauGo_store {op : HauOp} {n : Nat} (hop : op.store = some n) {u : State} {r : Rid} {a : Nat} {v : Word} (h : u.hostOk r a n) (hoff : op = .stnc ∨ u.uncached r a) :
    u.hauGo r op (storeReq r op a n v) = u.hauNc r (storeReq r op a n v) := by
  have low (n : Nat) (hn : 8 * n ≤ 64) : ((BitVec.ofNat 2048 (v.toNat % 2 ^ (8 * n))).setWidth 64).toNat % 2 ^ (8 * n) = v.toNat % 2 ^ (8 * n) := by
    have hlt : v.toNat % 2 ^ (8 * n) < 2 ^ 64 := Nat.lt_of_lt_of_le (Nat.mod_lt _ (Nat.two_pow_pos _)) (Nat.pow_le_pow_right (by decide) hn)
    rw [BitVec.setWidth_ofNat_of_le (by decide), BitVec.toNat_ofNat, Nat.mod_eq_of_lt hlt, Nat.mod_mod]
  unfold State.hauGo
  rw [show u.winOff (storeReq r op a n v).addr = none from winOff_of_hostOk h]
  cases r with
  | arb => cases op <;> cases hop <;> rfl
  | heat m i =>
    rcases hoff with rfl | harb | ⟨hoff, hf⟩
    · cases hop
      rfl
    · exact nomatch harb
    · have cached (n : Nat) (hn : 8 * n ≤ 64) (bell : Bool) :
          u.hauStore m i a n ((BitVec.ofNat 2048 (v.toNat % 2 ^ (8 * n))).setWidth 64)
            = u.hauNc (.heat m i) { write := true, bell := bell, addr := a, size := n, data := BitVec.ofNat 2048 (v.toNat % 2 ^ (8 * n)) } := by
        exact (hauStore_uncached hoff hf n bell _).trans (by rw [low n hn]; rfl)
      cases op <;> cases hop
      · exact cached 8 (by decide) true
      · exact cached 4 (by decide) false
      · rfl

theorem runHau_access {u : State} {r : Rid} {op : HauOp} {v : Word} {q : WinReq} (hop : op.load.isSome = true ∨ op.store.isSome = true) (hq : u.hauReq r op v = some q) :
    u.runHau r op v = u.hauGo r op q := by
  have e : u.runHau r op v = match u.hauReq r op v with | some q => u.hauGo r op q | none => u := by
    cases op with
    | cpy | pref | fence => exact absurd hop (by decide)
    | _ => rfl
  rw [e, hq]

/-! The triggers -/

theorem loadReq_out (u : State) (r : Rid) {a n : Nat} (hn : n = 8 ∨ n = 4) (ha : a % n = 0) :
    u.ncOut r (loadReq a n) = .rdNc (u.linkOf a) (u.runner r).cust r (u.runner r).hauId (a / 8 * 8) 8 := by
  have e : u.ncOut r (loadReq a n) = .rdNc (u.linkOf a) (u.runner r).cust r (u.runner r).hauId (ncBlock a n).1 (ncBlock a n).2 := rfl
  rw [e, ncBlock_aligned hn ha]

theorem size_of_load {op : HauOp} {n : Nat} (h : op.load = some n) : n = 8 ∨ n = 4 := by
  cases op <;> cases h <;> decide

/-- A load that is not cached is taken and leaves at once. -/
theorem load_leaves {s : State} (h : s.TablesOk) {r : Rid} {v : Word} (hr : s.executes r) (hsup : (s.runner r).sup = true) (hl : s.linkLive = true) {op : HauOp} {n : Nat}
    (hop : op.load = some n) (hok : s.hostOk r (s.operand r 0x160 + v).toNat n) (hf : s.lineFree r (s.operand r 0x160 + v).toNat)
    (hoff : op = .ldnc ∨ s.uncached r (s.operand r 0x160 + v).toNat) :
    s.trigger r (hauPort op) v = s.took r fun t => (t.updR r fun x => x.asks (s.runner r).hauId true (s.operand r 0x160 + v).toNat n).put
      (.rdNc (s.linkOf (s.operand r 0x160 + v).toNat) (s.runner r).cust r (s.runner r).hauId ((s.operand r 0x160 + v).toNat / 8 * 8) 8) := by
  have kb := begun_beginWord h r
  have kt := begun_taking h r
  have hokb : (s.beginWord r).hostOk r ((s.beginWord r).sumAddr r 0x160 v) n := by rw [kb.sumAddr]; exact kb.hostOk hok
  rw [hau_taken h hr hsup (hauFaults_load hop hokb) (hau_ready (hauReq_load hop ..) (by rintro rfl; exact nomatch hop) hokb)]
  refine took_congr ?_
  have hofft : op = .ldnc ∨ (s.taking r).uncached r (s.operand r 0x160 + v).toNat := by
    unfold State.uncached
    rw [kt.cacheOn, kt.cache]
    exact hoff
  have hq := hauReq_load hop (s.taking r) r v
  rw [kt.sumAddr] at hq
  rw [runHau_access (.inl (by rw [hop]; rfl)) hq, hauGo_load hop (kt.hostOk hok) hofft,
    hauNc_sent kt.ok (by rw [kt.hau]; exact hok.2.2.2.1) (kt.linkLive.trans hl) (kt.lineFree hf), loadReq_out _ r (size_of_load hop) hok.1, kt.linkOf, kt.cust, kt.hauId]
  rfl

/-- A store that is not cached is taken and leaves at once. -/
theorem store_leaves {s : State} (h : s.TablesOk) {r : Rid} {v : Word} (hr : s.executes r) (hsup : (s.runner r).sup = true) (hl : s.linkLive = true) {op : HauOp} {n : Nat}
    (hop : op.store = some n) (hok : s.hostOk r (s.operand r 0x160).toNat n) (hf : s.lineFree r (s.operand r 0x160).toNat)
    (hoff : op = .stnc ∨ s.uncached r (s.operand r 0x160).toNat) :
    s.trigger r (hauPort op) v = s.took r fun t => (t.updR r fun x => x.asks (s.runner r).hauId false (s.operand r 0x160).toNat n).put
      (.wrNc (s.linkOf (s.operand r 0x160).toNat) (s.runner r).cust r (s.runner r).hauId (s.operand r 0x160).toNat n (BitVec.ofNat 2048 (v.toNat % 2 ^ (8 * n)))) := by
  have kb := begun_beginWord h r
  have kt := begun_taking h r
  have hokb : (s.beginWord r).hostOk r ((s.beginWord r).opAddr r 0x160) n := by rw [kb.opAddr]; exact kb.hostOk hok
  rw [hau_taken h hr hsup (hauFaults_store hop hokb) (hau_ready (hauReq_store hop ..) (by rintro rfl; exact nomatch hop) hokb)]
  refine took_congr ?_
  have hofft : op = .stnc ∨ (s.taking r).uncached r (s.operand r 0x160).toNat := by
    unfold State.uncached
    rw [kt.cacheOn, kt.cache]
    exact hoff
  have hq := hauReq_store hop (s.taking r) r v
  rw [kt.opAddr] at hq
  rw [runHau_access (.inr (by rw [hop]; rfl)) hq, hauGo_store hop (kt.hostOk hok) hofft,
    hauNc_sent kt.ok (by rw [kt.hau]; exact hok.2.2.2.1) (kt.linkLive.trans hl) (kt.lineFree hf)]
  unfold State.ncOut storeReq
  dsimp only
  rw [if_pos rfl, kt.linkOf, kt.cust, kt.hauId]
  rfl

/-- Settles O16: the identifier, the link, and the triggers of each direction by their lemmas. -/
theorem hostUncachedComplete : Obligations.HostUncachedComplete := by
  unfold Obligations.HostUncachedComplete
  intro s r v h hr hsup hl x off b a live
  refine ⟨x.hauId, hauId_free, fun a i hi hlv hlow => linkOf_eq hi hlv hlow, fun n c hc hok hf hoff => ?_, fun n c hc hok hf hoff => ?_⟩
  · have leaves {op : HauOp} (hop : op.load = some n) (hoff : op = .ldnc ∨ off b) := load_leaves h hr hsup hl hop hok hf hoff
    simp only [List.mem_cons, List.not_mem_nil, or_false, Prod.mk.injEq] at hc
    rcases hc with ⟨rfl, rfl⟩ | ⟨rfl, rfl⟩ | ⟨rfl, rfl⟩
    · exact congrArg _ (leaves (op := .ld) rfl (.inr (hoff.resolve_left nofun)))
    · exact congrArg _ (leaves (op := .ld32) rfl (.inr (hoff.resolve_left nofun)))
    · exact congrArg _ (leaves (op := .ldnc) rfl (.inl rfl))
  · have leaves {op : HauOp} (hop : op.store = some n) (hoff : op = .stnc ∨ off a) := store_leaves h hr hsup hl (v := v) hop hok hf hoff
    simp only [asks_store] at leaves
    simp only [List.mem_cons, List.not_mem_nil, or_false, Prod.mk.injEq] at hc
    rcases hc with ⟨rfl, rfl⟩ | ⟨rfl, rfl⟩ | ⟨rfl, rfl⟩
    · exact congrArg _ (leaves (op := .st) rfl (.inr (hoff.resolve_left nofun)))
    · exact congrArg _ (leaves (op := .st32) rfl (.inr (hoff.resolve_left nofun)))
    · exact congrArg _ (leaves (op := .stnc) rfl (.inl rfl))

end Sys2Proof.Machine
end

section
/-! t_pref, t_fence and t_cpy (R34, R96, R97, R257, R313, R317, R320). -/
namespace Sys2Proof.Machine

/-! The way of an allocating miss (R313) -/

/-- A way of a line's set that is unlocked, holds no line and is not being filled (R313). -/
abbrev State.wayFree (s : State) (h line w : Nat) : Prop :=
  (s.reg (0x40 + h) 0x104).getLsbD w = false ∧ (∀ e ∈ (s.cache h).lines, e.1 ≠ 8 * (line % 512) + w) ∧ ∀ f ∈ (s.cache h).fills, f.way = some w → f.line % 512 ≠ line % 512

theorem chooseWay_free {s : State} {h line w : Nat} (hw : w < 8) (hf : s.wayFree h line w) (hlow : ∀ k < w, ¬s.wayFree h line k) : s.chooseWay h line = some w := by
  have free (k : Nat) : (((!lockedWay s h k && !(s.cache h).fills.any fun f => f.way == some k && f.line % 512 == line % 512)
      && match ((s.cache h).lines.find? fun e => e.1 == 8 * (line % 512) + k).map (·.2) with | some l => !l.poison | none => true)
      && (((s.cache h).lines.find? fun e => e.1 == 8 * (line % 512) + k).map (·.2)).isNone) = true ↔ s.wayFree h line k := by
    have held : (((s.cache h).lines.find? fun e => e.1 == 8 * (line % 512) + k) = none) ↔ ∀ e ∈ (s.cache h).lines, e.1 ≠ 8 * (line % 512) + k := by
      simp only [List.find?_eq_none, beq_iff_eq]
    have filling : ((s.cache h).fills.any fun f => f.way == some k && f.line % 512 == line % 512) = false
        ↔ ∀ f ∈ (s.cache h).fills, f.way = some k → f.line % 512 ≠ line % 512 := by
      simp only [List.any_eq_false, Bool.and_eq_true, beq_iff_eq, not_and]
    have locked : lockedWay s h k = (s.reg (0x40 + h) 0x104).getLsbD k := rfl
    unfold State.wayFree
    rw [← held, ← filling, ← locked]
    cases (s.cache h).lines.find? fun e => e.1 == 8 * (line % 512) + k <;> simp
  unfold State.chooseWay
  dsimp only
  split
  next k hk =>
    obtain ⟨hp, -, hmin⟩ := List.find?_range_eq_some.1 hk
    rcases Nat.lt_trichotomy k w with hlt | rfl | hgt
    · exact absurd ((free k).1 hp) (hlow k hlt)
    · rfl
    · have hno := hmin w hgt
      rw [Bool.not_eq_true'] at hno
      exact absurd ((free w).2 hf) (Bool.eq_false_iff.1 hno)
  next hk => exact absurd ((free w).2 hf) (List.find?_eq_none.1 hk w (List.mem_range.2 hw))

theorem evict_empty {s : State} {h key : Nat} (hk : ∀ e ∈ (s.cache h).lines, e.1 ≠ key) : s.evict h key = s := by
  have hf : ((s.cache h).lines.find? fun e => e.1 == key) = none := by
    simp only [List.find?_eq_none, beq_iff_eq]
    exact hk
  unfold State.evict
  rw [hf]

theorem updCache_updCache {s : State} (hs : s.TablesOk) (h : Nat) (f g : Cache → Cache) : (s.updCache h f).updCache h g = s.updCache h fun c => g (f c) := by
  have e : (s.updCache h f).cache h = f (s.cache h) := (State.cache_updCache hs ..).trans (if_pos rfl)
  show { s with caches := tset {} (tset {} s.caches h (f (s.cache h))) h (g ((s.updCache h f).cache h)) } = _
  rw [e, tset_tset hs.caches]
  rfl

/-- A prefetch of a line that is neither held nor awaited asks for it, into the lowest free way (R317). -/
theorem prefetch_asks {s : State} (hs : s.TablesOk) {h line w : Nat} (hn : (s.cache h).find line = none) (hfill : (s.cache h).fillOf line = none) (hl : line < 2 ^ 44)
    (hlive : s.linkLive = true) (hw : w < 8) (hf : s.wayFree h line w) (hlow : ∀ k < w, ¬s.wayFree h line k) (kind : FillKind) (cust : Bool) :
    s.prefetch h line kind cust = (s.updCache h fun c => { c with lfsr := lfsrNext c.lfsr, fills := c.fills ++
      [{ line := line, way := some w, unique := false, kind := kind, cust := cust }] }).put (.rdShared (s.linkOf (256 * line)) line cust) := by
  have hc : (s.updCache h fun c => { c with lfsr := lfsrNext c.lfsr }).cache h = { s.cache h with lfsr := lfsrNext (s.cache h).lfsr } :=
    (State.cache_updCache hs ..).trans (if_pos rfl)
  have free (k : Nat) : (s.updCache h fun c => { c with lfsr := lfsrNext c.lfsr }).wayFree h line k ↔ s.wayFree h line k := by
    unfold State.wayFree
    rw [hc]
    exact Iff.rfl
  have alloc : s.allocate h line = (some w, s.updCache h fun c => { c with lfsr := lfsrNext c.lfsr }) := by
    unfold State.allocate
    dsimp only
    rw [chooseWay_free hw ((free w).2 hf) fun k hk hc => hlow k hk ((free k).1 hc)]
    dsimp only
    rw [evict_empty ((free w).2 hf).2.1]
  unfold State.prefetch
  dsimp only
  rw [hn, hfill, alloc, decide_eq_false (Nat.not_le.2 hl)]
  show ((s.updCache h fun c => { c with lfsr := lfsrNext c.lfsr }).startFill h _).1 = _
  unfold State.startFill
  rw [if_pos (show (s.updCache h fun c => { c with lfsr := lfsrNext c.lfsr }).linkLive = true from hlive)]
  dsimp only
  rw [updCache_updCache hs]
  rfl

/-! t_pref -/

theorem pref_taken {s : State} (h : s.TablesOk) {r : Rid} {v : Word} (hr : s.executes r) (hsup : (s.runner r).sup = true) (hok : s.hostOk r (s.operand r 0x160 + v).toNat 1) :
    s.trigger r (hauPort .pref) v = s.took r fun u => u.runHau r .pref v := by
  have kb := begun_beginWord h r
  obtain ⟨-, hlt, -, hlen, -⟩ := hok
  refine hau_taken h hr hsup (List.forall_mem_singleton.2 ?_) ?_
  · rw [kb.sumAddr]
    exact if_neg (Nat.not_le.2 hlt)
  · rw [trigBusy_hau (by decide), kb.hau, decide_eq_false (by omega)]
    rfl

/-- What t_pref starts on a heat runner. -/
theorem runPref_heat {u : State} {h i : Nat} {v : Word} (hok : u.hostOk (.heat h i) (u.sumAddr (.heat h i) 0x160 v) 1) :
    u.runHau (.heat h i) .pref v = u.hauPref h (u.sumAddr (.heat h i) 0x160 v) (u.runner (.heat h i)).cust := by
  unfold State.runHau
  dsimp only
  rw [winOff_of_hostOk hok]
  rfl

theorem hauPref_nothing {u : State} {h a : Nat} (hn : u.cacheOn h = false ∨ ((u.cache h).find (a / 256)).isSome = true ∨ ((u.cache h).fillOf (a / 256)).isSome = true) (cust : Bool) :
    u.hauPref h a cust = u := by
  unfold State.hauPref
  rcases hn with hn | hn | hn
  · rw [hn]
    rfl
  · unfold State.prefetch
    dsimp only
    rw [hn]
    exact ite_self _
  · unfold State.prefetch
    dsimp only
    rw [hn, Bool.or_true]
    exact ite_self _

/-! t_fence -/

theorem fence_taken {s : State} (h : s.TablesOk) {r : Rid} {v : Word} (hr : s.executes r) (hsup : (s.runner r).sup = true) :
    s.trigger r (hauPort .fence) v = s.took r fun u => u.runFence r :=
  hau_taken h hr hsup (fun _ he => nomatch he) rfl

/-- A fence in flight: it waits for `ids`; where there are none it has its status (R96). -/
theorem fenceSettle_fence (ids : List Nat) (bad : Bool) :
    fenceSettle { unit := .hau, res := [(0x17D, {})], kind := .fence ids bad } = { unit := .hau, res := [(0x17D, if ids = [] ∧ bad = true then { val := 1 } else {})], kind := .fence ids bad } := by
  cases ids with
  | nil => cases bad <;> rfl
  | cons => rfl

theorem updR_congr {s : State} {r : Rid} {f g : Runner → Runner} (h : f (s.runner r) = g (s.runner r)) : s.updR r f = s.updR r g := congrArg (s.setRunner r) h

/-! t_cpy -/

theorem cpyCount_eq (v : Word) : cpyCount v = v.toNat % 512 := by
  unfold cpyCount
  rw [fld_eq_div_mod, Nat.pow_zero, Nat.div_one]
  rfl

/-- The request of a t_cpy of `n` bytes from `sp` to `a` (R97). -/
def cpyReq (s : State) (r : Rid) (a sp n : Nat) : WinReq :=
  { write := true, bell := false, addr := a, size := n, data := BitVec.ofNat 2048 (leNat ((List.range n).map fun k => s.byteAt r.home (sp + k))) }

theorem hauReq_cpy (u : State) (r : Rid) (v : Word) : u.hauReq r .cpy v = some (cpyReq u r (u.opAddr r 0x160) (u.opAddr r 0x161) (v.toNat % 512)) := by
  unfold cpyReq
  rw [← bytesAt_eq_map, ← cpyCount_eq]
  rfl

/-- What t_cpy asks of its operands (R97). -/
structure CpyOk (s : State) (r : Rid) (a sp n : Nat) : Prop where
  whole : n % 8 = 0
  low   : 8 ≤ n
  high  : n ≤ 256
  line  : a % 256 + n ≤ 256
  host  : s.hostOk r a 8
  first : s.dataOk r sp 8
  last  : s.dataOk r (sp + n - 8) 8

theorem Begun.dataOk {s u : State} {r : Rid} (k : Begun s u r) {a n : Nat} (h : s.dataOk r a n) : u.dataOk r a n := by
  unfold State.dataOk
  rw [k.cust, k.up]
  exact h

theorem Begun.cpyOk {s u : State} {r : Rid} (k : Begun s u r) {a sp n : Nat} (h : CpyOk s r a sp n) : CpyOk u r a sp n :=
  { h with host := k.hostOk h.host, first := k.dataOk h.first, last := k.dataOk h.last }

theorem hauFaults_cpy {u : State} {r : Rid} {v : Word} (h : CpyOk u r (u.opAddr r 0x160) (u.opAddr r 0x161) (v.toNat % 512)) : ∀ e ∈ u.hauFaults r .cpy v, e.fs = [] := by
  obtain ⟨hwhole, hlow, hhigh, hline, ⟨ha, hlt, -⟩, hfirst, hlast⟩ := h
  rw [← cpyCount_eq] at *
  have hmax : max (cpyCount v) 8 = cpyCount v := Nat.max_eq_left hlow
  have bad : ¬(cpyCount v % 8 ≠ 0 ∨ cpyCount v < 8 ∨ 256 < cpyCount v ∨ u.opAddr r 0x160 % 8 ≠ 0 ∨ 256 < u.opAddr r 0x160 % 256 + cpyCount v) := by omega
  unfold State.hauFaults
  dsimp only
  rw [hmax, if_neg (Nat.not_le.2 hlt), if_neg bad, addrFaults_eq_nil hfirst, addrFaults_eq_nil hlast]
  decide

theorem cpy_ready {u : State} {r : Rid} {v : Word} (h : CpyOk u r (u.opAddr r 0x160) (u.opAddr r 0x161) (v.toNat % 512)) : u.trigBusy r (.hau .cpy) v = false := by
  have hw := winOff_of_hostOk h.host
  obtain ⟨-, -, -, hlen, hinit⟩ := h.host
  have hini : (!r.isArb && (u.cache r.home).init) = false := by
    rcases hinit with rfl | h
    · rfl
    · rw [h, Bool.and_false]
  have hbusy : u.hauBusy r .cpy v = false := by
    unfold State.hauBusy
    rw [hauReq_cpy]
    dsimp only
    rw [show u.winOff (cpyReq u r (u.opAddr r 0x160) (u.opAddr r 0x161) (v.toNat % 512)).addr = none from hw]
    dsimp only
    rw [hini, wipeWaits_eq_false h.first]
    rfl
  rw [trigBusy_hau (by decide), hbusy, decide_eq_false (by omega)]
  rfl

/-- What t_cpy starts where nothing is buffered and no word of its source is in error. -/
theorem runCpy_plain {u : State} {r : Rid} {v : Word} (hok : u.hostOk r (u.opAddr r 0x160) 8) (hs : (u.runner r).stores = []) (hf : (u.runner r).frame = [])
    (hp : u.plainRead r (u.opAddr r 0x161) (v.toNat % 512)) :
    u.runCpy r v = u.hauNc r (cpyReq u r (u.opAddr r 0x160) (u.opAddr r 0x161) (v.toNat % 512)) := by
  have empty : (u.runner r).writes = [] := by
    unfold Runner.writes
    rw [hs, hf]
    simp
  have drained : u.drainAll r = u := drainWhile_none (by rw [empty]; exact fun _ he => nomatch he) _
  unfold State.runCpy
  rw [drained, cpyCount_eq]
  dsimp only
  rw [memRead_clean hp.2]
  dsimp only
  rw [if_neg Bool.false_ne_true, hauReq_cpy]
  dsimp only
  unfold State.hauGo
  rw [show u.winOff (cpyReq u r (u.opAddr r 0x160) (u.opAddr r 0x161) (v.toNat % 512)).addr = none from winOff_of_hostOk hok]
  cases r <;> rfl

/-- A t_cpy is taken and its write leaves at once. -/
theorem cpy_leaves {s : State} (h : s.TablesOk) {r : Rid} {v : Word} (hr : s.executes r) (hsup : (s.runner r).sup = true) (hl : s.linkLive = true)
    (hc : CpyOk s r (s.operand r 0x160).toNat (s.operand r 0x161).toNat (v.toNat % 512)) (hf : s.lineFree r (s.operand r 0x160).toNat)
    (hst : (s.runner r).stores = []) (hfr : (s.runner r).frame = []) (hp : s.plainRead r (s.operand r 0x161).toNat (v.toNat % 512)) :
    s.trigger r (hauPort .cpy) v = s.took r fun t => (t.updR r fun x => x.asks (s.runner r).hauId false (s.operand r 0x160).toNat (v.toNat % 512)).put
      (.wrNc (s.linkOf (s.operand r 0x160).toNat) (s.runner r).cust r (s.runner r).hauId (s.operand r 0x160).toNat (v.toNat % 512)
        (cpyReq s r (s.operand r 0x160).toNat (s.operand r 0x161).toNat (v.toNat % 512)).data) := by
  have kb := begun_beginWord h r
  have kt := begun_taking h r
  have hcb : CpyOk (s.beginWord r) r ((s.beginWord r).opAddr r 0x160) ((s.beginWord r).opAddr r 0x161) (v.toNat % 512) := by
    rw [kb.opAddr, kb.opAddr]
    exact kb.cpyOk hc
  obtain ⟨hstt, hfrt⟩ : ((s.taking r).runner r).stores = [] ∧ ((s.taking r).runner r).frame = [] := by
    obtain ⟨-, ⟨c, n, m, e⟩, -⟩ := kt
    rw [e]
    exact ⟨hst, hfr⟩
  have hdata : (cpyReq (s.taking r) r (s.operand r 0x160).toNat (s.operand r 0x161).toNat (v.toNat % 512)) = cpyReq s r (s.operand r 0x160).toNat (s.operand r 0x161).toNat (v.toNat % 512) := by
    unfold cpyReq
    simp only [kt.byteAt]
  rw [hau_taken h hr hsup (hauFaults_cpy hcb) (cpy_ready hcb)]
  refine took_congr ?_
  have run := runCpy_plain (u := s.taking r) (r := r) (v := v) (by rw [kt.opAddr]; exact kt.hostOk hc.host) hstt hfrt (by rw [kt.opAddr]; exact taking_plainRead h hp)
  rw [kt.opAddr, kt.opAddr, hdata] at run
  refine run.trans ?_
  rw [hauNc_sent kt.ok (by rw [kt.hau]; exact hc.host.2.2.2.1) (kt.linkLive.trans hl) (kt.lineFree hf)]
  unfold State.ncOut
  rw [if_pos (show (cpyReq s r (s.operand r 0x160).toNat (s.operand r 0x161).toNat (v.toNat % 512)).write = true from rfl), kt.linkOf, kt.cust, kt.hauId]
  rfl

/-- Settles O18: each of t_pref, t_fence and t_cpy is taken, and starts what its lemma says. -/
theorem hostOrderComplete : Obligations.HostOrderComplete := by
  unfold Obligations.HostOrderComplete
  intro s r v h hr hsup b a sp n ids nothing
  have kt := begun_taking h r
  refine ⟨fun hok => ⟨?_, ?_⟩, ?_, ?_⟩
  · rintro rfl
    exact congrArg _ (pref_taken h hr hsup hok)
  · rintro m i rfl c free
    have hokt : (s.taking (.heat m i)).hostOk (.heat m i) ((s.taking (.heat m i)).sumAddr (.heat m i) 0x160 v) 1 := by rw [kt.sumAddr]; exact kt.hostOk hok
    have starts {f : State → State} (e : (s.taking (.heat m i)).hauPref m b (s.runner (.heat m i)).cust = f (s.taking (.heat m i))) :
        exec (.hauPref (.heat m i) v) s = .next (s.took (.heat m i) f) := by
      refine congrArg _ ((pref_taken h hr hsup hok).trans (took_congr ?_))
      refine (runPref_heat hokt).trans ?_
      rw [kt.sumAddr, kt.cust]
      exact e
    refine ⟨fun hn => starts (f := id) (hauPref_nothing ?_ _), fun w hw hon hno hnf hlive hfree hlow => starts ?_⟩
    · rw [kt.cacheOn, kt.cache]
      exact hn
    · have hln : b / 256 < 2 ^ 44 := by
        obtain ⟨-, hlt, -⟩ := hok
        exact Nat.div_lt_of_lt_mul hlt
      have free_iff (k : Nat) : (s.taking (.heat m i)).wayFree m (b / 256) k ↔ s.wayFree m (b / 256) k := by
        unfold State.wayFree
        rw [kt.cache, kt.reg]
      unfold State.hauPref
      rw [kt.cacheOn, if_pos hon, prefetch_asks kt.ok (by rw [kt.cache]; exact hno) (by rw [kt.cache]; exact hnf) hln (kt.linkLive.trans hlive) hw ((free_iff w).2 hfree)
        (fun k hk hc => hlow k hk ((free_iff k).1 hc)), kt.linkOf]
  · refine congrArg _ ((fence_taken h hr hsup).trans (took_congr ?_))
    refine updR_congr (f := fun x => { x with
      ops := x.ops ++ [fenceSettle { unit := .hau, res := [(0x17D, {})], kind := .fence ((s.taking r).runner r).runWrites ((s.taking r).runner r).spanBad }], spanBad := false }) ?_
    have hids : ((s.taking r).runner r).runWrites = ids := by
      unfold Runner.runWrites
      rw [kt.hau]
    rw [fenceSettle_fence, hids]
  · intro hwhole hlow hhigh hline hok hf hfirst hlast hst hfr hp hlive
    refine congrArg _ ((cpy_leaves h hr hsup hlive ⟨hwhole, hlow, hhigh, hline, hok, hfirst, hlast⟩ hf hst hfr hp).trans (took_congr (congrArg (fun t : State => t.put _) (updR_congr ?_))))
    rw [asks_store, kt.hauId]

end Sys2Proof.Machine
end

section
/-! Responses to host requests that left uncached, and their absence (R33, R34, R96, R98, R257, R343). -/
namespace Sys2Proof.Machine

theorem execHauResponse_eq {s : State} {r : Rid} (hp : s.ridPresent r = true) (hm : s.mode ≠ .quiesce) (id : Nat) (resp : Resp) (d : Word) :
    exec (.hauResponse r id resp d) s = .next (s.hauAnswer r id resp d) := by
  show Host.Outcome.next (s.onRunner r fun s => s.hauAnswer r id resp d) = _
  unfold State.onRunner
  rw [if_pos (by simp [hp, hm])]

section
variable {s : State} {r : Rid} {id : Nat} {e : HauReq} (he : (s.runner r).hau.find? (fun e => e.id == id) = some e) (hc : s.hauCached r id = false)
include he hc

theorem execHauRequestTimeout_eq (hp : s.ridPresent r = true) (hm : s.mode ≠ .quiesce) :
    exec (.hauRequestTimeout r id) s = .next ((s.hauDone r id false 0).report 0x10 0 r.page r.page (s.linkOf e.addr)) := by
  unfold exec
  show execHauRequestTimeout r id s = _
  unfold execHauRequestTimeout State.onRunner
  rw [if_pos (by simp [hp, hm])]
  dsimp only
  rw [he]
  dsimp only
  rw [hc]
  rfl

theorem hauAnswer_ok (d : Word) : s.hauAnswer r id .ok d = s.hauDone r id true (e.extract d) := by
  unfold State.hauAnswer
  rw [he]
  dsimp only
  rw [hc]
  rfl

theorem hauAnswer_error {resp : Resp} (h1 : resp ≠ .ok) (h2 : resp ≠ .busy) (d : Word) : s.hauAnswer r id resp d = s.hauDone r id false 0 := by
  unfold State.hauAnswer
  rw [he]
  dsimp only
  rw [hc]
  cases resp with
  | ok => exact absurd rfl h1
  | busy => exact absurd rfl h2
  | _ => rfl

theorem hauAnswer_busy_dark (hl : s.linkLive = false) (d : Word) : s.hauAnswer r id .busy d = (s.noLink e.addr).hauDone r id false 0 := by
  unfold State.hauAnswer
  rw [he]
  dsimp only
  rw [hc, hl]
  rfl

theorem hauAnswer_busy (hl : s.linkLive = true) {o : Out} {older newer : List Out} (ho : s.out = older ++ o :: newer) (hi : isRequest r id o = true)
    (hn : ∀ o ∈ newer, isRequest r id o = false) (d : Word) : s.hauAnswer r id .busy d = s.put (s.resend o) := by
  have found : s.out.reverse.find? (isRequest r id) = some o := by
    have hno : newer.reverse.find? (isRequest r id) = none := by
      rw [List.find?_eq_none]
      exact fun o ho => by simp [hn o (List.mem_reverse.1 ho)]
    rw [ho, List.reverse_append, List.reverse_cons, List.append_assoc, List.find?_append, hno]
    exact List.find?_cons_of_pos hi
  unfold State.hauAnswer
  rw [he]
  dsimp only
  rw [hc, hl, found]
  rfl

end

/-! What a completed request leaves its runner -/

/-- The value of a completed load. -/
def loadVal (ok : Bool) (v : Word) : QVal := if ok then { val := v } else { poison := true, host := true }

theorem span_first {α : Type} {p : α → Bool} {older newer : List α} {o : α} (h : ∀ x ∈ older, p x = true) (ho : p o = false) :
    (older ++ o :: newer).span p = (older, o :: newer) := by
  rw [List.span_eq_takeWhile_dropWhile]
  rw [List.takeWhile_append_of_pos h, List.dropWhile_append_of_pos h, List.takeWhile_cons_of_neg (by simp [ho]), List.dropWhile_cons_of_neg (by simp [ho]), List.append_nil]

theorem hideOlder_other {o : Op} {older : List Op} (h : ∀ e ∈ older, e.unit ≠ o.unit) : hideOlder o older = older := by
  unfold hideOlder
  refine (List.map_congr_left fun e he => ?_).trans (List.map_id older)
  rw [if_neg (by simp [h e he])]
  rfl

theorem flags_none (x : Runner) : x.flags false false = x := by
  unfold Runner.flags
  simp only [Bool.or_false, Bool.false_and]

/-- A load that completes shows its value at its port, and is no more in flight (R62, R98). -/
theorem hauDone_load {x : Runner} {id : Nat} {e : HauReq} (he : x.hau.find? (fun e => e.id == id) = some e) (hd : e.dead = false) (hl : e.load = true) {older newer : List Op}
    (ho : x.ops = older ++ { unit := .hau, res := [(0x17C, {})], kind := .host id } :: newer) (hn : ∀ o ∈ older, o.unit ≠ .hau ∧ o.kind ≠ .host id) (ok : Bool) (v : Word) :
    x.hauDone id ok v = { x with hau := x.hau.filter fun e => e.id != id, ops := older ++ newer, qport := tset {} x.qport 0x17C (loadVal ok v) } := by
  have hspan : x.ops.span (fun o => !(o.kind == OpKind.host id)) = (older, { unit := .hau, res := [(0x17C, {})], kind := .host id } :: newer) := by
    rw [ho]
    exact span_first (fun o hm => by simp [(hn o hm).2]) (by simp)
  unfold Runner.hauDone
  rw [he]
  dsimp only
  rw [hd, hl, hspan]
  dsimp only
  rw [hideOlder_other fun o hm => (hn o hm).1, if_neg Bool.false_ne_true, if_pos rfl, if_pos (beq_self_eq_true _)]
  exact flags_none _

theorem fenceAck_other {id : Nat} {l : List Op} (h : ∀ o ∈ l, ∀ ids b, o.kind = .fence ids b → id ∉ ids) (bad : Bool) : fenceAck id bad l = l := by
  induction l with
  | nil => rfl
  | cons o l ih =>
    have hl := ih fun o ho => h o (List.mem_cons_of_mem _ ho)
    have ho := h o (List.mem_cons_self ..)
    unfold fenceAck
    split
    next ids b hk =>
      rw [if_neg (by simpa using ho ids b hk), hl]
    next => rw [hl]

/-- A message that no longer waits for write `id` (R343). -/
def Msg.without (id : Nat) (m : Msg) : Msg := { m with ids := m.ids.filter fun i => i != id }

/-- A write that completes and that no fence waits for: one that failed marks the fence span (R96). -/
theorem hauDone_store {x : Runner} {id : Nat} {e : HauReq} (he : x.hau.find? (fun e => e.id == id) = some e) (hd : e.dead = false) (hl : e.load = false)
    (hf : ∀ o ∈ x.ops, ∀ ids b, o.kind = .fence ids b → id ∉ ids) (ok : Bool) (v : Word) :
    x.hauDone id ok v = { x with hau := x.hau.filter fun e => e.id != id, spanBad := x.spanBad || !ok, msgs := x.msgs.map (Msg.without id) } := by
  have held : (x.ops.any fun o => match o.kind with | .fence ids _ => ids.contains id | _ => false) = false := by
    rw [List.any_eq_false]
    intro o ho
    split
    next ids b hk => simpa using hf o ho ids b hk
    next => exact Bool.false_ne_true
  unfold Runner.hauDone
  rw [he]
  dsimp only
  rw [hd, hl, if_neg Bool.false_ne_true, if_neg Bool.false_ne_true, fenceAck_other hf]
  refine (congrArg (fun b => ({ x with hau := x.hau.filter fun e => e.id != id, spanBad := x.spanBad || (!ok && !b), msgs := x.msgs.map (Msg.without id) } : Runner)) held).trans ?_
  rw [Bool.not_false, Bool.and_true]

/-- What is answered to a request of earlier work is discarded; messages no longer wait for it (R257, R343). -/
theorem hauDone_dead {x : Runner} {id : Nat} {e : HauReq} (he : x.hau.find? (fun e => e.id == id) = some e) (hd : e.dead = true) (ok : Bool) (v : Word) :
    x.hauDone id ok v = { x with hau := x.hau.filter fun e => e.id != id, msgs := x.msgs.map (Msg.without id) } := by
  unfold Runner.hauDone
  rw [he]
  dsimp only
  rw [hd, if_pos rfl]
  rfl

/-! The obligation -/

theorem hauDone_report (s : State) (cls cause reporter suspect elem detail : Nat) (live : Bool) (r : Rid) (id : Nat) (ok : Bool) (v : Word) :
    (s.report cls cause reporter suspect elem detail live).hauDone r id ok v = (s.hauDone r id ok v).report cls cause reporter suspect elem detail live := by
  cases r <;> rfl

/-- The bytes of an aligned load in the 8 bytes that its RD_NC named (R33). -/
theorem extract_aligned {e : HauReq} (hs : e.size ∈ [1, 2, 4, 8]) (ha : e.addr % e.size = 0) (d : Word) :
    e.extract d = BitVec.ofNat 64 (d.toNat / 2 ^ (8 * (e.addr % 8)) % 2 ^ (8 * e.size)) := by
  have hb : (ncBlock e.addr e.size).1 = e.addr / 8 * 8 := by
    have h8 : ([8, 16, 32, 64, 128].find? fun z => e.addr / z == (e.addr + e.size - 1) / z) = some 8 := by
      refine List.find?_cons_of_pos ?_
      rw [beq_iff_eq]
      simp only [List.mem_cons, List.not_mem_nil, or_false] at hs
      rcases hs with h | h | h | h <;> rw [h] at ha ⊢ <;> omega
    unfold ncBlock
    rw [h8]
    rfl
  unfold HauReq.extract
  rw [hb, show e.addr - e.addr / 8 * 8 = e.addr % 8 by omega]

/-- What each answer to an uncached request does, and its absence, from what its end leaves of the runner. -/
theorem answers {s : State} {r : Rid} {id : Nat} {d : Word} {e : HauReq} (hp : s.ridPresent r = true) (hm : s.mode ≠ .quiesce)
    (he : (s.runner r).hau.find? (fun e => e.id == id) = some e) (hc : s.hauCached r id = false) {good bad : Runner} (hg : (s.runner r).hauDone id true (e.extract d) = good)
    (hb : (s.runner r).hauDone id false 0 = bad) :
    exec (.hauResponse r id .ok d) s = .next (s.setRunner r good)
    ∧ (∀ resp, resp ≠ .ok → resp ≠ .busy → exec (.hauResponse r id resp d) s = .next (s.setRunner r bad))
    ∧ (s.linkLive = false → exec (.hauResponse r id .busy d) s = .next ((s.setRunner r bad).report 0x10 5 0 0 0 e.addr))
    ∧ exec (.hauRequestTimeout r id) s = .next ((s.setRunner r bad).report 0x10 0 r.page r.page (s.linkOf e.addr)) := by
  have hgood : s.hauDone r id true (e.extract d) = s.setRunner r good := congrArg (s.setRunner r) hg
  have hbad : s.hauDone r id false 0 = s.setRunner r bad := congrArg (s.setRunner r) hb
  refine ⟨?_, fun resp h1 h2 => ?_, fun hl => ?_, ?_⟩
  · rw [execHauResponse_eq hp hm, hauAnswer_ok he hc, hgood]
  · rw [execHauResponse_eq hp hm, hauAnswer_error he hc h1 h2, hbad]
  · rw [execHauResponse_eq hp hm, hauAnswer_busy_dark he hc hl]
    unfold State.noLink
    rw [hauDone_report, hbad]
  · rw [execHauRequestTimeout_eq he hc hp hm, hbad]

/-- Settles O33: the end of a load, of a write and of a request of earlier work, and BUSY. -/
theorem hostResponsesComplete : Obligations.HostResponsesComplete := by
  unfold Obligations.HostResponsesComplete
  intro s r id d e _ hp hm he hc x hau late lost msgs
  have busy {o : Out} {older newer : List Out} (hl : s.linkLive = true) (ho : s.out = older ++ o :: newer) (hi : isRequest r id o = true) (hn : ∀ o ∈ newer, isRequest r id o = false) :
      exec (.hauResponse r id .busy d) s = .next (s.put (s.resend o)) := by
    rw [execHauResponse_eq hp hm, hauAnswer_busy he hc hl ho hi hn]
  refine ⟨fun older newer hd hload hs ha ho hn => ?_, fun hd hload hf => ?_, fun hd resp hb => ?_, fun older newer l c a n hl ho hn => ?_, fun older newer l c a n v hl ho hn => ?_⟩
  · rw [← extract_aligned hs ha]
    exact answers hp hm he hc (hauDone_load he hd hload ho hn true _) (hauDone_load he hd hload ho hn false 0)
  · exact answers hp hm he hc (hauDone_store he hd hload hf true _) (hauDone_store he hd hload hf false 0)
  · obtain ⟨hok, herr, -, -⟩ := answers hp hm he hc (hauDone_dead he hd true (e.extract d)) (hauDone_dead he hd false 0)
    by_cases h : resp = .ok
    · rw [h]
      exact hok
    · exact herr resp h hb
  · exact busy hl ho (by simp [isRequest]) hn
  · exact busy hl ho (by simp [isRequest]) hn

end Sys2Proof.Machine
end

section
/-! What comes to the heat caches from the host: fill responses and write-back acknowledgements (R33, R34, R311, R314, R320). -/
namespace Sys2Proof.Machine

theorem updCache_ok {s : State} (hs : s.TablesOk) (h : Nat) (f : Cache → Cache) : (s.updCache h f).TablesOk := { hs with caches := twf_tset hs.caches }

theorem setRfld_ok {s : State} (hs : s.TablesOk) (p off hi lo x : Nat) : (s.setRfld p off hi lo x).TablesOk := { hs with regs := keysRise_tset hs.regs }

theorem cache_updCache_same {s : State} (hs : s.TablesOk) (h : Nat) (f : Cache → Cache) : (s.updCache h f).cache h = f (s.cache h) :=
  (State.cache_updCache hs ..).trans (if_pos rfl)

theorem rfld_setRfld_other {s : State} (hs : s.TablesOk) {p off p' off' : Nat} (hn : regKey p' off' ≠ regKey p off) (hi lo x hi' lo' : Nat) :
    (s.setRfld p off hi lo x).rfld p' off' hi' lo' = s.rfld p' off' hi' lo' := congrArg (fld · hi' lo') (State.reg_setReg_other hs hn _)

/-! A fill ends -/

/-- The fill of a line is over; one that was locked ends with its code (R311, R314). -/
def State.fillGone (s : State) (h line : Nat) (locked : Bool) (code : Nat) : State :=
  (s.updCache h fun c => { c with fills := c.fills.filter fun g => g.line != line }).when locked fun s => s.lockedEnd h code

/-- What the end of a fill leaves. -/
structure FillGone (s : State) (h line : Nat) (locked : Bool) (code : Nat) (t : State) : Prop where
  ok      : t.TablesOk
  rest    : ∃ rg ca, t = { s with regs := rg, caches := ca }
  cache   : t.cache h = { s.cache h with fills := (s.cache h).fills.filter fun g => g.line != line, lfill := (s.cache h).lfill && !locked }
  code    : locked = true → t.rfld (0x40 + h) 0x11C 28 27 = code % 4
  dropped : t.rfld (0x40 + h) 0x158 15 0 = s.rfld (0x40 + h) 0x158 15 0

theorem fillGone_spec {s : State} (hs : s.TablesOk) (h line : Nat) (locked : Bool) (code : Nat) : FillGone s h line locked code (s.fillGone h line locked code) := by
  have hs1 := updCache_ok hs h fun c => { c with fills := c.fills.filter fun g => g.line != line }
  have hc1 := cache_updCache_same hs h fun c => { c with fills := c.fills.filter fun g => g.line != line }
  cases locked with
  | false => exact ⟨hs1, ⟨_, _, rfl⟩, hc1.trans (by rw [Bool.not_false, Bool.and_true]), (fun h => nomatch h), rfl⟩
  | true =>
    have hs2 := updCache_ok hs1 h fun c => { c with lfill := false }
    refine ⟨setRfld_ok hs2 .., ⟨_, _, rfl⟩, ?_, fun _ => State.rfld_setRfld hs2 _ _ _ (by decide), ?_⟩
    · refine (cache_updCache_same hs1 h fun c => { c with lfill := false }).trans ?_
      rw [hc1, Bool.not_true, Bool.and_false]
    · exact rfld_setRfld_other hs2 (regKey_ne (by decide)) ..

theorem line_of_fillOf {c : Cache} {line : Nat} {f : Fill} (h : c.fillOf line = some f) : f.line = line := by
  have := List.find?_some h
  simpa using this

/-! Fill responses -/

theorem execFillResponse_eq {s : State} {h : Nat} (hh : h < s.nHeats) (hm : s.mode ≠ .quiesce) (line : Nat) (resp : Resp) (d : LineData) (er : Option Ecc) :
    exec (.fillResponse h line resp d er) s = .next ((s.fillResponse h line resp d er).1.each (s.fillResponse h line resp d er).2 fun s c => s.carNote h c) := by
  have hp : (s.heatPresent h && s.mode != .quiesce) = true := by
    rw [Bool.and_eq_true]
    exact ⟨decide_eq_true hh, by simpa using hm⟩
  exact congrArg _ (if_pos hp)

/-- A fill that is not awaited tells no carrier: the state it leaves is the command's. -/
theorem execFillResponse_quiet {s t : State} {h : Nat} (hh : h < s.nHeats) (hm : s.mode ≠ .quiesce) {line : Nat} {resp : Resp} {d : LineData} {er : Option Ecc}
    (e : s.fillResponse h line resp d er = (t, [])) : exec (.fillResponse h line resp d er) s = .next t := by
  rw [execFillResponse_eq hh hm, e]
  rfl

/-- The line that a fill brings. -/
def filledLine (f : Fill) (line : Nat) (d : LineData) (er : Option Ecc) : Line := { line := line, owned := f.unique, err := er, data := d }

theorem fillResponse_ok {s : State} {h line w : Nat} {f : Fill} (hf : (s.cache h).fillOf line = some f) (hsn : f.snooped = false) (hw : f.way = some w) (d : LineData) (er : Option Ecc) :
    s.fillResponse h line .ok d er = ((s.fillGone h line f.locked 0).updCache h fun c => c.store (8 * (line % 512) + w) (filledLine f line d er)).serve h line (8 * (line % 512) + w) f.wait := by
  unfold State.fillResponse
  rw [hf]
  dsimp only
  rw [hsn, hw]
  rfl

theorem fillResponse_err {s : State} {h line : Nat} {f : Fill} (hf : (s.cache h).fillOf line = some f) {resp : Resp} (hr : resp ∈ [Resp.err, .ur]) (d : LineData) (er : Option Ecc) :
    s.fillResponse h line resp d er = s.fillErr h f := by
  unfold State.fillResponse
  rw [hf]
  simp only [List.mem_cons, List.not_mem_nil, or_false] at hr
  rcases hr with rfl | rfl
  · rfl
  · rfl

theorem store_find (c : Cache) (key : Nat) (l : Line) : ((c.store key l).lines.find? fun e => e.1 == key) = some (key, l) := by
  have low : ((c.lines.filter fun e => decide (e.1 < key)).find? fun e => e.1 == key) = none := by
    rw [List.find?_eq_none]
    intro e he
    have := (List.mem_filter.1 he).2
    simp only [decide_eq_true_eq] at this
    simp only [beq_iff_eq]
    omega
  unfold Cache.store
  rw [List.append_assoc, List.find?_append, low]
  exact (Option.none_or ..).trans (List.find?_cons_of_pos (p := fun e => e.1 == key) (a := (key, l)) (beq_self_eq_true key))

/-! Whom a fill serves -/

/-- A load waits for the fill, alone among the operations of its runner. -/
structure LoadWaits (s : State) (r : Rid) (id addr size : Nat) (f : Fill) : Prop where
  demand : f.kind = .demand
  alone  : f.wait = [.hauLoad r id addr size]
  ops    : (s.runner r).ops = [{ unit := .hau, res := [(0x17C, {})], kind := .host id }]
  asked  : ∃ e, (s.runner r).hau.find? (fun e => e.id == id) = some e ∧ e.dead = false ∧ e.load = true

/-- The runner of a load whose line has come, or has not. -/
def Runner.served (x : Runner) (id : Nat) (v : QVal) : Runner := { x with ops := [], hau := x.hau.filter fun e => e.id != id, qport := tset {} x.qport 0x17C v }

theorem hauDone_alone {s t : State} {r : Rid} {id addr size : Nat} {f : Fill} (k : LoadWaits s r id addr size f) (ht : t.TablesOk) (hr : t.runner r = s.runner r) (ok : Bool) (v : Word) :
    (t.hauDone r id ok v).runner r = (s.runner r).served id (loadVal ok v) := by
  obtain ⟨-, -, ops, e, he, hd, hl⟩ := k
  unfold State.hauDone
  rw [State.runner_updR ht, hr]
  exact hauDone_load (older := []) (newer := []) he hd hl ops nofun ok v

theorem hauDone_cache (s : State) (r : Rid) (id : Nat) (ok : Bool) (v : Word) (h : Nat) : (s.hauDone r id ok v).cache h = s.cache h := by
  cases r <;> rfl

theorem hauDone_regs (s : State) (r : Rid) (id : Nat) (ok : Bool) (v : Word) (p off hi lo : Nat) : (s.hauDone r id ok v).rfld p off hi lo = s.rfld p off hi lo := by
  cases r <;> rfl

theorem FillGone.runner {s t : State} {h line code : Nat} {locked : Bool} (k : FillGone s h line locked code t) (r : Rid) : t.runner r = s.runner r := by
  obtain ⟨rg, ca, e⟩ := k.rest
  rw [e]
  cases r <;> rfl

/-- The cache once a fill has been installed (R311). -/
theorem installed_cache {s : State} {h line code : Nat} {locked : Bool} (k : FillGone s h line locked code (s.fillGone h line locked code)) (key : Nat) (l : Line) :
    ((s.fillGone h line locked code).updCache h fun c => c.store key l).cache h = { s.cache h with
      fills := (s.cache h).fills.filter fun g => g.line != line, lfill := (s.cache h).lfill && !locked
      lines := (s.cache h).lines.filter (fun e => decide (e.1 < key)) ++ (key, l) :: (s.cache h).lines.filter fun e => decide (key < e.1) } := by
  rw [cache_updCache_same k.ok, k.cache]
  unfold Cache.store
  dsimp only
  rw [List.append_assoc]
  rfl

theorem serve_load {s : State} {h line key : Nat} {l : Line} (hl : ((s.cache h).lines.find? fun e => e.1 == key) = some (key, l)) (r : Rid) (id addr size : Nat) :
    s.serve h line key [.hauLoad r id addr size] = (s.hauDone r id true (BitVec.ofNat 64 (lineNat l.data (addr % 256) size)), []) := by
  rw [State.serve, hl]
  rfl

/-- A fill that no access waits for, and that of a load, end without a carrier's note (R311). -/
theorem fillErr_nobody {s : State} {h : Nat} {f : Fill} (hw : f.wait = []) :
    s.fillErr h f = (match f.kind with | .demand | .locked => s.fillGone h f.line f.locked 2 | _ => (s.fillGone h f.line f.locked 2).satInc (0x40 + h) 0x158 15 0, []) := by
  unfold State.fillErr
  dsimp only
  rw [hw]
  rfl

/-- A fill that no access waits for fails: a locked one with its code, a prefetch is counted as dropped (R311, R314). -/
theorem fillErr_spec {s : State} (hs : s.TablesOk) {h : Nat} {f : Fill} (hw : f.wait = []) :
    ∃ t, s.fillErr h f = (t, []) ∧ t.cache h = { s.cache h with fills := (s.cache h).fills.filter fun g => g.line != f.line, lfill := (s.cache h).lfill && !f.locked }
      ∧ (f.locked = true → t.rfld (0x40 + h) 0x11C 28 27 = 2)
      ∧ (f.kind = .pref ∨ f.kind = .next ∨ (∃ k, f.kind = .stride k) → t.rfld (0x40 + h) 0x158 15 0 = min (s.rfld (0x40 + h) 0x158 15 0 + 1) 65535) := by
  have k := fillGone_spec hs h f.line f.locked 2
  have counted : (((s.fillGone h f.line f.locked 2).satInc (0x40 + h) 0x158 15 0).cache h = { s.cache h with fills := (s.cache h).fills.filter fun g => g.line != f.line, lfill := (s.cache h).lfill && !f.locked })
      ∧ (f.locked = true → ((s.fillGone h f.line f.locked 2).satInc (0x40 + h) 0x158 15 0).rfld (0x40 + h) 0x11C 28 27 = 2)
      ∧ ((s.fillGone h f.line f.locked 2).satInc (0x40 + h) 0x158 15 0).rfld (0x40 + h) 0x158 15 0 = min (s.rfld (0x40 + h) 0x158 15 0 + 1) 65535 := by
    refine ⟨k.cache, fun hl => (rfld_setRfld_other k.ok (regKey_ne (by decide)) ..).trans (k.code hl), ?_⟩
    rw [State.rfld_satInc k.ok _ _ _ (by decide), k.dropped]
    rfl
  obtain ⟨hc, hl, hd⟩ := counted
  refine ⟨_, fillErr_nobody hw, ?_⟩
  cases hk : f.kind with
  | demand | locked => exact ⟨k.cache, k.code, by simp⟩
  | pref | next | stride => exact ⟨hc, hl, fun _ => hd⟩

theorem fillErr_load {s : State} {h : Nat} {f : Fill} (hk : f.kind = .demand) {r : Rid} {id addr size : Nat} (hw : f.wait = [.hauLoad r id addr size]) :
    s.fillErr h f = ((s.fillGone h f.line f.locked 2).hauDone r id false 0, []) := by
  unfold State.fillErr
  dsimp only
  rw [hw, hk]
  rfl

/-! Write-back acknowledgements (R315, R320) -/

theorem takeFirst_erase {l : List Nat} {a : Nat} (h : a ∈ l) : ∃ b, takeFirst (fun x => x == a) l = some (b, l.erase a) := by
  induction l with
  | nil => exact nomatch h
  | cons c l ih =>
    unfold takeFirst
    rw [List.erase_cons]
    by_cases hc : c = a
    · rw [if_pos (by simpa using hc), if_pos (by simpa using hc)]
      exact ⟨c, rfl⟩
    · obtain ⟨b, e⟩ := ih ((List.mem_cons.1 h).resolve_left (Ne.symm hc))
      rw [if_neg (by simpa using hc), if_neg (by simpa using hc), e]
      exact ⟨b, rfl⟩

/-- A clean or a range invalidation ends when nothing is left to be acknowledged (R315, R320). -/
theorem settleCache_spec {s : State} (hs : s.TablesOk) (h : Nat) :
    (s.settleCache h).cache h = { s.cache h with rinv := (s.cache h).rinv && !(s.cache h).wbs.isEmpty, draining := (s.cache h).draining && !(s.cache h).wbs.isEmpty }
    ∧ (s.settleCache h).rfld (0x40 + h) 0x100 0 0 = (if (s.cache h).draining && (s.cache h).wbs.isEmpty then 0 else s.rfld (0x40 + h) 0x100 0 0)
    ∧ (s.settleCache h).qpend = s.qpend := by
  unfold State.settleCache
  dsimp only
  cases hw : (s.cache h).wbs.isEmpty with
  | false =>
    rw [if_neg Bool.false_ne_true, Bool.not_false, Bool.and_true, Bool.and_true, Bool.and_false, if_neg Bool.false_ne_true]
    exact ⟨rfl, rfl, rfl⟩
  | true =>
    rw [if_pos rfl, Bool.not_true, Bool.and_false, Bool.and_false, Bool.and_true]
    cases hd : (s.cache h).draining with
    | false => exact ⟨cache_updCache_same hs .., rfl, rfl⟩
    | true => exact ⟨cache_updCache_same (setRfld_ok hs ..) .., State.rfld_setRfld hs _ _ _ (by decide), rfl⟩

theorem wbAck_spec {s : State} (hs : s.TablesOk) {h line : Nat} (hl : line ∈ (s.cache h).wbs) :
    ∃ t, s.wbAck h line = t ∧ t.qpend = s.qpend
      ∧ t.cache h = { s.cache h with
          wbs := (s.cache h).wbs.erase line, rinv := (s.cache h).rinv && !((s.cache h).wbs.erase line).isEmpty, draining := (s.cache h).draining && !((s.cache h).wbs.erase line).isEmpty }
      ∧ t.rfld (0x40 + h) 0x100 0 0 = if (s.cache h).draining && ((s.cache h).wbs.erase line).isEmpty then 0 else s.rfld (0x40 + h) 0x100 0 0 := by
  obtain ⟨b, e⟩ := takeFirst_erase hl
  obtain ⟨hc, hr, hq⟩ := settleCache_spec (updCache_ok hs h fun c => { c with wbs := (s.cache h).wbs.erase line }) h
  rw [cache_updCache_same hs] at hc hr
  refine ⟨_, ?_, hq, hc, hr⟩
  unfold State.wbAck
  rw [e]

theorem quiesceEnd_idle {s : State} (h : s.qpend = false) : s.quiesceEnd = s := by
  unfold State.quiesceEnd
  rw [h]
  rfl

end Sys2Proof.Machine
end

section
/-! Snoops (R37, R319, R321, R322). -/
namespace Sys2Proof.Machine

/-- A heat cache answers a snoop "not present": it is being cleared, or does not hold the line (R37, R321). -/
abbrev State.absent (s : State) (g line : Nat) : Prop := (s.cache g).init = true ∨ (s.cache g).find line = none

/-- What a heat answers that holds line `l`, where `filling` says that its fill is outstanding (R37, R322). -/
def snoopAnswer (l : Line) (filling : Bool) : Option (Option LineData × Bool) :=
  if filling && !l.dirty then none
  else if l.poison || (l.dirty && l.err == some .double) then some (none, true)
  else some (if l.dirty then some l.data else none, false)

/-- One heat has answered: only its cache has changed, and the Referee. -/
structure Answered (t u : State) (g : Nat) : Prop where
  ok     : u.TablesOk
  out    : u.out = t.out
  others : ∀ j, j ≠ g → u.cache j = t.cache j

theorem answered_updCache {t : State} (ht : t.TablesOk) (g : Nat) (f : Cache → Cache) : Answered t (t.updCache g f) g :=
  ⟨updCache_ok ht g f, rfl, fun _ hj => (State.cache_updCache ht ..).trans (if_neg hj)⟩

theorem Answered.report {t u : State} {g : Nat} (k : Answered t u g) (cls cause reporter suspect elem detail : Nat) (live : Bool) :
    Answered t (u.report cls cause reporter suspect elem detail live) g := ⟨{ k.ok with }, k.out, k.others⟩

theorem snoopHeat_absent {t : State} (ht : t.TablesOk) {g line : Nat} (ha : t.absent g line) (link : Nat) :
    ∃ u, t.snoopHeat g line link = (u, none) ∧ Answered t u g ∧ (u.cache g).lines = (t.cache g).lines := by
  unfold State.snoopHeat
  dsimp only
  rcases ha with hi | hf
  · rw [if_pos hi]
    exact ⟨t, rfl, ⟨ht, rfl, fun _ _ => rfl⟩, rfl⟩
  · split
    · exact ⟨t, rfl, ⟨ht, rfl, fun _ _ => rfl⟩, rfl⟩
    · rw [hf]
      refine ⟨_, rfl, answered_updCache ht .., ?_⟩
      rw [cache_updCache_same ht]

/-- A heat that holds the line gives it up (R37). -/
theorem snoopHeat_held {t : State} (ht : t.TablesOk) {g line k : Nat} {l : Line} (hi : (t.cache g).init = false) (hf : (t.cache g).find line = some (k, l)) (link : Nat) :
    ∃ u, t.snoopHeat g line link = (u, snoopAnswer l ((t.cache g).fillOf line).isSome) ∧ Answered t u g ∧ (u.cache g).lines = (t.cache g).lines.filter fun e => e.1 != k := by
  unfold State.snoopHeat
  dsimp only
  rw [hi, if_neg Bool.false_ne_true, hf]
  dsimp only
  rw [updCache_updCache ht]
  generalize hu : t.updCache g _ = u
  have ans : Answered t u g := hu ▸ answered_updCache ht ..
  have lines : (u.cache g).lines = (t.cache g).lines.filter fun e => e.1 != k := by
    rw [← hu, cache_updCache_same ht]
    rfl
  unfold snoopAnswer
  split
  · exact ⟨u, rfl, ans, lines⟩
  · cases hp : l.poison
    · cases hd : l.dirty
      · exact ⟨u, rfl, ans, lines⟩
      · cases he : l.err with
        | none => exact ⟨u, rfl, ans, lines⟩
        | some e =>
          cases e with
          | single => exact ⟨_, rfl, ans.report .., lines⟩
          | double => exact ⟨_, rfl, (ans.report ..).report .., lines⟩
    · exact ⟨_, rfl, ans.report .., lines⟩

/-- The answers of one heat after another (R37). -/
def snoopRound (line link : Nat) (p : State × Option (Option LineData × Bool)) (g : Nat) : State × Option (Option LineData × Bool) :=
  ((p.1.snoopHeat g line link).1, joinSnoop p.2 (p.1.snoopHeat g line link).2)

theorem joinSnoop_none (a : Option (Option LineData × Bool)) : joinSnoop a none = a := by cases a <;> rfl

/-- Heats that do not hold the line add nothing to the answer. -/
theorem snoopRounds_absent {line : Nat} (link : Nat) (a : Option (Option LineData × Bool)) {l : List Nat} (hl : l.Nodup) {t : State} (ht : t.TablesOk)
    (ha : ∀ g ∈ l, t.absent g line) : ∃ u, l.foldl (snoopRound line link) (t, a) = (u, a) ∧ u.TablesOk ∧ u.out = t.out ∧ (∀ j, (u.cache j).lines = (t.cache j).lines)
      ∧ ∀ j, j ∉ l → u.cache j = t.cache j := by
  induction l generalizing t with
  | nil => exact ⟨t, rfl, ht, rfl, fun _ => rfl, fun _ _ => rfl⟩
  | cons g l ih =>
    obtain ⟨hg, hl⟩ := List.nodup_cons.1 hl
    obtain ⟨u, e, ans, lines⟩ := snoopHeat_absent ht (ha g (List.mem_cons_self ..)) link
    have hlines (j : Nat) : (u.cache j).lines = (t.cache j).lines := by
      by_cases hj : j = g
      · rw [hj]; exact lines
      · rw [ans.others j hj]
    have habs : ∀ j ∈ l, u.absent j line := by
      intro j hj
      unfold State.absent
      rw [ans.others j fun h => hg (h ▸ hj)]
      exact ha j (List.mem_cons_of_mem _ hj)
    obtain ⟨v, e', hv, hout, hlv, hcv⟩ := ih hl ans.ok habs
    refine ⟨v, ?_, hv, hout.trans ans.out, fun j => (hlv j).trans (hlines j), fun j hj => ?_⟩
    · rw [List.foldl_cons]
      unfold snoopRound
      rw [e, joinSnoop_none]
      exact e'
    · obtain ⟨hjg, hjl⟩ := not_or.1 (fun h => hj (List.mem_cons.2 h))
      exact (hcv j hjl).trans (ans.others j hjg)

/-- The response to a snoop (R33, R37). -/
def snoopOut (link : Nat) : Option (Option LineData × Bool) → Out
  | none => .snoop link .ok false none
  | some (_, true) => .snoop link .err true none
  | some (d, false) => .snoop link .ok true d

theorem snoop_eq (s : State) (link line : Nat) :
    s.snoop link line = ((List.range s.nHeats).foldl (snoopRound line link) (s, none)).1.put (snoopOut link ((List.range s.nHeats).foldl (snoopRound line link) (s, none)).2) := by
  have sent (p : State × Option (Option LineData × Bool)) : p.1.put (match p.2 with
      | none => .snoop link .ok false none
      | some (_, true) => .snoop link .err true none
      | some (d, false) => .snoop link .ok true d) = p.1.put (snoopOut link p.2) := by
    obtain ⟨u, _ | ⟨d, _ | _⟩⟩ := p
    · rfl
    · rfl
    · rfl
  exact sent _

/-- A line that no heat holds: "not present", and nothing is lost (R37). -/
theorem snoop_absent {s : State} (hs : s.TablesOk) {line : Nat} (ha : ∀ g < s.nHeats, s.absent g line) (link : Nat) :
    (s.snoop link line).out = s.out ++ [.snoop link .ok false none] ∧ ∀ j, ((s.snoop link line).cache j).lines = (s.cache j).lines := by
  obtain ⟨u, e, -, hout, hlines, -⟩ := snoopRounds_absent link none List.nodup_range hs fun g hg => ha g (List.mem_range.1 hg)
  rw [snoop_eq, e]
  exact ⟨congrArg (· ++ _) hout, hlines⟩

/-- A line that one heat holds: its answer, and the line is gone (R37). -/
theorem snoop_held {s : State} (hs : s.TablesOk) {h line k : Nat} {l : Line} (hh : h < s.nHeats) (hi : (s.cache h).init = false) (hf : (s.cache h).find line = some (k, l))
    (ha : ∀ g < s.nHeats, g ≠ h → s.absent g line) (link : Nat) :
    (s.snoop link line).out = s.out ++ [snoopOut link (snoopAnswer l ((s.cache h).fillOf line).isSome)]
    ∧ ((s.snoop link line).cache h).lines = (s.cache h).lines.filter (fun e => e.1 != k)
    ∧ ∀ j, j ≠ h → ((s.snoop link line).cache j).lines = (s.cache j).lines := by
  obtain ⟨before, after, hl⟩ := List.append_of_mem (List.mem_range.2 hh)
  have nodup : (before ++ h :: after).Nodup := hl ▸ List.nodup_range
  obtain ⟨nb, na, ndis⟩ := List.nodup_append.1 nodup
  obtain ⟨hna, na⟩ := List.nodup_cons.1 na
  have hnb : h ∉ before := fun hm => ndis h hm h (List.mem_cons_self ..) rfl
  have range (g : Nat) (hg : g ∈ before ++ h :: after) : g < s.nHeats := List.mem_range.1 (hl ▸ hg)
  obtain ⟨u, eu, hu, ou, lu, cu⟩ := snoopRounds_absent link none nb hs fun g hg =>
    ha g (range g (List.mem_append_left _ hg)) fun e => hnb (e ▸ hg)
  obtain ⟨v, ev, ans, lv⟩ := snoopHeat_held hu (g := h) (by rw [cu h hnb]; exact hi) (by rw [cu h hnb]; exact hf) link
  have habs : ∀ g ∈ after, v.absent g line := by
    intro g hg
    have hgh : g ≠ h := fun e => hna (e ▸ hg)
    have hgb : g ∉ before := fun hm => ndis g hm g (List.mem_cons_of_mem _ hg) rfl
    unfold State.absent
    rw [ans.others g hgh, cu g hgb]
    exact ha g (range g (List.mem_append_right _ (List.mem_cons_of_mem _ hg))) hgh
  obtain ⟨w, ew, -, ow, lw, -⟩ := snoopRounds_absent link (snoopAnswer l ((u.cache h).fillOf line).isSome) na ans.ok habs
  have fold : (List.range s.nHeats).foldl (snoopRound line link) (s, none) = (w, snoopAnswer l ((s.cache h).fillOf line).isSome) := by
    rw [hl, List.foldl_append, eu, List.foldl_cons]
    unfold snoopRound
    rw [ev]
    refine ew.trans ?_
    rw [cu h hnb]
  rw [snoop_eq, fold]
  refine ⟨congrArg (· ++ _) (ow.trans (ans.out.trans ou)), (lw h).trans (lv.trans ?_), fun j hj => (lw j).trans ?_⟩
  · rw [cu h hnb]
  · rw [ans.others j hj]
    exact lu j

theorem snoopOut_answer (link : Nat) (l : Line) (filling : Bool) :
    snoopOut link (snoopAnswer l filling) = if filling = true ∧ l.dirty = false then .snoop link .ok false none
      else if l.poison = true ∨ (l.dirty = true ∧ l.err = some .double) then .snoop link .err true none else .snoop link .ok true (if l.dirty then some l.data else none) := by
  unfold snoopAnswer
  by_cases h1 : filling = true ∧ l.dirty = false
  · rw [if_pos h1, if_pos (by simp [h1])]
    rfl
  · rw [if_neg h1, if_neg (by simpa using h1)]
    by_cases h2 : l.poison = true ∨ (l.dirty = true ∧ l.err = some .double)
    · rw [if_pos h2, if_pos (by simpa using h2)]
      rfl
    · rw [if_neg h2, if_neg (by simpa using h2)]
      rfl

/-- A snoop of either kind, outside QUIESCE. -/
theorem execSnoop_eq {s : State} (hm : s.mode ≠ .quiesce) {link : Nat} (hl : link < 4) (addr : Nat) {e : Instr} (he : e ∈ [Instr.snpInv link addr, .snpCleanInv link addr]) :
    exec e s = .next (s.snoop link (addr / 256)) := by
  have cmd : s.snoopCmd link addr = s.snoop link (addr / 256) := by
    unfold State.snoopCmd
    rw [if_neg (Nat.not_le.2 hl), if_neg hm]
  simp only [List.mem_cons, List.not_mem_nil, or_false] at he
  rcases he with rfl | rfl
  · exact congrArg _ cmd
  · exact congrArg _ cmd

/-- Settles O49: fill responses, write-back acknowledgements and snoops. -/
theorem heatCacheEventsComplete : Obligations.HeatCacheEventsComplete := by
  unfold Obligations.HeatCacheEventsComplete
  intro s h line addr link id size r d er f hs hm hh _ _ _ c fills again dropped x waits given stored
  have loads (hw : waits) : LoadWaits s r id addr size f := by
    obtain ⟨hk, hwait, hops, hasked⟩ := hw
    exact ⟨hk, hwait, hops, hasked⟩
  refine ⟨fun hf resp => ?_, fun hf hl => ?_, fun w hf hsn hw hwait => ?_, fun w hf hsn hw hlk hwaits => ?_, fun resp hr hf hwho => ?_, fun hl hq => ?_, fun e he hlink => ?_⟩
  · refine execFillResponse_quiet hh hm ?_
    unfold State.fillResponse
    rw [hf]
  · refine execFillResponse_quiet hh hm ?_
    unfold State.fillResponse
    rw [hf]
    exact if_pos hl
  · have k := fillGone_spec hs h line f.locked 0
    have e := fillResponse_ok hf hsn hw d er
    rw [hwait] at e
    refine ⟨_, execFillResponse_quiet hh hm e, installed_cache k .., fun hlk => k.code hlk, ?_⟩
    obtain ⟨rg, ca, e⟩ := k.rest
    rw [e]
    rfl
  · have lw := loads hwaits
    have k := fillGone_spec hs h line f.locked 0
    have hc := installed_cache k (8 * (line % 512) + w) (filledLine f line d er)
    have e := fillResponse_ok hf hsn hw d er
    rw [lw.alone, serve_load (l := filledLine f line d er) (by rw [cache_updCache_same k.ok]; exact store_find ..)] at e
    refine ⟨_, execFillResponse_quiet hh hm e, ?_, ?_⟩
    · rw [hauDone_cache, hc, hlk, Bool.not_false, Bool.and_true]
      rfl
    · exact hauDone_alone lw (updCache_ok k.ok ..) (k.runner r) true _
  · have hline := line_of_fillOf hf
    have e := fillResponse_err hf hr d er
    by_cases hwait : f.wait = []
    · obtain ⟨t, et, hc, hl, hd⟩ := fillErr_spec hs (h := h) hwait
      rw [hline] at hc
      refine ⟨t, execFillResponse_quiet hh hm (e.trans et), hc, fun hlk _ => hl hlk, fun hw => ?_, fun hdr _ => hd hdr⟩
      exact absurd ((loads hw).alone.symm.trans hwait) (List.cons_ne_nil _ _)
    · have lw := loads (hwho.resolve_left hwait)
      have k := fillGone_spec hs h line f.locked 2
      rw [fillErr_load lw.demand lw.alone, hline] at e
      refine ⟨_, execFillResponse_quiet hh hm e, ?_, fun _ h => absurd h hwait, fun _ => hauDone_alone lw k.ok (k.runner r) false 0, fun _ h => absurd h hwait⟩
      rw [hauDone_cache]
      exact k.cache
  · obtain ⟨t, e, hqp, hc, hrg⟩ := wbAck_spec hs (h := h) hl
    refine ⟨t, ?_, hc, hrg⟩
    have hp : (s.heatPresent h && s.mode != .quiesce) = true := by
      rw [Bool.and_eq_true]
      exact ⟨decide_eq_true hh, by simpa using hm⟩
    refine congrArg _ ((if_pos hp).trans ?_)
    dsimp only
    rw [e, quiesceEnd_idle (hqp.trans hq)]
  · have ex := execSnoop_eq hm hlink addr he
    refine ⟨fun ha => ?_, fun k x hi hf ha => ?_⟩
    · obtain ⟨ho, hl⟩ := snoop_absent hs ha link
      exact ⟨_, ex, ho, fun g _ => hl g⟩
    · obtain ⟨ho, hl, hrest⟩ := snoop_held hs hh hi hf ha link
      refine ⟨_, ex, ho.trans ?_, hl, fun g _ hg => hrest g hg⟩
      rw [snoopOut_answer]
      simp only [Option.isSome_iff_ne_none]
      rfl

end Sys2Proof.Machine
end

section
/-! Deliveries of results, and residue failures (R62, R64, R68, R71, R87, R91, R194, R195). -/
namespace Sys2Proof.Machine

/-- An event of a present runner whose clock runs takes place. -/
theorem onRunner_awake {s : State} {r : Rid} (hp : s.ridPresent r = true) (hm : s.mode ≠ .quiesce) (f : State → State) : s.onRunner r f = f s :=
  if_pos (by simp [hp, hm])

/-- The operations that a delivery of their unit can deliver. -/
theorem due_iff (o : Op) : o.due = true ↔
    (o.kind = .plain ∨ o.kind = .div ∨ (∃ a n, o.kind = .load a n) ∨ o.kind = .sync 0 ∨ ∃ b, o.kind = .fence [] b) ∨ ∃ p b, o.kind = .mac p b := by
  unfold Op.due
  cases o.kind with
  | sync n => simp
  | fence ids b => simp
  | _ => simp

theorem dueOf_iff (x : Runner) (u : FUnit) : x.dueOf u = true ↔ ∃ o ∈ x.ops, o.unit = u ∧ o.due = true := by
  unfold Runner.dueOf
  simp

/-- A unit delivers its oldest due operation, and older operations no longer show the ports it has delivered (R62, R64). -/
theorem deliverOf_oldest {x : Runner} {u : FUnit} {older newer : List Op} {o : Op} (hx : x.ops = older ++ o :: newer) (ho : o.unit = u) (hd : o.due = true)
    (hold : ∀ e ∈ older, e.unit = u → e.due = false) : x.deliverOf u = { x with ops := hideOlder o older ++ newer }.deliver o := by
  unfold Runner.deliverOf Runner.deliverWhere
  rw [hx, span_first (fun e he => ?_) (by simp [ho, hd])]
  by_cases hu : e.unit = u
  · simp [hold e he hu]
  · simp [hu]

/-- An operation that is no MAC delivers its results to their ports and raises its flags (R62, R91). -/
theorem deliver_plain {x : Runner} {o : Op} (h : ∀ p b, o.kind ≠ .mac p b) :
    x.deliver o = ({ x with qport := o.res.foldl (fun (t : Table QVal) e => tset {} t e.1 e.2) x.qport } : Runner).flags o.v o.dz := by
  have ports (l : List (Nat × QVal)) (y : Runner) :
      l.foldl (fun (y : Runner) e => y.setQ e.1 e.2) y = { y with qport := l.foldl (fun (t : Table QVal) e => tset {} t e.1 e.2) y.qport } := by
    induction l generalizing y with
    | nil => rfl
    | cons e l ih => exact ih _
  unfold Runner.deliver
  split
  next p b hk => exact absurd hk (h p b)
  next => rw [ports]

theorem flags_overflow (x : Runner) (v : Bool) : x.flags v false = { x with flgV := x.flgV || v, pendV := x.pendV || (v && x.ctlEff.getLsbD 0) } := by
  unfold Runner.flags
  simp only [Bool.or_false, Bool.false_and]

/-- A MAC adds to the accumulator as it is delivered, and shows the sum at q_r (R87, R91). -/
theorem deliver_mac {x : Runner} {o : Op} {p : Word} {b : Bool} (h : o.kind = .mac p b) :
    x.deliver o = (({ x.setOp 0xE2 (macOut (x.op 0xE2) p).r with accBad := b || x.accBad }.setQ 0xFC
      { val := (macOut (x.op 0xE2) p).r, poison := b || x.accBad }).setQ 0xFD {}).flags (macOut (x.op 0xE2) p).v false := by
  unfold Runner.deliver
  rw [h]

/-- What is left of the older operations after a delivery, one by one (R64). -/
theorem hideOlder_get (o : Op) (older : List Op) (j : Nat) (h : j < older.length) :
    ∃ e, (hideOlder o older)[j]? = some e
      ∧ (older[j].unit = o.unit → older[j].isMac = false → e = { older[j] with res := older[j].res.filter fun q => !o.res.any fun p => p.1 == q.1 })
      ∧ (older[j].unit ≠ o.unit ∨ older[j].isMac = true → e = older[j]) := by
  unfold hideOlder
  rw [List.getElem?_map, List.getElem?_eq_getElem h]
  refine ⟨_, rfl, fun hu hm => ?_, fun hn => ?_⟩
  · exact if_pos (by simp [hu, hm])
  · refine if_neg ?_
    rcases hn with hu | hm
    · simp [hu]
    · simp [hm]

theorem isMac_iff (o : Op) : o.isMac = true ↔ ∃ p b, o.kind = .mac p b := by
  unfold Op.isMac
  cases o.kind <;> simp

/-- A delivery that no injected error spoils (R62, R195). -/
theorem deliverUnit_due {s : State} {r : Rid} {u : FUnit} (hd : (s.runner r).dueOf u = true) (hi : u ≠ .alu0 ∨ (s.runner r).injRes = false) :
    s.deliverUnit r u = s.updR r fun x => x.deliverOf u := by
  unfold State.deliverUnit
  dsimp only
  rw [if_neg, if_neg fun h => by simp [hd] at h]
  rintro ⟨h1, h2, -⟩
  rcases hi with hi | hi
  · exact hi h1
  · simp [hi] at h2

/-- Settles O31: the oldest due operation is delivered, and a residue failure is charged to the next word. -/
theorem resultsComplete : Obligations.ResultsComplete := by
  unfold Obligations.ResultsComplete
  intro s r u older newer o _ hp hm x plain mac due hidden left hops hu hold
  have due_kind (e : Op) : e.due = true ↔ due e.kind := due_iff e
  have oldest : ∀ e ∈ older, e.unit = u → e.due = false := fun e he hu => by
    rw [← Bool.not_eq_true, due_kind]
    exact hold e he hu
  have has (hd : due o.kind) : x.dueOf u = true :=
    (dueOf_iff x u).2 ⟨o, by rw [hops]; exact List.mem_append_right _ (List.mem_cons_self ..), hu, (due_kind o).2 hd⟩
  have event (hd : due o.kind) (hi : u ≠ .alu0 ∨ x.injRes = false) :
      exec (.unitResultDelivery r u) s = .next (s.setRunner r ({ x with ops := hideOlder o older ++ newer }.deliver o)) := by
    refine congrArg Host.Outcome.next ((onRunner_awake hp hm _).trans ((deliverUnit_due (has hd) hi).trans ?_))
    exact congrArg (s.setRunner r) (deliverOf_oldest hops hu ((due_kind o).2 hd) oldest)
  refine ⟨fun hi => ⟨hideOlder o older, ⟨?length, fun j hj => ?element⟩, fun hk => ?results, fun p b hk => ?accumulates⟩, fun hd h0 hi => ?injected, fun hd hu' => ?residue⟩
  case length => exact List.length_map ..
  case element =>
    obtain ⟨e, he, h1, h2⟩ := hideOlder_get o older j hj
    rw [hu] at h1 h2
    refine ⟨e, he, fun hj hk => h1 hj ?_, fun hn => h2 (hn.imp_right (isMac_iff _).2)⟩
    rw [← Bool.not_eq_true, isMac_iff]
    exact hk
  case results =>
    have hnot : ∀ p b, o.kind ≠ .mac p b := by
      intro p b h
      rcases hk with hk | hk | ⟨_, _, hk⟩ | hk | ⟨_, hk⟩ <;> cases hk.symm.trans h
    rw [event (.inl hk) hi, deliver_plain hnot]
    rfl
  case accumulates =>
    rw [event (.inr ⟨p, b, hk⟩) hi, deliver_mac hk, flags_overflow]
    rfl
  case injected =>
    subst h0
    refine congrArg Host.Outcome.next ((onRunner_awake hp hm _).trans ?_)
    exact if_pos ⟨rfl, hi, has hd⟩
  case residue =>
    refine congrArg Host.Outcome.next ((onRunner_awake hp hm _).trans (if_pos ?_))
    rw [has hd, Bool.and_true]
    simp only [List.mem_cons, List.not_mem_nil, or_false] at hu'
    rcases hu' with rfl | rfl | rfl | rfl <;> rfl

end Sys2Proof.Machine
end

section
/-! Loads, stores and t_sync of LSU0 and LSU1 (R67, R92 to R95, R303). -/
namespace Sys2Proof.Machine

/-! Loads from the buffers, and of words in error -/

/-- A load whose bytes are all buffered takes the newest of them, and nothing changes (R67, R94). -/
theorem loadAt_buffered {s : State} {r : Rid} {a n : Nat} (h : ∀ k < n, (bufByte (s.runner r).writes (a + k)).isSome = true) :
    s.loadAt r a n = (s, { val := BitVec.ofNat 64 (leNat ((List.range n).map fun k => (bufByte (s.runner r).writes (a + k)).getD 0)) }) := by
  have hall : (((bytesFrom a n).map fun k => bufByte (s.runner r).writes k).all Option.isSome) = true := by
    unfold bytesFrom
    simpa using h
  unfold State.loadAt
  dsimp only
  rw [if_pos hall]
  unfold bytesFrom
  rw [List.map_map, List.map_map]
  rfl

/-- Of a load that finds nothing buffered nothing drains: it reads the memory (R67, R94). -/
theorem loadAt_unbuffered {s : State} {r : Rid} {a n : Nat} (hn : 0 < n) (h : ∀ k < n, bufByte (s.runner r).writes (a + k) = none) :
    s.loadAt r a n = ((s.memRead r.home a n).1, { val := BitVec.ofNat 64 (leNat (s.memRead r.home a n).2.1), poison := (s.memRead r.home a n).2.2 }) := by
  have hany : ∀ e ∈ (s.runner r).writes, ((bytesFrom a n).any fun k => e.covers k) = false := by
    intro e he
    refine List.any_eq_false.2 fun j hj => ?_
    obtain ⟨k, hk, rfl⟩ := List.mem_map.1 hj
    rw [bufByte_eq_none.1 (h k (List.mem_range.1 hk)) e he]
    exact Bool.false_ne_true
  have hall : (((bytesFrom a n).map fun k => bufByte (s.runner r).writes k).all Option.isSome) = false :=
    List.all_eq_false.2 ⟨none, List.mem_map.2 ⟨a + 0, List.mem_map.2 ⟨0, List.mem_range.2 hn, rfl⟩, h 0 hn⟩, Bool.false_ne_true⟩
  unfold State.loadAt
  dsimp only
  rw [if_neg (by rw [hall]; exact Bool.false_ne_true), drainWhile_none hany]

/-- A read of a word with a double-bit error finds it uncorrectable (R303). -/
theorem readWordErr_double {s : State} {m w : Nat} (h : (s.up m).ecc.find? (fun e => e.1 == w) = some (w, .double)) : (s.readWordErr m w).2 = true := by
  unfold State.readWordErr
  dsimp only
  rw [h]
  dsimp only
  split <;> rfl

/-- The one word that an aligned access of a word or less touches. -/
theorem wordsOf_aligned {a n : Nat} (hn : n ∈ [8, 4, 2, 1]) (ha : a % n = 0) : wordsOf a n = [a / 8] := by
  simp only [List.mem_cons, List.not_mem_nil, or_false] at hn
  have one : (a + n - 1) / 8 = a / 8 := by rcases hn with rfl | rfl | rfl | rfl <;> omega
  unfold wordsOf
  rw [if_neg (by omega), one, Nat.sub_self]
  rfl

theorem loadAt_double {s : State} {r : Rid} {a n : Nat} (hn : n ∈ [8, 4, 2, 1]) (ha : a % n = 0) (h : ∀ k < n, bufByte (s.runner r).writes (a + k) = none)
    (hd : (s.up r.home).ecc.find? (fun e => e.1 == a / 8) = some (a / 8, .double)) : (s.loadAt r a n).2.poison = true := by
  have hn0 : 0 < n := by
    simp only [List.mem_cons, List.not_mem_nil, or_false] at hn
    omega
  rw [loadAt_unbuffered hn0 h]
  unfold State.memRead
  rw [wordsOf_aligned hn ha]
  exact readWordErr_double hd

/-! The triggers -/

theorem portOpen_lsu (s : State) (r : Rid) (one : Bool) {k : Nat} (hk : k ∈ [0x08, 0x09, 0x0A, 0x0B, 0x10, 0x11, 0x12, 0x13, 0x18]) :
    s.portOpen r (lsuBase one + k) := by
  simp only [List.mem_cons, List.not_mem_nil, or_false] at hk
  rcases hk with rfl | rfl | rfl | rfl | rfl | rfl | rfl | rfl | rfl <;> cases one <;>
    exact portOpen_user s r (i := pT) (by decide) (by decide) (by decide) rfl rfl (by decide)

/-- The four loads of an LSU are the triggers of its load ports (R92). -/
theorem exec_load {r : Rid} {one : Bool} {v : Word} {n : Nat} {c : Instr}
    (h : (n, c) ∈ [(8, Instr.lsuLd r one v), (4, .lsuLd32 r one v), (2, .lsuLd16 r one v), (1, .lsuLd8 r one v)]) :
    n ∈ [8, 4, 2, 1] ∧ ∃ k ∈ [0x08, 0x09, 0x0A, 0x0B, 0x10, 0x11, 0x12, 0x13, 0x18], trigOf (lsuBase one + k) = some (.load one n)
      ∧ ∀ s : State, exec c s = .next (s.trigger r (lsuBase one + k) v) := by
  simp only [List.mem_cons, List.not_mem_nil, or_false, Prod.mk.injEq] at h
  rcases h with ⟨rfl, rfl⟩ | ⟨rfl, rfl⟩ | ⟨rfl, rfl⟩ | ⟨rfl, rfl⟩
  · exact ⟨by decide, 0x08, by decide, by cases one <;> rfl, fun _ => rfl⟩
  · exact ⟨by decide, 0x09, by decide, by cases one <;> rfl, fun _ => rfl⟩
  · exact ⟨by decide, 0x0A, by decide, by cases one <;> rfl, fun _ => rfl⟩
  · exact ⟨by decide, 0x0B, by decide, by cases one <;> rfl, fun _ => rfl⟩

/-- The four stores of an LSU are the triggers of its store ports (R92). -/
theorem exec_store {r : Rid} {one : Bool} {v : Word} {n : Nat} {c : Instr}
    (h : (n, c) ∈ [(8, Instr.lsuSt r one v), (4, .lsuSt32 r one v), (2, .lsuSt16 r one v), (1, .lsuSt8 r one v)]) :
    ∃ k ∈ [0x08, 0x09, 0x0A, 0x0B, 0x10, 0x11, 0x12, 0x13, 0x18], trigOf (lsuBase one + k) = some (.store one n)
      ∧ ∀ s : State, exec c s = .next (s.trigger r (lsuBase one + k) v) := by
  simp only [List.mem_cons, List.not_mem_nil, or_false, Prod.mk.injEq] at h
  rcases h with ⟨rfl, rfl⟩ | ⟨rfl, rfl⟩ | ⟨rfl, rfl⟩ | ⟨rfl, rfl⟩
  · exact ⟨0x10, by decide, by cases one <;> rfl, fun _ => rfl⟩
  · exact ⟨0x11, by decide, by cases one <;> rfl, fun _ => rfl⟩
  · exact ⟨0x12, by decide, by cases one <;> rfl, fun _ => rfl⟩
  · exact ⟨0x13, by decide, by cases one <;> rfl, fun _ => rfl⟩

theorem Begun.loads {s u : State} {r : Rid} (k : Begun s u r) (w : FUnit) : (u.runner r).loads w = (s.runner r).loads w := by
  obtain ⟨-, ⟨c, n, m, e⟩, -⟩ := k
  rw [e]
  rfl

theorem Begun.stores {s u : State} {r : Rid} (k : Begun s u r) : (u.runner r).stores = (s.runner r).stores := by
  obtain ⟨-, ⟨c, n, m, e⟩, -⟩ := k
  rw [e]

theorem Begun.writes {s u : State} {r : Rid} (k : Begun s u r) : (u.runner r).writes = (s.runner r).writes := by
  obtain ⟨-, ⟨c, n, m, e⟩, -⟩ := k
  rw [e]
  rfl

/-- A load that its runner may make, with fewer than four of its unit in flight, is taken (R92, R93). -/
theorem load_taken {s : State} (h : s.TablesOk) {r : Rid} (hr : s.executes r) {one : Bool} {v : Word} {n k : Nat}
    (hk : k ∈ [0x08, 0x09, 0x0A, 0x0B, 0x10, 0x11, 0x12, 0x13, 0x18]) (ht : trigOf (lsuBase one + k) = some (.load one n))
    (hd : s.dataOk r (s.operand r (lsuBase one) + v).toNat n) (hl : (s.runner r).loads (lsuUnit one) < 4) :
    s.trigger r (lsuBase one + k) v = s.took r fun t =>
      (t.loadAt r (s.operand r (lsuBase one) + v).toNat n).1.start r
        { unit := lsuUnit one, res := [(lsuBase one + 0x1C, (t.loadAt r (s.operand r (lsuBase one) + v).toNat n).2)],
          kind := .load (s.operand r (lsuBase one) + v).toNat n } := by
  have b := begun_beginWord h r
  have hd' := b.dataOk hd
  have hf : (s.beginWord r).trigFaults r (.load one n) v = [] := by
    show (s.beginWord r).addrFaults r ((s.beginWord r).sumAddr r (lsuBase one) v) n ++ [] = []
    rw [b.sumAddr, addrFaults_eq_nil hd']
    rfl
  have hb : (s.beginWord r).trigBusy r (.load one n) v = false := by
    show (decide (4 ≤ ((s.beginWord r).runner r).loads (lsuUnit one)) || (s.beginWord r).wipeWaits r ((s.beginWord r).sumAddr r (lsuBase one) v)) = false
    rw [b.loads, b.sumAddr, wipeWaits_eq_false hd', Bool.or_false]
    exact decide_eq_false (Nat.not_le.2 hl)
  refine (trigger_taken hr.1 (resFail_beginWord h hr) (portOpen_lsu _ r one hk) ht hf hb).trans (took_congr ?_)
  show (s.taking r).runLoad r one n v = _
  unfold State.runLoad
  rw [(begun_taking h r).sumAddr]

/-- A store meets no fault where its runner may access its bytes; it waits while eight stores are buffered (R67, R92, R93). -/
theorem store_accepted {s : State} (h : s.TablesOk) {r : Rid} {one : Bool} {v : Word} {n : Nat} (hd : s.dataOk r (s.operand r (lsuBase one)).toNat n) :
    (s.beginWord r).trigFaults r (.store one n) v = []
      ∧ (s.beginWord r).trigBusy r (.store one n) v = decide (8 ≤ (s.runner r).stores.length) := by
  have b := begun_beginWord h r
  have hd' := b.dataOk hd
  constructor
  · show (s.beginWord r).addrFaults r ((s.beginWord r).opAddr r (lsuBase one)) n ++ [] = []
    rw [b.opAddr, addrFaults_eq_nil hd']
    rfl
  · show (decide (8 ≤ ((s.beginWord r).runner r).stores.length) || (s.beginWord r).wipeWaits r ((s.beginWord r).opAddr r (lsuBase one))) = _
    rw [b.stores, b.opAddr, wipeWaits_eq_false hd', Bool.or_false]

/-- Settles O14: loads take the newest buffered bytes or the memory's, stores wait in the store buffer, t_sync counts them. -/
theorem loadsAndStoresComplete : Obligations.LoadsAndStoresComplete := by
  unfold Obligations.LoadsAndStoresComplete
  constructor
  · intro s r one v n c h hr hc a hd hl ws op
    obtain ⟨hn, k, hk, ht, hexec⟩ := exec_load hc
    have hn0 : 0 < n := by
      simp only [List.mem_cons, List.not_mem_nil, or_false] at hn
      omega
    have taken := load_taken h hr hk ht hd hl
    have b := begun_taking h r
    have given {q : QVal} (e : (s.taking r).loadAt r a n = (s.taking r, q)) : exec c s = .next (s.took r fun t => t.start r (op q)) := by
      refine (hexec s).trans (congrArg Host.Outcome.next (taken.trans (took_congr ?_)))
      show ((s.taking r).loadAt r a n).1.start r (op ((s.taking r).loadAt r a n).2) = _
      rw [e]
    refine ⟨(hexec s).trans (congrArg Host.Outcome.next taken), fun hb => given ?buffered, fun hp => given ?plain, fun hb he => loadAt_double hn hd.1 hb he⟩
    case buffered =>
      rw [loadAt_buffered (by rw [b.writes]; exact hb), b.writes]
    case plain =>
      rw [loadAt_plain hn0 (taking_plainRead h hp)]
      simp only [b.byteAt]
  · intro s r one v n c h hr hc a
    obtain ⟨k, hk, ht, hexec⟩ := exec_store hc
    refine ⟨fun hd hl => (hexec s).trans (congrArg Host.Outcome.next ?taken), fun hd hl => (hexec s).trans (congrArg Host.Outcome.next ?stalls), congrArg Host.Outcome.next ?sync⟩
    case taken =>
      obtain ⟨hf, hb⟩ := store_accepted h (v := v) hd
      refine (trigger_taken hr.1 (resFail_beginWord h hr) (portOpen_lsu _ r one hk) ht hf (hb.trans (decide_eq_false (Nat.not_le.2 hl)))).trans (took_congr ?_)
      show (s.taking r).runStore r one n v = _
      unfold State.runStore
      rw [(begun_taking h r).opAddr]
    case stalls =>
      obtain ⟨hf, hb⟩ := store_accepted h (v := v) hd
      exact trigger_stalls hr.1 (resFail_beginWord h hr) (portOpen_lsu _ r one hk) ht hf (hb.trans (decide_eq_true hl))
    case sync =>
      have hs : trigOf (lsuBase one + 0x18) = some (.sync one) := by cases one <;> rfl
      refine (trigger_taken hr.1 (resFail_beginWord h hr) (portOpen_lsu _ r one (by decide)) hs rfl rfl).trans (took_congr ?_)
      show (s.taking r).runSync r one = _
      unfold State.runSync
      rw [(begun_taking h r).stores]

end Sys2Proof.Machine
end

section
/-! Stores and frames drain, collisions, reservations, extension results (R67, R106, R121, R170, R240, R302, R307). -/
namespace Sys2Proof.Machine

/-! Collisions and drains -/

theorem home_ne_arb {s : State} {h i : Nat} (hp : s.ridPresent (.heat h i) = true) : h ≠ 16 := by
  have hh : s.heatPresent h = true := (Bool.and_eq_true _ _ ▸ hp).1
  have := heats_le s.fuses.variant
  have : h < s.fuses.variant.heats := of_decide_eq_true hh
  omega

/-- A collision of a runner's access: two counts of its scratchpad, none for the Arbiter (R302). -/
def State.collided (s : State) : Rid → State
  | .heat h _ => (s.satInc (0x30 + h) 0x110 31 16).satInc (0x30 + h) 0x110 15 0
  | .arb => s

theorem countReplay_eq {r : Rid} {z : State} (hp : z.ridPresent r = true) (s : State) : s.countReplay r = s.collided r := by
  cases r with
  | arb => rfl
  | heat h i =>
    show ((s.collide h).satInc (0x30 + h) 0x110 15 0) = _
    unfold State.collide
    rw [if_neg (home_ne_arb hp)]
    rfl

/-- No access to `a` waits for a wipe of the secure part (R307). -/
def State.unwiped (s : State) (r : Rid) (a : Nat) : Prop := inSecure r.home a = true → (s.up r.home).wipe = false

theorem wipeWaits_iff {s : State} {r : Rid} {a : Nat} : s.wipeWaits r a = false ↔ s.unwiped r a := by
  unfold State.wipeWaits State.unwiped
  cases inSecure r.home a <;> simp

/-- The bytes of a buffered write. -/
theorem leBytes_word (n : Nat) (d : Word) : leBytes n d.toNat = (List.range n).map fun j => BitVec.ofNat 8 (d.toNat / 2 ^ (8 * j)) := leBytes_eq_map ..

theorem storeReady_head {s : State} {r : Rid} {e : StoreEnt} {rest : List StoreEnt} (hs : (s.runner r).stores = e :: rest) :
    s.storeReady r = (((s.runner r).frame.isEmpty || decide (0 < (s.runner r).frameOld)) && !s.wipeWaits r e.addr) := by
  unfold State.storeReady
  dsimp only
  rw [hs]

theorem drainStore_head {s : State} {r : Rid} {e : StoreEnt} {rest : List StoreEnt} (hs : (s.runner r).stores = e :: rest) :
    s.drainStore r = (s.setRunner r { s.runner r with stores := rest, frameOld := (s.runner r).frameOld - 1, ops := (s.runner r).ops.map e.settle }).userWrite
      r.home e.addr (leBytes e.size e.data.toNat) r.page := by
  unfold State.drainStore
  rw [hs]
  rfl

theorem frameReady_iff {s : State} {r : Rid} :
    s.frameReady r = true ↔ (s.runner r).frame ≠ [] ∧ (s.runner r).frameOld = 0 ∧ ∀ e ∈ (s.runner r).frame, s.unwiped r e.1 := by
  unfold State.frameReady
  simp [wipeWaits_iff, and_assoc]

section
variable {s : State} {r : Rid} (hp : s.ridPresent r = true) (hm : s.mode ≠ .quiesce)
include hp hm

theorem execStoreDrain_eq (b : Bool) :
    exec (.storeDrain r b) s = .next (if s.storeReady r = true then (if b then s.collided r else s.drainStore r) else s) := by
  refine congrArg Host.Outcome.next ((onRunner_awake hp hm _).trans ?_)
  rw [countReplay_eq hp]
  cases s.storeReady r <;> rfl

theorem execFrameDrain_eq (b : Bool) :
    exec (.frameDrain r b) s = .next (if s.frameReady r = true then (if b then s.collided r else s.drainFrame r) else s) := by
  refine congrArg Host.Outcome.next ((onRunner_awake hp hm _).trans ?_)
  rw [countReplay_eq hp]
  cases s.frameReady r <;> rfl

end

/-! Replays (R302) -/

theorem updFirst_found {p : Op → Bool} {f : Op → Op} {older newer : List Op} {o : Op} (h : ∀ e ∈ older, p e = false) (ho : p o = true) :
    updFirst p f (older ++ o :: newer) = older ++ f o :: newer := by
  induction older with
  | nil => exact if_pos ho
  | cons e l ih =>
    refine (if_neg (by rw [h e (List.mem_cons_self ..)]; exact Bool.false_ne_true)).trans ?_
    exact congrArg (e :: ·) (ih fun e he => h e (List.mem_cons_of_mem _ he))

theorem isLoad_iff (o : Op) : o.isLoad = true ↔ ∃ a n, o.kind = .load a n := by
  unfold Op.isLoad
  cases o.kind <;> simp

/-- The value that a replayed load takes: the bytes that stand, where none of them is buffered (R67, R302). -/
theorem replayVal_memory {s : State} {r : Rid} {a n : Nat} (hn : 0 < n) (hb : ∀ k < n, bufByte (s.runner r).writes (a + k) = none) :
    s.replayVal r a n = some { val := BitVec.ofNat 64 (leNat ((List.range n).map fun k => s.byteAt r.home (a + k))), poison := s.spadBad r.home a n } := by
  have none_held : ((bytesFrom a n).any fun k => (bufByte (s.runner r).writes k).isSome) = false := by
    refine List.any_eq_false.2 fun j hj => ?_
    obtain ⟨k, hk, rfl⟩ := List.mem_map.1 hj
    rw [hb k (List.mem_range.1 hk)]
    exact Bool.false_ne_true
  unfold State.replayVal
  rw [if_neg (by simp only [none_held, Bool.or_false, decide_eq_true_eq]; omega), bytesAt_eq_map]

/-- The oldest load of an LSU takes the value that stands when it is issued again (R302). -/
theorem loadReplay_load {s : State} {r : Rid} {u : FUnit} {older newer : List Op} {o : Op} {a n : Nat} {q : QVal} (hx : (s.runner r).ops = older ++ o :: newer)
    (ho : o.unit = u) (hu : u = .lsu0 ∨ u = .lsu1) (hk : o.kind = .load a n) (hold : ∀ e ∈ older, e.unit = u → ∀ a' n', e.kind ≠ .load a' n')
    (hq : s.replayVal r a n = some q) :
    s.loadReplay r u = (s.setRunner r { s.runner r with ops := older ++ { o with res := o.res.map fun e => (e.1, q) } :: newer }).countReplay r := by
  have isload : o.isLoad = true := (isLoad_iff o).2 ⟨a, n, hk⟩
  have mine : (decide (o.unit = u) && o.isLoad) = true := by rw [isload, Bool.and_true]; exact decide_eq_true ho
  have others : ∀ e ∈ older, (decide (e.unit = u) && e.isLoad) = false := by
    intro e he
    rw [← Bool.not_eq_true, Bool.and_eq_true, isLoad_iff]
    rintro ⟨h1, a', n', h2⟩
    exact hold e he (of_decide_eq_true h1) a' n' h2
  have issued : (s.runner r).reads u = true := by
    have : ((s.runner r).ops.any fun o => decide (o.unit = u) && (o.isLoad || decide (u = .atm))) = true :=
      List.any_eq_true.2 ⟨o, by rw [hx]; exact List.mem_append_right _ (List.mem_cons_self ..), by rw [isload, Bool.true_or, Bool.and_true]; exact decide_eq_true ho⟩
    rcases hu with rfl | rfl <;> exact this
  have first : (s.runner r).ops.find? (fun o => decide (o.unit = u) && o.isLoad) = some o := by
    rw [hx, List.find?_append, List.find?_eq_none.2 fun e he => by rw [others e he]; exact Bool.false_ne_true]
    exact List.find?_cons_of_pos (p := fun o : Op => decide (o.unit = u) && o.isLoad) mine
  obtain ⟨ou, ores, ov, od, ok⟩ := o
  cases hk
  unfold State.loadReplay
  dsimp only
  rw [issued, first]
  dsimp only
  rw [hq]
  refine congrArg (State.countReplay · r) (congrArg (fun l => s.setRunner r { s.runner r with ops := l }) ?_)
  rw [hx, updFirst_found others mine]

/-- An access that is no LSU load is counted again, and stands as it was performed (R302). -/
theorem loadReplay_other {s : State} {r : Rid} {u : FUnit} (hl : ∀ o ∈ (s.runner r).ops, o.unit = u → ∀ a n, o.kind ≠ .load a n)
    (hr : (s.runner r).reads u = true) : s.loadReplay r u = s.countReplay r := by
  have no_load : (s.runner r).ops.find? (fun o => decide (o.unit = u) && o.isLoad) = none := by
    refine List.find?_eq_none.2 fun o ho => ?_
    rw [Bool.and_eq_true, isLoad_iff]
    rintro ⟨h1, a, n, h2⟩
    exact hl o ho (of_decide_eq_true h1) a n h2
  unfold State.loadReplay
  dsimp only
  rw [hr, no_load]
  rfl

theorem execLoadReplay_unit {s : State} {r : Rid} (hp : s.ridPresent r = true) (hm : s.mode ≠ .quiesce) (u : FUnit) :
    exec (.loadReplay r u none) s = .next (s.loadReplay r u) := congrArg Host.Outcome.next (onRunner_awake hp hm _)

/-! Extension results (R121) -/

/-- A field of a slot, as a part of its word (R50, R53). -/
theorem fld_slot (w : MoveWord) (k : Nat) {hi lo : Nat} (h : lo + (hi - lo + 1) ≤ 32) :
    fld (w.extractLsb' (32 * k) 32) hi lo = w.toNat / 2 ^ (32 * k + lo) % 2 ^ (hi - lo + 1) := by
  rw [fld_eq_div_mod]
  refine Nat.eq_of_testBit_eq fun j => ?_
  simp only [Nat.testBit_mod_two_pow, Nat.testBit_div_two_pow, BitVec.testBit_toNat, BitVec.getLsbD_extractLsb']
  by_cases hj : j < hi - lo + 1
  · rw [decide_eq_true (show j + lo < 32 by omega), Bool.true_and, show 32 * k + (j + lo) = j + (32 * k + lo) by omega]
  · simp [hj]

theorem getLsbD_eq_decide {n : Nat} (w : BitVec n) (i : Nat) : w.getLsbD i = decide (w.toNat / 2 ^ i % 2 = 1) := by
  rw [← BitVec.testBit_toNat, Nat.testBit_eq_decide_div_mod_eq]

theorem slotAt_guard (w : MoveWord) (k : Nat) : (slotAt w k).guard = w.toNat / 2 ^ (32 * k + 28) % 16 := fld_slot w k (by decide)

theorem slotAt_src (w : MoveWord) (k : Nat) : (slotAt w k).src = w.toNat / 2 ^ (32 * k + 16) % 2048 := fld_slot w k (by decide)

theorem slotAt_imm (w : MoveWord) (k : Nat) : (slotAt w k).imm = decide (w.toNat / 2 ^ (32 * k + 27) % 2 = 1) := by
  show (w.extractLsb' (32 * k) 32).getLsbD 27 = _
  rw [BitVec.getLsbD_extractLsb', getLsbD_eq_decide]
  rfl

/-- A word without a long literal has four slots that are moves (R52, R58). -/
theorem wordOf_slots {w : MoveWord} (h : w.toNat / 2 ^ 154 % 4 = 0) : (wordOf w).slots = (List.range 4).map (slotAt w) := by
  have hl : fld w 155 154 = 0 := (fld_eq_div_mod w 155 154).trans h
  show (List.range (if fld w 155 154 = 1 then 3 else if fld w 155 154 = 2 then 2 else 4)).map (slotAt w) = _
  rw [hl]
  rfl

/-- The guards under which a slot is performed (R53, R55). -/
theorem guard_performs (g : BitVec 8) (c : Nat) :
    (!(c == 8) && guardTrue g c) = true ↔ c = 0 ∨ (c < 8 ∧ g.getLsbD c = true) ∨ (8 < c ∧ g.getLsbD (c - 8) = false) := by
  unfold guardTrue
  by_cases h0 : c = 0
  · simp [h0]
  · by_cases h8 : c < 8
    · rw [if_neg h0, if_pos h8]
      simp [h0, h8, Nat.ne_of_lt h8, Nat.not_lt.2 (Nat.le_of_lt h8)]
    · by_cases he : c = 8
      · simp [he]
      · rw [if_neg h0, if_neg h8, if_neg he]
        simp [h0, h8, he, show 8 < c by omega]

/-- A performed slot of a runner's word that waits for an extension result (R121). -/
def Runner.extSlot (x : Runner) (k : Slot) : Bool :=
  !k.isEmpty && (if x.resume.isSome then isStr k.dst else guardTrue x.grd k.guard) && !k.imm && decide (0x600 ≤ k.src) && x.unready k.src

theorem extSlot_iff {x : Runner} (hr : x.resume = none) (raw : MoveWord) (k : Nat) :
    x.extSlot (slotAt raw k) = true ↔
      (raw.toNat / 2 ^ (32 * k + 28) % 16 = 0 ∨ (raw.toNat / 2 ^ (32 * k + 28) % 16 < 8 ∧ x.grd.getLsbD (raw.toNat / 2 ^ (32 * k + 28) % 16) = true)
        ∨ (8 < raw.toNat / 2 ^ (32 * k + 28) % 16 ∧ x.grd.getLsbD (raw.toNat / 2 ^ (32 * k + 28) % 16 - 8) = false))
      ∧ raw.toNat / 2 ^ (32 * k + 27) % 2 = 0 ∧ 0x600 ≤ raw.toNat / 2 ^ (32 * k + 16) % 2048
      ∧ ∃ o ∈ x.ops, ∃ e ∈ o.res, e.1 = raw.toNat / 2 ^ (32 * k + 16) % 2048 := by
  have late (p : Nat) (h : 0x600 ≤ p) : x.unready p = true ↔ ∃ o ∈ x.ops, ∃ e ∈ o.res, e.1 = p := by
    unfold Runner.unready Op.gives
    rw [if_neg (by omega)]
    simp
  unfold Runner.extSlot Slot.isEmpty
  rw [hr, slotAt_guard, slotAt_src, slotAt_imm]
  simp only [Option.isSome_none, Bool.false_eq_true, if_false]
  rw [Bool.and_eq_true, Bool.and_eq_true, Bool.and_eq_true, guard_performs, decide_eq_true_eq, Bool.not_eq_true', decide_eq_false_iff_not, and_assoc, and_assoc]
  refine and_congr_right fun _ => and_congr (by omega) (and_congr_right fun h => late _ h)

theorem extWait_stalled {s : State} {r : Rid} {raw : MoveWord} {t0 : Nat} (hc : s.canStep r = true) (hs : (s.runner r).stallAt = some t0)
    (hf : (s.runner r).fetched (s.runner r).pc = some raw) :
    s.extWait r = if s.clkS - t0 < 12500 then none else ((wordOf raw).slots.find? (s.runner r).extSlot).map fun k => (k.idx, k.src) := by
  unfold State.extWait
  dsimp only
  rw [hc, hs, hf]
  rfl

theorem extWait_running {s : State} {r : Rid} (hs : (s.runner r).stallAt = none) : s.extWait r = none := by
  unfold State.extWait
  dsimp only
  rw [hs]
  cases s.canStep r <;> rfl

/-- The first slot that waits for an extension result, once its stall has lasted its time (R121). -/
theorem extWait_first {s : State} {r : Rid} {raw : MoveWord} {k t0 : Nat} (hc : s.canStep r = true) (hs : (s.runner r).stallAt = some t0)
    (hf : (s.runner r).fetched (s.runner r).pc = some raw) (hl : raw.toNat / 2 ^ 154 % 4 = 0) (hk : k < 4)
    (hw : (s.runner r).extSlot (slotAt raw k) = true) (hn : ∀ j < k, (s.runner r).extSlot (slotAt raw j) = false) :
    s.extWait r = if t0 + 12500 ≤ s.clkS then some (k, raw.toNat / 2 ^ (32 * k + 16) % 2048) else none := by
  have first : (List.range 4).find? ((s.runner r).extSlot ∘ slotAt raw) = some k := by
    rw [List.find?_range_eq_some]
    exact ⟨hw, List.mem_range.2 hk, fun j hj => by simpa using hn j hj⟩
  rw [extWait_stalled hc hs hf, wordOf_slots hl, List.find?_map, first]
  by_cases ht : t0 + 12500 ≤ s.clkS
  · rw [if_pos ht, if_neg (by omega)]
    exact congrArg (fun p => some (k, p)) (slotAt_src raw k)
  · rw [if_neg ht, if_pos (by omega)]

/-- A fault that is raised while a word stalls ends the stall, which STL counts (R65, R70). -/
theorem faultNow_stalled {s : State} {r : Rid} {t0 : Nat} (hs : (s.runner r).stallAt = some t0) (f : FaultRec) :
    s.faultNow r f = s.setRunner r { s.runner r with pendW := some f, tries := 0, failPar := false, stl := (s.runner r).stl + BitVec.ofNat 64 (2 * (s.clkS - t0)), stallAt := none } := by
  have ended : (s.runner r).stallEnd s.clkS = { s.runner r with stl := (s.runner r).stl + BitVec.ofNat 64 (2 * (s.clkS - t0)), stallAt := none } := by
    rw [stallEnd_eq, hs]
    rfl
  show s.setRunner r { (s.runner r).stallEnd s.clkS with pendW := some f, tries := 0, failPar := false } = _
  rw [ended]

theorem execExtResultTimeout_eq {s : State} {r : Rid} (hp : s.ridPresent r = true) (hm : s.mode ≠ .quiesce) :
    exec (.extResultTimeout r) s = .next (match s.extWait r with
      | some (slot, p) =>
        (s.faultNow r { code := 0x0D, sv := true, slot := slot, detail := portWord p }).report 0x19 1 r.page (0x90 + r.home) ((p - 0x600) / 128)
      | none => s) := congrArg Host.Outcome.next (onRunner_awake hp hm _)

theorem execExtResultReady_eq {s : State} {r : Rid} (hp : s.ridPresent r = true) (hm : s.mode ≠ .quiesce) (port : Nat) (v : Word) (b : Bool) :
    exec (.extResultReady r port v b) s = .next (s.extReady r port v b) := congrArg Host.Outcome.next (onRunner_awake hp hm _)

/-- An extension result comes to a port that waits for one (R121). -/
theorem extReady_waiting {s : State} {r : Rid} {port : Nat} {o : Op} (ho : o ∈ (s.runner r).ops) (hk : o.kind = .ext port) (v : Word) (b : Bool) :
    s.extReady r port v b = (s.setRunner r { s.runner r with
      ops := (s.runner r).ops.filter fun o => o.kind != .ext port, qport := tset {} (s.runner r).qport port { val := v } }).when b
        fun s => s.report 0x19 0 (0x90 + r.home) (0x90 + r.home) ((port - 0x600) / 128) :=
  if_pos (List.any_eq_true.2 ⟨o, ho, by rw [hk, beq_self_eq_true]⟩)

theorem extReady_idle {s : State} {r : Rid} {port : Nat} (h : ∀ o ∈ (s.runner r).ops, o.kind ≠ .ext port) (v : Word) (b : Bool) : s.extReady r port v b = s := by
  refine if_neg ?_
  rw [Bool.not_eq_true, List.any_eq_false]
  exact fun o ho => by simpa using h o ho

/-- Settles O32: drains, collisions, reservations and extension results. -/
theorem drainsComplete : Obligations.DrainsComplete := by
  unfold Obligations.DrainsComplete
  intro s r h hp hm x counted settled clear bytes frames
  have counts (t : State) : t.collided r = counted t := by cases r <;> rfl
  have settles (e : StoreEnt) : e.settle = settled e := by
    funext o
    obtain ⟨ou, ores, ov, od, ok⟩ := o
    cases ok <;> rfl
  refine ⟨fun e rest hx hf hc => ⟨?drain, ?refused⟩, fun e rest hx hi hw b => ?wiped, fun hf h0 hc => ⟨?frame, ?frameRefused⟩, fun hn b => ?frameWaits,
    fun older newer o a n u hx ho hu hk hn hold hb => ?replay, fun g t hr => ?expires, fun u hl hu => ?other, fun u k hk => ?window,
    fun port v o ho hk => ⟨?ready, ?parity⟩, fun port v b ho => ?notReady, ?timeout, fun hst => ?noStall⟩
  case drain =>
    have ready : s.storeReady r = true := by
      rw [storeReady_head hx, wipeWaits_iff.2 hc]
      simpa using hf
    rw [execStoreDrain_eq hp hm, if_pos ready, if_neg Bool.false_ne_true, drainStore_head hx, leBytes_word, settles]
  case refused =>
    have ready : s.storeReady r = true := by
      rw [storeReady_head hx, wipeWaits_iff.2 hc]
      simpa using hf
    rw [execStoreDrain_eq hp hm, if_pos ready, if_pos rfl, counts]
  case wiped =>
    have waits : s.wipeWaits r e.addr = true := by
      unfold State.wipeWaits
      rw [hi, hw]
      rfl
    rw [execStoreDrain_eq hp hm, if_neg]
    rw [storeReady_head hx, waits]
    simp
  case frame =>
    rw [execFrameDrain_eq hp hm, if_pos (frameReady_iff.2 ⟨hf, h0, hc⟩), if_neg Bool.false_ne_true]
    unfold State.drainFrame
    simp only [leBytes_word]
    rfl
  case frameRefused =>
    rw [execFrameDrain_eq hp hm, if_pos (frameReady_iff.2 ⟨hf, h0, hc⟩), if_pos rfl, counts]
  case frameWaits =>
    rw [execFrameDrain_eq hp hm, if_neg]
    rw [frameReady_iff]
    rintro ⟨h1, h2, h3⟩
    rcases hn with hn | hn | ⟨e, he, hn⟩
    · exact h1 hn
    · exact hn h2
    · exact hn (h3 e he)
  case replay =>
    rw [execLoadReplay_unit hp hm, loadReplay_load hx ho hu hk hold (replayVal_memory hn hb), countReplay_eq hp, counts]
  case expires =>
    refine congrArg Host.Outcome.next ((onRunner_awake hp hm _).trans ?_)
    have hr : (s.runner r).resv = some (g, t) := hr
    rw [hr]
    rfl
  case other =>
    have issued : (s.runner r).reads u = true := by
      rcases hu with ⟨rfl, o, ho, hu⟩ | ⟨rfl, o, ho, p, b, hk⟩ | ⟨rfl, hh⟩ | ⟨rfl, hrun⟩ | ⟨rfl, e, he, h1, h2⟩
      · exact List.any_eq_true.2 ⟨o, ho, by simp [hu]⟩
      · exact List.any_eq_true.2 ⟨o, ho, (isMac_iff o).2 ⟨p, b, hk⟩⟩
      · exact Option.isSome_iff_ne_none.2 hh
      · exact bne_iff_ne.2 hrun
      · exact List.any_eq_true.2 ⟨e, he, by rw [h1, h2]; rfl⟩
    rw [execLoadReplay_unit hp hm, loadReplay_other hl issued, countReplay_eq hp, counts]
  case window =>
    refine congrArg Host.Outcome.next ((onRunner_awake hp hm _).trans ((if_pos hk).trans (if_neg ?_)))
    have := heats_le s.fuses.variant
    have : k < s.fuses.variant.heats := of_decide_eq_true hk
    omega
  case ready => rw [execExtResultReady_eq hp hm, extReady_waiting ho hk]; rfl
  case parity => rw [execExtResultReady_eq hp hm, extReady_waiting ho hk]; rfl
  case notReady => rw [execExtResultReady_eq hp hm, extReady_idle ho]
  case timeout =>
    intro raw k t0 hk hc hr hst hf hl guard src waits hw hn
    have first := extWait_first hc hst hf hl hk ((extSlot_iff hr raw k).2 hw) fun j hj => by
      rw [← Bool.not_eq_true, extSlot_iff hr]
      exact hn j hj
    rw [execExtResultTimeout_eq hp hm, first]
    by_cases ht : t0 + 12500 ≤ s.clkS
    · rw [if_pos ht, if_pos ht]
      dsimp only
      rw [faultNow_stalled hst]
      rfl
    · rw [if_neg ht, if_neg ht]
  case noStall => rw [execExtResultTimeout_eq hp hm, extWait_running hst]

end Sys2Proof.Machine
end

section
/-! Triggers that act on their runner alone (R66, R67, R70, R83 to R85, R88, R111, R115): what every step of such a trigger keeps. -/
namespace Sys2Proof.Machine

/-- What of a runner these triggers keep: registers, address, world, level, banks, return stack, frame, repeat, operand ports, flags and the word count. -/
def Runner.core (x : Runner) := (x.g, x.pc, x.cust, x.sup, x.bankS, x.bankC, x.rs, x.frame, x.rep, x.oport, x.flgV, x.flgDZ, x.wcnt)

/-- From `s` to `t` only runner `r` can have changed, and its core stands. -/
structure ChangesOnly (r : Rid) (s t : State) : Prop where
  outside : t = { s with runners := t.runners, arbRun := t.arbRun }
  others  : ∀ r', r'.wf = true → r' ≠ r → t.runner r' = s.runner r'
  core    : (t.runner r).core = (s.runner r).core
  tables  : t.TablesOk

theorem ChangesOnly.refl {s : State} (h : s.TablesOk) (r : Rid) : ChangesOnly r s s := ⟨rfl, fun _ _ _ => rfl, rfl, h⟩

theorem ChangesOnly.updR {s t : State} {r : Rid} (h : ChangesOnly r s t) (hr : r.wf = true) {f : Runner → Runner} (hf : ∀ x, (f x).core = x.core := by exact fun _ => rfl) :
    ChangesOnly r s (t.updR r f) where
  outside := by
    rw [h.outside]
    cases r <;> rfl
  others r' hr' hn := (State.runner_setRunner_other h.tables hr hr' hn _).trans (h.others r' hr' hn)
  core := by rw [State.runner_updR h.tables, hf, h.core]
  tables := updR_ok h.tables r f

theorem ChangesOnly.start {s t : State} {r : Rid} (h : ChangesOnly r s t) (hr : r.wf = true) (o : Op) : ChangesOnly r s (t.start r o) := h.updR hr

theorem stallEnd_core (x : Runner) (now : Nat) : (x.stallEnd now).core = x.core := by
  rw [stallEnd_eq]
  rfl

theorem failed_core (x : Runner) (par : Bool) (now : Nat) : (x.failed par now).core = x.core := by
  unfold Runner.failed
  rw [stallEnd_eq]
  dsimp only
  split <;> rfl

theorem beginWord_changesOnly {s : State} {r : Rid} (h : s.TablesOk) (hr : r.wf = true) : ChangesOnly r s (s.beginWord r) := by
  rcases beginWord_cases s r with e | e <;> rw [e]
  · exact .refl h r
  · exact (ChangesOnly.refl h r).updR hr

/-- The triggers whose unit acts on its runner alone. -/
def Trig.own : Trig → Bool
  | .alu .. | .shf _ | .cmp _ | .store .. | .sync _ | .hau .fence | .atm .clr | .sig .hmsg | .tim _ | .prd _ => true
  | .mul op => op != .mac2
  | _ => false

theorem runMul_changesOnly {s t : State} {r : Rid} (h : ChangesOnly r s t) (hr : r.wf = true) {op : MulOp} (ho : op ≠ .mac2) (v : Word) :
    ChangesOnly r s (t.runMul r op v) := by
  cases op with
  | mac2 => exact absurd rfl ho
  | _ => exact h.start hr _

theorem runTim_changesOnly {s t : State} {r : Rid} (h : ChangesOnly r s t) (hr : r.wf = true) (op : TimOp) (v : Word) : ChangesOnly r s (t.runTim r op v) := by
  unfold State.runTim
  dsimp only
  refine ChangesOnly.updR ?_ hr fun _ => rfl
  cases op with
  | snap => exact h.start hr _
  | wait =>
    dsimp only
    split
    · exact h.start hr _
    · split <;> exact h.start hr _
  | _ => exact h.updR hr

theorem runPrd_changesOnly {s t : State} {r : Rid} (h : ChangesOnly r s t) (hr : r.wf = true) (op : PrdOp) : ChangesOnly r s (t.runPrd r op) := by
  cases op with
  | snap => exact h.start hr _
  | _ =>
    unfold State.runPrd
    exact h.updR hr

theorem trigRun_changesOnly {s u : State} {r : Rid} (h : ChangesOnly r s u) (hr : r.wf = true) {t : Trig} (ht : t.own = true) (v : Word) :
    ChangesOnly r s (u.trigRun r t v) := by
  unfold Trig.own at ht
  split at ht
  · exact h.start hr _
  · exact h.start hr _
  · exact (h.updR hr).start hr _
  · dsimp only [State.trigRun, State.runStore]
    exact h.updR hr
  · exact h.start hr _
  · dsimp only [State.trigRun, State.runHau, State.runFence]
    exact h.updR hr
  · exact (h.updR hr).start hr _
  · dsimp only [State.trigRun, State.runSig]
    exact h.updR hr
  · exact runTim_changesOnly h hr _ v
  · exact runPrd_changesOnly h hr _
  · exact runMul_changesOnly h hr (bne_iff_ne.1 ht) v
  · exact absurd ht Bool.false_ne_true

/-- Whatever such a trigger does, it changes its runner alone, and of it not the core. -/
theorem trigger_changesOnly {s : State} {r : Rid} (h : s.TablesOk) (hr : r.wf = true) (hs : (s.runner r).run ≠ .stopping) {p : Nat} {t : Trig}
    (hp : trigOf p = some t) (ht : t.own = true) (v : Word) : ChangesOnly r s (s.trigger r p v) := by
  have begun := beginWord_changesOnly h hr
  rcases trigger_cases s r p v with e | e | ⟨f, e⟩ | e | ⟨t', hp', e⟩ <;> rw [e]
  · exact .refl h r
  · exact begun.updR hr fun x => failed_core x false _
  · exact begun.updR hr fun x => stallEnd_core x _
  · exact begun.updR hr
  · obtain rfl : t = t' := Option.some.inj (hp.symm.trans hp')
    have goes_on : ((s.beginWord r).runner r).run ≠ .stopping := by
      obtain ⟨c, e⟩ := beginWord_runner h r
      rw [e]
      exact hs
    unfold State.took State.thenStop
    dsimp only
    rw [if_neg goes_on]
    exact trigRun_changesOnly (begun.updR hr fun x => stallEnd_core x _) hr ht v

/-- An instruction that is one trigger of this kind. -/
def OwnTrigger (r : Rid) (v : Word) (c : Instr) : Prop := ∃ p t, (∀ s, exec c s = .next (s.trigger r p v)) ∧ trigOf p = some t ∧ t.own = true

/-- Settles O8: each listed instruction is one such trigger. -/
theorem registerTriggersFrame : Obligations.RegisterTriggersFrame := by
  unfold Obligations.RegisterTriggersFrame
  intro s t r one v c h hr hs hc ht
  have own : OwnTrigger r v c := by
    clear ht
    revert c
    cases one <;> repeat' refine List.forall_mem_cons.2 ⟨⟨_, _, fun _ => rfl, rfl, rfl⟩, ?_⟩
    all_goals exact fun _ h => absurd h List.not_mem_nil
  obtain ⟨p, g, he, hp, hg⟩ := own
  obtain rfl : s.trigger r p v = t := Host.Outcome.next.inj ((he s).symm.trans ht)
  obtain ⟨outside, others, core, _⟩ := trigger_changesOnly h hr hs hp hg v
  refine ⟨outside, others, ?_⟩
  simpa only [Runner.core, Prod.mk.injEq] using core

end Sys2Proof.Machine
end

section
/-! Writes into a memory: the bytes they store, the ranges they may not write, the reservations they end (R67, R106, R240, R271, R288, R296, R303, R304). -/
namespace Sys2Proof.Machine

/-- The memories and the runners of a state. -/
def State.memories (s : State) : Table Byte × Table Byte × Table Runner × Runner := (s.spads, s.arbMem, s.runners, s.arbRun)

theorem raise_memories (s : State) (sl src : Nat) : (s.raise sl src).memories = s.memories := by
  unfold State.raise
  split
  · rfl
  · split
    · rfl
    · split <;> rfl

/-- Errors that a read finds are counted, reported and corrected; no byte and no runner changes (R303). -/
theorem readWordErr_memories (s : State) (m w : Nat) : (s.readWordErr m w).1.memories = s.memories := by
  unfold State.readWordErr
  dsimp only
  split
  · rfl
  · split
    · rfl
    · generalize decide (_ < 4) = room
      cases room <;> split <;> rfl
  · split
    · rfl
    · refine (raise_memories ..).trans ?_
      cases inSecure m (8 * w) <;> rfl

theorem writeWordErr_memories (s : State) (m w : Nat) (full : Bool) : (s.writeWordErr m w full).memories = s.memories := by
  obtain ⟨u, e⟩ := writeWordErr_eq s m w full
  rw [e]
  rfl

theorem setBytes_arb (s : State) (a : Nat) (l : List Byte) : s.setBytes 16 a l = { s with arbMem := putBytes s.arbMem a l } := by
  induction l generalizing s a with
  | nil => rfl
  | cons b l ih => exact ih ..

/-- Stored bytes read back, every other byte of every memory stands (R67, R271, R296). -/
theorem byteAt_setBytes {s : State} (hs : Memory.wf s.spads = true) (hb : Memory.wf s.arbMem = true) {m a : Nat} {bs : List Byte}
    (h : a + bs.length ≤ memLen m) {m' k : Nat} (hk : k < memLen m') :
    (s.setBytes m a bs).byteAt m' k = if m' = m ∧ a ≤ k ∧ k < a + bs.length then bs.getD (k - a) 0 else s.byteAt m' k := by
  by_cases hm : m = 16
  · subst hm
    rw [setBytes_arb]
    by_cases hm' : m' = 16
    · subst hm'
      exact (tget_putBytes hb a bs k).trans (if_congr (by simp) rfl rfl)
    · unfold State.byteAt
      rw [if_neg hm', if_neg hm', if_neg fun c => hm' c.1]
  · rw [setBytes_eq hm]
    unfold State.byteAt
    by_cases hm' : m' = 16
    · rw [if_pos hm', if_pos hm', if_neg fun c => hm (c.1.symm.trans hm')]
    · rw [memLen, if_neg hm] at h
      rw [memLen, if_neg hm'] at hk
      rw [if_neg hm', if_neg hm']
      refine (tget_putBytes hs _ bs _).trans ?_
      unfold spadKey
      by_cases hin : m' = m ∧ a ≤ k ∧ k < a + bs.length
      · rw [if_pos hin, if_pos (by omega), show 0x800000 * m' + k - (0x800000 * m + a) = k - a by omega]
      · rw [if_neg hin, if_neg (by omega)]

/-- A runner after one runner of the complex was set. -/
theorem runner_setRunner_or {s : State} (h : s.TablesOk) (r r' : Rid) (x : Runner) : (s.setRunner r x).runner r' = x ∨ (s.setRunner r x).runner r' = s.runner r' := by
  cases r with
  | arb => cases r' with
    | arb => exact .inl rfl
    | heat a i => exact .inr rfl
  | heat a i => cases r' with
    | arb => exact .inr rfl
    | heat b j =>
      have e : (s.setRunner (.heat a i) x).runner (.heat b j) = if 9 * b + j = 9 * a + i then x else s.runner (.heat b j) := tget_tset h.runners _ _ _
      rw [e]
      split
      · exact .inl rfl
      · exact .inr rfl

/-- One runner's reservation is lost where a write of `n` bytes at `a` touches its granule (R106). -/
def State.loseOne (a n : Nat) (s : State) (r : Rid) : State :=
  match (s.runner r).resv with
  | none => s
  | some (g, _) => if a / 64 ≤ g ∧ g ≤ (a + n - 1) / 64 then s.updR r fun x => { x with resv := none } else s

theorem loseResv_eq (s : State) (m a n : Nat) : s.loseResv m a n = s.each (if m = 16 then [Rid.arb] else ridsOf m) (State.loseOne a n) := rfl

theorem loseOne_cases (a n : Nat) (s : State) (r : Rid) : s.loseOne a n r = s ∨ s.loseOne a n r = s.updR r fun x => { x with resv := none } := by
  unfold State.loseOne
  split
  · exact .inl rfl
  · split
    · exact .inr rfl
    · exact .inl rfl

theorem loseOne_ok {s : State} (h : s.TablesOk) (a n : Nat) (r : Rid) : (s.loseOne a n r).TablesOk := by
  rcases loseOne_cases a n s r with e | e <;> rw [e]
  · exact h
  · exact updR_ok h r _

/-- A reservation that stands after a loss stood before. -/
theorem loseOne_resv {s : State} (h : s.TablesOk) {a n : Nat} {r r' : Rid} {q : Nat × Nat} (hq : ((s.loseOne a n r).runner r').resv = some q) :
    (s.runner r').resv = some q := by
  rcases loseOne_cases a n s r with e | e <;> rw [e] at hq
  · exact hq
  · rcases runner_setRunner_or h r r' { s.runner r with resv := none } with e | e <;> rw [State.updR, e] at hq
    · nomatch hq
    · exact hq

/-- The reservation that its own loss leaves is on another granule. -/
theorem loseOne_own {s : State} (h : s.TablesOk) {a n : Nat} {r : Rid} {g t : Nat} (hq : ((s.loseOne a n r).runner r).resv = some (g, t)) :
    ¬(a / 64 ≤ g ∧ g ≤ (a + n - 1) / 64) := by
  have before := loseOne_resv h hq
  unfold State.loseOne at hq
  rw [before] at hq
  intro touched
  dsimp only at hq
  rw [if_pos touched, State.runner_updR h] at hq
  nomatch hq

/-- The reservations that a write of a memory leaves to the memory's runners (R106). -/
theorem loseResv_resv {s : State} (h : s.TablesOk) (m a n : Nat) {r : Rid} (hr : r ∈ if m = 16 then [Rid.arb] else ridsOf m) {g t : Nat}
    (hq : ((s.loseResv m a n).runner r).resv = some (g, t)) : (s.runner r).resv = some (g, t) ∧ ¬(a / 64 ≤ g ∧ g ≤ (a + n - 1) / 64) := by
  rw [loseResv_eq] at hq
  refine ⟨?_, ?_⟩
  · exact (each_inv (P := fun u => u.TablesOk ∧ ((u.runner r).resv = some (g, t) → (s.runner r).resv = some (g, t))) ⟨h, id⟩
      fun u b _ hu => ⟨loseOne_ok hu.1 a n b, fun e => hu.2 (loseOne_resv hu.1 e)⟩).2 hq
  · exact each_forall (P := State.TablesOk) (Q := fun b u => (u.runner b).resv = some (g, t) → ¬(a / 64 ≤ g ∧ g ≤ (a + n - 1) / 64)) h
      (fun u b _ hu => loseOne_ok hu a n b) (fun u b _ hu e => loseOne_own hu e) (fun u c b _ hu hc e => hc (loseOne_resv hu e)) r hr hq

/-- The loss of reservations changes no byte. -/
theorem loseResv_bytes (s : State) (m a n : Nat) : ((s.loseResv m a n).spads, (s.loseResv m a n).arbMem) = (s.spads, s.arbMem) := by
  rw [loseResv_eq]
  refine each_same (g := fun u => (u.spads, u.arbMem)) (fun u r _ => ?_) s
  rcases loseOne_cases a n u r with e | e <;> rw [e]
  cases r <;> rfl

/-- The runners of a memory. -/
theorem mem_ridsOf {r : Rid} (hr : r.wf = true) : r ∈ if r.home = 16 then [Rid.arb] else ridsOf r.home := by
  cases r with
  | arb => exact List.mem_singleton_self _
  | heat h i =>
    have bounds : h < 16 ∧ i < 9 := by simpa [Rid.wf] using hr
    rw [if_neg (show (Rid.heat h i).home ≠ 16 from fun e : h = 16 => by omega)]
    exact List.mem_map_of_mem (List.mem_range.2 bounds.2)

theorem runner_of_memories {s t : State} (h : t.memories = s.memories) (r : Rid) : t.runner r = s.runner r := by
  obtain ⟨-, -, hr, ha⟩ : t.spads = s.spads ∧ t.arbMem = s.arbMem ∧ t.runners = s.runners ∧ t.arbRun = s.arbRun := by simpa [State.memories] using h
  cases r with
  | arb => exact ha
  | heat a i => exact congrArg (tget {} · (9 * a + i)) hr

theorem byteAt_of_bytes {s t : State} (h : (t.spads, t.arbMem) = (s.spads, s.arbMem)) (m k : Nat) : t.byteAt m k = s.byteAt m k := by
  obtain ⟨h1, h2⟩ := Prod.mk.inj h
  unfold State.byteAt
  rw [h1, h2]

theorem setBytes_runner (s : State) (m a : Nat) (l : List Byte) (r : Rid) : (s.setBytes m a l).runner r = s.runner r := by
  by_cases hm : m = 16
  · subst hm
    rw [setBytes_arb]
    rfl
  · rw [setBytes_eq hm]
    rfl

/-- A write of bytes: errors of words that are read for the merge, the bytes, the words' check bytes, the reservations. -/
theorem memWrite_parts (s : State) {m a : Nat} {bs : List Byte} (hn : bs.length ≠ 0) :
    ∃ u v : State, s.memWrite m a bs = v.loseResv m a bs.length ∧ u.memories = s.memories ∧ v.memories = (u.setBytes m a bs).memories ∧ Kept s v := by
  unfold State.memWrite
  dsimp only
  rw [if_neg hn]
  refine ⟨_, _, rfl, each_same (g := State.memories) (fun t w _ => ?_) s, each_same (g := State.memories) (fun t w _ => writeWordErr_memories t ..) _,
    each_kept (setBytes_kept (each_kept (.refl s) fun t w h => ?_)) fun t w h => writeWordErr_kept h⟩
  · split
    · rfl
    · exact readWordErr_memories ..
  · split
    · exact h
    · exact readWordErr_kept h

/-- A write of any requester changes exactly its bytes. -/
theorem byteAt_memWrite {s : State} (h : s.MemOk) {m a : Nat} {bs : List Byte} (hn : bs.length ≠ 0) (hb : a + bs.length ≤ memLen m) {m' k : Nat} (hk : k < memLen m') :
    (s.memWrite m a bs).byteAt m' k = if m' = m ∧ a ≤ k ∧ k < a + bs.length then bs.getD (k - a) 0 else s.byteAt m' k := by
  obtain ⟨u, v, e, hu, hv, -⟩ := memWrite_parts s (m := m) (a := a) hn
  obtain ⟨spads, arbMem, -, -⟩ : u.spads = s.spads ∧ u.arbMem = s.arbMem ∧ u.runners = s.runners ∧ u.arbRun = s.arbRun := by simpa [State.memories] using hu
  have stored : (v.spads, v.arbMem) = ((u.setBytes m a bs).spads, (u.setBytes m a bs).arbMem) := congrArg (fun q => (q.1, q.2.1)) hv
  rw [e, byteAt_of_bytes (loseResv_bytes ..), byteAt_of_bytes stored, byteAt_setBytes (spads ▸ h.spads) (arbMem ▸ h.arbMem) hb hk,
    byteAt_of_bytes (s := s) (t := u) (by rw [spads, arbMem])]

/-- A write ends the reservations on its granules, and makes none (R106). -/
theorem resv_memWrite {s : State} (h : s.TablesOk) {m a : Nat} {bs : List Byte} (hn : bs.length ≠ 0) {r : Rid} (hr : r.wf = true) (hm : r.home = m) {g t : Nat}
    (hq : ((s.memWrite m a bs).runner r).resv = some (g, t)) : (s.runner r).resv = some (g, t) ∧ (64 * g + 64 ≤ a ∨ a + bs.length ≤ 64 * g) := by
  obtain ⟨u, v, e, hu, hv, hk⟩ := memWrite_parts s (m := m) (a := a) hn
  rw [e] at hq
  obtain ⟨before, apart⟩ := loseResv_resv (hk.tab h) m a bs.length (hm ▸ mem_ridsOf hr) hq
  rw [runner_of_memories hv, setBytes_runner, runner_of_memories hu] at before
  exact ⟨before, by omega⟩

theorem inReserved_iff (m a : Nat) : inReserved m a = true ↔ m ≠ 16 ∧ 0x36E000 ≤ a ∧ a < 0x580000 := decide_eq_true_iff

/-- Settles O7: a user's write is discarded and reported where it begins or ends in a reserved range, and is a write of its bytes elsewhere. -/
theorem writesStoreTheirBytes : Obligations.WritesStoreTheirBytes := by
  unfold Obligations.WritesStoreTheirBytes
  refine ⟨fun s m a bs h _ hb m' k _ hk => byteAt_setBytes h.spads h.arbMem hb hk, ?_⟩
  intro s m a who bs h ht _ hn hb t kept
  have discards : (inReserved m a || inReserved m (a + bs.length - 1)) = true ↔ kept := by
    rw [Bool.or_eq_true, inReserved_iff, inReserved_iff]
    exact and_or_left.symm
  by_cases hr : kept
  · have reported : t = s.report 0x04 4 (0x30 + m) who (a / 8 % 32) a := by
      refine (if_pos (discards.2 hr)).trans ?_
      rw [bankOf, if_neg hr.1]
    refine ⟨fun m' k _ _ => ?_, fun _ => reported, fun hn => absurd hr hn⟩
    rw [if_neg fun c => c.2.2.2 hr, reported]
    rfl
  · have written : t = s.memWrite m a bs := if_neg fun c => hr (discards.1 c)
    refine ⟨fun m' k _ hk => ?_, fun c => absurd c hr, fun _ r g n hw hm hq => ?_⟩
    · rw [written, byteAt_memWrite h (by omega) hb hk]
      exact if_congr (by simp [hr]) rfl rfl
    · exact resv_memWrite ht (by omega) hw hm (written ▸ hq)

end Sys2Proof.Machine
end

section
/-! Machine checks and failing service words hand the runner on (R72, R176, R182, R193, R294). -/
namespace Sys2Proof.Machine

/-- What of a runner its stop for handoff is about. -/
def Runner.work (x : Runner) := (x.run, x.pendM, x.stores, x.frame, x.ring, x.pc)

/-- From `s` to `t` no byte of a memory changed, no runner but `r`, and no register of a runner's page; reports were added, and a fallback goes on. -/
structure Spares (r : Rid) (s t : State) : Prop where
  spads    : t.spads = s.spads
  arbMem   : t.arbMem = s.arbMem
  others   : ∀ r', r'.wf = true → r' ≠ r → t.runner r' = s.runner r'
  regs     : ∀ p off, 0x100 ≤ p → t.reg p off = s.reg p off
  arriving : ∃ l, t.ref.arriving = s.ref.arriving ++ l
  fb       : s.arb.fb = true → t.arb.fb = true
  tables   : t.TablesOk

/-- Neither the rings nor the work of `r` changed either. -/
structure Aftermath (r : Rid) (s t : State) : Prop extends Spares r s t where
  work  : (t.runner r).work = (s.runner r).work
  rings : t.rings = s.rings

theorem Spares.refl {s : State} (h : s.TablesOk) (r : Rid) : Spares r s s := ⟨rfl, rfl, fun _ _ _ => rfl, fun _ _ _ => rfl, ⟨[], (List.append_nil _).symm⟩, id, h⟩

theorem Aftermath.refl {s : State} (h : s.TablesOk) (r : Rid) : Aftermath r s s := ⟨.refl h r, rfl, rfl⟩

theorem Spares.trans {r : Rid} {s t u : State} (h : Spares r s t) (k : Spares r t u) : Spares r s u where
  spads := k.spads.trans h.spads
  arbMem := k.arbMem.trans h.arbMem
  others r' hr' hn := (k.others r' hr' hn).trans (h.others r' hr' hn)
  regs p off hp := (k.regs p off hp).trans (h.regs p off hp)
  arriving := by
    obtain ⟨l, hl⟩ := h.arriving
    obtain ⟨m, hm⟩ := k.arriving
    exact ⟨l ++ m, by rw [hm, hl, List.append_assoc]⟩
  fb := fun e => k.fb (h.fb e)
  tables := k.tables

theorem Aftermath.trans {r : Rid} {s t u : State} (h : Aftermath r s t) (k : Aftermath r t u) : Aftermath r s u :=
  ⟨h.toSpares.trans k.toSpares, k.work.trans h.work, k.rings.trans h.rings⟩

/-- A change that touches neither memories nor runners, rings nor registers. -/
theorem Aftermath.beside {r : Rid} {s t u : State} (h : Aftermath r s t) (hm : u.memories = t.memories) (hq : u.rings = t.rings)
    (hg : (u.regs, u.fuses) = (t.regs, t.fuses)) (ha : ∃ l, u.ref.arriving = t.ref.arriving ++ l) (hf : t.arb.fb = true → u.arb.fb = true) (hk : Kept t u) :
    Aftermath r s u := by
  obtain ⟨spads, arbMem, -, -⟩ : u.spads = t.spads ∧ u.arbMem = t.arbMem ∧ u.runners = t.runners ∧ u.arbRun = t.arbRun := by simpa [State.memories] using hm
  obtain ⟨regs, fuses⟩ := Prod.mk.inj hg
  refine h.trans ⟨⟨spads, arbMem, fun r' _ _ => runner_of_memories hm r', fun p off _ => ?_, ha, hf, hk.tab h.tables⟩, congrArg Runner.work (runner_of_memories hm r), hq⟩
  unfold State.reg
  rw [regs, fuses]

/-- The reports stand as they were. -/
theorem no_reports (s : State) : ∃ l, s.ref.arriving = s.ref.arriving ++ l := ⟨[], (List.append_nil _).symm⟩

theorem Spares.updR {r : Rid} {s t : State} (h : Spares r s t) (hr : r.wf = true) (f : Runner → Runner) : Spares r s (t.updR r f) := by
  refine h.trans ⟨by cases r <;> rfl, by cases r <;> rfl, fun r' hr' hn => State.runner_setRunner_other h.tables hr hr' hn _, fun p off _ => by cases r <;> rfl,
    ?_, fun e => by cases r <;> exact e, updR_ok h.tables r f⟩
  cases r <;> exact no_reports t

section
variable {r : Rid} {s t : State} (h : Aftermath r s t)
include h

theorem Aftermath.report (cls cause reporter suspect elem detail : Nat) : Aftermath r s (t.report cls cause reporter suspect elem detail) :=
  h.beside rfl rfl rfl ⟨_, rfl⟩ id (report_kept (.refl t))

theorem Aftermath.updSl (k : Nat) (f : Slice → Slice) : Aftermath r s (t.updSl k f) := h.beside rfl rfl rfl (no_reports t) id (updSl_kept (.refl t))

theorem Aftermath.updScs (f : Scores → Scores) : Aftermath r s (t.updScs f) := h.beside rfl rfl rfl (no_reports t) id (updScs_kept (.refl t))

theorem Aftermath.updArb {f : Arbiter → Arbiter} (hf : t.arb.fb = true → (f t.arb).fb = true := by exact id) : Aftermath r s (t.updArb f) :=
  h.beside rfl rfl rfl (no_reports t) hf (updArb_kept (.refl t))

/-- A register of a page that is no runner's. -/
theorem Aftermath.setReg {p off : Nat} (hp : 1024 * p + off / 4 < 0x40000) (v : Reg) : Aftermath r s (t.setReg p off v) := by
  refine h.trans ⟨⟨rfl, rfl, fun r' _ _ => by cases r' <;> rfl, fun p' off' hp' => State.reg_setReg_other h.tables ?_ v, no_reports t, id,
    (setReg_kept (.refl t)).tab h.tables⟩, by cases r <;> rfl, rfl⟩
  unfold regKey
  omega

theorem Aftermath.updR (hr : r.wf = true) {f : Runner → Runner} (hf : ∀ x, (f x).work = x.work := by exact fun _ => rfl) : Aftermath r s (t.updR r f) := by
  refine h.trans ⟨(Spares.refl h.tables r).updR hr f, ?_, by cases r <;> rfl⟩
  rw [State.runner_updR h.tables, hf]

theorem Aftermath.record (kind p0 p1 p2 lapAt : Nat) : Aftermath r s (t.record kind p0 p1 p2 lapAt) := by
  unfold State.record
  dsimp only
  split
  · exact h
  · split
    · exact h.updScs _
    · split
      · exact (h.updScs _).report ..
      · exact h.updScs _

theorem Aftermath.raise (sl src : Nat) : Aftermath r s (t.raise sl src) := by
  unfold State.raise
  split
  · exact h
  · split
    · exact h.updSl ..
    · split <;> exact h.updSl ..

theorem Aftermath.enterFence (st line : Nat) : Aftermath r s (t.enterFence st line) := by
  unfold State.enterFence
  split
  · exact h
  · split
    · exact h.beside rfl rfl rfl (no_reports t) id (updImg_kept (updCs_kept (.refl t)))
    · exact h.report ..

theorem Aftermath.when {b : Bool} {f : State → State} (hf : Aftermath r s (f t)) : Aftermath r s (t.when b f) := by
  cases b
  · exact h
  · exact hf

theorem Aftermath.postResult (q dest ctag code : Nat) : Aftermath r s (t.postResult q dest ctag code) := by
  unfold State.postResult
  refine ((Aftermath.when ?_ ?_).record ..).raise ..
  · exact h.updArb
  · refine Aftermath.setReg ?_ (by decide) _
    exact h.updArb

theorem Aftermath.refreshMode : Aftermath r s t.refreshMode := by
  have sets (m : Mode) (cause : Nat) : Aftermath r s (t.setMode m cause) :=
    (Aftermath.setReg (h.beside rfl rfl rfl (no_reports t) id (Kept.of (.refl t)) : Aftermath r s { t with mode := m }) (by decide) _).record ..
  unfold State.refreshMode
  split
  · split
    · exact sets ..
    · exact h
  · split
    · exact h
    · exact sets ..
  · split
    · exact sets ..
    · exact h
  · exact h

theorem Aftermath.fallback (cause : Nat) : Aftermath r s (t.fallback cause) ∧ (t.fallback cause).arb.fb = true := by
  unfold State.fallback
  dsimp only
  split
  next hf => exact ⟨h, hf⟩
  next =>
    refine each_inv (P := fun u => Aftermath r s u ∧ u.arb.fb = true) ⟨h.updArb fun _ => rfl, rfl⟩ fun u c _ hu => ?_
    have posted := (Aftermath.refl hu.1.tables r).postResult c.ring c.dest c.ctag.toNat 0xA
    exact ⟨hu.1.trans posted, posted.fb hu.2⟩

end

/-- What a stop for handoff means beyond its runner: the Arbiter runner's begins the fallback, and the mode follows (R294, R447). -/
def State.handOn (s : State) (r : Rid) : State :=
  match r with
  | .heat _ _ => s.refreshMode
  | .arb => s.arbStops.refreshMode

theorem handOn_spec {s : State} {r : Rid} (h : s.TablesOk) : Aftermath r s (s.handOn r) ∧ (r = .arb → (s.handOn r).arb.fb = true) := by
  have start := Aftermath.refl h r
  cases r with
  | heat a i => exact ⟨start.refreshMode, fun e => nomatch e⟩
  | arb =>
    have fenced : Aftermath .arb s ((s.updR .arb fun x => { x with ops := [] }).sliceFence .arb) := by
      unfold State.sliceFence
      exact ((start.updR rfl).updSl ..).updR rfl
    obtain ⟨fell, fb⟩ := fenced.fallback 2
    exact ⟨fell.refreshMode, fun _ => (Aftermath.refl fell.tables .arb).refreshMode.fb fb⟩

/-- A ring's change and its queue membership touch nothing else. -/
theorem modRing_eq (s : State) (q : Nat) (f : Ring → Ring) : ∃ rings queues, s.modRing q f = { s with rings := rings, queues := queues } := by
  unfold State.modRing State.syncRing
  dsimp only
  split <;> exact ⟨_, _, rfl⟩

theorem Spares.modRing {r : Rid} {s t : State} (h : Spares r s t) (q : Nat) (f : Ring → Ring) : Spares r s (t.modRing q f) := by
  have tables := (modRing_kept (.refl t)).tab h.tables (s := t.modRing q f)
  obtain ⟨rings, queues, e⟩ := modRing_eq t q f
  rw [e] at tables ⊢
  exact h.trans ⟨rfl, rfl, fun r' _ _ => by cases r' <;> rfl, fun _ _ _ => rfl, no_reports t, id, tables⟩

theorem ring_updR (s : State) (r : Rid) (f : Runner → Runner) (q : Nat) : (s.updR r f).ring q = s.ring q := by cases r <;> rfl

/-- The held ring goes frozen to handoff (R257). -/
theorem releaseFrozen_spec {s : State} {r : Rid} (h : s.TablesOk) (hr : r.wf = true) :
    Spares r s (s.releaseFrozen r) ∧ (s.releaseFrozen r).ref.arriving = s.ref.arriving ∧ ((s.releaseFrozen r).runner r).ring = none
      ∧ ((s.releaseFrozen r).runner r).pc = (s.runner r).pc
      ∧ ∀ q, (s.runner r).ring = some q → ((s.releaseFrozen r).ring q).held = false ∧ ((s.releaseFrozen r).ring q).frozen = true := by
  have start := Spares.refl h r
  unfold State.releaseFrozen
  cases e : (s.runner r).ring with
  | none => exact ⟨start, rfl, e, rfl, fun q hq => nomatch hq⟩
  | some q =>
    dsimp only
    generalize hf : (fun x : Ring => { x with held := false, frozen := true, fzRun := true, fzAt := r.home }) = f
    have changed := start.modRing q f
    obtain ⟨⟨j, hj⟩, -, -⟩ := modRing_spec h q f
    obtain ⟨rings, queues, em⟩ := modRing_eq s q f
    have runner : (s.modRing q f).runner r = s.runner r := by
      rw [em]
      cases r <;> rfl
    rw [State.runner_updR changed.tables, runner]
    refine ⟨changed.updR hr _, ?_, rfl, rfl, fun p hp => ?_⟩
    · rw [State.updR_ref, em]
    · obtain rfl := Option.some.inj hp
      rw [ring_updR, hj, ← hf]
      exact ⟨rfl, rfl⟩

/-- Work that is dropped: the held ring goes frozen to handoff, the buffers are emptied (R193, R257). -/
theorem dropWork_spec {s : State} {r : Rid} (h : s.TablesOk) (hr : r.wf = true) :
    Spares r s (s.dropWork r) ∧ (s.dropWork r).ref.arriving = s.ref.arriving ∧ ((s.dropWork r).runner r).work = (.handoff, none, [], [], none, (s.runner r).pc)
      ∧ ∀ q, (s.runner r).ring = some q → ((s.dropWork r).ring q).held = false ∧ ((s.dropWork r).ring q).frozen = true := by
  obtain ⟨released, arriving, ring, pc, rings⟩ := releaseFrozen_spec h hr
  unfold State.dropWork
  refine ⟨released.updR hr _, ?_, ?_, fun q hq => ?_⟩
  · rw [State.updR_ref, arriving]
  · rw [State.runner_updR released.tables]
    show (RunState.handoff, none, [], [], ((s.releaseFrozen r).runner r).ring, ((s.releaseFrozen r).runner r).pc) = _
    rw [ring, pc]
  · rw [ring_updR]
    exact rings q hq

theorem page_le (r : Rid) : 0x100 ≤ r.page := by
  cases r with
  | arb => decide
  | heat h i => exact Nat.le_add_right_of_le (Nat.le_add_right ..)

/-- What is counted and fenced before the work is dropped: MCCNT and the failing line (R76, R182). -/
structure Counted (r : Rid) (code : Nat) (s t : State) : Prop where
  memories : t.memories = s.memories
  rings    : t.rings = s.rings
  fb       : s.arb.fb = true → t.arb.fb = true
  arriving : ∃ l, t.ref.arriving = s.ref.arriving ++ l
  tables   : t.TablesOk
  count    : t.rfld r.page 0x108 15 0 = if code = 0x30 then min (s.rfld r.page 0x108 15 0 + 1) 0xFFFF else s.rfld r.page 0x108 15 0

/-- A line that enters the fence table. -/
theorem enterFence_counted {s : State} (h : s.TablesOk) (r : Rid) (st line : Nat) :
    (s.enterFence st line).memories = s.memories ∧ Aftermath r s (s.enterFence st line) := by
  refine ⟨?_, (Aftermath.refl h r).enterFence st line⟩
  unfold State.enterFence
  split
  · rfl
  · split <;> rfl

/-- The fence and the count of the routine (R72, R76, R182). -/
theorem counted {s : State} {r : Rid} (h : s.TablesOk) (fence : Bool) (code line : Nat) :
    Counted r code s (let u := if fence then s.enterFence r.home line else s
      if code = 0x30 then u.satInc r.page 0x108 15 0 else u) := by
  have fenced : ∀ u, u = (if fence then s.enterFence r.home line else s) → u.memories = s.memories ∧ Aftermath r s u := by
    rintro u rfl
    split
    · exact enterFence_counted h r ..
    · exact ⟨rfl, .refl h r⟩
  dsimp only
  generalize hu : (if fence then s.enterFence r.home line else s) = u
  obtain ⟨bytes, after⟩ := fenced u hu.symm
  have same : u.rfld r.page 0x108 15 0 = s.rfld r.page 0x108 15 0 := congrArg (fld · 15 0) (after.regs _ _ (page_le r))
  by_cases hc : code = 0x30
  · rw [if_pos hc]
    refine ⟨bytes, after.rings, after.fb, after.arriving, setRfld_ok after.tables .., ?_⟩
    rw [State.rfld_satInc after.tables _ _ _ (by decide), if_pos hc, same]
    rfl
  · rw [if_neg hc]
    exact ⟨bytes, after.rings, after.fb, after.arriving, after.tables, by rw [if_neg hc, same]⟩

/-- The machine-check routine of a runner that executes (R72, R76, R176). -/
theorem machineCheck_eq {s : State} {r : Rid} {code : Nat} (h : s.TablesOk) (hp : (s.runner r).pendM = some code)
    (hr : (s.runner r).run = .running ∨ (s.runner r).run = .stopping) : ∃ w, Counted r code s w ∧ s.machineCheck r =
      ((w.dropWork r).report (if r = .arb then 5 else 1) (if r = .arb then 1 else if code = 0x30 then 0 else 1) r.page r.page 0 code).handOn r := by
  have executing : ((s.runner r).run == .stopped || (s.runner r).run == .handoff) = false := by
    rcases hr with e | e <;> rw [e] <;> rfl
  refine ⟨_, counted h (s.runner r).pendMCS code ((s.runner r).pc.toNat / 4), ?_⟩
  unfold State.machineCheck
  rw [hp]
  dsimp only
  rw [executing, if_neg Bool.false_ne_true]
  cases r <;> rfl

/-- What is left when the work was dropped, a report made and the runner handed on. -/
theorem handedOn {s : State} {r : Rid} (h : s.TablesOk) (hr : r.wf = true) (cls cause reporter suspect elem detail : Nat) :
    let t := ((s.dropWork r).report cls cause reporter suspect elem detail).handOn r
    Spares r s t ∧ (t.runner r).work = (.handoff, none, [], [], none, (s.runner r).pc) ∧ (r = .arb → t.arb.fb = true)
      ∧ (∀ q, (s.runner r).ring = some q → (t.ring q).held = false ∧ (t.ring q).frozen = true)
      ∧ ∃ l, t.ref.arriving = s.ref.arriving ++ ⟨8 * cls + cause, reporter, suspect, elem, false, BitVec.ofNat 32 detail, 0, heldClass cls⟩ :: l := by
  obtain ⟨dropped, silent, work, frozen⟩ := dropWork_spec h hr
  have reported := (Aftermath.refl dropped.tables r).report cls cause reporter suspect elem detail
  obtain ⟨after, fallen⟩ := handOn_spec reported.tables (r := r)
  obtain ⟨l, late⟩ := after.arriving
  refine ⟨dropped.trans (reported.trans after).toSpares, (reported.trans after).work.trans work, fallen, fun q hq => ?_, l, ?_⟩
  · unfold State.ring
    rw [(reported.trans after).rings]
    exact frozen q hq
  · rw [late, State.report, State.updRef_ref, silent, List.append_assoc]
    rfl

/-- The page that is suspected where a runner's service words cannot be fetched (R193, R405). -/
def heatPage : Rid → Nat
  | .heat h _ => 0x10 + h
  | .arb => 0x190

/-- Settles O30: what the routine has counted and reported, and what its dropped work leaves. -/
theorem machineChecksComplete : Obligations.MachineChecksComplete := by
  unfold Obligations.MachineChecksComplete
  intro s r code h hp hm hr x
  have runs (rom : Bool) : exec (.machineCheck r rom) s = .next (if rom && x.pendM.isSome then s.romFail r else s.machineCheck r) :=
    congrArg Host.Outcome.next (onRunner_awake hp hm _)
  refine ⟨fun hx hrun hc => ?check, fun hx => ?rom, fun hx rom => ?idle⟩
  case check =>
    obtain ⟨w, counted, e⟩ := machineCheck_eq h hx hrun
    obtain ⟨l₀, early⟩ := counted.arriving
    obtain ⟨spares, work, fallen, frozen, l, late⟩ := handedOn counted.tables hr (if r = .arb then 5 else 1) (if r = .arb then 1 else if code = 0x30 then 0 else 1)
      r.page r.page 0 code
    rw [← e] at spares work fallen frozen late
    have same (r' : Rid) := runner_of_memories counted.memories r'
    obtain ⟨spads, arbMem, -, -⟩ : w.spads = s.spads ∧ w.arbMem = s.arbMem ∧ w.runners = s.runners ∧ w.arbRun = s.arbRun := by
      simpa [State.memories] using counted.memories
    obtain ⟨run, pendM, stores, frame, ring, pc⟩ : _ ∧ _ ∧ _ ∧ _ ∧ _ ∧ ((s.machineCheck r).runner r).pc = (w.runner r).pc := by simpa [Runner.work] using work
    refine ⟨s.machineCheck r, l₀ ++ _ :: l, by rw [runs]; rfl, spares.spads.trans spads, spares.arbMem.trans arbMem, fun r' hr' hn => (spares.others r' hr' hn).trans (same r'),
      run, pendM, stores, frame, ring, pc.trans (by rw [same]), ?_, by rw [late, early, List.append_assoc],
      ⟨_, List.mem_append_right _ (List.mem_cons_self ..), rfl, rfl, ?_⟩, fallen, fun q hq => frozen q (by rw [same]; exact hq)⟩
    · rw [← counted.count]
      exact congrArg (fld · 15 0) (spares.regs _ _ (page_le r))
    · cases r with
      | arb => rfl
      | heat a i => rcases hc with rfl | rfl <;> rfl
  case rom =>
    have fails : s.romFail r = ((s.dropWork r).report 0x0A 0 r.page (heatPage r) r.idx).handOn r := by cases r <;> rfl
    obtain ⟨spares, work, -, -, l, late⟩ := handedOn h hr 0x0A 0 r.page (heatPage r) r.idx 0
    rw [← fails] at spares work late
    obtain ⟨run, -, stores, -, -, pc⟩ : _ ∧ _ ∧ _ ∧ _ ∧ _ ∧ ((s.romFail r).runner r).pc = (s.runner r).pc := by simpa [Runner.work] using work
    refine ⟨s.romFail r, ?_, spares.spads, run, stores, pc, _, late ▸ List.mem_append_right _ (List.mem_cons_self ..), rfl, rfl, by cases r <;> rfl⟩
    rw [runs, Option.isSome_iff_ne_none.2 hx]
    rfl
  case idle =>
    have idle : s.machineCheck r = s := by
      unfold State.machineCheck
      rw [hx]
    rw [runs, hx, idle]
    cases rom <;> rfl

end Sys2Proof.Machine
end

section
/-! Words of plain moves between general registers: no check fails, nothing waits, and the commit is the moves and the next address
(R50 to R56, R60, R66, R130). -/
namespace Sys2Proof.Machine

/-- A slot that is no move, or moves an immediate or a general register to a general register. -/
def Slot.plainMove (k : Slot) : Prop := if k.isEmpty then k.low = 0 else k.rsv = 0 ∧ k.dst < 0x40 ∧ (k.imm = true ∨ k.src < 0x40)

/-- The slots of a word that guards `g` let be performed (R55). -/
def Word4.performed (w : Word4) (g : BitVec 8) : List Slot := w.slots.filter fun k => !k.isEmpty && guardTrue g k.guard

/-- A word of sequential mode whose slots are plain moves, and whose performed slots have different destinations. -/
structure Word4.Plain (w : Word4) (g : BitVec 8) : Prop where
  rsv      : w.rsv = false
  hint     : w.hint ≠ 3
  limm     : w.limm = 0
  mode     : w.mode = 0
  cond     : w.cond < 0x18
  slots    : ∀ k ∈ w.slots, k.plainMove
  nodup    : w.slots.Nodup
  distinct : ∀ a ∈ w.performed g, ∀ b ∈ w.performed g, a.dst = b.dst → a = b

theorem mem_performed {w : Word4} {g : BitVec 8} {k : Slot} : k ∈ w.performed g ↔ k ∈ w.slots ∧ k.isEmpty = false ∧ guardTrue g k.guard = true := by
  unfold Word4.performed
  rw [List.mem_filter, Bool.and_eq_true, Bool.not_eq_true']

theorem Word4.Plain.move {w : Word4} {g : BitVec 8} (h : w.Plain g) {k : Slot} (hk : k ∈ w.performed g) : k.dst < 0x40 ∧ (k.imm = true ∨ k.src < 0x40) := by
  obtain ⟨hm, he, -⟩ := mem_performed.1 hk
  have := h.slots k hm
  unfold Slot.plainMove at this
  rw [he, if_neg Bool.false_ne_true] at this
  exact this.2

/-! General registers as ports (R46, R74) -/

theorem portInfo_register (s : State) (r : Rid) {p : Nat} (h : p < 0x40) : s.portInfo r p = some pRW := if_pos h

theorem isTrig_register (s : State) (r : Rid) {p : Nat} (h : p < 0x40) : s.isTrig r p = false := by
  unfold State.isTrig
  rw [portInfo_register s r h]
  rfl

theorem trigOf_register {p : Nat} (h : p < 0x40) : trigOf p = none := if_pos (Nat.lt_of_lt_of_le h (by decide))

theorem isFlow_register {p : Nat} (h : p < 0x40) : isFlow p = false := by
  unfold isFlow isSeqFlow isTrpFlow
  rw [decide_eq_false (by omega), decide_eq_false (by omega)]
  rfl

theorem portFault_register (s : State) (r : Rid) {p : Nat} (h : p < 0x40) : s.portFault r p pRW = none := by
  unfold State.portFault
  dsimp only
  rw [if_neg (by omega)]
  rfl

theorem rsActOf_register {p : Nat} (h : p < 0x40) : rsActOf p = none := by
  unfold rsActOf
  rw [trigOf_register h]

/-! No fault (R73, R74, R80, R95, R135) -/

theorem static_plain {w : Word4} {g : BitVec 8} (h : w.Plain g) : w.static = [] := by
  unfold Word4.static
  rw [if_neg]
  simp only [Bool.or_eq_true, beq_iff_eq, decide_eq_true_eq, not_or, Nat.not_le]
  exact ⟨⟨⟨⟨by rw [h.rsv]; exact Bool.false_ne_true, by rw [h.limm]; decide⟩, by rw [h.mode]; decide⟩, h.cond⟩, h.hint⟩

theorem slotStatic_plain {w : Word4} (hl : w.limm = 0) (s : State) (r : Rid) {k : Slot} (hk : k.plainMove) : s.slotStatic r w k = [] := by
  have no_literal : w.litSlot = none := by
    unfold Word4.litSlot
    rw [hl]
    rfl
  have reads_none : w.litOk k = false := by
    unfold Word4.litOk
    rw [hl]
    simp
  unfold Slot.plainMove at hk
  unfold State.slotStatic
  rw [no_literal, reads_none]
  split
  next he =>
    rw [if_pos he] at hk
    rw [hk]
    rfl
  next he =>
    rw [if_neg he] at hk
    obtain ⟨hrsv, hdst, hsrc⟩ := hk
    rw [portInfo_register s r hdst, hrsv]
    cases hi : k.imm with
    | true => rfl
    | false =>
      have hsrc : k.src < 0x40 := by simpa [hi] using hsrc
      have hlit : isLit k.src = false := decide_eq_false (by omega)
      rw [portInfo_register s r hsrc, hlit]
      rfl

theorem slotLevel_plain (s : State) (r : Rid) {k : Slot} (hd : k.dst < 0x40) (hs : k.imm = true ∨ k.src < 0x40) : s.slotLevel r k = [] := by
  unfold State.slotLevel
  dsimp only
  rw [portInfo_register s r hd]
  dsimp only
  rw [portFault_register s r hd]
  cases hi : k.imm with
  | true => rfl
  | false =>
    have hs : k.src < 0x40 := by simpa [hi] using hs
    rw [portInfo_register s r hs]
    dsimp only
    rw [portFault_register s r hs]
    rfl

theorem pairFaults_plain {l : List Slot} (hd : ∀ k ∈ l, k.dst < 0x40) (hne : ∀ a ∈ l, ∀ b ∈ l, a.dst = b.dst → a = b) (s : State) (r : Rid) :
    s.pairFaults r l = [] := by
  unfold State.pairFaults
  rw [List.map_eq_nil_iff, List.filter_eq_nil_iff]
  intro a ha
  rw [Bool.not_eq_true, List.any_eq_false]
  intro b hb
  dsimp only
  have seq {p : Nat} (h : p < 0x40) : isSeqFlow p = false := decide_eq_false (by omega)
  rw [isTrig_register s r (hd a ha), seq (hd a ha), seq (hd b hb)]
  by_cases e : a.dst = b.dst
  · rw [hne a ha b hb e]
    simp
  · simp [e]

/-! The moves, as they are read (R56) -/

section
variable {s : State} {r : Rid} {w : Word4} {g : BitVec 8} (h : w.Plain g)
include h

/-- The source of a move between general registers. -/
theorem source_plain {k : Slot} (hk : k ∈ w.performed g) :
    s.source r w false k = { val := if k.imm then (BitVec.ofNat 11 k.src).signExtend 64 else (s.runner r).gr k.src } := by
  unfold State.source
  rcases (h.move hk).2 with hi | hs
  · rw [hi]
    rfl
  · have hlit : isLit k.src = false := decide_eq_false (by omega)
    cases hi : k.imm with
    | true => rfl
    | false =>
      rw [hlit]
      exact if_pos hs

/-- A performed move as it is read: ready, sound, its value of SIZE's width with zeros above (R53, R56). -/
def Runner.moveOf (x : Runner) (k : Slot) : Mv :=
  let v : Word := if k.imm then (BitVec.ofNat 11 k.src).signExtend 64 else x.gr k.src
  { slot := k, ready := true, q := { val := v }, val := BitVec.ofNat 64 (v.toNat % 2 ^ (64 / 2 ^ k.size)) }

theorem mvOf_plain (ho : ∀ o ∈ (s.runner r).ops, ∀ e ∈ o.res, 0x40 ≤ e.1) {k : Slot} (hk : k ∈ w.performed g) :
    s.mvOf r w false k = (s.runner r).moveOf k := by
  obtain ⟨hd, hs⟩ := h.move hk
  have ready : (k.imm || !(s.runner r).unready k.src) = true := by
    rcases hs with hi | hs
    · rw [hi]
      rfl
    · have : (s.runner r).unready k.src = false := by
        unfold Runner.unready
        rw [if_neg (by omega), List.any_eq_false]
        intro o hm
        unfold Op.gives
        rw [Bool.not_eq_true, List.any_eq_false]
        intro e he
        have := ho o hm e he
        simp only [beq_iff_eq]
        omega
      rw [this]
      simp
  have unsigned : isSignPort k.dst = false := by
    unfold isSignPort
    simp only [Bool.or_eq_false_iff, decide_eq_false_iff_not]
    omega
  unfold State.mvOf State.slotVal widen sizeBits Runner.moveOf
  rw [source_plain h hk, ready, unsigned]
  rfl

/-- The performed moves of a word, as they are read. -/
def Word4.moves (w : Word4) (x : Runner) : List Mv := (w.performed x.grd).map x.moveOf

end

/-- A move into a general register that can be read. -/
structure Mv.General (m : Mv) : Prop where
  dst   : m.slot.dst < 0x40
  ready : m.ready = true
  sound : m.q.poison = false

theorem moves_general {w : Word4} {x : Runner} (h : w.Plain x.grd) : ∀ m ∈ w.moves x, m.General := by
  intro m hm
  obtain ⟨k, hk, rfl⟩ := List.mem_map.1 hm
  exact ⟨(h.move hk).1, rfl, rfl⟩

section
variable {l : List Mv} (hl : ∀ m ∈ l, m.General)
include hl

theorem poisoned_general : l.flatMap Mv.poisoned = [] := by
  refine List.flatMap_eq_nil_iff.2 fun m hm => ?_
  unfold Mv.poisoned
  rw [(hl m hm).sound]
  simp

theorem waits_general (b : Bool) : (l.any fun m => !m.ready || (m.slot.dst == 0xE2 && b)) = false := by
  rw [List.any_eq_false]
  intro m hm
  obtain ⟨hd, hr, -⟩ := hl m hm
  have : (m.slot.dst == 0xE2) = false := beq_eq_false_iff_ne.2 (by omega)
  rw [hr, this]
  simp

theorem trigs_general (s : State) (r : Rid) (f : Mv → Bool) : (l.filter fun m => s.isTrig r m.slot.dst && f m) = [] := by
  refine List.filter_eq_nil_iff.2 fun m hm => ?_
  rw [isTrig_register s r (hl m hm).dst]
  exact Bool.false_ne_true

theorem trigWFaults_general (s s0 : State) (r : Rid) : s.trigWFaults s0 r l = [] := by
  unfold State.trigWFaults
  simp only [Bool.and_assoc]
  rw [trigs_general hl]
  rfl

theorem no_flow : (l.find? fun m => isFlow m.slot.dst) = none := by
  refine List.find?_eq_none.2 fun m hm => ?_
  rw [isFlow_register (hl m hm).dst]
  exact Bool.false_ne_true

theorem xferAct_general {w : Word4} (hw : w.mode = 0) (s : State) (r : Rid) : s.xferAct r w l = none := by
  unfold State.xferAct
  rw [no_flow hl, hw]
  dsimp only
  split <;> rfl

theorem rsFaults_general {w : Word4} (hw : w.mode = 0) (s : State) (r : Rid) (waits : Bool) : s.rsFaults r w l waits = [] := by
  have none_acts : (l.findSome? fun m => (rsActOf m.slot.dst).map fun a => (a, some m.slot.idx)) = none := by
    refine List.findSome?_eq_none_iff.2 fun m hm => ?_
    rw [rsActOf_register (hl m hm).dst]
    rfl
  unfold State.rsFaults
  dsimp only
  rw [none_acts, xferAct_general hl hw]
  split <;> rfl

theorem frameLost_general (s : State) (r : Rid) : s.frameLost r l = false := by
  have : (l.any fun m => m.slot.dst == 0x2B7 && (s.slotLevel r m.slot).isEmpty) = false := by
    rw [List.any_eq_false]
    intro m hm
    have := (hl m hm).dst
    rw [beq_eq_false_iff_ne.2 (by omega)]
    exact Bool.false_ne_true
  unfold State.frameLost
  dsimp only
  rw [this]
  rfl

theorem no_ext : l.any Mv.isExt = false := by
  rw [List.any_eq_false]
  intro m hm
  have := (hl m hm).dst
  unfold Mv.isExt
  simp only [decide_eq_true_eq]
  omega

theorem anyBusy_general (s s0 : State) (r : Rid) : s.anyBusy s0 r l = false := by
  unfold State.anyBusy
  dsimp only
  rw [List.filter_eq_nil_iff.2 fun m hm => ?puts, Bool.or_eq_false_iff]
  case puts =>
    have := (hl m hm).dst
    rw [trigOf_register this, beq_eq_false_iff_ne.2 (by omega)]
    exact Bool.false_ne_true
  refine ⟨rfl, List.any_eq_false.2 fun m hm => ?_⟩
  rw [isFlow_register (hl m hm).dst, trigOf_register (hl m hm).dst]
  exact Bool.false_ne_true

end

/-- A word outside the resume form, by its performed slots (R63, R66, R70). -/
theorem evalWord_eq {s : State} {r : Rid} (hr : (s.runner r).resume = none) (w : Word4) (full : Bool) : s.evalWord r w full =
    (let x := s.runner r
     let done := w.performed x.grd
     let l := done.map (s.mvOf r w false)
     let waits := l.any fun m => !m.ready || (m.slot.dst == 0xE2 && x.ops.any Op.isMac)
     let s1 := s.writeAll r (l.filter fun m => m.ready)
     let fs := w.static ++ (w.slots.flatMap fun k => s.slotStatic r w k) ++ [] ++ (done.flatMap fun k => s.slotLevel r k) ++ s.pairFaults r done
       ++ (l.flatMap fun m => m.poisoned) ++ s1.trigWFaults s r l ++ s.rsFaults r w l waits
     if !waits && s.frameLost r l then (s.frameCheck r, true)
     else match worst fs with
       | some f => (s.faultNow r f.record, true)
       | none => if waits || s1.anyBusy s r l || (full && l.any Mv.isExt) then (s.stallNow r, false) else (s.commitWord r w l, true)) := by
  unfold State.evalWord
  dsimp only
  rw [hr]
  rfl

/-- A word of plain moves commits (R66). -/
theorem evalWord_plain {s : State} {r : Rid} {w : Word4} (h : w.Plain (s.runner r).grd) (hr : (s.runner r).resume = none)
    (ho : ∀ o ∈ (s.runner r).ops, ∀ e ∈ o.res, 0x40 ≤ e.1) (full : Bool) : s.evalWord r w full = (s.commitWord r w (w.moves (s.runner r)), true) := by
  have read : (w.performed (s.runner r).grd).map (s.mvOf r w false) = w.moves (s.runner r) := List.map_congr_left fun k hk => mvOf_plain h ho hk
  have hl := moves_general h
  have no_static : (w.slots.flatMap fun k => s.slotStatic r w k) = [] := List.flatMap_eq_nil_iff.2 fun k hk => slotStatic_plain h.limm s r (h.slots k hk)
  have no_level : ((w.performed (s.runner r).grd).flatMap fun k => s.slotLevel r k) = [] :=
    List.flatMap_eq_nil_iff.2 fun k hk => slotLevel_plain s r (h.move hk).1 (h.move hk).2
  rw [evalWord_eq hr]
  dsimp only
  rw [read, waits_general hl, frameLost_general hl, static_plain h, no_static, no_level, pairFaults_plain (fun k hk => (h.move hk).1) h.distinct,
    poisoned_general hl, trigWFaults_general hl, rsFaults_general hl h.mode, anyBusy_general hl, no_ext hl]
  simp [worst]

/-! The commit (R61, R66) -/

/-- A runner after moves into general registers. -/
def Runner.setAll (x : Runner) (l : List Mv) : Runner := l.foldl (fun x m => x.setG m.slot.dst m.val) x

theorem setAll_registers (x : Runner) (l : List Mv) : ∃ g, x.setAll l = { x with g := g } := by
  unfold Runner.setAll
  induction l generalizing x with
  | nil => exact ⟨x.g, rfl⟩
  | cons m l ih => exact ih (x.setG m.slot.dst m.val)

/-- Moves with different destinations: each destination has its value, every other register stands (R66). -/
theorem gr_setAll {x : Runner} (hx : twf 0 x.g = true) {l : List Mv} (hne : l.Pairwise fun a b => a.slot.dst ≠ b.slot.dst) (n : Nat) :
    (∀ m ∈ l, m.slot.dst = n → (x.setAll l).gr n = m.val) ∧ ((∀ m ∈ l, m.slot.dst ≠ n) → (x.setAll l).gr n = x.gr n) := by
  unfold Runner.setAll
  induction l generalizing x with
  | nil => exact ⟨fun m hm => absurd hm List.not_mem_nil, fun _ => rfl⟩
  | cons a l ih =>
    obtain ⟨ha, hl⟩ := List.pairwise_cons.1 hne
    have set : (x.setG a.slot.dst a.val).gr n = if n = a.slot.dst then a.val else x.gr n := tget_tset hx ..
    obtain ⟨own, other⟩ := ih (x := x.setG a.slot.dst a.val) (twf_tset hx) hl
    refine ⟨fun m hm e => ?_, fun hm => ?_⟩
    · rcases List.mem_cons.1 hm with rfl | hm
      · exact (other fun b hb => e ▸ (ha b hb).symm).trans (set.trans (if_pos e.symm))
      · exact own m hm e
    · exact (other fun b hb => hm b (List.mem_cons_of_mem _ hb)).trans (set.trans (if_neg fun e => hm a (List.mem_cons_self ..) e.symm))

theorem writeAll_general {s : State} (h : s.TablesOk) (r : Rid) {l : List Mv} (hl : ∀ m ∈ l, m.General) : s.writeAll r l = s.setRunner r ((s.runner r).setAll l) := by
  have all : (l.filter fun m => !s.isTrig r m.slot.dst && !m.isExt) = l := by
    refine List.filter_eq_self.2 fun m hm => ?_
    have := List.any_eq_false.1 (no_ext hl) m hm
    rw [isTrig_register s r (hl m hm).dst]
    simpa using this
  have apart : (l.any fun a => l.any fun b => overlap a.slot.dst b.slot.dst) = false := by
    rw [List.any_eq_false]
    intro a ha
    rw [Bool.not_eq_true, List.any_eq_false]
    intro b hb
    have := (hl a ha).dst
    have := (hl b hb).dst
    unfold overlap
    rw [beq_eq_false_iff_ne.2 (show a.slot.dst ≠ 0x40 by omega), beq_eq_false_iff_ne.2 (show b.slot.dst ≠ 0x40 by omega),
      decide_eq_false (show ¬0x80 ≤ a.slot.dst by omega)]
    simp
  have moved (l : List Mv) (hl : ∀ m ∈ l, m.General) (x : Runner) :
      (s.setRunner r x).each l (fun s m => s.writePort r m.slot.dst m.val) = s.setRunner r (x.setAll l) := by
    induction l generalizing x with
    | nil => rfl
    | cons m l ih =>
      have step : (s.setRunner r x).writePort r m.slot.dst m.val = s.setRunner r (x.setG m.slot.dst m.val) := by
        unfold State.writePort
        dsimp only
        rw [if_pos (hl m (List.mem_cons_self ..)).dst, State.runner_setRunner h, State.setRunner_setRunner h]
      rw [each_cons, step]
      exact ih (fun m hm => hl m (List.mem_cons_of_mem _ hm)) _
  unfold State.writeAll State.plainMoves
  dsimp only
  rw [all, apart]
  exact (congrArg (fun t : State => t.each l fun s m => s.writePort r m.slot.dst m.val) (State.setRunner_self h r).symm).trans (moved l hl _)

/-- STL at the end of a stall (R48, R65). -/
def Runner.stlEnd (x : Runner) (now : Nat) : Word := match x.stallAt with | none => x.stl | some t => x.stl + BitVec.ofNat 64 (2 * (now - t))

theorem stallEnd_stl (x : Runner) (now : Nat) : x.stallEnd now = { x with stl := x.stlEnd now, stallAt := none } := by
  have e : x.stl + BitVec.ofNat 64 (2 * (now - x.stallAt.getD now)) = x.stlEnd now := by
    unfold Runner.stlEnd
    cases x.stallAt <;> simp
  rw [stallEnd_eq, e]

/-- What a commit does to the counts and marks of a runner outside the resume form. -/
theorem beginCommit_eq {x : Runner} (hr : x.resume = none) (bar : Bool) (now : Nat) : x.beginCommit bar now = { x with
    stl := x.stlEnd now, stallAt := none, wcnt := x.wcnt + 1, tries := 0, failPar := false, first := false, noTrap := false, barStop := x.barStop && !bar } := by
  unfold Runner.beginCommit
  rw [stallEnd_stl]
  exact congrArg (fun q => { x with stl := x.stlEnd now, stallAt := none, wcnt := x.wcnt + 1, tries := 0, failPar := false, first := false,
                                    noTrap := false, barStop := x.barStop && !bar, resume := q }) hr.symm

/-- The repeat after a word whose decision is the next address (R130). -/
def Rep.next (p : Rep) (pc : CAddr) : Rep :=
  if (p.act && pc == p.rend) && decide (1 < p.count.toNat) then { p with count := p.count - 1 }
  else if p.act && pc == p.rend then { p with act := false, count := 0 } else p

/-- The address after a word whose decision is the next address: the block's first where the repeat goes on (R130). -/
def Rep.nextPc (p : Rep) (pc : CAddr) : CAddr := if (p.act && pc == p.rend) && decide (1 < p.count.toNat) then p.rbeg else pc + 1

theorem repNext_next (p : Rep) (pc : CAddr) : repNext p pc { act := pc + 1 } false = (p.next pc, p.nextPc pc) := by
  unfold repNext Rep.next Rep.nextPc
  simp only [beq_self_eq_true, Bool.and_true, Bool.not_false, Bool.and_false, Bool.false_and, Bool.false_eq_true, if_false]
  cases p.act && pc == p.rend with
  | false => rfl
  | true =>
    by_cases hc : 1 < p.count.toNat
    · simp [hc]
    · simp [hc]

theorem decision_sequential {s : State} {r : Rid} {x : Runner} (hr : x.resume = none) {w : Word4} (hw : w.mode = 0) (c : Bool) (ws : List Word) :
    s.decision r x w c none ws = some { act := x.pc + 1 } := by
  unfold State.decision
  rw [hr]
  simp [modeDecision, hw]

/-- The commit of a word of general moves: counts and marks, the moves, the next address, the path (R61, R66). -/
theorem commitWord_general {s : State} (h : s.TablesOk) {r : Rid} {w : Word4} (hw : w.mode = 0) (hr : (s.runner r).resume = none) {l : List Mv}
    (hl : ∀ m ∈ l, m.General) : s.commitWord r w l =
      (let x := s.runner r
       let t := s.setRunner r ((x.beginCommit w.bar s.clkS).setAll l)
       ((t.updR r fun y => y.transfer x.pc { act := x.pc + 1 } false).resolve r x w (some { act := x.pc + 1 })).wordDone r x.pc) := by
  have no_trigs : (l.filter fun m => s.isTrig r m.slot.dst && !m.isExt) = [] := trigs_general hl s r _
  have no_rs : (l.any fun m => (rsActOf m.slot.dst).isSome) = false := by
    rw [List.any_eq_false]
    intro m hm
    rw [rsActOf_register (hl m hm).dst]
    exact Bool.false_ne_true
  have no_rep : (l.any fun m => m.slot.dst == 0x1C0) = false := by
    rw [List.any_eq_false]
    intro m hm
    have := (hl m hm).dst
    rw [beq_eq_false_iff_ne.2 (by omega)]
    exact Bool.false_ne_true
  have no_writes : l.filter Mv.isExt = [] := List.filter_eq_nil_iff.2 (List.any_eq_false.1 (no_ext hl))
  have moved : (s.updR r fun x => x.beginCommit w.bar s.clkS).writeAll r l = s.setRunner r (((s.runner r).beginCommit w.bar s.clkS).setAll l) := by
    rw [writeAll_general (updR_ok h r _) r hl, State.runner_updR h, State.updR, State.setRunner_setRunner h]
  have go (c : Bool) : s.commitGo r (s.runner r) c w l [] =
      (let t := (s.updR r fun x => x.beginCommit w.bar s.clkS).writeAll r l
       let d := t.decision r (s.runner r) w c none []
       ((t.flowGo r (s.runner r) d none [] false).resolve r (s.runner r) w d).wordDone r (s.runner r).pc) := by
    unfold State.commitGo State.extWrites
    rw [no_trigs, no_rs, no_rep, no_writes]
    rfl
  unfold State.commitWord
  rw [no_flow hl]
  refine (go _).trans ?_
  rw [moved]
  dsimp only
  rw [decision_sequential hr hw]
  rfl

/-- A runner after a word of plain moves has left its general registers as `g`: counts and marks of a commit, repeat and next address (R66, R130). -/
def Runner.ended (x : Runner) (bar : Bool) (now : Nat) (g : Table Word) : Runner :=
  { x with
    stl := x.stlEnd now, stallAt := none, wcnt := x.wcnt + 1, tries := 0, failPar := false, first := false, noTrap := false, barStop := x.barStop && !bar, g := g,
    pc := x.rep.nextPc x.pc, rep := x.rep.next x.pc }

/-- A word of plain moves has ended: only the general registers, the counts and marks of a commit, the repeat and the next address are new. -/
theorem commitWord_plain {s : State} (h : s.TablesOk) {r : Rid} {w : Word4} (hw : w.Plain (s.runner r).grd) (hr : (s.runner r).resume = none)
    (hg : twf 0 (s.runner r).g = true) :
    let x := s.runner r
    ∃ y, s.commitWord r w (w.moves x) = (s.setRunner r y).setReg r.page 0x10C (BitVec.ofNat 32 (2 ^ 31 + x.pc.toNat))
      ∧ (∀ n, (∀ k ∈ w.performed x.grd, k.dst = n → y.gr n = (x.moveOf k).val) ∧ ((∀ k ∈ w.performed x.grd, k.dst ≠ n) → y.gr n = x.gr n))
      ∧ y.plain = (x.ended w.bar s.clkS y.g).plain := by
  intro x
  have hl := moves_general hw
  have apart : (w.moves x).Pairwise fun a b => a.slot.dst ≠ b.slot.dst :=
    List.pairwise_map.2 ((hw.nodup.filter _).imp_of_mem fun ha hb hne e => hne (hw.distinct _ ha _ hb e))
  obtain ⟨g, hset⟩ := setAll_registers (x.beginCommit w.bar s.clkS) (w.moves x)
  have registers := gr_setAll (x := x.beginCommit w.bar s.clkS) (by rw [beginCommit_eq hr]; exact hg) apart
  rw [beginCommit_eq hr] at hset registers
  rw [hset] at registers
  rw [commitWord_general h hw.mode hr hl]
  dsimp only
  rw [beginCommit_eq hr, hset]
  unfold State.wordDone State.resolve
  rw [State.updR_setRunner h, State.updR_setRunner h, State.updR_setRunner h]
  generalize hy₁ : Runner.refetch _ _ = y₁
  have plain₁ : y₁.plain = (x.ended w.bar s.clkS g).plain := by
    rw [← hy₁, refetch_plain, resolve_plain, transfer_plain]
    dsimp only
    rw [repNext_next]
    rfl
  obtain ⟨y, hy, plain⟩ := follow_plain (State.setRunner_ok h r y₁) r
  rw [State.runner_setRunner h, plain₁] at plain
  rw [hy, State.setRunner_setRunner h]
  have hyg : y.g = g := congrArg Runner.g plain
  refine ⟨y, rfl, fun n => ?_, ?_⟩
  · obtain ⟨own, other⟩ := registers n
    have gr : y.gr n = tget 0 g n := congrArg (tget 0 · n) hyg
    refine ⟨fun k hk e => ?_, fun hk => ?_⟩
    · exact gr.trans (own _ (List.mem_map_of_mem hk) e)
    · exact gr.trans (other fun m hm => by
        obtain ⟨k, hk', rfl⟩ := List.mem_map.1 hm
        exact hk k hk')
  · rw [plain, hyg]

end Sys2Proof.Machine
end

section
/-! Words as they are executed: the first execution and the retry, what the word's fields are, commit and failure (R50 to R53, R66, R71, R72). -/
namespace Sys2Proof.Machine

/-- A runner that differs in prediction and fetching alone. -/
theorem eq_of_plain {y x : Runner} (h : y.plain = x.plain) : y = { x with
    book := y.book, hist := y.hist, rpred := y.rpred, ahead := y.ahead, fnext := y.fnext, latent := y.latent, mpred := y.mpred, fbuf := y.fbuf } :=
  congrArg (fun z : Runner => { z with
    book := y.book, hist := y.hist, rpred := y.rpred, ahead := y.ahead, fnext := y.fnext, latent := y.latent, mpred := y.mpred, fbuf := y.fbuf }) h

theorem reg_setRunner (s : State) (r : Rid) (x : Runner) (p off : Nat) : (s.setRunner r x).reg p off = s.reg p off := by cases r <;> rfl

theorem clkS_setRunner (s : State) (r : Rid) (x : Runner) : (s.setRunner r x).clkS = s.clkS := by cases r <;> rfl

/-- The runner as its word is executed: CTL's fields are taken where the word begins (R75). -/
def State.executing (s : State) (r : Rid) (x : Runner) : Runner := { x with ctlEff := if x.tries = 0 ∧ x.stallAt = none then s.reg r.page 0x100 else x.ctlEff }

/-- A word is executed on a runner whose path has been followed and that has taken CTL's fields (R75, R140). -/
theorem begun_word {s : State} (h : s.TablesOk) (r : Rid) (x : Runner) :
    ∃ y, ((s.setRunner r x).follow r).beginWord r = s.setRunner r y ∧ y.plain = (s.executing r x).plain := by
  obtain ⟨y, hy, plain⟩ := follow_plain (State.setRunner_ok h r x) r
  rw [State.runner_setRunner h] at plain
  have begins : y.tries = 0 ∧ y.stallAt.isNone = true ↔ x.tries = 0 ∧ x.stallAt = none := by
    rw [show y.tries = x.tries from (congrArg Runner.tries plain : y.plain.tries = x.plain.tries),
      show y.stallAt = x.stallAt from (congrArg Runner.stallAt plain : y.plain.stallAt = x.plain.stallAt), Option.isNone_iff_eq_none]
  rw [hy, State.setRunner_setRunner h]
  unfold State.beginWord State.executing
  dsimp only
  rw [State.runner_setRunner h, State.updR_setRunner h, reg_setRunner]
  by_cases hb : x.tries = 0 ∧ x.stallAt = none
  · rw [if_pos (begins.2 hb), if_pos hb]
    exact ⟨_, rfl, congrArg (fun z : Runner => { z with ctlEff := s.reg r.page 0x100 }) plain⟩
  · rw [if_neg (mt begins.1 hb), if_neg hb]
    exact ⟨y, rfl, plain⟩

/-- A check of a word has failed (R71, R72). -/
theorem failed_eq {x : Runner} (hm : x.pendM = none) (par : Bool) (now : Nat) : x.failed par now = { x with
    stl := x.stlEnd now, stallAt := none, tries := x.tries + 1, failPar := par, resFail := false,
    pendM := if 2 ≤ x.tries then some 0x30 else none, pendMCS := if 2 ≤ x.tries then par else x.pendMCS } := by
  unfold Runner.failed
  rw [stallEnd_stl]
  dsimp only
  by_cases h : 2 ≤ x.tries
  · rw [if_pos (by omega), if_pos h, if_pos h]
  · rw [if_neg (by omega), if_neg h, if_neg h]
    exact congrArg (fun q => { x with
      stl := x.stlEnd now, stallAt := none, tries := x.tries + 1, failPar := par, resFail := false, pendM := q }) hm

theorem failed_plain {x y : Runner} (h : y.plain = x.plain) (par : Bool) (now : Nat) : (y.failed par now).plain = (x.failed par now).plain := by
  rw [eq_of_plain h]
  unfold Runner.failed
  rw [stallEnd_stl, stallEnd_stl]
  dsimp only
  split <;> rfl

section
variable {s : State} (h : s.TablesOk) {r : Rid} {x : Runner} {raw : MoveWord} (hf : x.fetched x.pc = some raw) (hc : x.pc.toNat < (s.cstore r.home).count)
include h hf hc

/-- One execution of the word at pc, by the two checks of the word and its evaluation (R51, R71). -/
theorem execWord_eq (upset full : Bool) : ∃ y, y.plain = (s.executing r x).plain ∧ (s.setRunner r x).execWord r upset full =
    if parityOk raw then
      if ((s.setRunner r y).evalWord r (wordOf raw) full).2 && (upset || x.resFail) then s.setRunner r (y.failed false s.clkS)
      else ((s.setRunner r y).evalWord r (wordOf raw) full).1
    else (s.updCs r.home fun c => { c with errors := satCount16 c.errors }).setRunner r (y.failed true s.clkS) := by
  obtain ⟨y, hy, plain⟩ := begun_word h r x
  have store (z : Runner) : (s.setRunner r z).cstore r.home = s.cstore r.home := by cases r <;> rfl
  have ok : (s.updCs r.home fun c => { c with errors := satCount16 c.errors }).TablesOk := (updCs_kept (.refl s)).tab h
  have counted (z : Runner) : ((s.setRunner r z).updCs r.home fun c => { c with errors := satCount16 c.errors }) =
      (s.updCs r.home fun c => { c with errors := satCount16 c.errors }).setRunner r z := by cases r <;> rfl
  refine ⟨y, plain, ?_⟩
  unfold State.execWord
  dsimp only
  rw [State.runner_setRunner h, hf]
  dsimp only
  rw [hy, store, if_neg (by omega), counted, State.updR_setRunner ok, State.updR_setRunner h, clkS_setRunner]
  cases parityOk raw <;> rfl

/-- A word that fails its parity: the store's count, and the tries of the word (R51, R71). -/
theorem execWord_parity (hp : parityOk raw = false) (upset full : Bool) : ∃ y, y.plain = ((s.executing r x).failed true s.clkS).plain
    ∧ (s.setRunner r x).execWord r upset full = (s.updCs r.home fun c => { c with errors := satCount16 c.errors }).setRunner r y := by
  obtain ⟨y, plain, e⟩ := execWord_eq h hf hc upset full
  rw [hp] at e
  exact ⟨_, failed_plain plain true s.clkS, e⟩

end

section
variable {s : State} (h : s.TablesOk) {r : Rid} {x : Runner} {raw : MoveWord} (hf : x.fetched x.pc = some raw) (hc : x.pc.toNat < (s.cstore r.home).count)
  (hp : parityOk raw = true) (hw : (wordOf raw).Plain x.grd) (hr : x.resume = none) (ho : ∀ o ∈ x.ops, ∀ e ∈ o.res, 0x40 ≤ e.1)
include h hf hc hp hw hr ho

/-- A word of plain moves, by the check that fails in its execution (R66, R71). -/
theorem execWord_plain (upset full : Bool) : ∃ y, y.plain = (s.executing r x).plain ∧ (s.setRunner r x).execWord r upset full =
    if upset || x.resFail then s.setRunner r (y.failed false s.clkS) else (s.setRunner r y).commitWord r (wordOf raw) ((wordOf raw).moves y) := by
  obtain ⟨y, plain, e⟩ := execWord_eq h hf hc upset full
  have hy := eq_of_plain plain
  have run := State.runner_setRunner h r y
  have eval := evalWord_plain (s := s.setRunner r y) (r := r) (w := wordOf raw) (by rw [run, hy]; exact hw) (by rw [run, hy]; exact hr) (by rw [run, hy]; exact ho) full
  rw [hp, if_pos rfl, eval, run] at e
  exact ⟨y, plain, e⟩

/-- A check that fails in the execution leaves the count of the tries (R71). -/
theorem execWord_fails {upset : Bool} (hu : (upset || x.resFail) = true) (full : Bool) :
    ∃ y, y.plain = ((s.executing r x).failed false s.clkS).plain ∧ (s.setRunner r x).execWord r upset full = s.setRunner r y := by
  obtain ⟨y, plain, e⟩ := execWord_plain h hf hc hp hw hr ho upset full
  rw [hu] at e
  exact ⟨_, failed_plain plain false s.clkS, e⟩

/-- The word commits where no check fails (R66). -/
theorem execWord_commits (hres : x.resFail = false) (hg : twf 0 x.g = true) (full : Bool) : ∃ y,
    (s.setRunner r x).execWord r false full = (s.setRunner r y).setReg r.page 0x10C (BitVec.ofNat 32 (2 ^ 31 + x.pc.toNat))
    ∧ (∀ n, (∀ k ∈ (wordOf raw).performed x.grd, k.dst = n → y.gr n = (x.moveOf k).val) ∧ ((∀ k ∈ (wordOf raw).performed x.grd, k.dst ≠ n) → y.gr n = x.gr n))
    ∧ y.plain = ((s.executing r x).ended (wordOf raw).bar s.clkS y.g).plain := by
  obtain ⟨z, plain, e⟩ := execWord_plain h hf hc hp hw hr ho false full
  have hz := eq_of_plain plain
  have run := State.runner_setRunner h r z
  obtain ⟨y, commit, regs, ended⟩ := commitWord_plain (State.setRunner_ok h r z) (r := r) (w := wordOf raw) (by rw [run, hz]; exact hw) (by rw [run, hz]; exact hr)
    (by rw [run, hz]; exact hg)
  rw [run] at commit regs ended
  rw [State.setRunner_setRunner h] at commit
  rw [clkS_setRunner] at ended
  rw [hres, if_neg (by decide), commit] at e
  rw [hz] at e regs ended
  exact ⟨y, e, regs, ended⟩

end

/-! The fields of a word (R50, R52, R53) -/

/-- A field of slot `k`, as bits of the word. -/
theorem slot_bits (w : MoveWord) (k : Nat) {hi lo : Nat} (h : lo + (hi - lo + 1) ≤ 32) :
    w.toNat / 2 ^ (32 * k + lo) % 2 ^ ((32 * k + hi) - (32 * k + lo) + 1) = fld (w.extractLsb' (32 * k) 32) hi lo := by
  rw [fld_slot w k h, Nat.add_sub_add_left]

theorem slotAt_imm_bits (w : MoveWord) (k : Nat) : (w.toNat / 2 ^ (32 * k + 27) % 2 ^ ((32 * k + 27) - (32 * k + 27) + 1) = 1) ↔ (slotAt w k).imm = true := by
  rw [slotAt_imm, decide_eq_true_eq, Nat.sub_self]
  exact Iff.rfl

/-- A slot is performed where its guard is true (R53, R55). -/
theorem performed_iff (w : MoveWord) (g : BitVec 8) (k : Nat) : ((slotAt w k).isEmpty = false ∧ guardTrue g (slotAt w k).guard = true) ↔
    ((slotAt w k).guard = 0 ∨ ((slotAt w k).guard < 8 ∧ g.getLsbD (slotAt w k).guard = true) ∨ (8 < (slotAt w k).guard ∧ g.getLsbD ((slotAt w k).guard - 8) = false)) := by
  rw [← guard_performs, Bool.and_eq_true, Bool.not_eq_true']
  rfl

theorem moveSlots {w : MoveWord} (hl : fld w 155 154 = 0) : (wordOf w).slots = (List.range 4).map (slotAt w) :=
  wordOf_slots ((fld_eq_div_mod w 155 154).symm.trans hl)

theorem mem_performed_wordOf {w : MoveWord} (hl : fld w 155 154 = 0) {g : BitVec 8} {q : Slot} : q ∈ (wordOf w).performed g ↔
    ∃ k, k < 4 ∧ (slotAt w k).isEmpty = false ∧ guardTrue g (slotAt w k).guard = true ∧ slotAt w k = q := by
  rw [mem_performed, moveSlots hl, List.mem_map]
  constructor
  · rintro ⟨⟨k, hk, rfl⟩, he, hg⟩
    exact ⟨k, List.mem_range.1 hk, he, hg, rfl⟩
  · rintro ⟨k, hk, he, hg, rfl⟩
    exact ⟨⟨k, List.mem_range.2 hk, rfl⟩, he, hg⟩

theorem wordOf_plain {w : MoveWord} {g : BitVec 8} (hr : w.getLsbD 159 = false) (hh : fld w 157 156 ≠ 3) (hl : fld w 155 154 = 0) (hm : fld w 151 149 = 0)
    (hc : fld w 148 143 < 0x18) (hs : ∀ k < 4, (slotAt w k).plainMove)
    (hd : ∀ a ∈ (wordOf w).performed g, ∀ b ∈ (wordOf w).performed g, a.dst = b.dst → a = b) : (wordOf w).Plain g where
  rsv := hr
  hint := hh
  limm := hl
  mode := hm
  cond := hc
  slots k hk := by
    rw [moveSlots hl, List.mem_map] at hk
    obtain ⟨j, hj, rfl⟩ := hk
    exact hs j (List.mem_range.1 hj)
  nodup := by
    rw [moveSlots hl]
    exact List.nodup_range.map fun i j e => congrArg Slot.idx e
  distinct := hd

end Sys2Proof.Machine
end

section
/-! A word of plain moves, first executed or retried: how it ends, how it fails (R50 to R56, R60, R66, R71, R72, R130). -/
namespace Sys2Proof.Machine

/-- The state in which a word is retried: the retry is counted and reported (R72). -/
def State.retried (s : State) (r : Rid) : State := (s.wrapInc r.page 0x104 31 0).report 0x00 0 r.page r.page 0 (s.runner r).pc.toNat

theorem retried_ok {s : State} (h : s.TablesOk) (r : Rid) : (s.retried r).TablesOk := (report_kept (wrapInc_kept (.refl s))).tab h

theorem retried_runner (s : State) (r r' : Rid) : (s.retried r).runner r' = s.runner r' := by cases r' <;> rfl

theorem pendM_of_canStep {s : State} {r : Rid} (h : s.canStep r = true) : (s.runner r).pendM = none := by
  unfold State.canStep at h
  dsimp only at h
  simp only [Bool.and_eq_true, Option.isNone_iff_eq_none] at h
  exact h.1.2

section
variable {s u : State} {r : Rid} {z : Runner} {q : BitVec 32} {c : Reg} {raw : MoveWord}

/-- The word is executed on a runner that is as in `s`, the count of retries, CTL's fields, prediction and fetching apart. -/
structure Executes (s u : State) (r : Rid) (z : Runner) (q : BitVec 32) (c : Reg) (raw : MoveWord) : Prop where
  tables  : u.TablesOk
  runner  : u.runner r = s.runner r
  clock   : u.clkS = s.clkS
  stored  : z.pc.toNat < (u.cstore r.home).count
  fetched : z.fetched z.pc = some raw
  plain   : (u.executing r z).plain = ({ s.runner r with rty := q, ctlEff := c } : Runner).plain

/-- What a word of plain moves asks of its runner. -/
structure Ready (x : Runner) (raw : MoveWord) : Prop where
  parity : parityOk raw = true
  word   : (wordOf raw).Plain x.grd
  resume : x.resume = none
  ops    : ∀ o ∈ x.ops, ∀ e ∈ o.res, 0x40 ≤ e.1

/-- A field that neither prediction, fetching, the count of retries nor CTL concerns. -/
theorem Executes.same (h : Executes s u r z q c raw) {α : Type} (f : Runner → α) (hf : ∀ x, f x.plain = f x := by exact fun _ => rfl) :
    f (u.executing r z) = f { s.runner r with rty := q, ctlEff := c } := by
  rw [← hf, h.plain, hf]

theorem Executes.ready (h : Executes s u r z q c raw) (k : Ready (s.runner r) raw) : Ready z raw where
  parity := k.parity
  word := by
    rw [show z.grd = (s.runner r).grd from h.same Runner.grd]
    exact k.word
  resume := (h.same Runner.resume).trans k.resume
  ops := by
    rw [show z.ops = (s.runner r).ops from h.same Runner.ops]
    exact k.ops

/-- The word ends: the moves, the counts and marks of a commit, the repeat, the next address (R66). -/
theorem Executes.ends (h : Executes s u r z q c raw) (k : Ready (s.runner r) raw) (hres : (s.runner r).resFail = false) (hg : twf 0 (s.runner r).g = true) (full : Bool) :
    ∃ y, ((u.setRunner r z).execWord r false full).thenStop s r = u.wordEnds r y
      ∧ (∀ n, (∀ k ∈ (wordOf raw).performed (s.runner r).grd, k.dst = n → y.gr n = ((s.runner r).moveOf k).val)
        ∧ ((∀ k ∈ (wordOf raw).performed (s.runner r).grd, k.dst ≠ n) → y.gr n = (s.runner r).gr n))
      ∧ y.plain = (({ s.runner r with rty := q, ctlEff := c } : Runner).ended (wordOf raw).bar s.clkS y.g).plain := by
  obtain ⟨parity, word, resume, ops⟩ := h.ready k
  have grd : z.grd = (s.runner r).grd := h.same Runner.grd
  have g : z.g = (s.runner r).g := h.same Runner.g
  have pc : z.pc = (s.runner r).pc := h.same Runner.pc
  have resFail : z.resFail = (s.runner r).resFail := h.same Runner.resFail
  have gr (n : Nat) : z.gr n = (s.runner r).gr n := congrArg (tget 0 · n) g
  have move (k : Slot) : z.moveOf k = (s.runner r).moveOf k := by
    unfold Runner.moveOf
    rw [gr]
  obtain ⟨y, e, regs, plain⟩ := execWord_commits h.tables h.fetched h.stored parity word resume ops (resFail.trans hres) (g ▸ hg) full
  rw [h.clock, eq_of_plain h.plain] at plain
  refine ⟨y, ?_, fun n => ?_, plain⟩
  · unfold State.wordEnds State.thenStop
    rw [e, pc, h.runner]
  · have := regs n
    rw [grd, gr] at this
    simpa only [move] using this

/-- The word fails a check: only its tries are counted, and the third failure is a machine check (R71, R72). -/
theorem Executes.fails (h : Executes s u r z q c raw) (k : Ready (s.runner r) raw) {upset : Bool}
    (hu : (upset || (s.runner r).resFail) = true) (full : Bool) : ∃ y, (u.setRunner r z).execWord r upset full = u.setRunner r y ∧
      y.plain = (({ s.runner r with rty := q, ctlEff := c } : Runner).failed false s.clkS).plain := by
  obtain ⟨parity, word, resume, ops⟩ := h.ready k
  have resFail : z.resFail = (s.runner r).resFail := h.same Runner.resFail
  obtain ⟨y, plain, e⟩ := execWord_fails h.tables h.fetched h.stored parity word resume ops (upset := upset) (resFail ▸ hu) full
  rw [h.clock] at plain
  exact ⟨y, e, plain.trans (failed_plain h.plain false s.clkS)⟩

end

/-! The commands (R66, R72) -/

theorem moveWord_first {s : State} {r : Rid} (hs : s.canStep r = true) (ht : s.throttled r = false) (hf : (s.runner r).tries = 0 ∨ (s.runner r).stallAt ≠ none)
    (upset full : Bool) : exec (.moveWord r upset full) s = .next ((s.execWord r upset full).thenStop s r) := by
  refine congrArg Host.Outcome.next (if_pos ?_)
  rw [hs, ht, Bool.not_false, Bool.and_true, Bool.true_and, Bool.or_eq_true, beq_iff_eq, Option.isSome_iff_ne_none]
  exact hf

/-- The fetch buffer of a runner that fetches a line anew (R72, R182). -/
def Runner.refetched (x : Runner) (line : Nat) (ws : List MoveWord) : Runner :=
  { x with fbuf := x.fbuf.map (fun e => if e.1 = line then (line, ws) else e), ahead := [], fnext := none, injPar := false }

theorem fetched_refetched {x : Runner} (hf : x.fetched x.pc ≠ none) (ws : List MoveWord) : (x.refetched (x.pc.toNat / 4) ws).fetched x.pc = ws[x.pc.toNat % 4]? := by
  unfold Runner.fetched at hf ⊢
  unfold Runner.refetched
  dsimp only
  rw [List.find?_map]
  have key : ((fun e : Nat × List MoveWord => e.1 == x.pc.toNat / 4) ∘ fun e => if e.1 = x.pc.toNat / 4 then (x.pc.toNat / 4, ws) else e) =
      fun e => e.1 == x.pc.toNat / 4 := by
    funext e
    by_cases he : e.1 = x.pc.toNat / 4 <;> simp [he]
  rw [key]
  cases e : x.fbuf.find? fun e => e.1 == x.pc.toNat / 4 with
  | none =>
    rw [e] at hf
    exact absurd rfl hf
  | some a =>
    have ha : a.1 = x.pc.toNat / 4 := by simpa using List.find?_some e
    rw [Option.map_some, if_pos ha]

section
variable {s : State} {r : Rid} (h : s.TablesOk) (hs : s.canStep r = true) (ht : s.throttled r = false) (h0 : 0 < (s.runner r).tries)
  (hst : (s.runner r).stallAt = none)
include hs ht h0 hst

/-- A retry, by the fence of the line where the word failed its parity (R72, R182, R183). -/
theorem wordRetry_eq (upset full : Bool) : s.wordRetry r upset full false =
    (let x := s.runner r
     let f := if x.failPar then s.fenceOf r.home (x.pc.toNat / 4) else 0
     let u := (s.retried r).setRunner r { x with rty := x.rty + 1 }
     let ws := s.lineWords r.home (x.pc.toNat / 4)
     if f = 1 then s
     else if f = 2 then s.updR r fun x => { x with pendM := some 0x30 }
     else ((if x.failPar then u.updR r fun z => z.refetched (x.pc.toNat / 4) (if z.injPar then spoil ws (z.pc.toNat % 4) else ws) else u).execWord r upset full).thenStop s r) := by
  have goes_on : (!s.canStep r || s.throttled r || (s.runner r).tries == 0 || (s.runner r).stallAt.isSome) = false := by
    rw [hs, ht, hst, beq_eq_false_iff_ne.2 (by omega)]
    rfl
  have counted : ((s.updR r fun x => { x with rty := x.rty + 1 }).wrapInc r.page 0x104 31 0).report 0x00 0 r.page r.page 0 (s.runner r).pc.toNat =
      (s.retried r).setRunner r { s.runner r with rty := (s.runner r).rty + 1 } := by cases r <;> rfl
  have line (z : Runner) (n : Nat) : ((s.retried r).setRunner r z).lineWords r.home n = s.lineWords r.home n := by cases r <;> rfl
  unfold State.wordRetry
  dsimp only
  rw [goes_on, counted, line]
  rfl

/-- The word whose check failed for another reason than its parity is executed again (R72). -/
theorem wordRetry_upset (hp : (s.runner r).failPar = false) (upset full : Bool) : exec (.wordRetry r upset full false) s =
    .next ((((s.retried r).setRunner r { s.runner r with rty := (s.runner r).rty + 1 }).execWord r upset full).thenStop s r) := by
  refine congrArg Host.Outcome.next ((wordRetry_eq hs ht h0 hst upset full).trans ?_)
  dsimp only
  rw [hp]
  rfl

include h in
/-- After a parity failure the word is fetched anew (R72, R182). -/
theorem wordRetry_parity (hp : (s.runner r).failPar = true) (hi : (s.runner r).injPar = false) (hf : s.fenceOf r.home ((s.runner r).pc.toNat / 4) = 0)
    (upset full : Bool) : exec (.wordRetry r upset full false) s =
    .next ((((s.retried r).setRunner r (({ s.runner r with rty := (s.runner r).rty + 1 } : Runner).refetched ((s.runner r).pc.toNat / 4)
      (s.lineWords r.home ((s.runner r).pc.toNat / 4)))).execWord r upset full).thenStop s r) := by
  refine congrArg Host.Outcome.next ((wordRetry_eq hs ht h0 hst upset full).trans ?_)
  dsimp only
  rw [hp, if_pos rfl, if_pos rfl, hf, if_neg (by decide), if_neg (by decide), State.updR_setRunner (retried_ok h r)]
  dsimp only
  rw [hi]
  rfl

/-- While the line is being reloaded the word waits (R183). -/
theorem wordRetry_waits (hp : (s.runner r).failPar = true) (hf : s.fenceOf r.home ((s.runner r).pc.toNat / 4) = 1) (upset full : Bool) :
    exec (.wordRetry r upset full false) s = .next s := by
  refine congrArg Host.Outcome.next ((wordRetry_eq hs ht h0 hst upset full).trans ?_)
  dsimp only
  rw [hp, if_pos rfl, hf]
  rfl

end

/-! The three executions that the statement names -/

theorem executes_first {s : State} {r : Rid} {raw : MoveWord} (h : s.TablesOk) (hc : (s.runner r).pc.toNat < (s.cstore r.home).count)
    (hf : (s.runner r).fetched (s.runner r).pc = some raw) :
    Executes s s r (s.runner r) (s.runner r).rty (if (s.runner r).tries = 0 ∧ (s.runner r).stallAt = none then s.reg r.page 0x100 else (s.runner r).ctlEff) raw :=
  ⟨h, rfl, rfl, hc, hf, rfl⟩

theorem executes_again {s : State} {r : Rid} {raw : MoveWord} (h : s.TablesOk) (hc : (s.runner r).pc.toNat < (s.cstore r.home).count)
    (h0 : 0 < (s.runner r).tries) {z : Runner} (hf : z.fetched z.pc = some raw) (hz : z.plain = ({ s.runner r with rty := (s.runner r).rty + 1 } : Runner).plain) :
    Executes s (s.retried r) r z ((s.runner r).rty + 1) (s.runner r).ctlEff raw := by
  have pc : z.pc = (s.runner r).pc := (congrArg Runner.pc hz : z.plain.pc = _)
  have tries : z.tries = (s.runner r).tries := (congrArg Runner.tries hz : z.plain.tries = _)
  refine ⟨retried_ok h r, retried_runner s r r, rfl, pc ▸ hc, hf, ?_⟩
  unfold State.executing
  rw [if_neg fun c => by omega]
  exact hz

theorem executes_anew {s : State} {r : Rid} {raw : MoveWord} (h : s.TablesOk) (hc : (s.runner r).pc.toNat < (s.cstore r.home).count)
    (h0 : 0 < (s.runner r).tries) (hf : (s.runner r).fetched (s.runner r).pc ≠ none)
    (hst : (s.lineWords r.home ((s.runner r).pc.toNat / 4))[(s.runner r).pc.toNat % 4]? = some raw) (hi : (s.runner r).injPar = false) :
    Executes s (s.retried r) r (({ s.runner r with rty := (s.runner r).rty + 1 } : Runner).refetched ((s.runner r).pc.toNat / 4) (s.lineWords r.home ((s.runner r).pc.toNat / 4)))
      ((s.runner r).rty + 1) (s.runner r).ctlEff raw :=
  executes_again h hc h0 ((fetched_refetched (x := { s.runner r with rty := (s.runner r).rty + 1 }) hf _).trans hst)
    (congrArg (fun b => ({ s.runner r with rty := (s.runner r).rty + 1, injPar := b } : Runner).plain) hi.symm)

end Sys2Proof.Machine
end

section
/-! The statement about words (R50 to R56, R60, R66, R71, R72, R130). -/
namespace Sys2Proof.Machine

/-- Settles O28: the word's fields are those of a word of plain moves; its first execution and its retry end or fail as such a word does. -/
theorem wordsComplete : Obligations.WordsComplete := by
  unfold Obligations.WordsComplete
  intro s r full raw h hcan hthr x bits guard imm src dst size done slotOk good value moved regs last again ctl stl ends fails first again' u z stored hcount
  have hm : x.pendM = none := pendM_of_canStep hcan
  have hstl : stl = x.stlEnd s.clkS := by
    show (match (s.runner r).stallAt with | none => (s.runner r).stl | some t => (s.runner r).stl + BitVec.ofNat 64 (2 * (s.clkS - t))) = _
    unfold Runner.stlEnd
    cases (s.runner r).stallAt <;> rfl
  have hbar : (bits 158 158 == 0) = !(wordOf raw).bar := by
    show (raw.toNat / 2 ^ 158 % 2 == 0) = !raw.getLsbD 158
    rw [getLsbD_eq_decide]
    rcases Nat.mod_two_eq_zero_or_one (raw.toNat / 2 ^ 158) with e | e <;> rw [e] <;> rfl
  have hguard (k : Nat) : guard k = (slotAt raw k).guard := slot_bits raw k (hi := 31) (lo := 28) (by decide)
  have hsrc (k : Nat) : src k = (slotAt raw k).src := slot_bits raw k (hi := 26) (lo := 16) (by decide)
  have hdst (k : Nat) : dst k = (slotAt raw k).dst := slot_bits raw k (hi := 15) (lo := 5) (by decide)
  have hsize (k : Nat) : size k = (slotAt raw k).size := slot_bits raw k (hi := 4) (lo := 3) (by decide)
  have hrsv (k : Nat) : bits (32 * k + 2) (32 * k) = (slotAt raw k).rsv := slot_bits raw k (hi := 2) (lo := 0) (by decide)
  have hlow (k : Nat) : bits (32 * k + 27) (32 * k) = (slotAt raw k).low := slot_bits raw k (hi := 27) (lo := 0) (by decide)
  have himm (k : Nat) : imm k ↔ (slotAt raw k).imm = true := slotAt_imm_bits raw k
  have hdone (k : Nat) : done k ↔ k < 4 ∧ (slotAt raw k).isEmpty = false ∧ guardTrue x.grd (slotAt raw k).guard = true := by
    rw [performed_iff, ← hguard]
  have hmoved (k : Nat) : moved k = (x.moveOf (slotAt raw k)).val := by
    have hvalue : value k = (if (slotAt raw k).imm then (BitVec.ofNat 11 (slotAt raw k).src).signExtend 64 else x.gr (slotAt raw k).src).toNat := by
      rw [← hsrc]
      exact congrArg BitVec.toNat (if_congr (himm k) rfl rfl)
    show BitVec.ofNat 64 (value k % 2 ^ (64 / 2 ^ size k)) = _
    rw [hvalue, hsize]
    rfl
  have move (k : Nat) (hk : slotOk k) : (slotAt raw k).plainMove := by
    unfold Slot.plainMove Slot.isEmpty
    rw [← hlow, ← hrsv, ← hdst, ← hsrc, ← himm, ← hguard]
    exact (if_congr beq_iff_eq rfl rfl).mpr hk
  have performed {q : Slot} (hl : bits 155 154 = 0) : q ∈ (wordOf raw).performed x.grd ↔ ∃ k, done k ∧ slotAt raw k = q := by
    rw [mem_performed_wordOf ((fld_eq_div_mod raw 155 154).trans hl)]
    exact exists_congr fun k => by rw [hdone, and_assoc, and_assoc]
  have plain (hg : good) : (wordOf raw).Plain x.grd := by
    obtain ⟨hrsv', hhint, hlimm, hmode, hcond, hslots, hne⟩ := hg
    refine wordOf_plain ?_ ?_ ((fld_eq_div_mod raw 155 154).trans hlimm) ((fld_eq_div_mod raw 151 149).trans hmode) (((fld_eq_div_mod raw 148 143) : _ = bits 148 143) ▸ hcond)
      (fun k hk => move k (hslots k hk)) fun a ha b hb e => ?_
    · rw [getLsbD_eq_decide, decide_eq_false_iff_not]
      exact fun c => absurd ((hrsv' : raw.toNat / 2 ^ 159 % 2 = 0).symm.trans c) (by decide)
    · rw [fld_eq_div_mod]
      exact Nat.ne_of_lt hhint
    · obtain ⟨j, hj, rfl⟩ := (performed hlimm).1 ha
      obtain ⟨k, hk, rfl⟩ := (performed hlimm).1 hb
      rw [hne j k hj hk (by rw [hdst, hdst]; exact e)]
  have no_literal (hg : good) : bits 155 154 = 0 := by
    obtain ⟨-, -, hl, -⟩ := hg
    exact hl
  have registers (hg : good) {y : Runner} (hy : ∀ n, (∀ k ∈ (wordOf raw).performed x.grd, k.dst = n → y.gr n = (x.moveOf k).val)
      ∧ ((∀ k ∈ (wordOf raw).performed x.grd, k.dst ≠ n) → y.gr n = x.gr n)) : regs y := by
    refine fun n _ => ⟨fun k hk e => ?_, fun hk => (hy n).2 fun q hq => ?_⟩
    · rw [hmoved]
      exact (hy n).1 _ ((performed (no_literal hg)).2 ⟨k, hk, rfl⟩) (by rw [← hdst]; exact e)
    · obtain ⟨k, hk', rfl⟩ := (performed (no_literal hg)).1 hq
      rw [← hdst]
      exact hk k hk'
  have ends_of {t : State} {y' : Runner} {q : BitVec 32} {c : Reg} (ex : Executes s t r y' q c raw) (k : Ready x raw) (hg : good) (hres : x.resFail = false)
      (htwf : twf 0 x.g = true) {i : Instr} (hi : exec i s = .next (((t.setRunner r y').execWord r false full).thenStop s r)) :
      ends t { x with rty := q, ctlEff := c } i := by
    obtain ⟨y, e, hy, hplain⟩ := ex.ends k hres htwf full
    refine ⟨y, hi.trans (congrArg Host.Outcome.next e), registers hg hy, ?_⟩
    rw [hstl, hbar]
    exact hplain
  have fails_of {t : State} {y' : Runner} {q : BitVec 32} {c : Reg} (ex : Executes s t r y' q c raw) (k : Ready x raw) {upset : Bool} (hu : (upset || x.resFail) = true)
      {i : Instr} (hi : exec i s = .next (((t.setRunner r y').execWord r upset full).thenStop s r)) : fails t { x with rty := q, ctlEff := c } false i := by
    obtain ⟨y, e, hplain⟩ := ex.fails k hu full
    refine ⟨y, hi.trans (by rw [e]), ?_⟩
    rw [failed_eq (x := { s.runner r with rty := q, ctlEff := c }) hm] at hplain
    rw [hstl]
    exact hplain
  have first_word (hf : x.fetched x.pc = some raw) (h1 : first) (upset : Bool) :
      Executes s s r x x.rty ctl raw ∧ exec (.moveWord r upset full) s = .next (((s.setRunner r x).execWord r upset full).thenStop s r) := by
    refine ⟨executes_first h hcount hf, ?_⟩
    rw [moveWord_first hcan hthr h1, show s.setRunner r x = s from State.setRunner_self h r]
  refine ⟨fun hp hg hr hres htwf ho => ⟨fun hf h1 => ⟨?firstEnds, ?firstFails⟩, fun hf ⟨h0, hstall⟩ hpar => ⟨?againEnds, ?againFails⟩,
    fun hf hst ⟨h0, hstall⟩ hpar hinj => ⟨fun hfence => ⟨?anewEnds, ?anewFails⟩, fun hfence => ?waits⟩⟩, fun hp hg hr hres htwf ho hf h1 upset => ?residue, fun hp hf h1 upset => ?parity⟩
  case firstEnds =>
    obtain ⟨ex, hi⟩ := first_word hf h1 false
    exact ends_of ex ⟨hp, plain hg, hr, ho⟩ hg hres htwf hi
  case firstFails =>
    obtain ⟨ex, hi⟩ := first_word hf h1 true
    exact fails_of ex ⟨hp, plain hg, hr, ho⟩ rfl hi
  case againEnds =>
    exact ends_of (executes_again h hcount h0 (z := z) hf rfl) ⟨hp, plain hg, hr, ho⟩ hg hres htwf (wordRetry_upset hcan hthr h0 hstall hpar false full)
  case againFails =>
    exact fails_of (executes_again h hcount h0 (z := z) hf rfl) ⟨hp, plain hg, hr, ho⟩ rfl (wordRetry_upset hcan hthr h0 hstall hpar true full)
  case anewEnds =>
    exact ends_of (executes_anew h hcount h0 hf hst hinj) ⟨hp, plain hg, hr, ho⟩ hg hres htwf (wordRetry_parity h hcan hthr h0 hstall hpar hinj hfence false full)
  case anewFails =>
    exact fails_of (executes_anew h hcount h0 hf hst hinj) ⟨hp, plain hg, hr, ho⟩ rfl (wordRetry_parity h hcan hthr h0 hstall hpar hinj hfence true full)
  case waits => exact wordRetry_waits hcan hthr h0 hstall hpar hfence false full
  case residue =>
    obtain ⟨ex, hi⟩ := first_word hf h1 upset
    exact fails_of ex ⟨hp, plain hg, hr, ho⟩ (by rw [hres, Bool.or_true]) hi
  case parity =>
    obtain ⟨y, hplain, e⟩ := execWord_parity h hf hcount hp upset full
    obtain ⟨-, hi⟩ := first_word hf h1 upset
    refine ⟨y, hi.trans (by rw [e]; rfl), ?_⟩
    rw [failed_eq (x := s.executing r x) hm] at hplain
    rw [hstl]
    exact hplain

end Sys2Proof.Machine
end

section
/-! What a trigger of a unit starts, and the ALUs: exact sums and differences, counts of ones and zeros (R83, R90). -/
namespace Sys2Proof.Machine

/-- A trigger that meets no fault and finds its unit ready is taken; its effect is read off the state in which it is taken. -/
theorem trigger_runs {s : State} (h : s.TablesOk) {r : Rid} (hr : s.executes r) {p : Nat} {t : Trig} {v : Word} (hp : (s.beginWord r).portOpen r p)
    (ht : trigOf p = some t) (hf : (s.beginWord r).trigFaults r t v = []) (hb : (s.beginWord r).trigBusy r t v = false) {f : State → State}
    (hrun : (s.taking r).trigRun r t v = f (s.taking r)) : s.trigger r p v = s.took r f :=
  (trigger_taken hr.1 (resFail_beginWord h hr) hp ht hf hb).trans (took_congr hrun)

/-! ALU0 and ALU1 -/

/-- The port of an ALU trigger, from the base of its unit (R83). -/
def aluPort : AluOp → Nat
  | .add => 0x08 | .sub => 0x09 | .rsub => 0x0A | .band => 0x0B | .bor => 0x0C | .bxor => 0x0D | .andn => 0x0E | .neg => 0x0F
  | .abs => 0x10 | .min => 0x11 | .max => 0x12 | .minu => 0x13 | .maxu => 0x14 | .pop => 0x15 | .clz => 0x16 | .ctz => 0x17

theorem trigOf_aluPort (one : Bool) (op : AluOp) : trigOf (aluBase one + aluPort op) = some (.alu one op) := by cases one <;> cases op <;> rfl

theorem portOpen_alu (s : State) (r : Rid) (one : Bool) (op : AluOp) : s.portOpen r (aluBase one + aluPort op) := by
  cases one <;> cases op <;> exact portOpen_user s r (i := pT) (by decide) (by decide) rfl rfl rfl (by decide)

/-- An ALU's operation in flight, with its result and its flags (R83, R90). -/
def aluOp (one : Bool) (o : Alu) : Op :=
  { unit := aluUnit one, res := [(aluBase one + 0x1C, { val := o.r }), (aluBase one + 0x1D, { val := o.c })], v := o.v, dz := o.dz }

/-- An ALU trigger is taken and starts its function of o_a and its value (R83). -/
theorem alu_taken {s : State} (h : s.TablesOk) {r : Rid} (hr : s.executes r) {one : Bool} {v : Word} (op : AluOp) {o : Alu}
    (ho : aluOut op (s.operand r (aluBase one)) v = o) : s.trigger r (aluBase one + aluPort op) v = s.took r fun t => t.start r (aluOp one o) := by
  refine trigger_runs h hr (portOpen_alu _ r one op) (trigOf_aluPort one op) rfl rfl ?_
  show (s.taking r).start r (aluOp one (aluOut op (((s.taking r).runner r).op (aluBase one)) v)) = _
  rw [taking_op h, show (s.runner r).op (aluBase one) = s.operand r (aluBase one) from rfl, ho]

/-- An integer that 64 bits do not hold reads back as another (R90). -/
theorem toInt_ofInt_ne_iff (x : Int) : (BitVec.ofInt 64 x).toInt ≠ x ↔ x < -2 ^ 63 ∨ 2 ^ 63 ≤ x := by
  rw [BitVec.toInt_ofInt, Int.bmod_def]
  split <;> omega

/-- Two's complement sums and differences are the low bits of the exact ones (R83). -/
theorem ofInt_toInt_add (a v : Word) : BitVec.ofInt 64 (a.toInt + v.toInt) = a + v := by
  rw [BitVec.ofInt_add, BitVec.ofInt_toInt, BitVec.ofInt_toInt]

theorem ofInt_toInt_neg (v : Word) : BitVec.ofInt 64 (-v.toInt) = -v := by
  rw [BitVec.ofInt_neg, BitVec.ofInt_toInt]

theorem ofInt_toInt_sub (a v : Word) : BitVec.ofInt 64 (a.toInt - v.toInt) = a - v := by
  rw [Int.sub_eq_add_neg, BitVec.ofInt_add, ofInt_toInt_neg, BitVec.ofInt_toInt, BitVec.sub_eq_add_neg]

/-- The one word whose negation overflows (R90). -/
theorem eq_minWord_iff (v : Word) : v = minWord ↔ v.toInt = -2 ^ 63 := by
  rw [← BitVec.toInt_inj]
  exact Iff.rfl

theorem neg_overflow_iff (v : Word) : v = minWord ↔ -v.toInt < -2 ^ 63 ∨ 2 ^ 63 ≤ -v.toInt := by
  have h1 := BitVec.toInt_lt (x := v)
  have h2 := BitVec.le_toInt v
  rw [eq_minWord_iff]
  omega

theorem abs_overflow_iff (v : Word) : v = minWord ↔ |v.toInt| < -2 ^ 63 ∨ 2 ^ 63 ≤ |v.toInt| := by
  have h1 := BitVec.toInt_lt (x := v)
  have h2 := BitVec.le_toInt v
  rw [eq_minWord_iff, abs_eq_max_neg]
  omega

theorem ofInt_abs (v : Word) : BitVec.ofInt 64 |v.toInt| = if v.toInt < 0 then -v else v := by
  split
  · rw [abs_of_neg ‹_›, ofInt_toInt_neg]
  · rw [abs_of_nonneg (Int.not_lt.1 ‹_›), BitVec.ofInt_toInt]

/-- An ALU result whose exact value is `x`, with carry `c`. -/
def exactAlu (x : Int) (c : Bool) : Alu := { r := BitVec.ofInt 64 x, c := if c then 1 else 0, v := decide (x < -2 ^ 63 ∨ 2 ^ 63 ≤ x) }

theorem aluOut_add (a v : Word) : aluOut .add a v = exactAlu (a.toInt + v.toInt) (decide (2 ^ 64 ≤ a.toNat + v.toNat)) := by
  simp only [aluOut, exactAlu, ← ofInt_toInt_add, toInt_ofInt_ne_iff, carryOf, decide_eq_true_eq]

theorem aluOut_sub (a v : Word) : aluOut .sub a v = exactAlu (a.toInt - v.toInt) (decide (a.toNat < v.toNat)) := by
  simp only [aluOut, exactAlu, ← ofInt_toInt_sub, toInt_ofInt_ne_iff, borrowOf, decide_eq_true_eq]

theorem aluOut_rsub (a v : Word) : aluOut .rsub a v = exactAlu (v.toInt - a.toInt) (decide (v.toNat < a.toNat)) := aluOut_sub v a

theorem aluOut_neg (a v : Word) : aluOut .neg a v = exactAlu (-v.toInt) false := by
  simp [aluOut, exactAlu, ofInt_toInt_neg, neg_overflow_iff]

theorem aluOut_abs (a v : Word) : aluOut .abs a v = exactAlu |v.toInt| false := by
  simp [aluOut, exactAlu, ofInt_abs, abs_overflow_iff]

/-! Minima, maxima and counts (R83) -/

theorem aluOut_min (a v : Word) : aluOut .min a v = { r := BitVec.ofInt 64 (min a.toInt v.toInt) } := by
  rw [min_def, apply_ite (BitVec.ofInt 64), BitVec.ofInt_toInt, BitVec.ofInt_toInt]
  rfl

theorem aluOut_max (a v : Word) : aluOut .max a v = { r := BitVec.ofInt 64 (max a.toInt v.toInt) } := by
  rw [max_def, apply_ite (BitVec.ofInt 64), BitVec.ofInt_toInt, BitVec.ofInt_toInt]
  rfl

theorem aluOut_minu (a v : Word) : aluOut .minu a v = { r := BitVec.ofNat 64 (min a.toNat v.toNat) } := by
  rw [min_def, apply_ite (BitVec.ofNat 64), BitVec.ofNat_toNat, BitVec.ofNat_toNat, BitVec.setWidth_eq, BitVec.setWidth_eq]
  rfl

theorem aluOut_maxu (a v : Word) : aluOut .maxu a v = { r := BitVec.ofNat 64 (max a.toNat v.toNat) } := by
  rw [max_def, apply_ite (BitVec.ofNat 64), BitVec.ofNat_toNat, BitVec.ofNat_toNat, BitVec.setWidth_eq, BitVec.setWidth_eq]
  rfl

theorem sum_toNat_eq_length_filter {α : Type} (f : α → Bool) (l : List α) : (l.map fun k => (f k).toNat).sum = (l.filter f).length := by
  induction l with
  | nil => rfl
  | cons a t ih =>
    rw [List.map_cons, List.sum_cons, ih, List.filter_cons]
    cases f a <;> simp [Nat.add_comm]

theorem aluOut_pop (a v : Word) : aluOut .pop a v = { r := BitVec.ofNat 64 ((List.range 64).map fun k => (v.getLsbD k).toNat).sum } := by
  rw [sum_toNat_eq_length_filter]
  rfl

/-- The numbers below `n` up to the first that fails `p`, counted. -/
theorem length_takeWhile_range (p : Nat → Bool) (n : Nat) :
    ((List.range n).takeWhile p).length ≤ n ∧ (∀ k < ((List.range n).takeWhile p).length, p k = true)
      ∧ (((List.range n).takeWhile p).length < n → p ((List.range n).takeWhile p).length = false) := by
  have e : ((List.range n).takeWhile p).length = (List.range n).findIdx fun k => !p k := by
    rw [List.takeWhile_eq_take_findIdx_not, List.length_take]
    exact min_eq_left List.findIdx_le_length
  have hle : (List.range n).findIdx (fun k => !p k) ≤ n := List.findIdx_le_length.trans (List.length_range ..).le
  rw [e]
  refine ⟨hle, fun k hk => ?_, fun hlt => ?_⟩
  · simpa using List.not_of_lt_findIdx hk
  · simpa using List.findIdx_getElem (w := hlt.trans_eq (List.length_range ..).symm)

/-- Settles O9: each trigger is taken with its ALU function, and that is the exact one. -/
theorem aluComplete : Obligations.AluComplete := by
  unfold Obligations.AluComplete
  refine ⟨fun s r one v h hr => ?sums, fun s r one v h hr => ?bitwise, fun s r one v h hr => ?counts⟩
  case sums =>
    intro a gives
    have taken (op : AluOp) {x : Int} {c : Bool} (e : aluOut op a v = exactAlu x c) : (.next (s.trigger r (aluBase one + aluPort op) v) : Res) = gives x c :=
      congrArg Host.Outcome.next (alu_taken h hr op e)
    exact ⟨taken .add (aluOut_add a v), taken .sub (aluOut_sub a v), taken .rsub (aluOut_rsub a v), taken .neg (aluOut_neg a v), taken .abs (aluOut_abs a v)⟩
  case bitwise =>
    intro a gives
    have taken (op : AluOp) {q : Word} (e : aluOut op a v = { r := q }) : (.next (s.trigger r (aluBase one + aluPort op) v) : Res) = gives q :=
      congrArg Host.Outcome.next (alu_taken h hr op e)
    exact ⟨taken .band rfl, taken .bor rfl, taken .bxor rfl, taken .andn rfl, taken .min (aluOut_min a v), taken .max (aluOut_max a v),
      taken .minu (aluOut_minu a v), taken .maxu (aluOut_maxu a v)⟩
  case counts =>
    intro gives
    have taken (op : AluOp) {n : Nat} (e : aluOut op (s.operand r (aluBase one)) v = { r := BitVec.ofNat 64 n }) :
        (.next (s.trigger r (aluBase one + aluPort op) v) : Res) = gives n := congrArg Host.Outcome.next (alu_taken h hr op e)
    obtain ⟨clz_le, clz_zeros, clz_one⟩ := length_takeWhile_range (fun k => !v.getLsbD (63 - k)) 64
    obtain ⟨ctz_le, ctz_zeros, ctz_one⟩ := length_takeWhile_range (fun k => !v.getLsbD k) 64
    refine ⟨taken .pop (aluOut_pop _ v), ⟨clzOf v, clz_le, taken .clz rfl, fun k hk => ?_, fun hlt => ?_⟩, ⟨ctzOf v, ctz_le, taken .ctz rfl, fun k hk => ?_, fun hlt => ?_⟩⟩
    · simpa using clz_zeros k hk
    · simpa [clzOf] using clz_one hlt
    · simpa using ctz_zeros k hk
    · simpa [ctzOf] using ctz_one hlt

end Sys2Proof.Machine
end

section
/-! SHF: every bit of a shift, a rotate and a field (R84, R90). -/
namespace Sys2Proof.Machine

/-- The port of an SHF trigger (R84). -/
def shfPort : ShfOp → Nat
  | .shl => 0xC8 | .shr => 0xC9 | .sar => 0xCA | .rol => 0xCB | .ror => 0xCC | .ext => 0xCD | .exts => 0xCE | .dep => 0xCF | .bswap => 0xD0

theorem trigOf_shfPort (op : ShfOp) : trigOf (shfPort op) = some (.shf op) := by cases op <;> rfl

theorem portOpen_shf (s : State) (r : Rid) (op : ShfOp) : s.portOpen r (shfPort op) := by
  cases op <;> exact portOpen_user s r (i := pT) (by decide) (by decide) rfl rfl rfl (by decide)

/-- An SHF trigger is taken and starts its function of o_a, o_b and its value (R84). -/
theorem shf_taken {s : State} (h : s.TablesOk) {r : Rid} (hr : s.executes r) {v : Word} (op : ShfOp) : s.trigger r (shfPort op) v =
    s.took r fun t => t.start r { unit := .shf, res := [(0xDC, { val := shfOut op (s.operand r 0xC0) (s.operand r 0xC2) v })] } := by
  refine trigger_runs h hr (portOpen_shf _ r op) (trigOf_shfPort op) rfl rfl ?_
  show (s.taking r).runShf r op v = _
  unfold State.runShf
  dsimp only
  rw [taking_op h, taking_op h]
  rfl

/-! The count and the field of a value (R84) -/

theorem fld_count (v : Word) : fld v 6 0 = v.toNat % 128 := by rw [fld_eq_div_mod]; simp

theorem fieldPos_eq (v : Word) : fieldPos v = v.toNat % 64 := by rw [fieldPos, fld_eq_div_mod]; simp

theorem fieldWidth_eq (v : Word) : fieldWidth v = min (if v.toNat / 256 % 128 = 0 then 64 else v.toNat / 256 % 128) (64 - v.toNat % 64) := by
  simp [fieldWidth, fieldPos_eq, fld_eq_div_mod]

theorem fieldPos_lt (v : Word) : fieldPos v < 64 := by
  rw [fieldPos_eq]
  exact Nat.mod_lt _ (by decide)

theorem fieldWidth_pos (v : Word) : 0 < fieldWidth v := by
  have h := Nat.mod_lt v.toNat (by decide : 0 < 64)
  rw [fieldWidth_eq]
  split <;> omega

theorem fieldPos_add_fieldWidth_le (v : Word) : fieldPos v + fieldWidth v ≤ 64 := by
  have h := fieldPos_lt v
  unfold fieldWidth
  omega

/-! The bits of each function -/

/-- The bits of a little-endian byte string. -/
theorem testBit_leNat (l : List Byte) (j : Nat) : (leNat l).testBit j = (l.getD (j / 8) 0).getLsbD (j % 8) := by
  induction l generalizing j with
  | nil => simp [leNat]
  | cons x l ih =>
    rw [leNat, show x.toNat + 256 * leNat l = 2 ^ 8 * leNat l + x.toNat by omega, Nat.testBit_two_pow_mul_add _ x.isLt]
    by_cases hj : j < 8
    · rw [if_pos hj, Nat.div_eq_of_lt hj, Nat.mod_eq_of_lt hj]
      rfl
    · rw [if_neg hj, ih, show j / 8 = (j - 8) / 8 + 1 by omega, show (j - 8) % 8 = j % 8 by omega]
      rfl

section
variable (a b v : Word) {k : Nat} (hk : k < 64)
include hk

theorem getLsbD_shl : (shfOut .shl a b v).getLsbD k = (decide (fld v 6 0 ≤ k) && a.getLsbD (k - fld v 6 0)) := by
  show (a <<< fld v 6 0).getLsbD k = _
  rw [BitVec.getLsbD_shiftLeft, decide_eq_true hk, Bool.true_and, ← decide_not, decide_eq_decide.2 Nat.not_lt]

omit hk in
theorem getLsbD_shr : (shfOut .shr a b v).getLsbD k = a.getLsbD (k + fld v 6 0) := by
  simp [shfOut, Nat.add_comm]

/-- An arithmetic shift to the right repeats bit 63. -/
theorem getLsbD_sshiftRight_word (n : Nat) : (a.sshiftRight n).getLsbD k = a.getLsbD (min (k + n) 63) := by
  rw [BitVec.getLsbD_sshiftRight, BitVec.msb_eq_getLsbD_last]
  by_cases h : n + k < 64
  · rw [if_pos h, show min (k + n) 63 = n + k by omega]
    simp [hk]
  · rw [if_neg h, show min (k + n) 63 = 63 by omega]
    simp [hk]

theorem getLsbD_sar : (shfOut .sar a b v).getLsbD k = a.getLsbD (min (k + fld v 6 0) 63) := getLsbD_sshiftRight_word a hk _

theorem getLsbD_rol : (shfOut .rol a b v).getLsbD k = a.getLsbD ((k + 64 - fld v 6 0 % 64) % 64) := by
  have hn := Nat.mod_lt (fld v 6 0) (by decide : 0 < 64)
  simp only [shfOut, BitVec.getLsbD_rotateLeft, Nat.mod_mod, hk, decide_true, Bool.true_and]
  by_cases h : k < fld v 6 0 % 64
  · rw [decide_eq_true h, cond_true, show (k + 64 - fld v 6 0 % 64) % 64 = 64 - fld v 6 0 % 64 + k by omega]
  · rw [decide_eq_false h, cond_false, show (k + 64 - fld v 6 0 % 64) % 64 = k - fld v 6 0 % 64 by omega]

theorem getLsbD_ror : (shfOut .ror a b v).getLsbD k = a.getLsbD ((k + fld v 6 0) % 64) := by
  have hn := Nat.mod_lt (fld v 6 0) (by decide : 0 < 64)
  simp only [shfOut, BitVec.getLsbD_rotateRight, Nat.mod_mod, hk, decide_true, Bool.true_and]
  by_cases h : k < 64 - fld v 6 0 % 64
  · rw [decide_eq_true h, cond_true, show (k + fld v 6 0) % 64 = fld v 6 0 % 64 + k by omega]
  · rw [decide_eq_false h, cond_false, show (k + fld v 6 0) % 64 = k - (64 - fld v 6 0 % 64) by omega]

theorem getLsbD_ext : (shfOut .ext a b v).getLsbD k = (decide (k < fieldWidth v) && a.getLsbD (fieldPos v + k)) := by
  show (BitVec.ofNat 64 (a.toNat / 2 ^ fieldPos v % 2 ^ fieldWidth v)).getLsbD k = _
  rw [BitVec.getLsbD_ofNat, decide_eq_true hk, Bool.true_and, Nat.testBit_mod_two_pow, Nat.testBit_div_two_pow, BitVec.testBit_toNat, Nat.add_comm]

/-- A field moved up to bit 63 and shifted down again repeats its own highest bit. -/
theorem getLsbD_exts : (shfOut .exts a b v).getLsbD k = a.getLsbD (fieldPos v + min k (fieldWidth v - 1)) := by
  have hw := fieldWidth_pos v
  have hp := fieldPos_add_fieldWidth_le v
  show ((a <<< (64 - fieldWidth v - fieldPos v)).sshiftRight (64 - fieldWidth v)).getLsbD k = _
  rw [getLsbD_sshiftRight_word _ hk, BitVec.getLsbD_shiftLeft, decide_eq_true (by omega), decide_eq_false (by omega)]
  exact congrArg a.getLsbD (by omega)

theorem getLsbD_dep : (shfOut .dep a b v).getLsbD k =
    if fieldPos v ≤ k ∧ k < fieldPos v + fieldWidth v then b.getLsbD (k - fieldPos v) else a.getLsbD k := by
  have hw := fieldWidth_pos v
  show (setFld a (fieldPos v + fieldWidth v - 1) (fieldPos v) b.toNat).getLsbD k = _
  rw [getLsbD_setFld _ _ _ _ hk, BitVec.testBit_toNat]
  exact if_congr (by omega) rfl rfl

theorem getLsbD_bswap : (shfOut .bswap a b v).getLsbD k = a.getLsbD (8 * (7 - k / 8) + k % 8) := by
  have h7 : k / 8 < 8 := by omega
  show (BitVec.ofNat 64 (leNat (leBytes 8 a.toNat).reverse)).getLsbD k = _
  rw [BitVec.getLsbD_ofNat, decide_eq_true hk, testBit_leNat, List.getD_eq_getElem _ _ (by simpa [leBytes_eq_map] using h7)]
  simp only [leBytes_eq_map, List.getElem_reverse, List.getElem_map, List.getElem_range, List.length_map, List.length_range, BitVec.getLsbD_ofNat,
    Nat.testBit_div_two_pow, BitVec.testBit_toNat]
  rw [decide_eq_true (Nat.mod_lt _ (by decide)), show k % 8 + 8 * (8 - 1 - k / 8) = 8 * (7 - k / 8) + k % 8 by omega]
  rfl

end

/-- Settles O10: each trigger is taken with its SHF function, whose bits are the ones the rules name. -/
theorem shiftsComplete : Obligations.ShiftsComplete := by
  unfold Obligations.ShiftsComplete
  intro s r v h hr a b n p w gives
  have taken (op : ShfOp) {c : Instr} {bit : Nat → Bool} (hc : exec c s = .next (s.trigger r (shfPort op) v))
      (hb : ∀ k < 64, (shfOut op a b v).getLsbD k = bit k) : gives c bit := ⟨_, hb, hc.trans (congrArg Host.Outcome.next (shf_taken h hr op))⟩
  have hn : fld v 6 0 = n := fld_count v
  have hp : fieldPos v = p := fieldPos_eq v
  have hw : fieldWidth v = w := fieldWidth_eq v
  rw [← hn, ← hp, ← hw]
  exact ⟨taken .shl rfl fun _ => getLsbD_shl a b v, taken .shr rfl fun _ _ => getLsbD_shr a b v, taken .sar rfl fun _ => getLsbD_sar a b v,
    taken .rol rfl fun _ => getLsbD_rol a b v, taken .ror rfl fun _ => getLsbD_ror a b v, taken .ext rfl fun _ => getLsbD_ext a b v,
    taken .exts rfl fun _ => getLsbD_exts a b v, taken .dep rfl fun _ => getLsbD_dep a b v, taken .bswap rfl fun _ => getLsbD_bswap a b v⟩

end Sys2Proof.Machine
end

section
/-! MUL: exact products, quotients and remainders, and the MAC in flight (R85, R87, R90). -/
namespace Sys2Proof.Machine

/-- The port of a MUL trigger (R85). -/
def mulPort : MulOp → Nat
  | .mul => 0xE8 | .mulu => 0xE9 | .mac => 0xEA | .mac2 => 0xEB | .div => 0xEC | .divu => 0xED

theorem trigOf_mulPort (op : MulOp) : trigOf (mulPort op) = some (.mul op) := by cases op <;> rfl

theorem portOpen_mul (s : State) (r : Rid) (op : MulOp) : s.portOpen r (mulPort op) := by
  cases op <;> exact portOpen_user s r (i := pT) (by decide) (by decide) rfl rfl rfl (by decide)

/-- A MUL trigger of no division, while none occupies the unit, is taken; t_mac2 apart it starts one operation of its own. -/
theorem mul_taken {s : State} (h : s.TablesOk) {r : Rid} (hr : s.executes r) (hd : (s.runner r).dividing = false) {v : Word} {op : MulOp} (ho : op ≠ .mac2)
    {o : Op} (hrun : (s.taking r).runMul r op v = (s.taking r).start r o) : s.trigger r (mulPort op) v = s.took r fun t => t.start r o := by
  refine trigger_runs h hr (portOpen_mul _ r op) (trigOf_mulPort op) ?faults ?busy hrun
  case faults => cases op with
    | mac2 => exact absurd rfl ho
    | _ => rfl
  case busy =>
    obtain ⟨c, e⟩ := beginWord_runner h r
    have hbusy : ((s.beginWord r).runner r).dividing = false := by rw [e]; exact hd
    simp [State.trigBusy, hbusy, ho]

/-! Both halves of a product (R85) -/

theorem extractLsb'_low_ofInt (x : Int) : (BitVec.ofInt 128 x).extractLsb' 0 64 = BitVec.ofInt 64 x := by
  refine BitVec.eq_of_toNat_eq ?_
  rw [BitVec.extractLsb'_toNat, BitVec.toNat_ofInt, BitVec.toNat_ofInt, Nat.shiftRight_zero]
  omega

theorem extractLsb'_high_ofInt (x : Int) : (BitVec.ofInt 128 x).extractLsb' 64 64 = BitVec.ofInt 64 (x / 2 ^ 64) := by
  refine BitVec.eq_of_toNat_eq ?_
  rw [BitVec.extractLsb'_toNat, BitVec.toNat_ofInt, BitVec.toNat_ofInt, Nat.shiftRight_eq_div_pow]
  omega

theorem extractLsb'_low_ofNat (x : Nat) : (BitVec.ofNat 128 x).extractLsb' 0 64 = BitVec.ofNat 64 x := by
  refine BitVec.eq_of_toNat_eq ?_
  rw [BitVec.extractLsb'_toNat, BitVec.toNat_ofNat, BitVec.toNat_ofNat, Nat.shiftRight_zero]
  omega

theorem extractLsb'_high_ofNat (x : Nat) : (BitVec.ofNat 128 x).extractLsb' 64 64 = BitVec.ofNat 64 (x / 2 ^ 64) := by
  refine BitVec.eq_of_toNat_eq ?_
  rw [BitVec.extractLsb'_toNat, BitVec.toNat_ofNat, BitVec.toNat_ofNat, Nat.shiftRight_eq_div_pow]
  omega

/-! Quotients and remainders (R85, R90) -/

theorem eq_neg_one_iff (v : Word) : v = -1 ↔ v.toInt = -1 := by
  rw [← BitVec.toInt_inj]
  exact Iff.rfl

/-- The quotient truncates toward zero; MIN divided by −1 is the one that 64 bits do not hold. -/
theorem divOut_eq (a v : Word) : divOut a v = if v = 0 then { r := 0, c := a, dz := true } else
    { r := BitVec.ofInt 64 (a.toInt.tdiv v.toInt), c := BitVec.ofInt 64 (a.toInt.tmod v.toInt), v := decide (a.toInt = -2 ^ 63 ∧ v.toInt = -1) } := by
  unfold divOut
  simp only [eq_minWord_iff, eq_neg_one_iff]
  refine if_congr Iff.rfl rfl ?_
  split
  · next hov =>
    rw [decide_eq_true hov, hov.1, hov.2]
    decide
  · next hov => rw [decide_eq_false hov]

theorem divuOut_eq (a v : Word) : divuOut a v = if v = 0 then { r := 0, c := a, dz := true } else
    { r := BitVec.ofNat 64 (a.toNat / v.toNat), c := BitVec.ofNat 64 (a.toNat % v.toNat) } := by
  rw [← BitVec.toNat_udiv, ← BitVec.toNat_umod, BitVec.ofNat_toNat, BitVec.ofNat_toNat, BitVec.setWidth_eq, BitVec.setWidth_eq]
  rfl

/-- Settles O11: each trigger is taken and starts its product, quotient or MAC. -/
theorem mulComplete : Obligations.MulComplete := by
  unfold Obligations.MulComplete
  intro s r v h hr hd a gives
  have ha : ((s.taking r).runner r).op 0xE0 = a := taking_op h r 0xE0
  have taken (op : MulOp) (ho : op ≠ .mac2) {q hi : Word} {fv dz : Bool} {k : OpKind}
      (hrun : (s.taking r).runMul r op v = (s.taking r).start r { unit := .mul, res := [(0xFC, { val := q }), (0xFD, { val := hi })], v := fv, dz := dz, kind := k }) :
      (.next (s.trigger r (mulPort op) v) : Res) = gives q hi fv dz k := congrArg Host.Outcome.next (mul_taken h hr hd ho hrun)
  refine ⟨taken .mul nofun ?_, taken .mulu nofun ?_, taken .mac nofun ?_, ?_, ?_⟩
  · rw [← extractLsb'_low_ofInt, ← extractLsb'_high_ofInt, ← ha]
    rfl
  · rw [← extractLsb'_low_ofNat, ← extractLsb'_high_ofNat, ← ha]
    rfl
  · rw [BitVec.ofNat_mul, BitVec.ofNat_toNat, BitVec.ofNat_toNat, BitVec.setWidth_eq, BitVec.setWidth_eq, ← ha]
    rfl
  · have hrun : (s.taking r).runMul r .div v = (s.taking r).start r (mulOp (divOut a v) true) := by rw [← ha]; rfl
    rw [divOut_eq] at hrun
    split <;> rename_i hv
    · rw [if_pos hv] at hrun
      exact taken .div nofun hrun
    · rw [if_neg hv] at hrun
      exact taken .div nofun hrun
  · have hrun : (s.taking r).runMul r .divu v = (s.taking r).start r (mulOp (divuOut a v) true) := by rw [← ha]; rfl
    rw [divuOut_eq] at hrun
    split <;> rename_i hv
    · rw [if_pos hv] at hrun
      exact taken .divu nofun hrun
    · rw [if_neg hv] at hrun
      exact taken .divu nofun hrun

end Sys2Proof.Machine
end

section
/-! CMP: the result of a comparison and the two guards (R88, R89). -/
namespace Sys2Proof.Machine

/-- The port of a CMP trigger (R88). -/
def cmpPort : CmpOp → Nat
  | .eq => 0x108 | .ne => 0x109 | .lt => 0x10A | .le => 0x10B | .gt => 0x10C | .ge => 0x10D | .ltu => 0x10E | .leu => 0x10F | .gtu => 0x110
  | .geu => 0x111 | .tst => 0x112 | .tstz => 0x113

theorem trigOf_cmpPort (op : CmpOp) : trigOf (cmpPort op) = some (.cmp op) := by cases op <;> rfl

theorem portOpen_cmp (s : State) (r : Rid) (op : CmpOp) : s.portOpen r (cmpPort op) := by
  cases op <;> exact portOpen_user s r (i := pT) (by decide) (by decide) rfl rfl rfl (by decide)

/-- A CMP trigger is taken: its guards are written and its operation starts (R88). -/
theorem cmp_taken {s : State} (h : s.TablesOk) {r : Rid} (hr : s.executes r) {v : Word} (op : CmpOp) : s.trigger r (cmpPort op) v =
    s.took r fun t => (t.updR r fun x => { x with grd := cmpGuards (s.operand r 0x102) (cmpOut op (s.operand r 0x100) v) (s.runner r).grd }).start r
      { unit := .cmp, res := [(0x11C, { val := BitVec.ofNat 64 (b2n (cmpOut op (s.operand r 0x100) v)) })] } := by
  refine trigger_runs h hr (portOpen_cmp _ r op) (trigOf_cmpPort op) rfl rfl ?_
  obtain ⟨c, n, e⟩ := taking_runner h r
  show (s.taking r).runCmp r op v = _
  unfold State.runCmp
  dsimp only
  rw [updR_congr (g := fun x => { x with grd := cmpGuards (s.operand r 0x102) (cmpOut op (s.operand r 0x100) v) (s.runner r).grd }) (by rw [e]; rfl),
    taking_op h]
  rfl

theorem fld_guardOfResult (w : Word) : fld w 2 0 = w.toNat % 8 := by rw [fld_eq_div_mod]; simp

theorem fld_guardOfComplement (w : Word) : fld w 5 3 = w.toNat / 8 % 8 := by rw [fld_eq_div_mod]; simp

theorem getLsbD_putBit {n : Nat} (w : BitVec n) (i : Nat) (b : Bool) {k : Nat} (hk : k < n) : (putBit w i b).getLsbD k = if k = i then b else w.getLsbD k := by
  rw [putBit, getLsbD_setFld _ _ _ _ hk]
  by_cases hki : k = i
  · rw [if_pos hki, if_pos (by omega), hki, Nat.sub_self]
    cases b <;> rfl
  · rw [if_neg hki, if_neg (by omega)]

/-- A guard field names a guard unless it is 0 (R89). -/
theorem getLsbD_putGuard (g : BitVec 8) (i : Nat) (b : Bool) {k : Nat} (hk : k < 8) :
    (if i = 0 then g else putBit g i b).getLsbD k = if k = i ∧ i ≠ 0 then b else g.getLsbD k := by
  by_cases hi : i = 0
  · simp [hi]
  · rw [if_neg hi, getLsbD_putBit g i b hk]
    simp [hi]

/-- The result's guard wins where both fields name the same one (R89). -/
theorem getLsbD_cmpGuards (w : Word) (b : Bool) (g : BitVec 8) {k : Nat} (hk : k < 8) : (cmpGuards w b g).getLsbD k =
    if k = w.toNat % 8 ∧ w.toNat % 8 ≠ 0 then b else if k = w.toNat / 8 % 8 ∧ w.toNat / 8 % 8 ≠ 0 then !b else g.getLsbD k := by
  rw [← fld_guardOfResult, ← fld_guardOfComplement, ← getLsbD_putGuard g _ _ hk, ← getLsbD_putGuard _ _ _ hk]
  rfl

theorem ofNat_b2n_decide (p : Prop) [Decidable p] : (BitVec.ofNat 64 (b2n (decide p)) : Word) = if p then 1 else 0 := by
  by_cases hp : p <;> simp [hp, b2n]

/-- Settles O13: each trigger is taken with its relation; the guards follow the two fields. -/
theorem comparisonsComplete : Obligations.ComparisonsComplete := by
  unfold Obligations.ComparisonsComplete
  intro s r v h hr a gr gc gives
  have taken (op : CmpOp) {c : Instr} {p : Prop} [Decidable p] (hc : exec c s = .next (s.trigger r (cmpPort op) v)) (hp : cmpOut op a v = decide p) : gives c p := by
    refine ⟨cmpGuards (s.operand r 0x102) (decide p) (s.runner r).grd, fun k hk => getLsbD_cmpGuards _ _ _ hk, ?_⟩
    rw [hc, cmp_taken h hr op, ← ofNat_b2n_decide, ← hp]
  exact ⟨taken .eq rfl rfl, taken .ne rfl rfl, taken .lt rfl rfl, taken .le rfl rfl, taken .gt rfl rfl, taken .ge rfl rfl, taken .ltu rfl rfl,
    taken .leu rfl rfl, taken .gtu rfl rfl, taken .geu rfl rfl, taken .tst rfl rfl, taken .tstz rfl rfl⟩

end Sys2Proof.Machine
end

section
/-! TIM: the snapshot, the timers, the watchdog and the wait (R111). -/
namespace Sys2Proof.Machine

/-- A supervisor port of a unit is open as a word of a runner in the supervisor level begins (R73, R74). -/
theorem portOpen_begun {s u : State} {r : Rid} (k : Begun s u r) (hsup : (s.runner r).sup = true) {p : Nat} {i : PortInfo} (h1 : 0x80 ≤ p) (h2 : p < 0x2A0)
    (hb : blockPort (p / 32 * 32) (p % 32) = some i) (hc : i.cust = false) (hn : p / 32 * 32 ≠ 0x1E0 ∧ p / 32 * 32 ≠ 0x240 ∧ p / 32 * 32 ≠ 0x260) :
    u.portOpen r p := portOpen_super (k.sup.trans hsup) h1 h2 hb hc (.inr hn) fun h => absurd h hn.2.2

section
variable {s u : State} {r : Rid} (k : Begun s u r)
include k

theorem Begun.lap : u.lap = s.lap := by
  obtain ⟨⟨ru, ar, rfl⟩, -, -⟩ := k
  rfl

theorem Begun.clkS : u.clkS = s.clkS := by
  obtain ⟨⟨ru, ar, rfl⟩, -, -⟩ := k
  rfl

theorem Begun.intrPending : u.intrPending r = s.intrPending r := by
  obtain ⟨⟨ru, ar, rfl⟩, -, -⟩ := k
  rfl

end

/-- The port of a TIM trigger (R111). -/
def timPort : TimOp → Nat
  | .snap => 0x228 | .arm0 => 0x229 | .arm1 => 0x22A | .dis => 0x22B | .wdog => 0x22C | .wait => 0x22D

theorem trigOf_timPort (op : TimOp) : trigOf (timPort op) = some (.tim op) := by cases op <;> rfl

/-- t_snap is open to every runner, the other triggers of TIM to the supervisor level (R111). -/
theorem portOpen_tim {s u : State} {r : Rid} (k : Begun s u r) {op : TimOp} (hsup : op = .snap ∨ (s.runner r).sup = true) : u.portOpen r (timPort op) := by
  rcases hsup with rfl | hsup
  · exact portOpen_user u r (i := pT) (by decide) (by decide) rfl rfl rfl (by decide)
  · cases op <;> exact portOpen_begun k hsup (by decide) (by decide) rfl rfl (by decide)

/-- q_tstat follows the timers and the watchdog at once (R111). -/
def State.showTimers (s : State) (r : Rid) : State := s.updR r fun x => x.setQ 0x23E { val := x.tstat }

/-- A TIM trigger is taken; q_tstat follows (R111). -/
theorem tim_taken {s : State} (h : s.TablesOk) {r : Rid} (hr : s.executes r) {op : TimOp} (hsup : op = .snap ∨ (s.runner r).sup = true) {v : Word} {f : State → State}
    (hrun : (s.taking r).runTim r op v = (f (s.taking r)).showTimers r) : s.trigger r (timPort op) v = s.took r fun t => (f t).showTimers r :=
  trigger_runs h hr (portOpen_tim (begun_beginWord h r) hsup) (trigOf_timPort op) rfl rfl hrun

theorem tstat_eq (x : Runner) : x.tstat = BitVec.ofNat 64 ((if x.wdog.isSome then 4 else 0) + (if x.tim1.isSome then 2 else 0) + if x.tim0.isSome then 1 else 0) := by
  unfold Runner.tstat b2n
  rw [ite_mul, ite_mul, Nat.one_mul, Nat.one_mul, Nat.zero_mul]

/-- t_wait is over at once where its time has come or an interrupt is pending (R111). -/
theorem runTim_wait (s : State) (r : Rid) (v : Word) : s.runTim r .wait v = State.showTimers (
    if v.toNat ≤ s.lap.toNat then s.start r { unit := .tim, res := [(0x23D, { val := 1 })] }
    else if s.intrPending r then s.start r { unit := .tim, res := [(0x23D, { val := 0 })] }
    else s.start r { unit := .tim, res := [(0x23D, { val := 1 })], kind := .wait v }) r := rfl

/-- Settles O21: each trigger is taken, and q_tstat shows what stands after it. -/
theorem timersComplete : Obligations.TimersComplete := by
  unfold Obligations.TimersComplete
  intro s r v h hr armed ends sets gives
  have k := begun_taking h r
  have shows (t : State) : t.showTimers r = ends t := congrArg (t.updR r) (funext fun x => congrArg (fun w => x.setQ 0x23E { val := w }) (tstat_eq x))
  have taken (op : TimOp) (hsup : op = .snap ∨ (s.runner r).sup = true) {f : State → State} (hrun : (s.taking r).runTim r op v = (f (s.taking r)).showTimers r) :
      (.next (s.trigger r (timPort op) v) : Res) = .next (s.took r fun t => ends (f t)) := by
    rw [tim_taken h hr hsup hrun]
    exact congrArg _ (took_congr (shows _))
  refine ⟨taken .snap (.inl rfl) (f := fun t => t.start r _) (by rw [← k.lap]; rfl), fun hsup => ?_⟩
  have stored (op : TimOp) (f : Runner → Runner) (hrun : (s.taking r).runTim r op v = ((s.taking r).updR r f).showTimers r) :
      (.next (s.trigger r (timPort op) v) : Res) = .next (s.took r fun t => ends (t.updR r f)) := taken op (.inr hsup) hrun
  refine ⟨stored .arm0 _ rfl, stored .arm1 _ rfl, stored .dis _ rfl, stored .wdog _ (by rw [← k.clkS]; rfl), ?_⟩
  have wait {q : Word} {o : OpKind} (hrun : (s.taking r).runTim r .wait v = ((s.taking r).start r { unit := .tim, res := [(0x23D, { val := q })], kind := o }).showTimers r) :
      gives (.timWait r v) 0x23D q o := taken .wait (.inr hsup) hrun
  split
  · next hlap => exact wait (by rw [runTim_wait, k.lap, if_pos hlap])
  · next hlap =>
    split
    · next hint => exact wait (by rw [runTim_wait, k.lap, k.intrPending, if_neg hlap, if_pos hint])
    · next hint => exact wait (by rw [runTim_wait, k.lap, k.intrPending, if_neg hlap, if_neg hint])

end Sys2Proof.Machine
end

section
/-! PCR: the mailbox of a pacer (R114, R360, R363, R364). -/
namespace Sys2Proof.Machine

theorem Begun.pacer {s u : State} {r : Rid} (k : Begun s u r) (n : Nat) : u.pacer n = s.pacer n := by
  obtain ⟨⟨ru, ar, rfl⟩, -, -⟩ := k
  rfl

theorem Begun.fuses {s u : State} {r : Rid} (k : Begun s u r) : u.fuses = s.fuses := by
  obtain ⟨⟨ru, ar, rfl⟩, -, -⟩ := k
  rfl

theorem State.updPacer_congr {s : State} {n : Nat} {f g : Pacer → Pacer} (h : f (s.pacer n) = g (s.pacer n)) : s.updPacer n f = s.updPacer n g :=
  congrArg (fun x => { s with pacers := tset {} s.pacers n x }) h

/-- Two changes of one pacer are one. -/
theorem State.updPacer_updPacer {s : State} (h : s.TablesOk) (n : Nat) (f g : Pacer → Pacer) : (s.updPacer n f).updPacer n g = s.updPacer n fun x => g (f x) := by
  have e : (s.updPacer n f).pacer n = f (s.pacer n) := by rw [State.pacer_updPacer h, if_pos rfl]
  unfold State.updPacer at e ⊢
  rw [e]
  exact congrArg (fun t => { s with pacers := t }) (tset_tset h.pacers n _ _)

/-- A pacer's instruction ends; the next follows (R361). -/
def Pacer.goes (x : Pacer) : Pacer := { x with st := .running, wait := .none, pc := x.pc + 1 }

section
variable {s : State} (h : s.TablesOk) {n : Nat}

theorem pacPush_full (hf : 8 ≤ (s.pacer n).inq.length) (w : BitVec 32) : s.pacPush n w = (s, false) := if_pos hf

include h

/-- A word pushed enters the inbound FIFO (R363). -/
theorem pacPush_queued (hf : (s.pacer n).inq.length < 8) (hw : (s.pacer n).wait ≠ .take) (w : BitVec 32) :
    s.pacPush n w = (s.updPacer n fun x => { x with inq := x.inq ++ [w] }, true) := by
  unfold State.pacPush
  rw [if_neg (Nat.not_le.2 hf)]
  dsimp only
  rw [if_neg (by rw [State.pacer_updPacer h, if_pos rfl]; exact hw)]

/-- A pacer stalled in a TAKE on an empty FIFO takes the word and goes on (R364). -/
theorem pacPush_taken (hw : (s.pacer n).wait = .take) (hq : (s.pacer n).inq = []) (w : BitVec 32) :
    s.pacPush n w = (s.updPacer n fun x => ({ x with sr := w, lastTake := w, stale := false } : Pacer).goes, true) := by
  have e : (s.updPacer n fun x => { x with inq := x.inq ++ [w] }).pacer n = { s.pacer n with inq := [w] } := by
    rw [State.pacer_updPacer h, if_pos rfl, hq]
    rfl
  unfold State.pacPush
  rw [if_neg (by simp [hq])]
  dsimp only
  rw [if_pos (by rw [e]; exact hw), State.pacTake, e]
  dsimp only
  rw [State.pacNext, State.updPacer_updPacer h, State.updPacer_updPacer h]
  refine congrArg (·, true) (State.updPacer_congr ?_)
  simp only [Pacer.goes, hq]

omit h in
theorem pacPull_empty (hq : (s.pacer n).outq = []) : s.pacPull n = (s, none) := by
  unfold State.pacPull
  rw [hq]

/-- A word pulled is the oldest of the outbound FIFO (R364). -/
theorem pacPull_oldest {e : BitVec 32} {rest : List (BitVec 32)} (hq : (s.pacer n).outq = e :: rest) (hw : (s.pacer n).wait ≠ .give) :
    s.pacPull n = (s.updPacer n fun x => { x with outq := rest }, some e) := by
  unfold State.pacPull
  rw [hq]
  dsimp only
  rw [if_neg (by rw [State.pacer_updPacer h, if_pos rfl]; exact hw)]

/-- A pacer stalled in a GIVE adds its own word and goes on (R364). -/
theorem pacPull_given {e : BitVec 32} {rest : List (BitVec 32)} (hq : (s.pacer n).outq = e :: rest) (hr : rest ≠ []) (hw : (s.pacer n).wait = .give) :
    s.pacPull n = (s.updPacer n fun x => ({ x with outq := rest ++ [x.sr] } : Pacer).goes, some e) := by
  have e' : (s.updPacer n fun x => { x with outq := rest }).pacer n = { s.pacer n with outq := rest } := by rw [State.pacer_updPacer h, if_pos rfl]
  unfold State.pacPull
  rw [hq]
  dsimp only
  rw [if_pos (by rw [e']; exact hw), State.pacGive, e']
  dsimp only
  rw [List.isEmpty_eq_false_iff.2 hr, Bool.false_and, State.when, if_neg Bool.false_ne_true, State.pacNext, State.updPacer_updPacer h, State.updPacer_updPacer h]
  rfl

end

/-- The port of a PCR trigger (R114). -/
def pcrPort (pull : Bool) : Nat := if pull then 0x269 else 0x268

/-- A PCR trigger of a heat runner in the supervisor level of a full complex is taken (R114). -/
theorem pcr_taken {s : State} (h : s.TablesOk) {k i : Nat} (hr : s.executes (.heat k i)) (hsup : (s.runner (.heat k i)).sup = true)
    (hv : s.fuses.variant.full = true) {pull : Bool} {v : Word} {f : State → State} (hrun : (s.taking (.heat k i)).runPcr (.heat k i) pull v = f (s.taking (.heat k i))) :
    s.trigger (.heat k i) (pcrPort pull) v = s.took (.heat k i) f := by
  have b := begun_beginWord h (.heat k i)
  have open' : (s.beginWord (.heat k i)).portOpen (.heat k i) (pcrPort pull) := by
    cases pull <;> exact portOpen_super (b.sup.trans hsup) (by decide) (by decide) rfl rfl (.inl rfl) fun _ => by rw [b.fuses]; exact hv
  exact trigger_runs h hr open' (t := .pcr pull) (by cases pull <;> rfl) rfl rfl hrun

/-- The mailbox operation in flight: a word that went, and the status (R114). -/
def pcrOp (st : Nat) (d : List (Nat × QVal)) : Op := { unit := .pcr, res := d ++ [(0x27D, { val := BitVec.ofNat 64 st })] }

theorem runPcr_misuse {s : State} {r : Rid} (hn : 15 < ((s.runner r).op 0x260).toNat) (pull : Bool) (v : Word) :
    s.runPcr r pull v = (s.report 0x04 3 r.page r.page 0 ((s.runner r).op 0x260).toNat).start r (pcrOp 0 []) := if_pos hn

theorem runPcr_push {s : State} {r : Rid} (hn : ((s.runner r).op 0x260).toNat ≤ 15) (v : Word) {t : State} {b : Bool}
    (hp : s.pacPush ((s.runner r).op 0x260).toNat (v.setWidth 32) = (t, b)) : s.runPcr r false v = t.start r (pcrOp (if b then 1 else 2) []) := by
  unfold State.runPcr
  dsimp only
  rw [if_neg (Nat.not_lt.2 hn), if_neg Bool.false_ne_true, hp]
  cases b <;> rfl

theorem runPcr_pull_none {s : State} {r : Rid} (hn : ((s.runner r).op 0x260).toNat ≤ 15) (v : Word) {t : State}
    (hp : s.pacPull ((s.runner r).op 0x260).toNat = (t, none)) : s.runPcr r true v = t.start r (pcrOp 2 [(0x27C, {})]) := by
  unfold State.runPcr
  dsimp only
  rw [if_neg (Nat.not_lt.2 hn), if_pos rfl, hp]
  rfl

theorem runPcr_pull_some {s : State} {r : Rid} (hn : ((s.runner r).op 0x260).toNat ≤ 15) (v : Word) {t : State} {w : BitVec 32}
    (hp : s.pacPull ((s.runner r).op 0x260).toNat = (t, some w)) : s.runPcr r true v = t.start r (pcrOp 1 [(0x27C, { val := BitVec.ofNat 64 w.toNat })]) := by
  unfold State.runPcr
  dsimp only
  rw [if_neg (Nat.not_lt.2 hn), if_pos rfl, hp]
  dsimp only
  rw [← BitVec.ofNat_toNat]
  rfl

/-- Settles O23: each trigger is taken, and its mailbox does what the FIFO and the pacer's stall allow. -/
theorem mailboxComplete : Obligations.MailboxComplete := by
  unfold Obligations.MailboxComplete
  intro s j i v h r hr hsup hv n x w op goes pushed pulled
  have hn : (((s.taking r).runner r).op 0x260).toNat = n := congrArg BitVec.toNat (taking_op h r 0x260)
  have k := begun_taking h r
  have hx : (s.taking r).pacer n = x := k.pacer n
  have hw : v.setWidth 32 = w := (BitVec.ofNat_toNat ..).symm
  have taken (pull : Bool) {f : State → State} (hrun : (s.taking r).runPcr r pull v = f (s.taking r)) :
      (.next (s.trigger r (pcrPort pull) v) : Res) = .next (s.took r f) := congrArg Host.Outcome.next (pcr_taken h hr hsup hv hrun)
  have push (h15 : n ≤ 15) (f : State → State) {b : Bool} (hp : (s.taking r).pacPush n w = (f (s.taking r), b)) :
      (.next (s.trigger r (pcrPort false) v) : Res) = .next (s.took r fun t => (f t).start r (op (if b then 1 else 2) [])) :=
    taken false (runPcr_push (hn.trans_le h15) v (by rw [hn, hw]; exact hp))
  have pull (h15 : n ≤ 15) {f : Pacer → Pacer} {e : BitVec 32} (hp : (s.taking r).pacPull n = ((s.taking r).updPacer n f, some e)) : pulled e f :=
    taken true (runPcr_pull_some (hn.trans_le h15) v (by rw [hn]; exact hp))
  refine ⟨fun h15 => ?misuse, fun h15 hf => push h15 id (pacPush_full (by rw [hx]; exact hf) w),
    fun h15 hf hnw => push h15 (fun t => t.updPacer n _) (pacPush_queued k.ok (by rw [hx]; exact hf) (by rw [hx]; exact hnw) w),
    fun h15 hwt hq => push h15 (fun t => t.updPacer n _) (pacPush_taken k.ok (by rw [hx]; exact hwt) (by rw [hx]; exact hq) w),
    fun h15 hq => taken true (f := fun t => t.start r _) (runPcr_pull_none (hn.trans_le h15) v (pacPull_empty (by rw [hn, hx]; exact hq))),
    fun e rest h15 hq hnw => pull h15 (pacPull_oldest k.ok (by rw [hx]; exact hq) (by rw [hx]; exact hnw)),
    fun e rest h15 hq hne hwt => pull h15 (pacPull_given k.ok (by rw [hx]; exact hq) hne (by rw [hx]; exact hwt))⟩
  have misuse (p : Bool) : (.next (s.trigger r (pcrPort p) v) : Res) = .next (s.took r fun t => (t.report 0x04 3 r.page r.page 0 n).start r (op 0 [])) :=
    taken p (by rw [runPcr_misuse (h15.trans_eq hn.symm), hn]; rfl)
  exact List.forall_mem_cons.2 ⟨misuse false, List.forall_mem_singleton.2 (misuse true)⟩

end Sys2Proof.Machine
end

section
/-! PRD and the return-stack triggers of SEQ (R115, R128, R134 to R136, R145, R146, R149). -/
namespace Sys2Proof.Machine

/-! What is dropped of the path (R147, R149) -/

/-- A runner whose decoded words are dropped, with all that was fetched; those that fail their check are counted. -/
def Runner.dropped (y x : Runner) : Runner :=
  { y with ahead := [], fnext := none, fbuf := [], latent := y.latent + BitVec.ofNat 32 (x.ahead.filter x.badWord).length }

/-- A runner that differs in CTL's copy and STL drops the same words. -/
theorem dropPath_taking {s : State} (h : s.TablesOk) (r : Rid) :
    { ((s.taking r).runner r).dropPath with fbuf := [] } = ((s.taking r).runner r).dropped (s.runner r) := by
  obtain ⟨c, n, e⟩ := taking_runner h r
  rw [e]
  rfl

theorem updR_dropPath {s : State} (h : s.TablesOk) (r : Rid) (f : Runner → Runner) :
    ((s.taking r).updR r fun x => f { x.dropPath with fbuf := [] }) = (s.taking r).updR r fun x => f (x.dropped (s.runner r)) :=
  updR_congr (congrArg f (dropPath_taking h r))

/-- The port of a PRD trigger (R115). -/
def prdPort : PrdOp → Nat
  | .flush => 0x288 | .bar => 0x289 | .snap => 0x28A | .clrc => 0x28B

/-- A PRD trigger of a runner in the supervisor level is taken (R115). -/
theorem prd_taken {s : State} (h : s.TablesOk) {r : Rid} (hr : s.executes r) (hsup : (s.runner r).sup = true) {op : PrdOp} {v : Word} {f : State → State}
    (hrun : (s.taking r).runPrd r op = f (s.taking r)) : s.trigger r (prdPort op) v = s.took r f := by
  have k := begun_beginWord h r
  have hp : (s.beginWord r).portOpen r (prdPort op) := by cases op <;> exact portOpen_begun k hsup (by decide) (by decide) rfl rfl (by decide)
  exact trigger_runs h hr hp (t := .prd op) (by cases op <;> rfl) rfl rfl hrun

/-! The return stack (R134 to R136) -/

/-- The port of a return-stack trigger (R128). -/
def rsPort : RsOp → Nat
  | .push => 0x1CD | .pop => 0x1CE | .clr => 0x1CF | .rd => 0x1D0

theorem trigOf_rsPort (op : RsOp) : trigOf (rsPort op) = some (.rs op) := by cases op <;> rfl

theorem portOpen_rs {s u : State} {r : Rid} (k : Begun s u r) (hsup : (s.runner r).sup = true) (op : RsOp) : u.portOpen r (rsPort op) := by
  cases op <;> exact portOpen_begun k hsup (by decide) (by decide) rfl rfl (by decide)

/-- A return-stack trigger of a runner in the supervisor level that meets no fault is taken. -/
theorem rs_taken {s : State} (h : s.TablesOk) {r : Rid} (hr : s.executes r) (hsup : (s.runner r).sup = true) {op : RsOp} {v : Word}
    (hf : (s.beginWord r).trigFaults r (.rs op) v = []) {f : State → State} (hrun : (s.taking r).runRs r op v = f (s.taking r)) :
    s.trigger r (rsPort op) v = s.took r f :=
  trigger_runs h hr (portOpen_rs (begun_beginWord h r) hsup op) (trigOf_rsPort op) hf rfl hrun

/-- A return-stack trigger of a runner in the supervisor level that has a fault raises it. -/
theorem rs_faulted {s : State} (h : s.TablesOk) {r : Rid} (hr : s.executes r) (hsup : (s.runner r).sup = true) {op : RsOp} {v : Word} {c : Nat}
    (hf : (s.beginWord r).trigFaults r (.rs op) v = [(c, 0)]) : s.trigger r (rsPort op) v = (s.beginWord r).faultNow r { code := c, sv := true } :=
  trigger_faulted hr.1 (resFail_beginWord h hr) (portOpen_rs (begun_beginWord h r) hsup op) (trigOf_rsPort op) hf

theorem rsPush_faults (s : State) (r : Rid) (v : Word) :
    s.trigFaults r (.rs .push) v = if (s.runner r).rs.length = 16 ∧ (s.runner r).ctlEff.getLsbD 2 = true then [(7, 0)] else [] := List.append_nil _

theorem rsPop_faults (s : State) (r : Rid) (v : Word) : s.trigFaults r (.rs .pop) v = if (s.runner r).rs.isEmpty then [(8, 0)] else [] := List.append_nil _

/-- q_rs in flight: an entry, the depth, and whether the entry is out of the stack (R128). -/
def rsOp (e : CAddr) (depth out : Nat) : Op := { unit := .seq, res := [(0x1DC, { val := BitVec.ofNat 64 (out * 2 ^ 21 + depth * 2 ^ 16 + e.toNat) })] }

/-- The state whose next free value has been used (notes/assumptions/24.md). -/
def State.usedFree (s : State) : State := { s with fresh := s.fresh + 1 }

section
variable {s : State} (h : s.TablesOk) (r : Rid) (v : Word)
include h

theorem usedFree_ok : s.usedFree.TablesOk := { h with }

/-- A push adds the address on top, the oldest entry of a full stack goes (R135). -/
theorem runRs_push : ∃ e, s.runRs r .push v = (s.usedFree.updR r fun x => { x with rs := (BitVec.ofNat 15 v.toNat :: x.rs).take 16, rpred := [] }).start r
    (rsOp e (min ((s.runner r).rs.length + 1) 16) 0) := by
  have hlen : ((s.usedFree.updR r fun x => { x with rs := (BitVec.ofNat 15 v.toNat :: x.rs).take 16, rpred := [] }).runner r).rs.length = min ((s.runner r).rs.length + 1) 16 := by
    rw [State.runner_updR (usedFree_ok h), List.length_take, Nat.min_comm]
    rfl
  refine ⟨BitVec.ofNat 15 s.freeWord.1.toNat, ?_⟩
  rw [← hlen]
  rfl

theorem runRs_pop {e : CAddr} {l : List CAddr} (hrs : (s.runner r).rs = e :: l) :
    s.runRs r .pop v = (s.updR r fun x => { x with rs := l, rpred := [] }).start r (rsOp e l.length 0) := by
  have hpop : (s.updR r fun x => { x with rs := x.rs.drop 1, rpred := [] }) = s.updR r fun x => { x with rs := l, rpred := [] } :=
    updR_congr (by rw [hrs]; rfl)
  unfold State.runRs
  dsimp only
  rw [hpop, State.runner_updR h, hrs]
  rfl

theorem runRs_clr : ∃ e, s.runRs r .clr v = (s.usedFree.updR r fun x => { x with rs := [], rpred := [] }).start r (rsOp e 0 0) := by
  have hlen : ((s.usedFree.updR r fun x => { x with rs := [], rpred := [] }).runner r).rs.length = 0 := by rw [State.runner_updR (usedFree_ok h)]; rfl
  exact ⟨BitVec.ofNat 15 s.freeWord.1.toNat, congrArg (fun d => State.start _ r (rsOp (BitVec.ofNat 15 s.freeWord.1.toNat) d 0)) hlen⟩

omit h

theorem fld_place : fld v 3 0 = v.toNat % 16 := by rw [fld_eq_div_mod]; simp

theorem runRs_rd {e : CAddr} (he : (s.runner r).rs[v.toNat % 16]? = some e) : s.runRs r .rd v = s.start r (rsOp e (s.runner r).rs.length 0) := by
  unfold State.runRs
  dsimp only
  rw [fld_place, he]
  rfl

theorem runRs_rd_out (he : (s.runner r).rs.length ≤ v.toNat % 16) : s.runRs r .rd v = s.start r (rsOp 0 (s.runner r).rs.length 1) := by
  unfold State.runRs
  dsimp only
  rw [fld_place, List.getElem?_eq_none he]
  rfl

end

theorem updR_id {s : State} (h : s.TablesOk) (r : Rid) : s.updR r id = s := State.setRunner_self h r

/-- CTL's fields are taken as the word of a single trigger begins (R75). -/
theorem ctlEff_beginWord {s : State} (h : s.TablesOk) {r : Rid} (hr : s.executes r) :
    ((s.beginWord r).runner r).ctlEff = if (s.runner r).stallAt = none then s.reg r.page 0x100 else (s.runner r).ctlEff := by
  have htries : (s.runner r).tries = 0 := by
    have hc := hr.1
    unfold State.canTrig at hc
    simp only [Bool.and_eq_true, beq_iff_eq] at hc
    exact hc.1.2
  unfold State.beginWord
  dsimp only
  by_cases hst : (s.runner r).stallAt = none
  · rw [if_pos ⟨htries, Option.isNone_iff_eq_none.2 hst⟩, if_pos hst, State.runner_updR h]
  · rw [if_neg fun hb => hst (Option.isNone_iff_eq_none.1 hb.2), if_neg hst]

/-- Settles O24: each trigger is taken or raises its fault, and its function says what stands. -/
theorem predictionAndReturnStackComplete : Obligations.PredictionAndReturnStackComplete := by
  unfold Obligations.PredictionAndReturnStackComplete
  intro s r v h hr hsup x sets bad drops q shows some' ovf
  have k := begun_taking h r
  have hrs : ((s.taking r).runner r).rs = x.rs := by
    obtain ⟨c, n, e⟩ := taking_runner h r
    rw [e]
  have hrs' : ((s.beginWord r).runner r).rs = x.rs := by
    obtain ⟨c, e⟩ := beginWord_runner h r
    rw [e]
  have prd (op : PrdOp) {f : State → State} (hrun : (s.taking r).runPrd r op = f (s.taking r)) : (.next (s.trigger r (prdPort op) v) : Res) = .next (s.took r f) :=
    congrArg Host.Outcome.next (prd_taken h hr hsup hrun)
  have rs (op : RsOp) (hf : (s.beginWord r).trigFaults r (.rs op) v = []) {f : State → State} (hrun : (s.taking r).runRs r op v = f (s.taking r)) :
      (.next (s.trigger r (rsPort op) v) : Res) = .next (s.took r f) := congrArg Host.Outcome.next (rs_taken h hr hsup hf hrun)
  have fault (op : RsOp) {c : Nat} (hf : (s.beginWord r).trigFaults r (.rs op) v = [(c, 0)]) :
      (.next (s.trigger r (rsPort op) v) : Res) = .next ((s.beginWord r).faultNow r { code := c, sv := true }) := congrArg Host.Outcome.next (rs_faulted h hr hsup hf)
  refine ⟨?flush, ?bar, ?snap, prd .clrc rfl, fun hroom => ?push, fun hfull hovf => fault .push ?pushFault, fun e l hl => ?pop, fun hl => fault .pop ?popFault, ?clr,
    fun e he => rs .rd rfl (f := fun t => (t.updR r id).start r _) (by rw [runRs_rd r v (by rw [hrs]; exact he), hrs, updR_id k.ok]; rfl),
    fun he => rs .rd rfl (f := fun t => (t.updR r id).start r _) (by rw [runRs_rd_out r v (by rw [hrs]; exact he), hrs, updR_id k.ok]; rfl), ctlEff_beginWord h hr⟩
  case flush => exact prd .flush (f := fun t => t.updR r _) (updR_dropPath h r fun y => { y with book := [], hist := [], rpred := [] })
  case bar => exact prd .bar (f := fun t => t.updR r _) (updR_dropPath h r fun y => { y with barStop := true })
  case snap =>
    refine prd .snap (f := fun t => t.start r _) ?_
    obtain ⟨c, n, e⟩ := taking_runner h r
    unfold State.runPrd
    dsimp only
    rw [e, ← BitVec.ofNat_toNat, ← BitVec.ofNat_toNat]
  case push =>
    obtain ⟨e, hrun⟩ := runRs_push k.ok r v
    have hf : (s.beginWord r).trigFaults r (.rs .push) v = [] := by
      rw [rsPush_faults, hrs', if_neg]
      rintro ⟨hlen, hovf⟩
      rcases hroom with hlt | ⟨-, hno⟩
      · omega
      · exact hno hovf
    rw [hrs] at hrun
    exact ⟨e, rs .push hf (f := fun t => (t.usedFree.updR r _).start r _) hrun⟩
  case pushFault => rw [rsPush_faults, hrs', if_pos ⟨hfull, hovf⟩]
  case pop => exact rs .pop (by rw [rsPop_faults, hrs', hl]; rfl) (f := fun t => (t.updR r _).start r _) (runRs_pop k.ok r v (hrs.trans hl))
  case popFault => rw [rsPop_faults, hrs', hl]; rfl
  case clr =>
    obtain ⟨e, hrun⟩ := runRs_clr k.ok r v
    exact ⟨e, rs .clr rfl (f := fun t => (t.usedFree.updR r _).start r _) hrun⟩

end Sys2Proof.Machine
end

section
/-! Two states whose memories and buffers of one runner are alike: what drains of it goes to both alike (R67, R105, R106, R170). -/
namespace Sys2Proof.Machine

/-- The memories with their upkeep. -/
def State.stored (s : State) : Table Byte × Table Byte × Table MemUp := (s.spads, s.arbMem, s.memUp)

/-- What a runner has buffered, and its reservation. -/
def Runner.buffers (x : Runner) : List StoreEnt × List (Nat × Word) × Nat × Option (Nat × Nat) := (x.stores, x.frame, x.frameOld, x.resv)

/-- `s` and `u` hold the same bytes, errors and buffers of `r`. -/
structure Alike (r : Rid) (s u : State) : Prop where
  stored  : u.stored = s.stored
  buffers : (u.runner r).buffers = (s.runner r).buffers
  left    : s.TablesOk
  right   : u.TablesOk

/-! Runners by their place -/

/-- The place of a runner's record. -/
def placeOf : Rid → Option Nat
  | .heat h i => some (9 * h + i)
  | .arb => none

theorem runner_setRunner_place {s : State} (h : s.TablesOk) (r r' : Rid) (x : Runner) :
    (s.setRunner r x).runner r' = if placeOf r' = placeOf r then x else s.runner r' := by
  cases r with
  | arb => cases r' with
    | arb => rfl
    | heat a i => rfl
  | heat a i => cases r' with
    | arb => rfl
    | heat b j => exact (tget_tset h.runners _ _ _).trans (if_congr (Option.some_inj).symm rfl rfl)

theorem runner_of_place {s : State} {r r' : Rid} (e : placeOf r' = placeOf r) : s.runner r' = s.runner r := by
  cases r with
  | arb => cases r' with
    | arb => rfl
    | heat a i => nomatch e
  | heat a i => cases r' with
    | arb => nomatch e
    | heat b j => exact congrArg (tget {} s.runners) (Option.some.inj e)

theorem updR_stored (s : State) (r : Rid) (f : Runner → Runner) : (s.updR r f).stored = s.stored := by cases r <;> rfl

/-! What a read and a write do to the upkeep of a memory (R303, R304) -/

/-- A read finds a single-bit error that a free place holds corrected (R303). -/
def MemUp.corrects (u : MemUp) (m w : Nat) : Bool :=
  match u.ecc.find? fun e => e.1 == w with
  | some (_, .single) => !tget false u.held w && decide ((u.held.filter fun e => bankOf m e.1 == bankOf m w).length < 4)
  | _ => false

theorem raise_stored (s : State) (sl src : Nat) : (s.raise sl src).stored = s.stored := by
  unfold State.raise
  split
  · rfl
  · split
    · rfl
    · split <;> rfl

theorem readWordErr_stored (s : State) (m w : Nat) :
    (s.readWordErr m w).1.stored = (s.when ((s.up m).corrects m w) fun s => s.updUp m fun u => { u with held := tset false u.held w true }).stored := by
  unfold State.readWordErr MemUp.corrects
  dsimp only
  generalize (s.up m).ecc.find? (fun e => e.1 == w) = found
  rcases found with _ | ⟨x, _ | _⟩
  · rfl
  · cases tget false (s.up m).held w with
    | true => rfl
    | false =>
      dsimp only
      rw [if_neg Bool.false_ne_true, Bool.not_false, Bool.true_and]
      generalize decide (_ < 4) = room
      split <;> cases room <;> rfl
  · dsimp only
    split
    · rfl
    · refine (raise_stored ..).trans ?_
      cases inSecure m (8 * w) <;> rfl

section
variable {r : Rid} {s u : State} (k : Alike r s u)
include k

theorem Alike.up (m : Nat) : u.up m = s.up m := congrArg (fun q : Table Byte × Table Byte × Table MemUp => tget ({} : MemUp) q.2.2 m) k.stored

theorem Alike.byteAt (m a : Nat) : u.byteAt m a = s.byteAt m a := byteAt_of_bytes (congrArg (fun q => (q.1, q.2.1)) k.stored) m a

theorem Alike.wordAt (a : Nat) : u.wordAt r a = s.wordAt r a := by
  unfold State.wordAt
  simp only [k.byteAt]

theorem Alike.resv : (u.runner r).resv = (s.runner r).resv := congrArg (fun q => q.2.2.2) k.buffers

theorem Alike.stores : (u.runner r).stores = (s.runner r).stores := congrArg (fun q => q.1) k.buffers

theorem Alike.frame : (u.runner r).frame = (s.runner r).frame := congrArg (fun q => q.2.1) k.buffers

theorem Alike.frameOld : (u.runner r).frameOld = (s.runner r).frameOld := congrArg (fun q => q.2.2.1) k.buffers

theorem Alike.writes : (u.runner r).writes = (s.runner r).writes := by
  unfold Runner.writes
  rw [k.stores, k.frame, k.frameOld]

/-- Both states take steps that leave what is alike. -/
theorem Alike.step {s' u' : State} (hs : u'.stored = s'.stored) (hb : (u'.runner r).buffers = (s'.runner r).buffers) (hl : Kept s s') (hr : Kept u u') :
    Alike r s' u' := ⟨hs, hb, hl.tab k.left, hr.tab k.right⟩

theorem Alike.updR {f g : Runner → Runner} (hfg : (g (u.runner r)).buffers = (f (s.runner r)).buffers) : Alike r (s.updR r f) (u.updR r g) :=
  ⟨by rw [updR_stored, updR_stored, k.stored], by rw [State.runner_updR k.left, State.runner_updR k.right, hfg], updR_ok k.left .., updR_ok k.right ..⟩

theorem Alike.report (cls cause rep sus el det : Nat) : Alike r (s.report cls cause rep sus el det) (u.report cls cause rep sus el det) :=
  k.step k.stored (by cases r <;> exact k.buffers) (report_kept (.refl s)) (report_kept (.refl u))

theorem Alike.updUp (m : Nat) (f : MemUp → MemUp) : Alike r (s.updUp m f) (u.updUp m f) := by
  refine k.step ?_ (by cases r <;> exact k.buffers) (updUp_kept (.refl s)) (updUp_kept (.refl u))
  unfold State.stored State.updUp
  obtain ⟨h1, h2, h3⟩ : u.spads = s.spads ∧ u.arbMem = s.arbMem ∧ u.memUp = s.memUp := by simpa [State.stored] using k.stored
  rw [k.up, h1, h2, h3]

theorem Alike.readWordErr (m w : Nat) : Alike r (s.readWordErr m w).1 (u.readWordErr m w).1 := by
  refine k.step ?_ ?_ (readWordErr_kept (.refl s)) (readWordErr_kept (.refl u))
  · rw [readWordErr_stored, readWordErr_stored, k.up]
    cases (s.up m).corrects m w
    · exact k.stored
    · exact (k.updUp m fun u => { u with held := tset false u.held w true }).stored
  · rw [runner_of_memories (readWordErr_memories ..), runner_of_memories (readWordErr_memories ..), k.buffers]

theorem Alike.writeWordErr (m w : Nat) (full : Bool) : Alike r (s.writeWordErr m w full) (u.writeWordErr m w full) := by
  unfold State.writeWordErr
  dsimp only
  rw [k.up]
  split
  · exact k.updUp m _
  · split <;> exact k.updUp m _

theorem Alike.setByte (m a : Nat) (b : Byte) : Alike r (s.setByte m a b) (u.setByte m a b) := by
  obtain ⟨h1, h2, h3⟩ : u.spads = s.spads ∧ u.arbMem = s.arbMem ∧ u.memUp = s.memUp := by simpa [State.stored] using k.stored
  refine k.step ?_ ?_ (setByte_kept (.refl s)) (setByte_kept (.refl u))
  · unfold State.setByte State.stored
    split <;> simp only [h1, h2, h3]
  · unfold State.setByte
    split <;> cases r <;> exact k.buffers

omit k

theorem Alike.each {α : Type} {f : State → α → State} (l : List α) (hf : ∀ s u a, Alike r s u → Alike r (f s a) (f u a)) (k : Alike r s u) :
    Alike r (s.each l f) (u.each l f) := by
  induction l generalizing s u with
  | nil => exact k
  | cons a l ih => exact ih (hf s u a k)

theorem Alike.setBytes (m a : Nat) (l : List Byte) (k : Alike r s u) : Alike r (s.setBytes m a l) (u.setBytes m a l) := by
  induction l generalizing s u a with
  | nil => exact k
  | cons b l ih => exact ih (a + 1) (k.setByte m a b)

/-- The loss of another runner's reservation. -/
theorem loseOne_apart {t : State} (h : t.TablesOk) {r' : Rid} (hp : placeOf r ≠ placeOf r') (a n : Nat) : (t.loseOne a n r').runner r = t.runner r := by
  rcases loseOne_cases a n t r' with e | e <;> rw [e]
  exact (runner_setRunner_place h ..).trans (if_neg hp)

theorem loseOne_stored (t : State) (a n : Nat) (r' : Rid) : (t.loseOne a n r').stored = t.stored := by
  rcases loseOne_cases a n t r' with e | e <;> rw [e]
  exact updR_stored ..

theorem Alike.loseOne (a n : Nat) (r' : Rid) (k : Alike r s u) : Alike r (s.loseOne a n r') (u.loseOne a n r') := by
  refine ⟨by rw [loseOne_stored, loseOne_stored, k.stored], ?_, loseOne_ok k.left .., loseOne_ok k.right ..⟩
  by_cases hp : placeOf r = placeOf r'
  · have same (t : State) : t.runner r' = t.runner r := runner_of_place hp.symm
    have set (t : State) (h : t.TablesOk) (x : Runner) : (t.setRunner r' x).runner r = x := (runner_setRunner_place h ..).trans (if_pos hp)
    unfold State.loseOne
    rw [same, same, k.resv]
    split
    · exact k.buffers
    · split
      · have hb : (u.runner r).buffers = (s.runner r).buffers := k.buffers
        rw [State.updR, State.updR, set u k.right, set s k.left, same, same]
        exact congrArg (fun q : List StoreEnt × List (Nat × Word) × Nat × Option (Nat × Nat) => (q.1, q.2.1, q.2.2.1, (none : Option (Nat × Nat)))) hb
      · exact k.buffers
  · rw [loseOne_apart k.left hp, loseOne_apart k.right hp, k.buffers]

theorem Alike.memWrite (m a : Nat) (bs : List Byte) (k : Alike r s u) : Alike r (s.memWrite m a bs) (u.memWrite m a bs) := by
  unfold State.memWrite
  dsimp only
  split
  · exact k
  · rw [loseResv_eq, loseResv_eq]
    refine Alike.each _ (fun s u r' k => k.loseOne a bs.length r') (Alike.each _ (fun s u w k => k.writeWordErr m w _) (Alike.setBytes m a bs (Alike.each _ (fun s u w k => ?_) k)))
    split
    · exact k
    · exact k.readWordErr m w

theorem Alike.userWrite (m a : Nat) (bs : List Byte) (who : Nat) (k : Alike r s u) : Alike r (s.userWrite m a bs who) (u.userWrite m a bs who) := by
  unfold State.userWrite
  split
  · exact k.report ..
  · exact k.memWrite m a bs

/-! Drains -/

theorem Alike.drainStore (k : Alike r s u) : Alike r (s.drainStore r) (u.drainStore r) := by
  unfold State.drainStore
  rw [k.stores]
  split
  · exact k
  · refine Alike.userWrite _ _ _ _ (k.updR ?_)
    show ((_, (u.runner r).frame, (u.runner r).frameOld - 1, (u.runner r).resv) : _ × _ × _ × _) = _
    rw [k.frame, k.frameOld, k.resv]
    rfl

theorem Alike.drainFrame (k : Alike r s u) : Alike r (s.drainFrame r) (u.drainFrame r) := by
  unfold State.drainFrame
  dsimp only
  rw [k.frame]
  refine Alike.each _ (fun s u e k => k.userWrite _ _ _ _) (k.updR ?_)
  show (((u.runner r).stores, _, (u.runner r).frameOld, (u.runner r).resv) : _ × _ × _ × _) = _
  rw [k.stores, k.frameOld, k.resv]
  rfl

theorem Alike.drainHead (k : Alike r s u) : Alike r (s.drainHead r) (u.drainHead r) := by
  unfold State.drainHead
  dsimp only
  rw [k.frame, k.frameOld]
  split
  · exact k.drainFrame
  · exact k.drainStore

theorem Alike.drainWhile (p : StoreEnt → Bool) (n : Nat) (k : Alike r s u) : Alike r (s.drainWhile r p n) (u.drainWhile r p n) := by
  induction n generalizing s u with
  | zero => exact k
  | succ n ih =>
    unfold State.drainWhile
    rw [k.writes]
    split
    · exact ih k.drainHead
    · exact k

theorem Alike.drainAll (k : Alike r s u) : Alike r (s.drainAll r) (u.drainAll r) := by
  unfold State.drainAll
  rw [k.stores]
  exact k.drainWhile _ _

/-- A runner that takes a trigger has the buffers it had. -/
theorem alike_taking (h : s.TablesOk) (r : Rid) : Alike r s (s.taking r) := by
  have k := begun_taking h r
  refine ⟨?_, ?_, h, k.ok⟩
  · obtain ⟨ru, ar, e⟩ := k.rest
    rw [e]
    rfl
  · obtain ⟨c, n, m, e⟩ := k.runner
    rw [e]
    rfl

end

end Sys2Proof.Machine
end

section
/-! ATM: test-and-set, load-reserved, store-conditional, clear (R105, R106). -/
namespace Sys2Proof.Machine

/-- The port of an ATM trigger (R105). -/
def atmPort : AtmOp → Nat
  | .tas => 0x1A8 | .lr => 0x1A9 | .sc => 0x1AA | .clr => 0x1AB

theorem trigOf_atmPort (op : AtmOp) : trigOf (atmPort op) = some (.atm op) := by cases op <;> rfl

theorem portOpen_atm (s : State) (r : Rid) (op : AtmOp) : s.portOpen r (atmPort op) := by
  cases op <;> exact portOpen_user s r (i := pT) (by decide) (by decide) rfl rfl rfl (by decide)

/-- The word of an ATM trigger: o_addr, with the value added by t_tas and t_lr (R105). -/
def State.atmAddr (s : State) (r : Rid) (op : AtmOp) (v : Word) : Nat :=
  match op with
  | .tas | .lr => s.sumAddr r 0x1A0 v
  | .sc | .clr => s.opAddr r 0x1A0

/-- An ATM trigger whose word its runner may access now is taken (R93, R307). -/
theorem atm_taken {s : State} (h : s.TablesOk) {r : Rid} (hr : s.executes r) {op : AtmOp} {v : Word} (hd : s.dataOk r (s.atmAddr r op v) 8 ∨ op = .clr) {f : State → State}
    (hrun : (s.taking r).runAtm r op v = f (s.taking r)) : s.trigger r (atmPort op) v = s.took r f := by
  have k := begun_beginWord h r
  have same : (s.beginWord r).atmAddr r op v = s.atmAddr r op v := by
    cases op with
    | tas | lr => exact k.sumAddr 0x1A0 v
    | sc | clr => exact k.opAddr 0x1A0
  have access (ho : op ≠ .clr) : (s.beginWord r).dataOk r ((s.beginWord r).atmAddr r op v) 8 := by
    rw [same]
    exact beginWord_dataOk h (hd.resolve_right ho)
  refine trigger_runs h hr (portOpen_atm _ r op) (trigOf_atmPort op) ?faults ?busy hrun
  case faults => cases op with
    | clr => rfl
    | _ => exact (List.append_nil _).trans (addrFaults_eq_nil (access nofun))
  case busy => cases op with
    | clr => rfl
    | _ => exact wipeWaits_eq_false (access nofun)

/-- A result of ATM in flight (R105). -/
def atmOp (q : QVal) : Op := { unit := .atm, res := [(0x1BC, q)] }

/-- A word that is not in error is read as it stands. -/
theorem memRead_word {s : State} {r : Rid} {a : Nat} (ha : a % 8 = 0) (h : ∀ e ∈ (s.up r.home).ecc, e.1 ≠ a / 8) :
    s.memRead r.home a 8 = (s, s.bytesAt r.home a 8, false) ∧ BitVec.ofNat 64 (leNat (s.bytesAt r.home a 8)) = s.wordAt r a := by
  refine ⟨memRead_clean fun e he => ?_, by rw [bytesAt_eq_map]; rfl⟩
  have := h e he
  omega

section
variable {s : State} {r : Rid} {v : Word}

theorem runAtm_tas (ha : s.sumAddr r 0x1A0 v % 8 = 0) (hc : ∀ e ∈ ((s.drainAll r).up r.home).ecc, e.1 ≠ s.sumAddr r 0x1A0 v / 8) : s.runAtm r .tas v =
    ((s.drainAll r).userWrite r.home (s.sumAddr r 0x1A0 v) (leBytes 8 ((s.drainAll r).wordAt r (s.sumAddr r 0x1A0 v) ||| 1).toNat) r.page).start r
      (atmOp { val := (s.drainAll r).wordAt r (s.sumAddr r 0x1A0 v) }) := by
  obtain ⟨hread, hword⟩ := memRead_word ha hc
  unfold State.runAtm
  dsimp only
  rw [hread]
  dsimp only
  rw [if_neg Bool.false_ne_true, hword]
  rfl

theorem runAtm_lr (ha : s.sumAddr r 0x1A0 v % 8 = 0) (hc : ∀ e ∈ ((s.drainAll r).up r.home).ecc, e.1 ≠ s.sumAddr r 0x1A0 v / 8) : s.runAtm r .lr v =
    ((s.drainAll r).updR r fun x => { x with resv := some (s.sumAddr r 0x1A0 v / 64, (s.drainAll r).clkS) }).start r
      (atmOp { val := (s.drainAll r).wordAt r (s.sumAddr r 0x1A0 v) }) := by
  obtain ⟨hread, hword⟩ := memRead_word ha hc
  unfold State.runAtm
  dsimp only
  rw [hread]
  dsimp only
  rw [hword]
  rfl

theorem runAtm_sc_free (hq : ((s.drainAll r).runner r).resv = none) : s.runAtm r .sc v = (s.drainAll r).start r (atmOp { val := 1 }) := by
  unfold State.runAtm
  dsimp only
  rw [hq]
  rfl

theorem runAtm_sc_same {t : Nat} (hq : ((s.drainAll r).runner r).resv = some (s.opAddr r 0x1A0 / 64, t)) : s.runAtm r .sc v =
    (((s.drainAll r).userWrite r.home (s.opAddr r 0x1A0) (leBytes 8 v.toNat) r.page).updR r fun x => { x with resv := none }).start r (atmOp {}) := by
  unfold State.runAtm
  dsimp only
  rw [hq]
  dsimp only
  rw [if_pos rfl]
  rfl

theorem runAtm_sc_other {g t : Nat} (hq : ((s.drainAll r).runner r).resv = some (g, t)) (hg : g ≠ s.opAddr r 0x1A0 / 64) :
    s.runAtm r .sc v = ((s.drainAll r).updR r fun x => { x with resv := none }).start r (atmOp { val := 1 }) := by
  unfold State.runAtm
  dsimp only
  rw [hq]
  dsimp only
  rw [if_neg hg]
  rfl

end

/-- Settles O15: what has drained is alike as the trigger is taken, so the word and the reservation it finds are those after the drains. -/
theorem atomicsComplete : Obligations.AtomicsComplete := by
  unfold Obligations.AtomicsComplete
  intro s r v h hr d b a gives
  have k := begun_taking h r
  have drained : Alike r d ((s.taking r).drainAll r) := (alike_taking h r).drainAll
  have hsum : (s.taking r).sumAddr r 0x1A0 v = b := k.sumAddr 0x1A0 v
  have hop : (s.taking r).opAddr r 0x1A0 = a := k.opAddr 0x1A0
  have taken (op : AtmOp) (hd : s.dataOk r (s.atmAddr r op v) 8 ∨ op = .clr) {f : State → State} {q : Word}
      (hrun : (s.taking r).runAtm r op v = (f ((s.taking r).drainAll r)).start r (atmOp { val := q })) : (.next (s.trigger r (atmPort op) v) : Res) = gives f q :=
    congrArg Host.Outcome.next (atm_taken h hr hd (f := fun t => (f (t.drainAll r)).start r (atmOp { val := q })) hrun)
  refine ⟨fun hd hc => ?_, fun hd => ?_, congrArg Host.Outcome.next (atm_taken h hr (op := .clr) (.inr rfl) (f := fun t => (t.updR r fun x => { x with resv := none }).start r (atmOp {})) rfl)⟩
  · have hc' : ∀ e ∈ (((s.taking r).drainAll r).up r.home).ecc, e.1 ≠ (s.taking r).sumAddr r 0x1A0 v / 8 := by rw [drained.up, hsum]; exact hc
    have hb : (s.taking r).sumAddr r 0x1A0 v % 8 = 0 := by rw [hsum]; exact hd.1
    have tas := runAtm_tas hb hc'
    have lr := runAtm_lr hb hc'
    rw [hsum, drained.wordAt] at tas lr
    exact ⟨taken .tas (.inl hd) (f := fun t => t.userWrite r.home b (leBytes 8 (d.wordAt r b ||| 1).toNat) r.page) tas,
      taken .lr (.inl hd) (f := fun t => t.updR r fun x => { x with resv := some (b / 64, t.clkS) }) lr⟩
  · have hq := drained.resv
    split
    · next hn => exact taken .sc (.inl hd) (f := id) (runAtm_sc_free (hq.trans hn))
    · next g t hs =>
      split
      · next hg =>
        subst hg
        have sc := runAtm_sc_same (v := v) (hq.trans (hs.trans (by rw [hop])))
        rw [hop] at sc
        exact taken .sc (.inl hd) (f := fun t => (t.userWrite r.home a (leBytes 8 v.toNat) r.page).updR r fun x => { x with resv := none }) sc
      · next hg => exact taken .sc (.inl hd) (f := fun t => t.updR r fun x => { x with resv := none }) (runAtm_sc_other (hq.trans hs) (by rw [hop]; exact hg))

end Sys2Proof.Machine
end

section
/-! RING: pop, advance, release, status (R107 to R109, R209, R283). -/
namespace Sys2Proof.Machine

section
variable {s u : State} {r : Rid} (k : Begun s u r)
include k

theorem Begun.ring (q : Nat) : u.ring q = s.ring q := by
  obtain ⟨⟨ru, ar, rfl⟩, -, -⟩ := k
  rfl

theorem Begun.ringWord (q w : Nat) : u.ringWord q w = s.ringWord q w := by
  obtain ⟨⟨ru, ar, rfl⟩, -, -⟩ := k
  rfl

theorem Begun.heldRing : (u.runner r).ring = (s.runner r).ring := by
  obtain ⟨-, ⟨c, n, m, e⟩, -⟩ := k
  rw [e]

theorem Begun.popping : (u.runner r).popping = (s.runner r).popping := by
  obtain ⟨-, ⟨c, n, m, e⟩, -⟩ := k
  rw [e]
  rfl

end

/-- The port of a RING trigger (R108). -/
def ringPort : RingOp → Nat
  | .pop => 0x1E8 | .adv => 0x1E9 | .rel => 0x1EA | .stat => 0x1EB

/-- A RING trigger of a heat runner in the supervisor level, none while a t_pop waits, is taken (R108, R109). -/
theorem ring_taken {s : State} (h : s.TablesOk) {j i : Nat} (hr : s.executes (.heat j i)) (hsup : (s.runner (.heat j i)).sup = true)
    (hp : (s.runner (.heat j i)).popping = false) {op : RingOp} {v : Word} (hv : op = .adv → 1 ≤ v.toNat ∧ v.toNat ≤ 65535) {f : State → State}
    (hrun : (s.taking (.heat j i)).runRing (.heat j i) op v = f (s.taking (.heat j i))) : s.trigger (.heat j i) (ringPort op) v = s.took (.heat j i) f := by
  have k := begun_beginWord h (.heat j i)
  have open' : (s.beginWord (.heat j i)).portOpen (.heat j i) (ringPort op) := by
    cases op <;> exact portOpen_super (k.sup.trans hsup) (by decide) (by decide) rfl rfl (.inl rfl) fun h => absurd h (by decide)
  refine trigger_runs h hr open' (t := .ring op) (by cases op <;> rfl) ?_ (k.popping.trans hp) hrun
  cases op with
  | adv =>
    obtain ⟨hlo, hhi⟩ := hv rfl
    have hz : ¬(v = 0 ∨ 65535 < v.toNat) := by
      rintro (rfl | hgt)
      · exact absurd hlo (by decide)
      · omega
    exact (List.append_nil _).trans (if_neg hz)
  | _ => rfl

/-- A RING operation in flight with q_ring and q_desc (R108). -/
def ringOp (ring desc : Nat) (k : OpKind) : Op :=
  { unit := .ring, res := [(0x1FC, { val := BitVec.ofNat 64 ring }), (0x1FD, { val := BitVec.ofNat 64 desc })], kind := k }

/-- The operation that shows a ring: valid, held, cons, prod and the ring, with the descriptor at cons (R108). -/
def ringShown (q : Nat) (y : Ring) (held : Nat) : Op :=
  ringOp (2 ^ 63 + held * 2 ^ 61 + y.cons.toNat * 2 ^ 32 + y.prod.toNat * 2 ^ 16 + q % 2 ^ 15)
    (y.base.toNat * 4096 + y.cons.toNat % 2 ^ (y.lsz.toNat + 4) * 64) .plain

theorem ring_updRing {s : State} (h : s.TablesOk) (q : Nat) (f : Ring → Ring) : (s.updRing q f).ring q = f (s.ring q) := (State.ring_updRing h ..).trans (if_pos rfl)

theorem updRing_congr {s : State} {q : Nat} {f g : Ring → Ring} (e : f (s.ring q) = g (s.ring q)) : s.updRing q f = s.updRing q g :=
  congrArg (fun y => { s with rings := tset {} s.rings q y }) e

/-- A ring whose work has all been taken (R108). -/
def Ring.emptied (y : Ring) : Ring := { y with cons := y.prod, taken := y.taken + BitVec.ofNat 32 (y.prod - y.cons).toNat }

theorem emptied_eq (y : Ring) : { y with cons := y.cons + BitVec.ofNat 16 (y.prod - y.cons).toNat, taken := y.taken + BitVec.ofNat 32 (y.prod - y.cons).toNat } = y.emptied := by
  rw [BitVec.ofNat_toNat, BitVec.setWidth_eq, add_sub_cancel]
  rfl

/-! What each trigger starts -/

theorem toNat_classMask (v : Word) : (BitVec.ofNat 8 v.toNat : BitVec 8) = 0 ↔ v.toNat % 256 = 0 := by
  rw [← BitVec.toNat_inj, BitVec.toNat_ofNat]
  exact Iff.rfl

section
variable {s : State} {r : Rid} {v : Word}

theorem runRing_pop_empty (hm : v.toNat % 256 = 0) : s.runRing r .pop v = s.start r (ringOp 0 0 .plain) := if_pos ((toNat_classMask v).2 hm)

theorem runRing_pop_held (hm : v.toNat % 256 ≠ 0) {q : Nat} (hq : (s.runner r).ring = some q) : s.runRing r .pop v = s.start r (ringShown q (s.ring q) 1) := by
  unfold State.runRing
  dsimp only
  rw [if_neg (mt (toNat_classMask v).1 hm), hq]
  rfl

theorem runRing_pop_interrupted (hm : v.toNat % 256 ≠ 0) (hq : (s.runner r).ring = none) (hi : s.intrPending r = true) :
    s.runRing r .pop v = s.start r (ringOp (2 ^ 62) 0 .plain) := by
  unfold State.runRing
  dsimp only
  rw [if_neg (mt (toNat_classMask v).1 hm), hq]
  dsimp only
  rw [if_pos hi]
  rfl

theorem runRing_pop_waits (hm : v.toNat % 256 ≠ 0) (hq : (s.runner r).ring = none) (hi : s.intrPending r = false) :
    s.runRing r .pop v = s.start r (ringOp 0 0 (.pop (BitVec.ofNat 8 v.toNat))) := by
  unfold State.runRing
  dsimp only
  rw [if_neg (mt (toNat_classMask v).1 hm), hq]
  dsimp only
  rw [if_neg (by rw [hi]; exact Bool.false_ne_true)]
  rfl

theorem runRing_none {op : RingOp} (ho : op = .adv ∨ op = .rel) (hq : (s.runner r).ring = none) :
    s.runRing r op v = (s.updR r fun x => { x with wdrawn := false }).start r (ringOp 0 0 .plain) := by
  rcases ho with rfl | rfl <;>
  · unfold State.runRing
    dsimp only
    rw [hq]
    rfl

/-- An advance within what the ring holds (R108). -/
theorem runRing_adv (h : s.TablesOk) {q : Nat} (hq : (s.runner r).ring = some q) (hv : v.toNat ≤ ((s.ring q).prod - (s.ring q).cons).toNat) : s.runRing r .adv v =
    (s.updRing q fun y => { y with cons := y.cons + BitVec.ofNat 16 v.toNat, taken := y.taken + BitVec.ofNat 32 v.toNat }).start r
      (ringShown q { s.ring q with cons := (s.ring q).cons + BitVec.ofNat 16 v.toNat } 0) := by
  unfold State.runRing
  dsimp only
  rw [hq]
  dsimp only
  rw [decide_eq_false (Nat.not_lt.2 hv), min_eq_left hv, State.when, if_neg Bool.false_ne_true, ring_updRing h]
  rfl

/-- An advance beyond what the ring holds ends at prod, and is reported (R108). -/
theorem runRing_adv_beyond (h : s.TablesOk) {q : Nat} (hq : (s.runner r).ring = some q) (hv : ((s.ring q).prod - (s.ring q).cons).toNat < v.toNat) : s.runRing r .adv v =
    ((s.report 0x04 0 r.page r.page 0 q).updRing q Ring.emptied).start r (ringShown q { s.ring q with cons := (s.ring q).prod } 0) := by
  have hok : (s.report 0x04 0 r.page r.page 0 q).TablesOk := { h with }
  unfold State.runRing
  dsimp only
  rw [hq]
  dsimp only
  rw [decide_eq_true hv, min_eq_right hv.le, State.when, if_pos rfl, updRing_congr (g := Ring.emptied) (emptied_eq _), ring_updRing hok]
  rfl

theorem runRing_rel {q : Nat} (hq : (s.runner r).ring = some q) (hm : (s.ring q).migTo = none) : s.runRing r .rel v =
    ((s.updR r fun x => { x with ring := none }).modRing q fun y => { y with held := false }).start r (ringOp 0 0 .plain) := by
  have hm' : ((s.updR r fun x => { x with ring := none }).ring q).migTo = none := by cases r <;> exact hm
  unfold State.runRing
  dsimp only
  rw [hq]
  dsimp only
  rw [hm', if_neg (by decide)]
  rfl

theorem runRing_rel_moving {q : Nat} (hq : (s.runner r).ring = some q) (hm : (s.ring q).migTo.isSome = true) : s.runRing r .rel v =
    ((s.updR r fun x => { x with ring := none }).modRing q fun y => { y with held := false, frozen := true, migMv := true }).start r (ringOp 0 0 .plain) := by
  have hm' : ((s.updR r fun x => { x with ring := none }).ring q).migTo.isSome = true := by cases r <;> exact hm
  unfold State.runRing
  dsimp only
  rw [hq]
  dsimp only
  rw [if_pos hm']
  rfl

theorem runRing_stat (hq : ((s.runner r).op 0x1E0).toNat < 32768) : s.runRing r .stat v =
    s.start r { unit := .ring, res := [(0x1FE, { val := s.ringWord ((s.runner r).op 0x1E0).toNat (v.toNat % 8) })] } := by
  have hf : fld v 2 0 = v.toNat % 8 := by rw [fld_eq_div_mod]; simp
  unfold State.runRing
  dsimp only
  rw [if_pos hq, hf]

theorem runRing_stat_beyond (hq : 32768 ≤ ((s.runner r).op 0x1E0).toNat) :
    s.runRing r .stat v = s.usedFree.start r { unit := .ring, res := [(0x1FE, { val := s.freeWord.1 })] } := if_neg (Nat.not_lt.2 hq)

end

/-- Settles O19: each trigger is taken, and starts what the mask, the held ring and a pending interrupt decide. -/
theorem ringsComplete : Obligations.RingsComplete := by
  unfold Obligations.RingsComplete
  intro s j i v h r hr hsup hp q y op shows pops
  have k := begun_taking h r
  have hop : ((s.taking r).runner r).op 0x1E0 = s.operand r 0x1E0 := k.operand 0x1E0
  have hy : (s.taking r).ring q = y := k.ring q
  have held (hs : (s.runner r).ring.isSome = true) : ((s.taking r).runner r).ring = some q := by
    obtain ⟨q', e⟩ := Option.isSome_iff_exists.1 hs
    rw [k.heldRing, show q = (s.runner r).ring.getD 0 from rfl, e]
    rfl
  have none' (hn : (s.runner r).ring = none) : ((s.taking r).runner r).ring = none := k.heldRing.trans hn
  have taken (c : RingOp) (hv : c = .adv → 1 ≤ v.toNat ∧ v.toNat ≤ 65535) {f : State → State} (hrun : (s.taking r).runRing r c v = f (s.taking r)) :
      (.next (s.trigger r (ringPort c) v) : Res) = .next (s.took r f) := congrArg Host.Outcome.next (ring_taken h hr hsup hp hv hrun)
  refine ⟨fun hm => taken .pop nofun (f := fun t => t.start r _) (runRing_pop_empty hm),
    fun hm hs => taken .pop nofun (f := fun t => t.start r _) ((runRing_pop_held hm (held hs)).trans (by rw [hy]; rfl)),
    fun hm hn hi => taken .pop nofun (f := fun t => t.start r _) (runRing_pop_interrupted hm (none' hn) (k.intrPending.trans hi)),
    fun hm hn hi => taken .pop nofun (f := fun t => t.start r _) (runRing_pop_waits hm (none' hn) (k.intrPending.trans hi)),
    fun hlo hv hs => ?adv, fun hv hhi hs => ?beyond, fun hn => ?none, fun hs hm => ?rel, fun hs hm => ?moving, fun hq => ?stat, fun hq => ?statBeyond⟩
  case adv =>
    have hrun := runRing_adv k.ok (held hs) (by rw [hy]; exact hv)
    rw [hy] at hrun
    exact taken .adv (fun _ => ⟨hlo, by omega⟩) (f := fun t => (t.updRing q _).start r _) hrun
  case beyond =>
    have hrun := runRing_adv_beyond k.ok (held hs) (by rw [hy]; exact hv)
    rw [hy] at hrun
    exact taken .adv (fun _ => ⟨by omega, hhi⟩) (f := fun t => ((t.report 0x04 0 r.page r.page 0 q).updRing q Ring.emptied).start r _) hrun
  case none =>
    have one (c : RingOp) (hc : c = .adv ∨ c = .rel) (hv : 1 ≤ v.toNat ∧ v.toNat ≤ 65535) : (.next (s.trigger r (ringPort c) v) : Res) =
        .next (s.took r fun t => (t.updR r fun x => { x with wdrawn := false }).start r (op 0 0 .plain)) :=
      taken c (fun _ => hv) (f := fun t => (t.updR r _).start r _) (runRing_none hc (none' hn))
    exact List.forall_mem_cons.2 ⟨one .adv (.inl rfl), List.forall_mem_singleton.2 (one .rel (.inr rfl))⟩
  case rel => exact taken .rel nofun (f := fun t => ((t.updR r _).modRing q _).start r _) (runRing_rel (held hs) (by rw [hy]; exact hm))
  case moving => exact taken .rel nofun (f := fun t => ((t.updR r _).modRing q _).start r _) (runRing_rel_moving (held hs) (by rw [hy]; exact hm))
  case stat =>
    have hrun := runRing_stat (s := s.taking r) (r := r) (v := v) (by rw [hop]; exact hq)
    rw [hop, k.ringWord] at hrun
    exact taken .stat nofun (f := fun t => t.start r _) hrun
  case statBeyond => exact ⟨_, taken .stat nofun (f := fun t => t.usedFree.start r _) (runRing_stat_beyond (by rw [hop]; exact hq))⟩

end Sys2Proof.Machine
end

section
/-! SIG: the statement of its triggers fails where a slice lists a runner's priorities twice (R110, R333). -/
namespace Sys2Proof.Machine

/-- A slice that lists runner 0 twice: first with an entry hold and an empty stack, then with a stack of one. -/
def twiceListed : Slice := { rp := [(0, { ehold := some 1 }), (0, { stack := [(1, 2)] })] }

/-- Runner 0 of heat 0 executes words, with that slice. Every table that `TablesOk` names is canonical. -/
def twiceListedState : State :=
  { State.reset with mode := .service, runners := [(0, { run := .running })], slices := [(0, twiceListed)] }

theorem twiceListed_ok : twiceListedState.TablesOk := by
  constructor <;> decide

theorem twiceListed_executes : twiceListedState.executes (.heat 0 0) := by decide

/-- Nothing is pending in the slice, so nothing is deliverable. -/
theorem twiceListed_quiet (thr c : Nat) : twiceListedState.canDeliver (.heat 0 0) thr c = false := by
  have hp : (twiceListedState.slice 0).isPend 0 c 0 = false := by
    unfold Slice.isPend
    split
    · rfl
    · split <;> rfl
  unfold State.canDeliver
  dsimp only [Rid.home, Rid.idx]
  rw [hp, Bool.and_false, Bool.false_and, Bool.false_and, Bool.false_and, Bool.false_and, Bool.false_and, Bool.false_and]

/-- The results of the newest operation of runner 0 of heat 0, where a command answers a next state. -/
def newestResults : Res → List (Nat × QVal)
  | .next t => ((t.runner (.heat 0 0)).ops.getLast?.map (·.res)).getD []
  | _ => []

/-- Refutes O20: a t_claim that finds nothing ends the entry hold, which leaves the first entry of the slice's priorities equal to the default and drops it;
the second then shows its stack in q_prio, where the statement has the empty stack of the first. -/
theorem not_signalsComplete : ¬ Obligations.SignalsComplete := by
  unfold Obligations.SignalsComplete
  intro h
  obtain ⟨-, -, claimsNothing, -⟩ := h twiceListedState (.heat 0 0) 0 twiceListed_ok twiceListed_executes rfl
  have shown := congrArg newestResults (claimsNothing (twiceListed_quiet _) rfl)
  revert shown
  decide

end Sys2Proof.Machine
end

section
/-! STR: a string trigger enters the hold with the next address that its commit decides (R101, R102, R124, R130). -/
namespace Sys2Proof.Machine

/-! A word of one flow or string trigger, up to its commit -/

/-- The runner whose word begins a single trigger: CTL's fields are taken unless a stall of it runs (R75). -/
def State.begun (s : State) (r : Rid) : Runner :=
  { s.runner r with ctlEff := if (s.runner r).stallAt = none then s.reg r.page 0x100 else (s.runner r).ctlEff }

theorem beginWord_begun {s : State} (h : s.TablesOk) {r : Rid} (hr : s.executes r) : s.beginWord r = s.setRunner r (s.begun r) := by
  obtain ⟨c, e⟩ := beginWord_runner h r
  have hctl := ctlEff_beginWord h hr
  have begun : (s.beginWord r).runner r = s.begun r := by
    rw [e] at hctl ⊢
    unfold State.begun
    rw [← hctl]
  rw [← begun]
  rcases beginWord_cases s r with e | e <;> rw [e]
  · exact (State.setRunner_self h r).symm
  · rw [State.runner_updR h]
    rfl

/-- What a word's decoding changes is prediction and path alone. -/
theorem decoded_plain (s : State) (r : Rid) (pc : CAddr) (rep : Rep) (w : Word4) (v : Word) : (s.decoded r pc rep w v).plain = (s.runner r).plain := by
  unfold State.decoded
  dsimp only
  split
  · rfl
  · split
    · rfl
    · split <;> rfl

theorem flowPath_begun {s : State} (h : s.TablesOk) {r : Rid} (hr : s.executes r) (p : Nat) (v : Word) :
    ∃ y, (s.beginWord r).flowPath r p v = s.setRunner r y ∧ y.plain = (s.begun r).plain := by
  unfold State.flowPath
  rw [beginWord_begun h hr, State.updR_setRunner h]
  dsimp only
  rw [State.setRunner_setRunner h]
  exact ⟨_, rfl, (decoded_plain ..).trans (by rw [State.runner_setRunner h]; rfl)⟩

theorem thenStop_begun {s : State} (h : s.TablesOk) (r : Rid) (t : State) : t.thenStop (s.beginWord r) r = t.thenStop s r := by
  obtain ⟨c, e⟩ := beginWord_runner h r
  unfold State.thenStop
  rw [e]

/-! The string triggers -/

/-- The port of a string trigger (R101). -/
def strPort : StrKind → Nat
  | .copy => 0x188 | .fill => 0x189 | .cmp => 0x18A | .scan => 0x18B

theorem trigOf_strPort (k : StrKind) : trigOf (strPort k) = some (.str k) := by cases k <;> rfl

theorem portInfo_str (s : State) (r : Rid) (k : StrKind) : s.portInfo r (strPort k) = some pT := by
  cases k <;> exact portInfo_block s r (by decide) (by decide) rfl (.inr (by decide)) fun h => absurd h (by decide)

theorem portOpen_str (s : State) (r : Rid) (k : StrKind) : s.portOpen r (strPort k) := by
  cases k <;> exact portOpen_user s r (i := pT) (by decide) (by decide) rfl rfl rfl (by decide)

theorem isTrig_str (s : State) (r : Rid) (k : StrKind) : s.isTrig r (strPort k) = true := by
  unfold State.isTrig
  rw [portInfo_str]
  rfl

/-- A string trigger meets no fault and no wait of its own: its word commits. -/
theorem str_commits {s : State} (h : s.TablesOk) {r : Rid} (hr : s.executes r) (k : StrKind) :
    s.flowTrigger r (strPort k) 0 = (((s.beginWord r).flowPath r (strPort k) 0).commitWord r (flowWord (strPort k)) [flowMv (strPort k) 0]).thenStop s r := by
  rw [flowTrigger_taken hr.1 (resFail_beginWord h hr) (portOpen_str _ r k) (by cases k <;> rfl) (by cases k <;> rfl) (by cases k <;> rfl), thenStop_begun h]

/-- The commit of a string trigger's word: the decision is the next address, and the hold takes it with the word's own (R102). -/
theorem commitWord_str {s : State} {r : Rid} (hres : (s.runner r).resume = none) (k : StrKind) : s.commitWord r (flowWord (strPort k)) [flowMv (strPort k) 0] =
    (let t := ((s.updR r fun x => x.beginCommit false s.clkS).updR r fun y => y.transfer (s.runner r).pc { act := (s.runner r).pc + 1 } false).resolve r (s.runner r)
       (flowWord (strPort k)) (some { act := (s.runner r).pc + 1 })
     (t.runStr r k (s.runner r).pc (t.runner r).pc 0).wordDone r (s.runner r).pc) := by
  have hflow : isFlow (strPort k) = false := by cases k <;> rfl
  have go : s.commitWord r (flowWord (strPort k)) [flowMv (strPort k) 0] =
      s.commitGo r (s.runner r) (s.seqCond r 0) (flowWord (strPort k)) [flowMv (strPort k) 0] [] := by cases k <;> rfl
  rw [go, commitGo_str (fun t => isTrig_str t r k) (by cases k <;> decide) (by cases k <;> decide) hflow (trigOf_strPort k)]
  dsimp only
  rw [decision_sequential hres rfl]
  rfl

/-- The runner that a string trigger leaves: its commit's counts and marks, the hold, the repeat and the next address. -/
def Runner.held (x : Runner) (k : StrKind) (now : Nat) : Runner :=
  { x.beginCommit false now with
    pc := x.rep.nextPc x.pc, hold := some { kind := k, rpc := x.pc, npc := x.rep.nextPc x.pc, slot := 0 }, rep := x.rep.next x.pc }

theorem beginCommit_plain {x y : Runner} (hp : y.plain = x.plain) (now : Nat) : (y.beginCommit false now).plain = (x.beginCommit false now).plain := by
  rw [eq_of_plain hp]
  unfold Runner.beginCommit
  rw [stallEnd_stl, stallEnd_stl]
  rfl

theorem beginCommit_rep (x : Runner) (bar : Bool) (now : Nat) : (x.beginCommit bar now).rep = x.rep := by
  unfold Runner.beginCommit
  rw [stallEnd_stl]

/-- A string trigger's word has ended: hold, counts, repeat and next address are new, and what only speeds fetching up. -/
theorem str_ends {s : State} (h : s.TablesOk) {r : Rid} {x : Runner} (hres : x.resume = none) (k : StrKind) :
    ∃ y, (s.setRunner r x).commitWord r (flowWord (strPort k)) [flowMv (strPort k) 0] = (s.setRunner r y).setReg r.page 0x10C (BitVec.ofNat 32 (2 ^ 31 + x.pc.toNat))
      ∧ y.plain = (x.held k s.clkS).plain := by
  rw [commitWord_str (by rw [State.runner_setRunner h]; exact hres) k]
  dsimp only
  rw [State.runner_setRunner h, clkS_setRunner]
  unfold State.wordDone State.runStr State.resolve
  rw [State.updR_setRunner h, State.updR_setRunner h, State.updR_setRunner h, State.runner_setRunner h, State.updR_setRunner h, State.updR_setRunner h]
  generalize hy₀ : Runner.resolve _ _ _ _ _ = y₀
  have plain₀ : y₀.plain = { x.beginCommit false s.clkS with pc := x.rep.nextPc x.pc, rep := x.rep.next x.pc }.plain := by
    rw [← hy₀, resolve_plain, transfer_plain]
    dsimp only
    rw [beginCommit_rep, repNext_next]
    rfl
  generalize hy₁ : Runner.refetch _ _ = y₁
  have plain₁ : y₁.plain = (x.held k s.clkS).plain := by
    rw [← hy₁, refetch_plain]
    exact congrArg (fun z : Runner => { z with hold := some { kind := k, rpc := x.pc, npc := z.pc, slot := 0 } }) plain₀
  obtain ⟨y, hy, plain⟩ := follow_plain (State.setRunner_ok h r y₁) r
  rw [State.runner_setRunner h, plain₁] at plain
  exact ⟨y, by rw [hy, State.setRunner_setRunner h], plain⟩

/-- The hold that a runner enters follows from what it is, what speeds its fetching up apart. -/
theorem held_plain {x y : Runner} (hp : y.plain = x.plain) (k : StrKind) (now : Nat) : (y.held k now).plain = (x.held k now).plain := by
  have hpc : y.pc = x.pc := (congrArg Runner.pc hp : y.plain.pc = x.plain.pc)
  have hrep : y.rep = x.rep := (congrArg Runner.rep hp : y.plain.rep = x.plain.rep)
  unfold Runner.held
  rw [hpc, hrep]
  exact congrArg (fun z : Runner => { z with
    pc := x.rep.nextPc x.pc, hold := some { kind := k, rpc := x.pc, npc := x.rep.nextPc x.pc, slot := 0 }, rep := x.rep.next x.pc }) (beginCommit_plain hp now)

/-- Settles O25: the trigger's word commits, and its commit enters the hold. -/
theorem stringsComplete : Obligations.StringsComplete := by
  unfold Obligations.StringsComplete
  intro s r k c h hr hk x last again next
  have hc : exec c s = .next (s.flowTrigger r (strPort k) 0) := by
    simp only [List.mem_cons, Prod.mk.injEq, List.not_mem_nil, or_false] at hk
    rcases hk with ⟨rfl, rfl⟩ | ⟨rfl, rfl⟩ | ⟨rfl, rfl⟩ | ⟨rfl, rfl⟩ <;> rfl
  have hres : (s.begun r).resume = none := by
    have hcan := hr.1
    unfold State.canTrig at hcan
    simp only [Bool.and_eq_true, Option.isNone_iff_eq_none] at hcan
    exact hcan.2
  obtain ⟨y₀, hpath, plain₀⟩ := flowPath_begun h hr (strPort k) 0
  have hres₀ : y₀.resume = none := (congrArg Runner.resume plain₀ : y₀.plain.resume = (s.begun r).plain.resume).trans hres
  have hpc₀ : y₀.pc = x.pc := (congrArg Runner.pc plain₀ : y₀.plain.pc = (s.begun r).plain.pc)
  obtain ⟨y, e, plain⟩ := str_ends h hres₀ k
  refine ⟨y, ?_, plain.trans (held_plain plain₀ k s.clkS)⟩
  rw [hc, str_commits h hr, hpath, e, hpc₀]
  rfl

end Sys2Proof.Machine
end

section
/-! Trap entry: the frame, the vector, the level, the exhausted stack, and the routine whose words cannot be fetched (R162 to R173, R193, R335). -/
namespace Sys2Proof.Machine

/-! Frames (R172) -/

theorem retPoint_eq (x : Runner) : x.retPoint = (match x.hold with | some h => h.rpc | none => x.pc,
    match x.hold, x.resume with | some h, _ => h.npc | none, some n => n | none, none => (0 : CAddr), x.hold.isSome || x.resume.isSome) := by
  unfold Runner.retPoint
  cases x.hold with
  | some h => rfl
  | none => cases x.resume <;> rfl

/-- A flag at its place in a word. -/
def bitAt (b : Bool) (k : Nat) : Nat := if b then 2 ^ k else 0

theorem b2n_mul (b : Bool) (k : Nat) : b2n b * 2 ^ k = bitAt b k := by cases b <;> simp [b2n, bitAt]

/-- Word `k` of a runner's frame for a cause (R172). -/
def Runner.frameWord (x : Runner) (f : FaultRec) (lap : Word) (k : Nat) : Word :=
  match k with
  | 0 => BitVec.ofNat 64 (bitAt x.sup 14 + bitAt x.cust 13 + bitAt (x.hold.isSome || x.resume.isSome) 11 + bitAt f.sv 10 + f.slot % 4 * 2 ^ 8 + f.code)
  | 1 => BitVec.ofNat 64 ((match x.hold, x.resume with | some h, _ => h.npc | none, some n => n | none, none => (0 : CAddr)).toNat * 2 ^ 16
      + (match x.hold with | some h => h.rpc | none => x.pc).toNat)
  | 2 => BitVec.ofNat 64 (bitAt x.flgDZ 9 + bitAt x.flgV 8 + x.grd.toNat / 2 * 2)
  | 3 => BitVec.ofNat 64 (bitAt x.rep.act 63 + x.rep.count.toNat * 2 ^ 32 + x.rep.rend.toNat * 2 ^ 16 + x.rep.rbeg.toNat)
  | 4 => f.detail
  | 5 => BitVec.ofNat 64 (x.fsp x.cust)
  | 6 => lap
  | _ => BitVec.ofNat 64 x.rs.length

theorem flagWord_eq (x : Runner) : x.flagWord = BitVec.ofNat 64 (bitAt x.flgDZ 9 + bitAt x.flgV 8 + x.grd.toNat / 2 * 2) := by
  have hg : fld x.grd 7 1 = x.grd.toNat / 2 := by
    have := x.grd.isLt
    rw [fld_eq_div_mod]
    omega
  rw [Runner.flagWord, b2n_mul, b2n_mul, hg]

theorem frameWords_eq (x : Runner) (f : FaultRec) (lap : Word) : x.frameWords f lap = (List.range 8).map (x.frameWord f lap) := by
  unfold Runner.frameWords
  rw [retPoint_eq]
  dsimp only
  rw [causeWord, b2n_mul, b2n_mul, b2n_mul, b2n_mul, flagWord_eq, Rep.word, b2n_mul]
  rfl

/-! What an entry does to its runner -/

/-- The runner that has entered a handler at `vec`, its frame pushed (R149, R169 to R171). -/
def Runner.entered (x : Runner) (f : FaultRec) (lap : Word) (now : Nat) (vec : CAddr) : Runner :=
  { x.setFsp x.cust (x.fsp x.cust - 64) with
    frame := (List.range 8).map fun k => (x.fsp x.cust - 64 + 8 * k, x.frameWord f lap k), frameOld := x.stores.length, qcause := x.frameWord f lap 0,
    sup := true, rep := { x.rep with act := false }, resv := none, fbuf := [], pc := vec, first := true, noTrap := false, tries := 0, failPar := false,
    stl := x.stlEnd now, stallAt := none, hold := none, resume := none, pendW := none }

/-- The runner's fault stack moves; nothing else of the runner does. -/
theorem setFsp_stall (x : Runner) (c : Bool) (a : Nat) : (x.setFsp c a).stallAt = x.stallAt ∧ (x.setFsp c a).stl = x.stl := by cases c <;> exact ⟨rfl, rfl⟩

theorem enter_plain (x : Runner) (f : FaultRec) (lap : Word) (now : Nat) (vec : CAddr) : (x.enter f lap now vec).plain = (x.entered f lap now vec).plain := by
  have frame : (x.frameWords f lap).mapIdx (fun i w => (x.fsp x.cust - 64 + 8 * i, w)) =
      (List.range 8).map fun k => (x.fsp x.cust - 64 + 8 * k, x.frameWord f lap k) := by
    rw [frameWords_eq]
    rfl
  have cause : (x.frameWords f lap).headD 0 = x.frameWord f lap 0 := by
    rw [frameWords_eq]
    rfl
  have stl : (x.setFsp x.cust (x.fsp x.cust - 64)).dropPath.stlEnd now = x.stlEnd now := by
    unfold Runner.stlEnd Runner.dropPath Runner.dropFrom
    dsimp only
    rw [(setFsp_stall ..).1, (setFsp_stall ..).2]
  unfold Runner.enter
  dsimp only
  rw [stallEnd_stl]
  dsimp only
  rw [frame, cause, stl]
  rfl

theorem enter_pendM (x : Runner) (f : FaultRec) (lap : Word) (now : Nat) (vec : CAddr) : (x.enter f lap now vec).pendM = x.pendM := by
  refine (congrArg Runner.pendM (enter_plain x f lap now vec) : (x.enter f lap now vec).plain.pendM = (x.entered f lap now vec).plain.pendM).trans ?_
  cases hc : x.cust <;> simp only [Runner.plain, Runner.entered, Runner.setFsp, hc] <;> rfl

/-! The trap that is taken (R163, R169, R173) -/

/-- A cause that is reported is reported as class RTRAP (R162). -/
def State.trapReported (s : State) (r : Rid) (f : FaultRec) : State :=
  match trapReport f.code with
  | some c => s.report 0x03 c r.page r.page 0 f.detail.toNat
  | none => s

theorem trapReported_runner (s : State) (r : Rid) (f : FaultRec) : (s.trapReported r f).runner r = s.runner r := by
  unfold State.trapReported
  split <;> cases r <;> rfl

theorem trapReport_eq (code : Nat) : trapReport code =
    if ¬(1 ≤ code ∧ code ≤ 5 ∨ 0xB ≤ code ∧ code ≤ 0xD) then none else some (if code ≤ 5 then code - 1 else code - 6) := by
  unfold trapReport
  by_cases h1 : 1 ≤ code ∧ code ≤ 5
  · rw [if_pos h1, if_neg (not_not.2 (.inl h1)), if_pos h1.2]
  · rw [if_neg h1]
    by_cases h2 : 0xB ≤ code ∧ code ≤ 0xD
    · rw [if_pos h2, if_neg (not_not.2 (.inr h2)), if_neg (by omega)]
    · rw [if_neg h2, if_pos (not_or.2 ⟨h1, h2⟩)]

theorem trapReported_eq (s : State) (r : Rid) (f : FaultRec) : s.trapReported r f =
    if ¬(1 ≤ f.code ∧ f.code ≤ 5 ∨ 0xB ≤ f.code ∧ f.code ≤ 0xD) then s else s.report 0x03 (if f.code ≤ 5 then f.code - 1 else f.code - 6) r.page r.page 0 f.detail.toNat := by
  unfold State.trapReported
  rw [trapReport_eq]
  by_cases hc : 1 ≤ f.code ∧ f.code ≤ 5 ∨ 0xB ≤ f.code ∧ f.code ≤ 0xD
  · rw [if_neg (not_not.2 hc), if_neg (not_not.2 hc)]
  · rw [if_pos hc, if_pos hc]

theorem trapReported_none (s : State) (r : Rid) {f : FaultRec} (h : 0xD < f.code) : s.trapReported r f = s := by
  rw [trapReported_eq, if_pos (by omega)]

/-- Only the traps of kind D are pending marks that a taken trap clears. -/
theorem trapTaken_other (x : Runner) {code : Nat} (h : code < 0x10 ∨ 0x12 < code) : x.trapTaken code = x := by
  have h0 : (code != 0x10) = true := bne_iff_ne.2 (by omega)
  have h1 : (code != 0x11) = true := bne_iff_ne.2 (by omega)
  have h2 : (code != 0x12) = true := bne_iff_ne.2 (by omega)
  rw [Runner.trapTaken, h0, h1, h2, Bool.and_true, Bool.and_true, Bool.and_true]

/-- The frame has no room (R173). -/
def Runner.noRoom (x : Runner) (r : Rid) : Prop :=
  x.fsp x.cust < 64 ∨ x.fsp x.cust - 64 < x.flim x.cust ∨ memLen r.home ≤ x.fsp x.cust - 64 ∨ inSecure r.home (x.fsp x.cust - 64) ≠ x.cust

theorem exhausted_iff (s : State) (r : Rid) : s.exhausted r = true ↔ (s.runner r).noRoom r := by
  unfold State.exhausted Runner.noRoom
  simp only [Bool.or_eq_true, decide_eq_true_eq, bne_iff_ne, or_assoc]

section
variable {s : State} (h : s.TablesOk) {r : Rid} {f : FaultRec}
include h

/-- A frame that has no room is a machine condition, and nothing else changes (R173). -/
theorem takeTrap_full (hx : (s.runner r).noRoom r) : s.takeTrap r f = s.setRunner r { (s.runner r).trapTaken f.code with pendM := some 0x31 } := by
  have exhausted : (s.setRunner r ((s.runner r).trapTaken f.code)).exhausted r = true := by
    rw [exhausted_iff, State.runner_setRunner h]
    exact hx
  unfold State.takeTrap State.enterTrap State.updR
  dsimp only
  rw [if_pos exhausted, State.runner_setRunner h, State.setRunner_setRunner h, if_neg]
  rw [State.runner_setRunner h]
  exact fun c => Bool.false_ne_true c.2

/-- A frame that has room is pushed, and the handler is entered (R169). -/
theorem takeTrap_room (hx : ¬(s.runner r).noRoom r) (hp : (s.runner r).pendM = none) : s.takeTrap r f =
    (let t := (s.setRunner r (((s.runner r).trapTaken f.code).enter f s.lap s.clkS (s.vector r (s.runner r).cust (causeGroup f.code)))).trapReported r f
     if f.code = 0x20 then t.entryHold r (((s.intrSource r).map (·.2)).getD 0) else t) := by
  have room : (s.setRunner r ((s.runner r).trapTaken f.code)).exhausted r = false := by
    rw [← Bool.not_eq_true, exhausted_iff, State.runner_setRunner h]
    exact hx
  have entered : (s.updR r fun x => x.trapTaken f.code).enterTrap r f =
      (s.setRunner r (((s.runner r).trapTaken f.code).enter f s.lap s.clkS (s.vector r (s.runner r).cust (causeGroup f.code)))).trapReported r f := by
    unfold State.enterTrap State.updR
    dsimp only
    rw [room, if_neg Bool.false_ne_true, State.runner_setRunner h, State.setRunner_setRunner h]
    cases r <;> rfl
  have pends : ((s.setRunner r (((s.runner r).trapTaken f.code).enter f s.lap s.clkS (s.vector r (s.runner r).cust (causeGroup f.code)))).trapReported r f).runner r
      = ((s.runner r).trapTaken f.code).enter f s.lap s.clkS (s.vector r (s.runner r).cust (causeGroup f.code)) := by
    rw [trapReported_runner, State.runner_setRunner h]
  have none' : (((s.runner r).trapTaken f.code).enter f s.lap s.clkS (s.vector r (s.runner r).cust (causeGroup f.code))).pendM = none :=
    (enter_pendM ..).trans hp
  unfold State.takeTrap
  dsimp only
  rw [entered, pends, none']
  simp only [Option.isNone_none, and_true]

end

/-- A runner that executes takes the trap that is due, or cannot fetch the routine's words (R103, R169, R193). -/
theorem trapEntry_due {s : State} {r : Rid} (hp : s.ridPresent r = true) (hm : s.mode ≠ .quiesce) (hr : (s.runner r).run = .running) (hpm : (s.runner r).pendM = none)
    (hf : (s.runner r).frame = []) (rom : Bool) :
    s.trapEntry r rom = match s.trapDue r with | none => s | some f => if rom then s.romFail r else s.takeTrap r f := by
  unfold State.trapEntry
  dsimp only
  rw [if_neg (by simp [hp, hm, hr, hpm, hf])]
  cases s.trapDue r with
  | none => rfl
  | some f =>
    dsimp only
    rw [if_neg (c := (s.runner r).run = .stopping ∧ _) fun c => by rw [hr] at c; exact nomatch c.1]

theorem wf_of_ridPresent {s : State} {r : Rid} (h : s.ridPresent r = true) : r.wf = true := by
  cases r with
  | arb => rfl
  | heat a i =>
    have e : (s.heatPresent a && decide (i < 9)) = true := h
    simp only [Bool.and_eq_true, decide_eq_true_eq] at e
    exact decide_eq_true ⟨(of_decide_eq_true e.1).trans_le (heats_le _), e.2⟩

/-- A runner whose routine's words cannot be fetched stops for handoff, and its heat's fault is reported (R193). -/
theorem romFail_spec {s : State} {r : Rid} (h : s.TablesOk) (hr : r.wf = true) :
    ((s.romFail r).runner r).run = .handoff ∧ ((s.romFail r).runner r).pc = (s.runner r).pc ∧ (s.romFail r).spads = s.spads
      ∧ ∃ e ∈ (s.romFail r).ref.arriving, e.src = 0x50 ∧ e.reporter = r.page ∧ e.suspect = heatPage r := by
  have fails : s.romFail r = ((s.dropWork r).report 0x0A 0 r.page (heatPage r) r.idx).handOn r := by cases r <;> rfl
  obtain ⟨spares, work, -, -, l, late⟩ := handedOn h hr 0x0A 0 r.page (heatPage r) r.idx 0
  rw [← fails] at spares work late
  obtain ⟨run, -, -, -, -, pc⟩ : _ ∧ _ ∧ _ ∧ _ ∧ _ ∧ ((s.romFail r).runner r).pc = (s.runner r).pc := by simpa [Runner.work] using work
  exact ⟨run, pc, spares.spads, _, late ▸ List.mem_append_right _ (List.mem_cons_self ..), rfl, rfl, rfl⟩

theorem vector_eq (s : State) (r : Rid) (c : Bool) (g : Nat) :
    s.vector r c g = BitVec.ofNat 15 ((s.reg r.page (if c then 0x114 else 0x110)).toNat / 64 % 512 * 64 + 16 * g) := by
  rw [State.vector, State.vecBase, State.rfld, fld_eq_div_mod, BitVec.ofNat_add]
  rfl

/-! The trap that is due (R163, R165) -/

section
variable {s : State} {r : Rid}

theorem trapDue_word {f : FaultRec} (hw : (s.runner r).pendW = some f) : s.trapDue r = some f := by
  unfold State.trapDue
  dsimp only
  rw [hw]

/-- At a boundary a trap of kind D with the lowest code is due, else an interrupt. -/
theorem trapDue_boundary (h : (s.runner r).pendW = none ∧ (s.runner r).first = false ∧ (s.runner r).noTrap = false ∧ (s.runner r).tries = 0 ∧ (s.runner r).stallAt = none) :
    s.trapDue r =
    if (s.runner r).pendBat then some { code := 0x10 } else if (s.runner r).pendV then some { code := 0x11 } else if (s.runner r).pendDZ then some { code := 0x12 }
    else if s.takesIntr r then (s.intrSource r).map fun e => { code := 0x20, detail := BitVec.ofNat 64 e.1 } else none := by
  obtain ⟨hw, hf, hn, ht, hs⟩ := h
  have boundary : (s.runner r).atBoundary = true := by simp [Runner.atBoundary, hf, hn, ht, hs]
  unfold State.trapDue
  dsimp only
  rw [hw, boundary]
  rfl

end

/-- Settles O29: the trap that is due is taken, with its frame where that has room; the routine's lost words stop the runner. -/
theorem trapsComplete : Obligations.TrapsComplete := by
  unfold Obligations.TrapsComplete
  intro s r f h hp hm hr hpm hframe x top a full rpc npc resumes bit w base stl enters reported boundary plainOf lost
  have entry (rom : Bool) (hd : s.trapDue r = some f) : exec (.trapEntry r rom) s = .next (if rom then s.romFail r else s.takeTrap r f) := by
    refine congrArg Host.Outcome.next ((trapEntry_due hp hm hr hpm hframe rom).trans ?_)
    rw [hd]
  have fails (hd : s.trapDue r = some f) : lost := by
    obtain ⟨run, pc, spads, e, he, src, reporter, suspect⟩ := romFail_spec h (wf_of_ridPresent hp)
    exact ⟨s.romFail r, entry true hd, run, pc, spads, e, he, src, reporter, suspect.trans (by cases r <;> rfl)⟩
  have enter (hd : s.trapDue r = some f) {b : Runner} (hb : x.trapTaken f.code = b) {group : Nat} (hg : causeGroup f.code = group) {g : State → State}
      (hfull : full → ∀ t, g t = t)
      (hroom : ¬full → ∀ t : State, (if f.code = 0x20 then (t.trapReported r f).entryHold r (((s.intrSource r).map (·.2)).getD 0) else t.trapReported r f) = g t) :
      enters b group g := by
    by_cases hx : full
    · refine ⟨{ b with pendM := some 0x31 }, ?_, by rw [if_pos hx]⟩
      rw [entry false hd, hfull hx, ← hb]
      exact congrArg Host.Outcome.next (takeTrap_full h hx)
    · refine ⟨x.trapTaken f.code |>.enter f s.lap s.clkS (s.vector r x.cust (causeGroup f.code)), ?_, ?_⟩
      · rw [entry false hd, ← hroom hx]
        exact congrArg Host.Outcome.next (takeTrap_room h hx hpm)
      · rw [if_neg hx, enter_plain, hg, vector_eq, ← hb]
        rfl
  have kindD (hd : s.trapDue r = some f) {n : Nat} (hc : f.code = n) (hlo : 0x10 ≤ n) (hhi : n ≤ 0x12) {b : Runner} (hb : x.trapTaken n = b) : enters b 1 id ∧ lost := by
    refine ⟨enter hd (hc ▸ hb) ?_ (fun _ _ => rfl) fun _ t => ?_, fails hd⟩
    · rw [causeGroup, if_neg (by omega), if_pos (by omega)]
    · rw [if_neg (by omega), trapReported_none t r (by omega)]
      rfl
  have interrupt (hbound : boundary) (hbat : x.pendBat = false) (hv : x.pendV = false) (hz : x.pendDZ = false)
      (hint : x.cust = false ∨ (s.reg r.page 0x114).getLsbD 31 = true) : s.trapDue r = (s.intrSource r).map fun e => { code := 0x20, detail := BitVec.ofNat 64 e.1 } := by
    have takes : s.takesIntr r = true := by
      unfold State.takesIntr
      rcases hint with hc | hc
      · rw [show (s.runner r).cust = false from hc]
        rfl
      · rw [hc, Bool.or_true]
    rw [trapDue_boundary hbound, show (s.runner r).pendBat = false from hbat, show (s.runner r).pendV = false from hv, show (s.runner r).pendDZ = false from hz, takes]
    rfl
  refine ⟨fun hw hcode => ?word, fun hbound hbat hf => kindD ?batonDue (congrArg FaultRec.code hf) (by decide) (by decide) ?batonTaken,
    fun hbound hbat hv hf => kindD ?overflowDue (congrArg FaultRec.code hf) (by decide) (by decide) ?overflowTaken,
    fun hbound hbat hv hz hf => kindD ?zeroDue (congrArg FaultRec.code hf) (by decide) (by decide) ?zeroTaken,
    fun hbound hbat hv hz hint => ⟨fun src pr hsrc hf => ?interrupt, fun hnone rom => ?idle⟩⟩
  case word =>
    have hd := trapDue_word hw
    refine ⟨enter hd (trapTaken_other x (.inl hcode)) (if_pos hcode) (fun hx t => if_pos (.inl hx)) fun hx t => ?_, fails hd⟩
    rw [if_neg (by omega), trapReported_eq]
    exact if_congr (or_iff_right hx).symm rfl rfl
  case batonDue => rw [trapDue_boundary hbound, if_pos hbat, hf]
  case batonTaken => simp [Runner.trapTaken]
  case overflowDue => rw [trapDue_boundary hbound, if_neg (Bool.eq_false_iff.1 hbat), if_pos hv, hf]
  case overflowTaken => simp [Runner.trapTaken]
  case zeroDue => rw [trapDue_boundary hbound, if_neg (Bool.eq_false_iff.1 hbat), if_neg (Bool.eq_false_iff.1 hv), if_pos hz, hf]
  case zeroTaken => simp [Runner.trapTaken]
  case interrupt =>
    have hd : s.trapDue r = some f := by rw [interrupt hbound hbat hv hz hint, hsrc, hf]; rfl
    have hc : f.code = 0x20 := congrArg FaultRec.code hf
    have hg : causeGroup f.code = 2 := by
      rw [hc]
      rfl
    refine ⟨enter hd (trapTaken_other x (.inr (by omega))) hg (g := fun t => if full then t else t.entryHold r pr) (fun hx t => if_pos hx) fun hx t => ?_, fails hd⟩
    rw [if_neg hx, if_pos hc, trapReported_none t r (by omega), hsrc]
    rfl
  case idle =>
    refine congrArg Host.Outcome.next ((trapEntry_due hp hm hr hpm hframe rom).trans ?_)
    rw [interrupt hbound hbat hv hz hint, hnone]
    rfl

end Sys2Proof.Machine
end


section
/-! What the baton path writes: one directory entry, the entry of the other slot of its pair, a record (R241, R243, R245). -/
namespace Sys2Proof.Machine

/-- The bytes of all memories. -/
def State.bytes (s : State) : Table Byte × Table Byte := (s.spads, s.arbMem)

/-- `t` holds the bytes of `s`, with `bs` stored at `a` of memory `m`. -/
def Stored (s t : State) (m a : Nat) (bs : List Byte) : Prop :=
  ∀ m' k, k < memLen m' → t.byteAt m' k = if m' = m ∧ a ≤ k ∧ k < a + bs.length then bs.getD (k - a) 0 else s.byteAt m' k

theorem byteAt_bytes {s t : State} (e : t.bytes = s.bytes) (m k : Nat) : t.byteAt m k = s.byteAt m k := byteAt_of_bytes e m k

/-! What changes no byte -/

/-- What the error checks of a word leave, a read of a directory entry leaves. -/
theorem dirRead_same {β : Type} {g : State → β} {h : Nat} (hg : ∀ t w, g (State.readWordErr t h w).1 = g t) (s : State) (a : Nat) : g (s.dirRead h a) = g s := by
  have fold (l : List Nat) (p : State × Bool) :
      g (l.foldl (fun (p : State × Bool) w => let (s1, b) := p.1.readWordErr h w; (s1, p.2 || b)) p).1 = g p.1 := by
    induction l generalizing p with
    | nil => rfl
    | cons w l ih => exact (ih _).trans (hg p.1 w)
  exact fold _ (s, false)

theorem dirRead_memories (s : State) (h a : Nat) : (s.dirRead h a).memories = s.memories := dirRead_same (fun t w => readWordErr_memories t h w) s a

theorem dirRead_bytes (s : State) (h a : Nat) : (s.dirRead h a).bytes = s.bytes := congrArg (fun q => (q.1, q.2.1)) (dirRead_memories s h a)

theorem raise_bytes (s : State) (sl src : Nat) : (s.raise sl src).bytes = s.bytes := congrArg (fun q => (q.1, q.2.1)) (raise_memories s sl src)

theorem startRunner_bytes (s : State) (r : Rid) : (s.startRunner r).bytes = s.bytes := by
  have begun (x : Runner) : ((s.setRunner r x).sliceStart r).bytes = s.bytes := by cases r <;> rfl
  have unfenced (t : State) (b : Bool) : (t.when b fun s => s.raise 16 3).bytes = t.bytes := by
    cases b
    · rfl
    · exact raise_bytes t 16 3
  exact (unfenced ..).trans (begun _)

theorem refreshMode_bytes (s : State) : s.refreshMode.bytes = s.bytes := by
  have sets (m : Mode) (cause : Nat) : (s.setMode m cause).bytes = s.bytes := by
    obtain ⟨x, ar, e⟩ := setMode_eq s m cause
    rw [e]
    rfl
  unfold State.refreshMode
  split
  · split
    · exact sets ..
    · rfl
  · split
    · rfl
    · exact sets ..
  · split
    · exact sets ..
    · rfl
  · rfl

theorem freeRing_bytes (s : State) (q : Nat) : (s.freeRing q).bytes = s.bytes := by
  have changed (f : Ring → Ring) : (s.modRing q f).bytes = s.bytes := by
    obtain ⟨rings, queues, e⟩ := modRing_eq s q f
    rw [e]
    rfl
  unfold State.freeRing
  split
  · exact changed _
  · exact changed _

theorem hoffStart_bytes (s : State) (h : Nat) : (s.hoffStart h).bytes = s.bytes := by
  refine each_same (g := State.bytes) (fun t r _ => ?_) s
  split
  · exact startRunner_bytes t r
  · rfl

theorem freed_bytes (s : State) (l : List Nat) : (s.each l State.freeRing).bytes = s.bytes :=
  each_same (g := State.bytes) (fun t q _ => freeRing_bytes t q) s

theorem lorphZero_bytes (s : State) (h : Nat) : (s.lorphZero h).bytes = s.bytes :=
  (refreshMode_bytes _).trans ((hoffStart_bytes ..).trans (freed_bytes ..))

theorem morphZero_bytes (s : State) (h : Nat) : (s.morphZero h).bytes = s.bytes := (refreshMode_bytes _).trans (freed_bytes ..)

/-- The release of frozen rings and of handed-off runners touches no memory (R258, R261). -/
theorem countOrph_bytes (s : State) (h : Nat) (mir was now : Bool) : (s.countOrph h mir was now).bytes = s.bytes := by
  unfold State.countOrph
  dsimp only
  generalize (if now = true then s.morph h + 1 else s.morph h - 1) = n
  generalize (if now = true then s.lorph h + 1 else s.lorph h - 1) = k
  split
  · rfl
  · split
    · split
      · exact morphZero_bytes ..
      · rfl
    · split
      · exact lorphZero_bytes ..
      · rfl

/-! Writes -/

theorem memWrite_stored {s : State} (h : s.MemOk) {m a : Nat} {bs : List Byte} (hn : bs.length ≠ 0) (hb : a + bs.length ≤ memLen m) :
    Stored s (s.memWrite m a bs) m a bs := fun _ _ hk => byteAt_memWrite h hn hb hk

theorem memWrite_memOk {s : State} (h : s.MemOk) (m a : Nat) (bs : List Byte) : (s.memWrite m a bs).MemOk := (memWrite_kept (.refl s)).mem h

theorem setDir_memOk {s : State} (h : s.MemOk) (m : Nat) (mir : Bool) (slot : Nat) (w : Word) : (s.setDir m mir slot w).MemOk := (setDir_kept (.refl s)).mem h

/-- The place of a directory entry. -/
def dirPlace (mir : Bool) (slot : Nat) : Nat := if mir then mirrorDir slot else localDir slot

theorem leBytes_size (n x : Nat) : (leBytes n x).length = n := by rw [leBytes_eq_map, List.length_map, List.length_range]

theorem dirPlace_le (mir : Bool) {slot : Nat} (hs : slot < 4096) : dirPlace mir slot + 8 ≤ 0x380000 := by
  cases mir
  · show 0x378000 + 8 * slot + 8 ≤ _
    omega
  · show 0x370000 + 8 * slot + 8 ≤ _
    omega

theorem memLen_heat {h : Nat} (hh : h < 16) : memLen h = 0x600000 := if_neg (by omega)

/-- A directory entry is written, whatever that releases (R241). -/
theorem setDir_stored {s : State} (hm : s.MemOk) {h slot : Nat} (hh : h < 16) (hs : slot < 4096) (mir : Bool) (w : Word) :
    Stored s (s.setDir h mir slot w) h (dirPlace mir slot) (leBytes 8 w.toNat) := by
  intro m' k hk
  have room : dirPlace mir slot + (leBytes 8 w.toNat).length ≤ memLen h := by
    rw [leBytes_size, memLen_heat hh]
    exact (dirPlace_le mir hs).trans (by decide)
  refine (byteAt_bytes (countOrph_bytes ..) m' k).trans ?_
  refine (byteAt_memWrite ((dirRead_kept (.refl s)).mem hm) (by rw [leBytes_size]; decide) room hk).trans ?_
  rw [byteAt_bytes (dirRead_bytes ..)]

/-- The other slot of a pair lies beside it. -/
theorem slot_xor_one (slot : Nat) : slot ^^^ 1 = if slot % 2 = 0 then slot + 1 else slot - 1 := by
  split
  next h => exact Nat.xor_one_of_even (Nat.even_iff.2 h)
  next h => exact Nat.xor_one_of_odd (Nat.odd_iff.2 (by omega))

theorem slot_pair (slot : Nat) : slot ^^^ 1 = slot + 1 ∧ slot % 2 = 0 ∨ (slot ^^^ 1) + 1 = slot ∧ slot % 2 = 1 := by
  rw [slot_xor_one]
  split <;> omega

theorem slot_xor_one_lt {slot : Nat} (hs : slot < 4096) : slot ^^^ 1 < 4096 := by
  have := slot_pair slot
  omega

theorem pairOwner_stored {s : State} (hm : s.MemOk) {h slot : Nat} (hh : h < 16) (hs : slot < 4096) (mir : Bool) (owner : Nat) :
    Stored s (s.pairOwner h mir slot owner) h (dirPlace mir (slot ^^^ 1))
      (leBytes 8 (setFld (putBit (s.dirAt h (dirPlace mir (slot ^^^ 1))) 62 false) 60 57 owner).toNat) :=
  setDir_stored hm hh (slot_xor_one_lt hs) mir _

/-- The place of a record. -/
def slotPlace (mir : Bool) (slot : Nat) : Nat := if mir then mirrorSlot slot else localSlot slot

theorem slotPlace_le (mir : Bool) {slot : Nat} (hs : slot < 4096) : 0x380000 ≤ slotPlace mir slot ∧ slotPlace mir slot + 256 ≤ 0x580000 := by
  cases mir <;> simp only [slotPlace, localSlot, mirrorSlot, Bool.false_eq_true, if_true, if_false] <;> omega

/-- One side of a pass: the record, its directory entry, and the entry of the other slot of the pair (R243, R245). -/
def State.sideWrite (s : State) (h : Nat) (mir : Bool) (slot : Nat) (bs : List Byte) (w : Word) (owner : Nat) : State :=
  ((s.memWrite h (slotPlace mir slot) bs).setDir h mir slot w).pairOwner h mir slot owner

/-- One side of a pass changes exactly the bytes of its record and of its pair of directory entries. -/
theorem byteAt_sideWrite {s : State} (hm : s.MemOk) {h slot : Nat} (hh : h < 16) (hs : slot < 4096) (mir : Bool) {bs : List Byte} (hn : bs.length = 256) (w : Word) (owner : Nat) :
    ∃ p : Word, fld p 60 57 = owner % 16 ∧ ∀ m' k, k < memLen m' → (s.sideWrite h mir slot bs w owner).byteAt m' k =
      if m' = h ∧ dirPlace mir (slot ^^^ 1) ≤ k ∧ k < dirPlace mir (slot ^^^ 1) + 8 then (leBytes 8 p.toNat).getD (k - dirPlace mir (slot ^^^ 1)) 0
      else if m' = h ∧ dirPlace mir slot ≤ k ∧ k < dirPlace mir slot + 8 then (leBytes 8 w.toNat).getD (k - dirPlace mir slot) 0
      else if m' = h ∧ slotPlace mir slot ≤ k ∧ k < slotPlace mir slot + 256 then bs.getD (k - slotPlace mir slot) 0
      else s.byteAt m' k := by
  have room : slotPlace mir slot + bs.length ≤ memLen h := by
    rw [hn, memLen_heat hh]
    exact (slotPlace_le mir hs).2.trans (by decide)
  have record := memWrite_stored hm (by omega) room
  have hm₁ := memWrite_memOk hm h (slotPlace mir slot) bs
  have dir := setDir_stored hm₁ hh hs mir w
  obtain ⟨p, pair, hp⟩ : ∃ p : Word, Stored ((s.memWrite h (slotPlace mir slot) bs).setDir h mir slot w) _ h (dirPlace mir (slot ^^^ 1)) (leBytes 8 p.toNat) ∧ fld p 60 57 = owner % 16 :=
    ⟨_, pairOwner_stored (setDir_memOk hm₁ h mir slot w) hh hs mir owner, fld_setFld _ owner (by decide)⟩
  refine ⟨p, hp, fun m' k hk => ?_⟩
  rw [State.sideWrite, pair m' k hk, dir m' k hk, record m' k hk, leBytes_size, leBytes_size, hn]

end Sys2Proof.Machine
end

section
/-! What comes to a runner with time (R101 to R103, R111, R113, R246, R294, R464, R474). -/
namespace Sys2Proof.Machine

/-! Elements of a string (R101) -/

/-- An operand port keeps its value when another is set, in any table. -/
theorem tget_tset_elsewhere {α : Type} [DecidableEq α] (d v : α) (t : Table α) {k j : Nat} (hj : j ≠ k) : tget d (tset d t k v) j = tget d t j := by
  induction t with
  | nil =>
    unfold tset
    split
    · rfl
    · exact if_neg (Ne.symm hj)
  | cons e t ih =>
    obtain ⟨i, u⟩ := e
    unfold tset
    split
    · split
      · rfl
      · rw [tget_cons, if_neg (Ne.symm hj)]
    · split
      next hi =>
        subst hi
        rw [tget_cons, if_neg (Ne.symm hj)]
        split
        · rfl
        · rw [tget_cons, if_neg (Ne.symm hj)]
      next => rw [tget_cons, tget_cons, ih]

theorem op_setOp_other (x : Runner) {p q : Nat} (h : q ≠ p) (v : Word) : (x.setOp p v).op q = x.op q := tget_tset_elsewhere 0 v x.oport h

/-- The ports an element advances: the source but for a fill, the destination but for a scan, and the count. -/
theorem strStep_eq (x : Runner) (k : StrKind) : x.strStep k =
    let y := if k ≠ .fill then x.setOp 0x180 (x.op 0x180 + 8) else x
    (if k ≠ .scan then y.setOp 0x181 (x.op 0x181 + 8) else y).setOp 0x182 (x.op 0x182 - 1) := by
  cases k <;> simp [Runner.strStep, op_setOp_other]

/-- The addresses an element touches. -/
def StrKind.touched (k : StrKind) (src dst : Nat) : List Nat := (if k != .fill then [src] else []) ++ if k != .scan then [dst] else []
/-- A kind that stores. -/
def StrKind.stores (k : StrKind) : Bool := k == .copy || k == .fill

/-- An element whose addresses raise no fault and wait for nothing, and whose reads are no error, ends the search or advances. -/
theorem strElement_calm {s : State} {r : Rid} {h : StrHold} (hh : (s.runner r).hold = some h) (hp : (s.runner r).pendW = none) (hd : h.done = none)
    (hc : (s.runner r).op 0x182 ≠ 0) (ht : s.throttled r = false)
    (hok : ∀ a ∈ h.kind.touched ((s.runner r).op 0x180).toNat ((s.runner r).op 0x181).toNat, s.dataOk r a 8)
    (hw : h.kind.stores = true → (s.runner r).stores.length < 8) {a b : Word} (hr : s.strReads r h.kind = (s, a, b, none)) :
    s.strElement r = if ((h.kind == .cmp && a != b) || (h.kind == .scan && a == (s.runner r).op 0x183)) = true then
        s.updR r fun x => { x with hold := some { h with done := some 1 } }
      else (if h.kind.stores = true then s.updR r fun x =>
            { x with stores := x.stores ++ [{ addr := ((s.runner r).op 0x181).toNat, size := 8, data := if h.kind = .copy then a else (s.runner r).op 0x183 }] }
          else s).updR r fun x => x.strStep h.kind := by
  have begins : ((s.runner r).pendW.isSome || h.done.isSome || (s.runner r).op 0x182 == 0 || s.throttled r) = false := by
    rw [hp, hd, ht, beq_eq_false_iff_ne.2 hc]
    rfl
  have faults : ((h.kind.touched ((s.runner r).op 0x180).toNat ((s.runner r).op 0x181).toNat).flatMap fun a => s.addrFaults r a 8) = [] :=
    List.flatMap_eq_nil_iff.2 fun a ha => addrFaults_eq_nil (hok a ha)
  have waits : ((h.kind.touched ((s.runner r).op 0x180).toNat ((s.runner r).op 0x181).toNat).any (fun a => s.wipeWaits r a)
      || (h.kind.stores && decide (8 ≤ (s.runner r).stores.length))) = false := by
    rw [Bool.or_eq_false_iff, Bool.and_eq_false_imp]
    exact ⟨List.any_eq_false.2 fun a ha => by rw [wipeWaits_eq_false (hok a ha)]; decide, fun h => decide_eq_false (Nat.not_le.2 (hw h))⟩
  unfold StrKind.touched at faults waits
  unfold StrKind.stores at *
  unfold State.strElement
  dsimp only
  rw [hh]
  dsimp only
  rw [if_neg (ne_true_of_eq_false begins), faults, List.map_nil]
  show (if _ then _ else _) = _
  rw [if_neg (ne_true_of_eq_false waits), hr]

theorem strReads_one {s : State} {r : Rid} {k : StrKind} (hk : k = .copy ∨ k = .scan) (hr : s.plainRead r ((s.runner r).op 0x180).toNat 8) :
    s.strReads r k = (s, s.wordAt r ((s.runner r).op 0x180).toNat, 0, none) := by
  have load := loadAt_plain (by decide) hr
  rcases hk with rfl | rfl <;> simp [State.strReads, load, State.wordAt]

theorem strReads_cmp {s : State} {r : Rid} (hr : s.plainRead r ((s.runner r).op 0x180).toNat 8) (hq : s.plainRead r ((s.runner r).op 0x181).toNat 8) :
    s.strReads r .cmp = (s, s.wordAt r ((s.runner r).op 0x180).toNat, s.wordAt r ((s.runner r).op 0x181).toNat, none) := by
  simp [State.strReads, loadAt_plain (by decide) hr, loadAt_plain (by decide) hq, State.wordAt]

section
variable {s : State} {r : Rid} {h : StrHold} (hh : (s.runner r).hold = some h) (hp : (s.runner r).pendW = none) (hd : h.done = none)
  (hc : (s.runner r).op 0x182 ≠ 0) (ht : s.throttled r = false)
include hh hp hd hc ht

theorem strElement_copy (hs : s.TablesOk) (hk : h.kind = .copy) (hr : s.plainRead r ((s.runner r).op 0x180).toNat 8) (hsrc : s.dataOk r ((s.runner r).op 0x180).toNat 8)
    (hdst : s.dataOk r ((s.runner r).op 0x181).toNat 8) (hw : (s.runner r).stores.length < 8) :
    s.strElement r = s.setRunner r { (((s.runner r).setOp 0x180 ((s.runner r).op 0x180 + 8)).setOp 0x181 ((s.runner r).op 0x181 + 8)).setOp 0x182 ((s.runner r).op 0x182 - 1) with
      stores := (s.runner r).stores ++ [{ addr := ((s.runner r).op 0x181).toNat, size := 8, data := s.wordAt r ((s.runner r).op 0x180).toNat }] } := by
  rw [strElement_calm hh hp hd hc ht (by rw [hk]; exact List.forall_mem_cons.2 ⟨hsrc, List.forall_mem_singleton.2 hdst⟩) (fun _ => hw) (strReads_one (.inl hk) hr), hk]
  exact (if_neg Bool.false_ne_true).trans ((State.updR_setRunner hs ..).trans (congrArg (s.setRunner r) (strStep_eq _ _)))

theorem strElement_fill (hs : s.TablesOk) (hk : h.kind = .fill) (hdst : s.dataOk r ((s.runner r).op 0x181).toNat 8) (hw : (s.runner r).stores.length < 8) :
    s.strElement r = s.setRunner r { ((s.runner r).setOp 0x181 ((s.runner r).op 0x181 + 8)).setOp 0x182 ((s.runner r).op 0x182 - 1) with
      stores := (s.runner r).stores ++ [{ addr := ((s.runner r).op 0x181).toNat, size := 8, data := (s.runner r).op 0x183 }] } := by
  have reads : s.strReads r h.kind = (s, 0, 0, none) := by rw [hk]; rfl
  rw [strElement_calm hh hp hd hc ht (by rw [hk]; exact List.forall_mem_singleton.2 hdst) (fun _ => hw) reads, hk]
  exact (if_neg Bool.false_ne_true).trans ((State.updR_setRunner hs ..).trans (congrArg (s.setRunner r) (strStep_eq _ _)))

theorem strElement_cmp (hk : h.kind = .cmp) (hr : s.plainRead r ((s.runner r).op 0x180).toNat 8) (hsrc : s.dataOk r ((s.runner r).op 0x180).toNat 8)
    (hq : s.plainRead r ((s.runner r).op 0x181).toNat 8) (hdst : s.dataOk r ((s.runner r).op 0x181).toNat 8) :
    s.strElement r = s.setRunner r (if s.wordAt r ((s.runner r).op 0x180).toNat = s.wordAt r ((s.runner r).op 0x181).toNat then
        (((s.runner r).setOp 0x180 ((s.runner r).op 0x180 + 8)).setOp 0x181 ((s.runner r).op 0x181 + 8)).setOp 0x182 ((s.runner r).op 0x182 - 1)
      else { s.runner r with hold := some { h with done := some 1 } }) := by
  have reads := strReads_cmp hr hq
  rw [← hk] at reads
  rw [strElement_calm hh hp hd hc ht (by rw [hk]; exact List.forall_mem_cons.2 ⟨hsrc, List.forall_mem_singleton.2 hdst⟩) (by simp [hk, StrKind.stores]) reads, hk]
  by_cases e : s.wordAt r ((s.runner r).op 0x180).toNat = s.wordAt r ((s.runner r).op 0x181).toNat
  · rw [if_neg (by simp [e]), if_pos e]
    exact congrArg (s.setRunner r) (strStep_eq _ _)
  · rw [if_pos (by simp [e]), if_neg e, ← hk]
    rfl

theorem strElement_scan (hk : h.kind = .scan) (hr : s.plainRead r ((s.runner r).op 0x180).toNat 8) (hsrc : s.dataOk r ((s.runner r).op 0x180).toNat 8) :
    s.strElement r = s.setRunner r (if s.wordAt r ((s.runner r).op 0x180).toNat = (s.runner r).op 0x183 then { s.runner r with hold := some { h with done := some 1 } }
      else ((s.runner r).setOp 0x180 ((s.runner r).op 0x180 + 8)).setOp 0x182 ((s.runner r).op 0x182 - 1)) := by
  rw [strElement_calm hh hp hd hc ht (by rw [hk]; exact List.forall_mem_singleton.2 hsrc) (by simp [hk, StrKind.stores]) (strReads_one (.inr hk) hr), hk]
  by_cases e : s.wordAt r ((s.runner r).op 0x180).toNat = (s.runner r).op 0x183
  · rw [if_pos (by simp [e]), if_pos e, ← hk]
    rfl
  · rw [if_neg (by simp [e]), if_neg e]
    exact congrArg (s.setRunner r) (strStep_eq _ _)

end

theorem strElement_throttled {s : State} {r : Rid} (ht : s.throttled r = true) : s.strElement r = s := by
  unfold State.strElement
  dsimp only
  split
  · rfl
  · rw [if_pos (by rw [ht, Bool.or_true])]

/-! The end of a string, timers, the watchdog -/

theorem settleStop_running {s : State} {r : Rid} (h : (s.runner r).run ≠ .stopping) : s.settleStop r = s := if_neg fun c => h c.1

theorem strDone_ends {s : State} {r : Rid} {h : StrHold} (hs : s.TablesOk) (hh : (s.runner r).hold = some h) (hp : (s.runner r).pendW = none)
    (hd : h.done.isSome = true ∨ (s.runner r).op 0x182 = 0) :
    let t := s.setRunner r { s.runner r with hold := none, qport := tset {} (s.runner r).qport 0x19C { val := h.done.getD 0 } }
    s.strDone r = if (s.runner r).run = .stopping then t.settleStop r else t := by
  intro t
  have ended : (h.done.isNone && (s.runner r).op 0x182 != 0) = false := by
    rcases hd with hd | hd
    · cases e : h.done with
      | none => rw [e] at hd; nomatch hd
      | some v => rfl
    · rw [hd]
      exact Bool.and_false _
  have done : s.strDone r = t.settleStop r := by
    unfold State.strDone
    dsimp only
    rw [hh]
    dsimp only
    rw [hp, ended]
    rfl
  rw [done]
  split
  · rfl
  · exact settleStop_running (by rw [State.runner_setRunner hs]; assumption)

/-- The source that a runner's first timer raises in its slice (R111, R327). -/
def timerSource : Rid → Nat
  | .heat _ i => 0xC0 + 2 * i
  | .arb => 6

theorem fireTimer_due {s : State} {r : Rid} {one : Bool} {v : Word} (h : (if one then (s.runner r).tim1 else (s.runner r).tim0) = some v) :
    let x := s.runner r
    s.fireTimer r one = if v.toNat ≤ s.lap.toNat then (s.setRunner r (if one then { x with tim1 := none } else { x with tim0 := none })).raise r.home
        (timerSource r + if one then 1 else 0) else s := by
  intro x
  unfold State.fireTimer
  dsimp only
  rw [h]
  cases r <;> cases one <;> rfl

theorem fireWatchdog_due {s : State} {r : Rid} {v : Nat} (h : (s.runner r).wdog = some v) :
    s.fireWatchdog r = if v ≤ s.clkS then
      let t := s.setRunner r { s.runner r with wdog := none }
      if r = .arb then (t.report 0x05 0 r.page r.page 0).fallback 1 else t.report 0x02 0 r.page r.page 0 else s := by
  unfold State.fireWatchdog
  rw [h]
  cases r <;> rfl

/-! The end of a t_wait -/

/-- With no operation of the unit nothing is delivered. -/
theorem deliverOf_none {x : Runner} {u : FUnit} (h : ∀ o ∈ x.ops, o.unit ≠ u) : x.deliverOf u = x := by
  have waits : x.ops.span (fun o => !(decide (o.unit = u) && o.due)) = (x.ops, []) := by
    rw [List.span_eq_takeWhile_dropWhile, List.takeWhile_eq_self_iff.2 fun o ho => by simp [h o ho], List.dropWhile_eq_nil_iff.2 fun o ho => by simp [h o ho]]
  unfold Runner.deliverOf Runner.deliverWhere
  rw [waits]

/-- What one delivery leaves stands where it leaves no operation of the unit. -/
theorem deliverAll_once {x y : Runner} {u : FUnit} (h : x.deliverOf u = y) (hy : ∀ o ∈ y.ops, o.unit ≠ u) {l : List Op} (hl : l ≠ []) :
    l.foldl (fun (y : Runner) _ => y.deliverOf u) x = y := by
  have rest (l : List Op) : l.foldl (fun (y : Runner) _ => y.deliverOf u) y = y := by
    induction l with
    | nil => rfl
    | cons o l ih => rw [List.foldl_cons, deliverOf_none hy, ih]
  cases l with
  | nil => exact absurd rfl hl
  | cons o l => rw [List.foldl_cons, h, rest]

/-- A t_wait whose outcome is known is an operation that shows it. -/
def Op.waitEnds (p : Word → Option Bool) (o : Op) : Op :=
  match o.kind with
  | .wait v => (match p v with | some b => { o with kind := .plain, res := [(0x23D, { val := BitVec.ofNat 64 (b2n b) })] } | none => o)
  | _ => o

theorem waitDone_eq (x : Runner) (p : Word → Option Bool) :
    x.waitDone p = (x.ops.map (Op.waitEnds p)).foldl (fun (y : Runner) _ => y.deliverOf .tim) { x with ops := x.ops.map (Op.waitEnds p) } := rfl

theorem waitEnds_other {p : Word → Option Bool} {o : Op} (h : ∀ w, o.kind ≠ .wait w) : o.waitEnds p = o := by
  unfold Op.waitEnds
  split
  next v hv => exact absurd hv (h v)
  next => rfl

theorem waitEnds_map {p : Word → Option Bool} {l : List Op} (h : ∀ o ∈ l, ∀ w, o.kind ≠ .wait w) : l.map (Op.waitEnds p) = l :=
  (List.map_congr_left fun o ho => waitEnds_other (h o ho)).trans (List.map_id l)

/-- A single t_wait that ends shows its outcome. -/
theorem waitDone_only {x : Runner} {older newer : List Op} {q : List (Nat × QVal)} {v : Word} (hx : x.ops = older ++ { unit := .tim, res := q, kind := .wait v } :: newer)
    (hn : ∀ o ∈ older ++ newer, o.unit ≠ .tim ∧ ∀ w, o.kind ≠ .wait w) {p : Word → Option Bool} {b : Bool} (hp : p v = some b) :
    x.waitDone p = { x with ops := older ++ newer, qport := tset {} x.qport 0x23D { val := BitVec.ofNat 64 (b2n b) } } := by
  obtain ⟨ho, hw⟩ := List.forall_mem_append.1 hn
  have ended : Op.waitEnds p { unit := .tim, res := q, kind := .wait v } = { unit := .tim, res := [(0x23D, { val := BitVec.ofNat 64 (b2n b) })] } := by
    unfold Op.waitEnds
    dsimp only
    rw [hp]
  have first : ({ x with ops := older ++ { unit := .tim, res := [(0x23D, { val := BitVec.ofNat 64 (b2n b) })] } :: newer } : Runner).deliverOf .tim
      = { x with ops := older ++ newer, qport := tset {} x.qport 0x23D { val := BitVec.ofNat 64 (b2n b) } } := by
    refine (deliverOf_oldest (u := .tim) (older := older) rfl rfl rfl fun e he hu => absurd hu (ho e he).1).trans ?_
    rw [hideOlder_other fun e he => (ho e he).1]
    exact (deliver_plain (o := { unit := .tim, res := [(0x23D, { val := BitVec.ofNat 64 (b2n b) })] }) fun p b e => nomatch e).trans (flags_none _)
  rw [waitDone_eq, hx, List.map_append, List.map_cons, ended, waitEnds_map fun o h => (ho o h).2, waitEnds_map fun o h => (hw o h).2]
  exact deliverAll_once first (fun o h => (hn o h).1) (List.append_ne_nil_of_right_ne_nil _ (List.cons_ne_nil _ _))

/-- A t_wait ends when the lap counter has reached its time (R111). -/
theorem tWait_reached {s : State} {r : Rid} (hs : s.ridPresent r = true) (hm : s.mode ≠ .quiesce) {older newer : List Op} {q : List (Nat × QVal)} {v : Word}
    (hx : (s.runner r).ops = older ++ { unit := .tim, res := q, kind := .wait v } :: newer) (hn : ∀ o ∈ older ++ newer, o.unit ≠ .tim ∧ ∀ w, o.kind ≠ .wait w) :
    exec (.tWaitTimeReached r) s = .next (if v.toNat ≤ s.lap.toNat then
      s.setRunner r { s.runner r with ops := older ++ newer, qport := tset {} (s.runner r).qport 0x23D { val := 1 } } else s) := by
  refine congrArg Host.Outcome.next ((onRunner_awake hs hm _).trans ?_)
  by_cases h : v.toNat ≤ s.lap.toNat
  · have reached : s.waitReached v = some true := if_pos h
    rw [if_pos h, if_pos (List.any_eq_true.2 ⟨_, by rw [hx]; exact List.mem_append_right _ (List.mem_cons_self ..), by simp [reached]⟩)]
    exact congrArg (s.setRunner r) (waitDone_only hx hn reached)
  · have waits : s.waitReached v = none := if_neg h
    rw [if_neg h, if_neg]
    rw [List.any_eq_true]
    rintro ⟨o, ho, hr⟩
    rw [hx, List.mem_append, List.mem_cons, ← or_assoc, or_right_comm, ← List.mem_append] at ho
    rcases ho with ho | rfl
    · split at hr
      next w hw => exact (hn o ho).2 w hw
      next => nomatch hr
    · dsimp only at hr
      rw [waits] at hr
      nomatch hr

/-! The pass in flight -/

theorem takeFirst_isSome {α : Type} {p : α → Bool} {l : List α} (h : ∃ a ∈ l, p a = true) : (takeFirst p l).isSome = true := by
  induction l with
  | nil => obtain ⟨a, ha, -⟩ := h; nomatch ha
  | cons b l ih =>
    unfold takeFirst
    split
    · rfl
    next hb =>
      obtain ⟨a, ha, hp⟩ := h
      rw [Option.isSome_map]
      rcases List.mem_cons.1 ha with rfl | ha
      · exact absurd hp hb
      · exact ih ⟨a, ha, hp⟩

theorem deliver_batOp (x : Runner) (n : Nat) : x.deliver (batOp n) = { x with qport := tset {} x.qport 0x25C { val := BitVec.ofNat 64 n } } :=
  (deliver_plain (o := batOp n) fun _ _ e => nomatch e).trans (flags_none _)

theorem passTimeout_due {s : State} {h i : Nat} (hb : ∃ o ∈ (s.runner (.heat h i)).ops, o.kind = .baton) :
    s.passTimeout h i = ((s.setRunner (.heat h i) { s.runner (.heat h i) with pendBat := true, ops := (s.runner (.heat h i)).ops.filter (fun o : Op => o.kind != OpKind.baton), qport := tset {} (s.runner (.heat h i)).qport 0x25C { val := 1 } }).satInc (0x10 + h) 0x14C 31 24).report 0x0E 0 (0x10 + h) (0x10 + (h ^^^ 1)) 0 := by
  obtain ⟨o, ho, hk⟩ := hb
  obtain ⟨e, he⟩ := Option.isSome_iff_exists.1 (takeFirst_isSome (p := fun o : Op => o.kind == .baton) ⟨o, ho, beq_iff_eq.2 hk⟩)
  unfold State.passTimeout State.updR
  dsimp only
  rw [he, deliver_batOp]
  rfl

/-! The mirror write that comes late (R246) -/

theorem lateMirror_ends {s : State} (hs : s.TablesOk) {h i : Nat} {m : LateMirror} (hl : (s.runner (.heat h i)).late = some m)
    (hb : ∀ o ∈ (s.runner (.heat h i)).ops, o.kind ≠ .baton) :
    ((s.lateMirror (.heat h i)).runner (.heat h i)).late = none ∧ ∀ m' k, (s.lateMirror (.heat h i)).byteAt m' k = (s.mirrorWrite m i).byteAt m' k := by
  have ended : (s.runner (.heat h i)).passing = false := List.any_eq_false.2 fun o ho => by simp [hb o ho]
  have written : s.lateMirror (.heat h i) = (s.mirrorWrite m i).updR (.heat h i) fun x => { x with late := none } := by
    unfold State.lateMirror
    dsimp only
    rw [hl, ended]
    rfl
  rw [written]
  exact ⟨congrArg Runner.late (State.runner_updR ((mirrorWrite_kept (.refl s)).tab hs) ..), fun m' k => State.updR_byteAt ..⟩

/-- Settles O34: each event by the equation of its own function; the late mirror write by the bytes of its three writes, which lie apart. -/
theorem timeEventsComplete : Obligations.TimeEventsComplete := by
  unfold Obligations.TimeEventsComplete
  intro s r h hp hm x src dst cnt at' ok calm element put stepped
  have run {c : Instr} {f : State → State} {t : State} (e : exec c s = .next (s.onRunner r f)) (hf : f s = t) : exec c s = .next t :=
    e.trans (congrArg Host.Outcome.next ((onRunner_awake hp hm f).trans hf))
  refine ⟨fun k hh hw hd hc ht => ⟨fun hk ha hb hl => ?_, fun hk hb hl => ?_, fun hk ha hb => ?_, fun hk ha => ?_⟩, fun ht => run rfl (strElement_throttled ht),
    fun k hh hw hd => run rfl (strDone_ends h hh hw hd), ?_, fun v hv => run rfl (fireWatchdog_due hv),
    fun older newer q v hx hn => tWait_reached hp hm hx hn, ?_, ?_⟩
  · exact run rfl (strElement_copy hh hw hd hc ht h hk ha.2 ha.1 hb hl)
  · exact run rfl (strElement_fill hh hw hd hc ht h hk hb hl)
  · exact run rfl (strElement_cmp hh hw hd hc ht hk ha.2 ha.1 hb.2 hb.1)
  · exact run rfl (strElement_scan hh hw hd hc ht hk ha.2 ha.1)
  · intro one v hv
    cases r <;> exact run rfl (fireTimer_due hv)
  · rintro a i rfl hb
    exact run rfl (passTimeout_due hb)
  · rintro a i m rfl hl hb hM hh hs hn
    obtain ⟨late, same⟩ := lateMirror_ends h hl hb
    obtain ⟨w, -, bytes⟩ := byteAt_sideWrite hM hh hs true hn m.dir i
    have pair := slot_pair m.slot
    have len := memLen_heat hh
    generalize m.slot ^^^ 1 = p at *
    have bytes : ∀ m' k, k < memLen m' → (s.mirrorWrite m i).byteAt m' k = _ := bytes
    simp only [dirPlace, slotPlace, mirrorDir, mirrorSlot, if_true] at bytes
    refine ⟨_, run rfl rfl, late, fun k hk => ?_, fun k hk => ?_, fun h' a _ ha hout => ?_⟩
    · rw [same, bytes _ _ (by omega), if_neg (by omega), if_neg (by omega), if_pos (by omega), Nat.add_sub_cancel_left]
    · rw [same, bytes _ _ (by omega), if_neg (by omega), if_pos (by omega), Nat.add_sub_cancel_left, leBytes_word, List.getD_eq_getElem _ _ (by simpa using hk), List.getElem_map,
        List.getElem_range]
    · rw [same, bytes _ _ ha, if_neg (by omega), if_neg (by omega), if_neg (by omega)]

end Sys2Proof.Machine
end

section
/-! A baton's record and directory entry on one side of a pass: what they hold once written, and what their writing leaves (R241 to R245). -/
namespace Sys2Proof.Machine

/-! What the baton path leaves of a runner -/

/-- What a baton operation needs of its runner, apart from its memory. -/
def Runner.atHand (x : Runner) : List Op × Option Nat × Table Word := (x.ops, x.ring, x.oport)

/-- Of runner `r` the operations, the held ring and the operand ports stand, and so does what tells which heats are up. -/
structure Quiet (r : Rid) (s t : State) : Prop where
  kept    : Kept s t
  heatFen : t.heatFen = s.heatFen
  atHand  : s.TablesOk → (t.runner r).atHand = (s.runner r).atHand

theorem Quiet.refl (r : Rid) (s : State) : Quiet r s s := ⟨.refl s, rfl, fun _ => rfl⟩

theorem Quiet.trans {r : Rid} {s t u : State} (h : Quiet r s t) (k : Quiet r t u) : Quiet r s u :=
  ⟨⟨k.kept.fuses.trans h.kept.fuses, k.kept.pending.trans h.kept.pending, fun m => k.kept.mem (h.kept.mem m), fun m => k.kept.tab (h.kept.tab m)⟩,
    k.heatFen.trans h.heatFen, fun m => (k.atHand (h.kept.tab m)).trans (h.atHand m)⟩

section
variable {r : Rid} {s t : State} (q : Quiet r s t) (ok : s.TablesOk)
include q ok

theorem Quiet.ops : (t.runner r).ops = (s.runner r).ops := congrArg (fun w : List Op × Option Nat × Table Word => w.1) (q.atHand ok)

theorem Quiet.ring : (t.runner r).ring = (s.runner r).ring := congrArg (fun w : List Op × Option Nat × Table Word => w.2.1) (q.atHand ok)

theorem Quiet.oport : (t.runner r).oport = (s.runner r).oport := congrArg (fun w : List Op × Option Nat × Table Word => w.2.2) (q.atHand ok)

end

theorem Quiet.heatUp {r : Rid} {s t : State} (h : Quiet r s t) (p : Nat) : t.heatUp p = s.heatUp p := by
  unfold State.heatUp State.heatPresent State.nHeats
  rw [h.kept.fuses, h.heatFen]

/-- Nothing but reports, registers and the like has changed. -/
theorem Quiet.of {r : Rid} {s t : State} (k : Kept s t) (hf : t.heatFen = s.heatFen) (hr : t.runner r = s.runner r) : Quiet r s t :=
  ⟨k, hf, fun _ => by rw [hr]⟩

theorem raise_heatFen (s : State) (sl src : Nat) : (s.raise sl src).heatFen = s.heatFen := by
  unfold State.raise
  split
  · rfl
  · split
    · rfl
    · split <;> rfl

theorem readWordErr_heatFen (s : State) (m w : Nat) : (s.readWordErr m w).1.heatFen = s.heatFen := by
  unfold State.readWordErr
  dsimp only
  split
  · rfl
  · split
    · rfl
    · generalize decide (_ < 4) = room
      cases room <;> split <;> rfl
  · split
    · rfl
    · refine (raise_heatFen ..).trans ?_
      cases inSecure m (8 * w) <;> rfl

theorem setBytes_heatFen (s : State) (m a : Nat) (l : List Byte) : (s.setBytes m a l).heatFen = s.heatFen := by
  by_cases hm : m = 16
  · rw [hm, setBytes_arb]
  · rw [setBytes_eq hm]

theorem loseResv_heatFen (s : State) (m a n : Nat) : (s.loseResv m a n).heatFen = s.heatFen := by
  rw [loseResv_eq]
  refine each_same (g := State.heatFen) (fun t r _ => ?_) s
  rcases loseOne_cases a n t r with e | e <;> rw [e]
  cases r <;> rfl

theorem memWrite_heatFen (s : State) (m a : Nat) (bs : List Byte) : (s.memWrite m a bs).heatFen = s.heatFen := by
  unfold State.memWrite
  dsimp only
  split
  · rfl
  · refine (loseResv_heatFen ..).trans ((each_same (g := State.heatFen) (fun t w _ => ?_) _).trans
      ((setBytes_heatFen ..).trans (each_same (g := State.heatFen) (fun t w _ => ?_) s)))
    · obtain ⟨u, e⟩ := writeWordErr_eq t m w _
      rw [e]
    · split
      · rfl
      · exact readWordErr_heatFen ..

/-- The loss of reservations leaves of each runner all but its reservation. -/
theorem loseResv_atHand {s : State} (h : s.TablesOk) (m a n : Nat) (r : Rid) : ((s.loseResv m a n).runner r).atHand = (s.runner r).atHand := by
  rw [loseResv_eq]
  refine (each_inv (P := fun t => t.TablesOk ∧ (t.runner r).atHand = (s.runner r).atHand) ⟨h, rfl⟩ fun t b _ ⟨ok, same⟩ => ⟨loseOne_ok ok a n b, ?_⟩).2
  rcases loseOne_cases a n t b with e | e <;> rw [e]
  · exact same
  · rw [State.updR, runner_setRunner_place ok]
    split
    next hp => rw [← same, runner_of_place hp]; rfl
    next => exact same

theorem memWrite_quiet (r : Rid) (s : State) (m a : Nat) (bs : List Byte) : Quiet r s (s.memWrite m a bs) := by
  refine ⟨memWrite_kept (.refl s), memWrite_heatFen .., fun h => ?_⟩
  by_cases hn : bs.length = 0
  · exact congrArg (fun t : State => (t.runner r).atHand) (if_pos hn)
  · obtain ⟨u, v, e, hu, hv, kept⟩ := memWrite_parts s (m := m) (a := a) hn
    rw [e, loseResv_atHand (kept.tab h), runner_of_memories hv, setBytes_runner, runner_of_memories hu]

theorem dirRead_quiet (r : Rid) (s : State) (h a : Nat) : Quiet r s (s.dirRead h a) :=
  .of (dirRead_kept (.refl s)) (dirRead_same (fun t w => readWordErr_heatFen t h w) s a) (runner_of_memories (dirRead_memories s h a) r)

/-- An entry that was no orphan and becomes none releases nothing. -/
theorem setDir_quiet (r : Rid) {s : State} {h : Nat} {mir : Bool} {slot : Nat} {w : Word} (ho : dirOrph (s.dirAt h (dirPlace mir slot)) = false) (hw : dirOrph w = false) :
    Quiet r s (s.setDir h mir slot w) := by
  have wrote : s.setDir h mir slot w = (s.dirRead h (dirPlace mir slot)).memWrite h (dirPlace mir slot) (leBytes 8 w.toNat) := by
    show State.countOrph _ _ _ (dirOcc (s.dirAt h (dirPlace mir slot)) && dirOrph (s.dirAt h (dirPlace mir slot))) (dirOcc w && dirOrph w) = _
    rw [ho, hw, Bool.and_false, Bool.and_false]
    rfl
  rw [wrote]
  exact (dirRead_quiet r s ..).trans (memWrite_quiet r ..)

/-! Directory entries and their bytes -/

theorem dirAt_congr {s t : State} {m m' a a' : Nat} (h : ∀ k < 8, t.byteAt m (a + k) = s.byteAt m' (a' + k)) : t.dirAt m a = s.dirAt m' a' := by
  unfold State.dirAt State.numAt
  rw [bytesAt_eq_map, bytesAt_eq_map]
  exact congrArg (fun l => BitVec.ofNat 64 (leNat l)) (List.map_congr_left fun k hk => h k (List.mem_range.1 hk))

theorem leBytes_getD (n x : Nat) {k : Nat} (hk : k < n) : (leBytes n x).getD k 0 = BitVec.ofNat 8 (x / 2 ^ (8 * k)) := by
  rw [leBytes_eq_map, List.getD_eq_getElem _ _ (by simpa using hk), List.getElem_map, List.getElem_range]

/-- An entry whose bytes are those of a word reads as the word. -/
theorem dirAt_of_bytes {t : State} {m a : Nat} {w : Word} (h : ∀ k < 8, t.byteAt m (a + k) = (leBytes 8 w.toNat).getD k 0) : t.dirAt m a = w := by
  have read : t.bytesAt m a 8 = leBytes 8 w.toNat := by
    rw [bytesAt_eq_map, leBytes_eq_map]
    exact List.map_congr_left fun k hk => (h k (List.mem_range.1 hk)).trans (leBytes_getD 8 _ (List.mem_range.1 hk))
  rw [State.dirAt, State.numAt, read, leNat_of_leBytes, Nat.mod_eq_of_lt (b := 256 ^ 8) w.isLt, BitVec.ofNat_toNat, BitVec.setWidth_eq]

theorem Stored.dirAt {s t : State} {m a : Nat} {w : Word} (h : Stored s t m a (leBytes 8 w.toNat)) (ha : a + 8 ≤ memLen m) : t.dirAt m a = w :=
  dirAt_of_bytes fun k hk => by rw [h m (a + k) (by omega), if_pos ⟨rfl, by omega, by rw [leBytes_size]; omega⟩, Nat.add_sub_cancel_left]

theorem xor_eight (m : Nat) : 8 * m ^^^ 8 = 8 * (m ^^^ 1) := by
  refine Nat.eq_of_testBit_eq fun j => ?_
  have eight : (8 : Nat) = 1 * 2 ^ 3 := rfl
  rw [Nat.mul_comm 8 m, Nat.mul_comm 8, show m * 8 = m * 2 ^ 3 from rfl, show (m ^^^ 1) * 8 = (m ^^^ 1) * 2 ^ 3 from rfl]
  rw [Nat.testBit_xor, eight, Nat.testBit_mul_two_pow, Nat.testBit_mul_two_pow, Nat.testBit_mul_two_pow, Nat.testBit_xor, Bool.and_xor_distrib_left]

/-- The entry of the other slot of a pair. -/
theorem dirPlace_xor (mir : Bool) (slot : Nat) : dirPlace mir slot ^^^ 8 = dirPlace mir (slot ^^^ 1) := by
  have place (base : Nat) (hb : base % 2 = 0) : (8 * base + 8 * slot) ^^^ 8 = 8 * base + 8 * (slot ^^^ 1) := by
    rw [← Nat.mul_add, xor_eight, ← Nat.mul_add, slot_xor_one, slot_xor_one]
    split <;> split <;> omega
  cases mir
  · exact place 0x6F000 rfl
  · exact place 0x6E000 rfl

/-- The two entries of a pair fill 16 bytes. -/
theorem dirPlace_pair (mir : Bool) (slot : Nat) : dirPlace mir (slot ^^^ 1) / 16 * 16 = dirPlace mir slot / 16 * 16 ∧
    (dirPlace mir (slot ^^^ 1) = dirPlace mir slot + 8 ∨ dirPlace mir (slot ^^^ 1) + 8 = dirPlace mir slot) := by
  have := slot_pair slot
  generalize slot ^^^ 1 = p at *
  cases mir <;> simp only [dirPlace, localDir, mirrorDir, Bool.false_eq_true, if_true, if_false] <;> omega

theorem dirPlace_aligned (mir : Bool) (slot : Nat) : dirPlace mir slot % 8 = 0 := by
  cases mir <;> simp only [dirPlace, localDir, mirrorDir, Bool.false_eq_true, if_true, if_false] <;> omega

/-! One side of a pass -/

/-- A side of a pass holds the record `bs`, the entry `w`, and the owner `i` in the other entry of the pair. -/
structure SideHolds (t : State) (m : Nat) (mir : Bool) (slot : Nat) (bs : List Byte) (w : Word) (i : Nat) : Prop where
  record : ∀ j < 256, t.byteAt m (slotPlace mir slot + j) = bs.getD j 0
  dir    : t.dirAt m (dirPlace mir slot) = w
  pair   : fld (t.dirAt m (dirPlace mir slot ^^^ 8)) 60 57 = i % 16

/-- A byte of a side: of its record, or of its pair of directory entries. -/
def ofSide (m : Nat) (mir : Bool) (slot m' b : Nat) : Prop :=
  m' = m ∧ ((slotPlace mir slot ≤ b ∧ b < slotPlace mir slot + 256) ∨ (dirPlace mir slot / 16 * 16 ≤ b ∧ b < dirPlace mir slot / 16 * 16 + 16))

theorem sideWrite_holds {s : State} (hm : s.MemOk) {h slot : Nat} (hh : h < 16) (hs : slot < 4096) (mir : Bool) {bs : List Byte} (hn : bs.length = 256) (w : Word) (i : Nat) :
    SideHolds (s.sideWrite h mir slot bs w i) h mir slot bs w i
      ∧ ∀ m' b, b < memLen m' → ¬ofSide h mir slot m' b → (s.sideWrite h mir slot bs w i).byteAt m' b = s.byteAt m' b := by
  obtain ⟨p, hp, bytes⟩ := byteAt_sideWrite hm hh hs mir hn w i
  have dirs := dirPlace_pair mir slot
  have low := dirPlace_le mir hs
  have low' := dirPlace_le mir (slot_xor_one_lt hs)
  have high := slotPlace_le mir hs
  have len := memLen_heat hh
  have aligned := dirPlace_aligned mir slot
  have other : (s.sideWrite h mir slot bs w i).dirAt h (dirPlace mir slot ^^^ 8) = p := by
    rw [dirPlace_xor]
    exact dirAt_of_bytes fun k hk => by rw [bytes _ _ (by omega), if_pos (by omega), Nat.add_sub_cancel_left]
  refine ⟨⟨fun j hj => ?_, dirAt_of_bytes fun k hk => ?_, by rw [other, hp]⟩, fun m' b hb hout => ?_⟩
  · rw [bytes _ _ (by omega), if_neg (by omega), if_neg (by omega), if_pos (by omega), Nat.add_sub_cancel_left]
  · rw [bytes _ _ (by omega), if_neg (by omega), if_pos (by omega), Nat.add_sub_cancel_left]
  · unfold ofSide at hout
    rw [bytes _ _ hb, if_neg (by omega), if_neg (by omega), if_neg (by omega)]

section
variable {t t' : State} {m slot i : Nat} {mir : Bool} {bs : List Byte} {w : Word} (k : SideHolds t m mir slot bs w i) (hm : m < 16) (hs : slot < 4096)
include k hm hs

/-- A side holds what it held where its memory stands. -/
theorem SideHolds.same (e : ∀ b < memLen m, t'.byteAt m b = t.byteAt m b) : SideHolds t' m mir slot bs w i := by
  have low := dirPlace_le mir hs
  have low' := dirPlace_le mir (slot_xor_one_lt hs)
  have high := slotPlace_le mir hs
  have len := memLen_heat hm
  have dir (d : Nat) (hd : d + 8 ≤ 0x380000) : t'.dirAt m d = t.dirAt m d := dirAt_congr fun k hk => e _ (by omega)
  refine ⟨fun j hj => (e _ (by omega)).trans (k.record j hj), (dir _ low).trans k.dir, ?_⟩
  rw [dir _ (by rw [dirPlace_xor]; exact low')]
  exact k.pair

/-- The side's own entry is written anew. -/
theorem SideHolds.redir {w' : Word} (e : Stored t t' m (dirPlace mir slot) (leBytes 8 w'.toNat)) : SideHolds t' m mir slot bs w' i := by
  have low := dirPlace_le mir hs
  have low' := dirPlace_le mir (slot_xor_one_lt hs)
  have high := slotPlace_le mir hs
  have len := memLen_heat hm
  have dirs := dirPlace_pair mir slot
  have pair : t'.dirAt m (dirPlace mir slot ^^^ 8) = t.dirAt m (dirPlace mir slot ^^^ 8) := by
    rw [dirPlace_xor]
    exact dirAt_congr fun k hk => by rw [e _ _ (by omega), leBytes_size, if_neg (by omega)]
  refine ⟨fun j hj => ?_, e.dirAt (by omega), by rw [pair]; exact k.pair⟩
  rw [e _ _ (by omega), leBytes_size, if_neg (by omega)]
  exact k.record j hj

end

theorem dirOrph_pairWord (w : Word) (i : Nat) : dirOrph (setFld (putBit w 62 false) 60 57 i) = false := by
  rw [dirOrph, getLsbD_setFld _ _ _ _ (by decide), if_neg (by decide), getLsbD_putBit _ _ _ (by decide), if_pos rfl]

/-- A pass whose two entries were no orphans releases nothing. -/
theorem sideWrite_quiet (r : Rid) {s : State} (hm : s.MemOk) {h slot : Nat} (hh : h < 16) (hs : slot < 4096) {mir : Bool} {bs : List Byte} (hn : bs.length = 256) {w : Word} (i : Nat)
    (hw : dirOrph w = false) (hd : dirOrph (s.dirAt h (dirPlace mir slot)) = false) (hp : dirOrph (s.dirAt h (dirPlace mir slot ^^^ 8)) = false) :
    Quiet r s (s.sideWrite h mir slot bs w i) := by
  have dirs := dirPlace_pair mir slot
  have low := dirPlace_le mir hs
  have low' := dirPlace_le mir (slot_xor_one_lt hs)
  have high := slotPlace_le mir hs
  have len := memLen_heat hh
  have record := memWrite_stored hm (m := h) (a := slotPlace mir slot) (by omega) (by omega : slotPlace mir slot + bs.length ≤ memLen h)
  have dir := setDir_stored (memWrite_memOk hm h (slotPlace mir slot) bs) hh hs mir w
  have dir₁ : (s.memWrite h (slotPlace mir slot) bs).dirAt h (dirPlace mir slot) = s.dirAt h (dirPlace mir slot) :=
    dirAt_congr fun k hk => by rw [record _ _ (by omega), if_neg (by omega)]
  have pair₁ : ((s.memWrite h (slotPlace mir slot) bs).setDir h mir slot w).dirAt h (dirPlace mir (slot ^^^ 1)) = s.dirAt h (dirPlace mir slot ^^^ 8) := by
    rw [dirPlace_xor]
    exact dirAt_congr fun k hk => by rw [dir _ _ (by omega), leBytes_size, if_neg (by omega), record _ _ (by omega), if_neg (by omega)]
  exact (memWrite_quiet r s ..).trans ((setDir_quiet r (by rw [dir₁]; exact hd) hw).trans (setDir_quiet r (by rw [pair₁]; exact hp) (dirOrph_pairWord ..)))

/-! Records and directory words -/

theorem bytesAt_length (s : State) (m a n : Nat) : (s.bytesAt m a n).length = n := by rw [bytesAt_eq_map, List.length_map, List.length_range]

theorem bytesAt_getD (s : State) (m a : Nat) {n j : Nat} (hj : j < n) : (s.bytesAt m a n).getD j 0 = s.byteAt m (a + j) := by
  rw [bytesAt_eq_map, List.getD_eq_getElem _ _ (by simpa using hj), List.getElem_map, List.getElem_range]

theorem bytesAt_of_getD {s : State} {m a n : Nat} {l : List Byte} (hl : l.length = n) (h : ∀ j < n, s.byteAt m (a + j) = l.getD j 0) : s.bytesAt m a n = l := by
  refine List.ext_getElem (by rw [bytesAt_length, hl]) fun j hj hj' => ?_
  rw [bytesAt_length] at hj
  rw [← List.getD_eq_getElem _ 0, bytesAt_getD s m a hj, h j hj, List.getD_eq_getElem]

theorem withCrc_length {l : List Byte} (h : l.length = 256) : (withCrc l).length = 256 := by
  rw [withCrc, List.length_append, List.length_take, leBytes_size, h]
  rfl

theorem withCrc_getD {l : List Byte} (h : l.length = 256) {j : Nat} (hj : j < 252) : (withCrc l).getD j 0 = l.getD j 0 := by
  unfold withCrc
  rw [List.getD_append _ _ _ _ (by rw [List.length_take, h]; omega), List.getD_eq_getElem _ _ (by rw [List.length_take, h]; omega), List.getElem_take, List.getD_eq_getElem]

/-- A record with its CRC inserted passes (R242, R245). -/
theorem recordGood_withCrc {l : List Byte} (h : l.length = 256) : recordGood (withCrc l) = true := by
  have size : (l.take 252).length = 252 := by rw [List.length_take, h]; rfl
  unfold recordGood withCrc
  rw [List.drop_left' size, List.take_left' size, leNat_of_leBytes, Nat.mod_eq_of_lt (b := 256 ^ 4) (crc32c (l.take 252)).isLt, beq_self_eq_true]

/-- What a pass says of itself in its directory entry: the slot holds a baton, its mirror is good or not, the owner, the time (R241). -/
structure DirShows (w : Word) (mok : Bool) (owner lap : Nat) : Prop where
  occ   : w.getLsbD 63 = true
  orph  : w.getLsbD 62 = false
  mok   : w.getLsbD 61 = mok
  owner : fld w 60 57 = owner
  lap   : fld w 31 0 = lap % 2 ^ 32

theorem dirWord_shows (mok : Bool) {owner : Nat} (ho : owner < 16) (ring : Option Nat) (lap : Nat) : DirShows (dirWord mok owner ring lap) mok owner lap := by
  have hm : b2n mok ≤ 1 := by cases mok <;> decide
  have hr : b2n ring.isSome ≤ 1 := by cases ring.isSome <;> decide
  have bit (j : Nat) : (dirWord mok owner ring lap).getLsbD j = decide ((dirWord mok owner ring lap).toNat / 2 ^ j % 2 = 1) := Nat.testBit_eq_decide_div_mod_eq
  have value : (dirWord mok owner ring lap).toNat = 2 ^ 63 + b2n mok * 2 ^ 61 + owner % 16 * 2 ^ 57 + (ring.getD 0) % 2 ^ 15 * 2 ^ 42 + b2n ring.isSome * 2 ^ 41 + lap % 2 ^ 32 := by
    rw [dirWord, BitVec.toNat_ofNat, Nat.mod_eq_of_lt]
    omega
  generalize dirWord mok owner ring lap = w at *
  refine ⟨?_, ?_, ?_, ?_, ?_⟩
  · rw [bit, value]
    exact decide_eq_true (by omega)
  · rw [bit, value]
    exact decide_eq_false (by omega)
  · rw [bit, value]
    cases mok with
    | false =>
      have : b2n false = 0 := rfl
      exact decide_eq_false (by omega)
    | true =>
      have : b2n true = 1 := rfl
      exact decide_eq_true (by omega)
  · rw [fld_eq_div_mod, value]
    omega
  · rw [fld_eq_div_mod, value]
    omega

/-- The mark that the mirror is good leaves the rest of an entry. -/
theorem DirShows.confirmed {w : Word} {mok : Bool} {owner lap : Nat} (h : DirShows w mok owner lap) : DirShows (putBit w 61 true) true owner lap := by
  have other (hi lo : Nat) (hh : hi < 61) (hl : lo ≤ hi) : fld (putBit w 61 true) hi lo = fld w hi lo := by
    refine Nat.eq_of_testBit_eq fun j => ?_
    unfold fld
    rw [BitVec.testBit_toNat, BitVec.testBit_toNat, BitVec.getLsbD_extractLsb', BitVec.getLsbD_extractLsb']
    by_cases hj : j < hi - lo + 1
    · rw [getLsbD_putBit _ _ _ (by omega), if_neg (by omega)]
    · rw [decide_eq_false hj, Bool.false_and, Bool.false_and]
  have bit (j : Nat) (hj : j < 64) := getLsbD_putBit w 61 true hj
  exact ⟨(bit 63 (by decide)).trans h.occ, (bit 62 (by decide)).trans h.orph, bit 61 (by decide), (other 60 57 (by decide) (by decide)).trans h.owner, (other 31 0 (by decide) (by decide)).trans h.lap⟩

end Sys2Proof.Machine
end

section
/-! A pass: its local half, and its end with the partner up or fenced (R112, R113, R245 to R247, R264, R268). -/
namespace Sys2Proof.Machine

/-- The pass in flight, as an operation. -/
def passOp : Op := { batOp 0 with kind := .baton }

theorem takeFirst_pass {l : List Op} : (takeFirst (fun o : Op => o.kind == .baton) (l ++ [passOp])).isSome = true :=
  takeFirst_isSome ⟨passOp, List.mem_append_right _ (List.mem_singleton_self _), rfl⟩

/-- What a pass that ends leaves in flight: its status (R112). -/
theorem settled_ops {l : List Op} (h : ∀ o ∈ l, o.kind ≠ .baton) (n : Nat) :
    (l ++ [passOp]).map (fun o : Op => if o.kind == .baton then batOp n else o) = l ++ [batOp n] := by
  have others : l.map (fun o : Op => if o.kind == .baton then batOp n else o) = l := by
    refine (List.map_congr_left fun o ho => ?_).trans (List.map_id l)
    exact if_neg (by simpa using h o ho)
  rw [List.map_append, others]
  rfl

/-! The local half -/

/-- The record that a pass from `a` writes (R245). -/
def State.passRecord (s : State) (h a : Nat) : List Byte := withCrc (s.bytesAt h a 256)

/-- The mirror write that a pass leaves on its way (R245). -/
def State.passMirror (s : State) (h i slot a : Nat) : LateMirror :=
  { heat := partner h, slot := slot, bytes := s.passRecord h a, dir := dirWord true i (recordRing (s.passRecord h a)) s.lap.toNat }

/-- Both entries of a pair are no orphans. -/
def State.noOrphans (s : State) (m : Nat) (mir : Bool) (slot : Nat) : Prop :=
  dirOrph (s.dirAt m (dirPlace mir slot)) = false ∧ dirOrph (s.dirAt m (dirPlace mir slot ^^^ 8)) = false

/-- A pass's local half: the record and the entry that names the runner are written, the mirror write is on its way. -/
theorem passLocal_writes {u : State} (ok : u.TablesOk) (hM : u.MemOk) {h i slot : Nat} (hh : h < 16) (hs : slot < 4096) {a : Nat} (hi : i < 16)
    (hl : (u.runner (.heat h i)).late = none) (hr : (u.runner (.heat h i)).ring = none) (hc : (u.up h).ecc = []) (ho : u.noOrphans h false slot) :
    ∃ v, v = u.sideWrite h false slot (u.passRecord h a) (dirWord false i (recordRing (u.passRecord h a)) u.lap.toNat) i ∧ Quiet (.heat h i) u v
      ∧ u.passLocal h i slot a = v.updR (.heat h i) fun x => { x with late := some (u.passMirror h i slot a), ops := x.ops ++ [passOp] } := by
  have size : (u.passRecord h a).length = 256 := withCrc_length (bytesAt_length ..)
  have quiet := sideWrite_quiet (.heat h i) hM hh hs size i (dirWord_shows false hi (recordRing (u.passRecord h a)) u.lap.toNat).orph ho.1 ho.2
  refine ⟨_, rfl, quiet, ?_⟩
  have free : ((u.sideWrite h false slot (u.passRecord h a) (dirWord false i (recordRing (u.passRecord h a)) u.lap.toNat) i).runner (.heat h i)).ring = none :=
    (quiet.ring ok).trans hr
  have stays (t : State) (ht : (t.runner (.heat h i)).ring = none) (q : Option Nat) : t.withdrawByPass (.heat h i) q = t := by
    unfold State.withdrawByPass
    rw [ht]
    cases q <;> rfl
  unfold State.passLocal
  dsimp only
  rw [hl]
  dsimp only
  rw [memRead_clean (by rw [hc]; exact fun _ h => nomatch h)]
  dsimp only
  rw [if_neg Bool.false_ne_true]
  exact stays _ ((congrArg Runner.ring (State.runner_updR (quiet.kept.tab ok) ..)).trans free) _

/-- From `u` to `t` the local half of a pass was done. -/
structure LocalPassed (u t : State) (h i slot a : Nat) : Prop where
  tables : t.TablesOk
  mem    : t.MemOk
  heatUp : ∀ p, t.heatUp p = u.heatUp p
  ops    : (t.runner (.heat h i)).ops = (u.runner (.heat h i)).ops ++ [passOp]
  late   : (t.runner (.heat h i)).late = some (u.passMirror h i slot a)
  holds  : SideHolds t h false slot (u.passRecord h a) (dirWord false i (recordRing (u.passRecord h a)) u.lap.toNat) i
  rest   : ∀ m b, b < memLen m → ¬ofSide h false slot m b → t.byteAt m b = u.byteAt m b

theorem passLocal_passed {u : State} (ok : u.TablesOk) (hM : u.MemOk) {h i slot : Nat} (hh : h < 16) (hs : slot < 4096) (a : Nat) (hi : i < 16)
    (hl : (u.runner (.heat h i)).late = none) (hr : (u.runner (.heat h i)).ring = none) (hc : (u.up h).ecc = []) (ho : u.noOrphans h false slot) :
    LocalPassed u (u.passLocal h i slot a) h i slot a := by
  obtain ⟨v, hv, quiet, e⟩ := passLocal_writes ok hM hh hs (a := a) hi hl hr hc ho
  have size : (u.passRecord h a).length = 256 := withCrc_length (bytesAt_length ..)
  obtain ⟨holds, rest⟩ := sideWrite_holds hM hh hs false size (dirWord false i (recordRing (u.passRecord h a)) u.lap.toNat) i
  rw [← hv] at holds rest
  have runner := State.runner_updR (quiet.kept.tab ok) (.heat h i) fun x => { x with late := some (u.passMirror h i slot a), ops := x.ops ++ [passOp] }
  rw [e]
  refine ⟨updR_ok (quiet.kept.tab ok) .., (updR_kept quiet.kept).mem hM, fun p => quiet.heatUp p, ?_, by rw [runner], holds.same hh hs fun b _ => State.updR_byteAt .., fun m b hb hout =>
    (State.updR_byteAt ..).trans (rest m b hb hout)⟩
  rw [runner]
  exact congrArg (· ++ [passOp]) (quiet.ops ok)

/-- The record at `b` of memory `m` and its entry at `d` show the pass of runner `i` of heat `h` from `a` (R241, R245). -/
def Passed (s t : State) (h i a m b d : Nat) (mok : Bool) : Prop :=
  (∀ j < 252, t.byteAt m (b + j) = s.byteAt h (a + j)) ∧ recordGood (t.bytesAt m b 256) = true
    ∧ (t.dirAt m d).getLsbD 63 = true ∧ (t.dirAt m d).getLsbD 62 = false ∧ (t.dirAt m d).getLsbD 61 = mok ∧ fld (t.dirAt m d) 60 57 = i
    ∧ fld (t.dirAt m d) 31 0 = s.lap.toNat % 2 ^ 32 ∧ fld (t.dirAt m (d ^^^ 8)) 60 57 = i

theorem SideHolds.passed {s t : State} {h a m slot i : Nat} {mir mok : Bool} {w : Word} (k : SideHolds t m mir slot (s.passRecord h a) w i) (hw : DirShows w mok i s.lap.toNat)
    (hi : i < 16) : Passed s t h i a m (slotPlace mir slot) (dirPlace mir slot) mok := by
  have size : (s.bytesAt h a 256).length = 256 := bytesAt_length ..
  have record : t.bytesAt m (slotPlace mir slot) 256 = s.passRecord h a := bytesAt_of_getD (withCrc_length size) k.record
  refine ⟨fun j hj => ?_, by rw [record]; exact recordGood_withCrc size, ?_⟩
  · rw [k.record j (by omega), State.passRecord, withCrc_getD size hj, bytesAt_getD s h a (by omega)]
  · rw [k.dir, k.pair, Nat.mod_eq_of_lt hi]
    exact ⟨hw.occ, hw.orph, hw.mok, hw.owner, hw.lap, rfl⟩

/-! The end of a pass -/

theorem passEnd_up {t : State} {h i : Nat} {m : LateMirror} {l : List Op} (hops : (t.runner (.heat h i)).ops = l ++ [passOp]) (hl : (t.runner (.heat h i)).late = some m)
    (hup : t.heatUp m.heat = true) : t.passEnd h i =
      (((t.wrapInc (0x10 + h) 0x148 31 0).mirrorWrite m i).setDir h false m.slot (putBit (t.dirAt h (dirPlace false m.slot)) 61 true)).updR (.heat h i) fun x =>
        { x with late := none, ops := x.ops.map fun o : Op => if o.kind == .baton then batOp 0 else o } := by
  obtain ⟨e, he⟩ := Option.isSome_iff_exists.1 (takeFirst_pass (l := l))
  unfold State.passEnd
  dsimp only
  rw [hops, he, hl]
  exact if_pos hup

theorem passEnd_down {t : State} {h i : Nat} {m : LateMirror} {l : List Op} (hops : (t.runner (.heat h i)).ops = l ++ [passOp]) (hl : (t.runner (.heat h i)).late = some m)
    (hup : t.heatUp m.heat = false) : ∃ u : State, u.bytes = t.bytes ∧ u.runner (.heat h i) = t.runner (.heat h i) ∧ Kept t u
      ∧ t.passEnd h i = u.updR (.heat h i) fun x => { x with late := none, ops := x.ops.map fun o : Op => if o.kind == .baton then batOp 3 else o } := by
  obtain ⟨e, he⟩ := Option.isSome_iff_exists.1 (takeFirst_pass (l := l))
  have bare (z : State) (q : Nat) : (z.unprotect q).bytes = z.bytes ∧ (z.unprotect q).runner (.heat h i) = z.runner (.heat h i) := by
    unfold State.unprotect
    split
    · exact ⟨rfl, rfl⟩
    · exact ⟨raise_bytes .., runner_of_memories (raise_memories ..) _⟩
  have fenced : ¬(t.wrapInc (0x10 + h) 0x148 31 0).heatUp m.heat = true := ne_true_of_eq_false hup
  unfold State.passEnd
  dsimp only
  rw [hops, he, hl]
  dsimp only
  rw [if_neg fenced]
  split
  next q _ =>
    obtain ⟨hb, hr⟩ := bare (t.wrapInc (0x10 + h) 0x148 31 0) q
    exact ⟨((t.wrapInc (0x10 + h) 0x148 31 0).unprotect q).satInc (0x10 + h) 0x14C 23 16, hb, hr, satInc_kept (unprotect_kept (wrapInc_kept (.refl t))), rfl⟩
  next => exact ⟨(t.wrapInc (0x10 + h) 0x148 31 0).satInc (0x10 + h) 0x14C 23 16, rfl, rfl, satInc_kept (wrapInc_kept (.refl t)), rfl⟩

theorem partner_lt {h : Nat} (hh : h < 16) : partner h < 16 := (xor_one_lt_two_pow (n := 4) (by decide)).2 hh

theorem partner_ne (h : Nat) : partner h ≠ h := by
  have := slot_pair h
  unfold partner
  omega

theorem noOrphans_congr {u t : State} {m slot : Nat} {mir : Bool} (hm : m < 16) (hs : slot < 4096) (e : ∀ b < memLen m, t.byteAt m b = u.byteAt m b) (h : u.noOrphans m mir slot) :
    t.noOrphans m mir slot := by
  have low := dirPlace_le mir hs
  have low' := dirPlace_le mir (slot_xor_one_lt hs)
  have len := memLen_heat hm
  have entry (d : Nat) (hd : d + 8 ≤ 0x380000) : t.dirAt m d = u.dirAt m d := dirAt_congr fun j hj => e _ (by omega)
  unfold State.noOrphans
  rw [entry _ low, entry _ (by rw [dirPlace_xor]; exact low')]
  exact h

/-- The mirror side is written and the local entry is confirmed (R245, R246). -/
theorem sides_confirmed (r : Rid) {t : State} (hM : t.MemOk) {h slot i : Nat} (hh : h < 16) (hs : slot < 4096) {bs : List Byte} (hn : bs.length = 256) {w w' w₁ : Word}
    (near : SideHolds t h false slot bs w i) (ho : t.noOrphans (partner h) true slot) (hw : dirOrph w = false) (hw' : dirOrph w' = false) (hw₁ : dirOrph w₁ = false) :
    let t' := (t.sideWrite (partner h) true slot bs w' i).setDir h false slot w₁
    SideHolds t' h false slot bs w₁ i ∧ SideHolds t' (partner h) true slot bs w' i ∧ Quiet r t t'
      ∧ ∀ m b, b < memLen m → ¬ofSide h false slot m b → ¬ofSide (partner h) true slot m b → t'.byteAt m b = t.byteAt m b := by
  have hp := partner_lt hh
  have apart := partner_ne h
  obtain ⟨far, rest⟩ := sideWrite_holds hM hp hs true hn w' i
  have quiet := sideWrite_quiet r hM hp hs hn i hw' ho.1 ho.2
  have near' := near.same hh hs fun b hb => rest h b hb fun e => apart e.1.symm
  have entry := setDir_stored (quiet.kept.mem hM) hh hs false w₁
  refine ⟨near'.redir hh hs entry, far.same hp hs fun b hb => ?_, quiet.trans (setDir_quiet r (by rw [near'.dir]; exact hw) hw₁), fun m b hb hout hout' => ?_⟩
  · rw [entry _ _ hb, if_neg fun e => apart e.1]
  · rw [entry _ _ hb, if_neg, rest m b hb hout']
    rintro ⟨rfl, hlo, hhi⟩
    rw [leBytes_size] at hhi
    have := dirPlace_aligned false slot
    exact hout ⟨rfl, .inr (by omega)⟩

section
variable {u t : State} {h i slot a : Nat} (k : LocalPassed u t h i slot a) (hno : ∀ o ∈ (u.runner (.heat h i)).ops, o.kind ≠ .baton)
include k hno

/-- The mirror write is acknowledged: both sides hold the pass. -/
theorem LocalPassed.acknowledged (hh : h < 16) (hs : slot < 4096) (hi : i < 16) (hup : u.heatUp (partner h) = true) (ho : u.noOrphans (partner h) true slot) :
    ((t.passEnd h i).runner (.heat h i)).ops = (u.runner (.heat h i)).ops ++ [batOp 0] ∧ ((t.passEnd h i).runner (.heat h i)).late = none
      ∧ SideHolds (t.passEnd h i) h false slot (u.passRecord h a) (putBit (dirWord false i (recordRing (u.passRecord h a)) u.lap.toNat) 61 true) i
      ∧ SideHolds (t.passEnd h i) (partner h) true slot (u.passRecord h a) (dirWord true i (recordRing (u.passRecord h a)) u.lap.toNat) i
      ∧ ∀ m b, b < memLen m → ¬(ofSide h false slot m b ∨ ofSide (partner h) true slot m b) → (t.passEnd h i).byteAt m b = u.byteAt m b := by
  have size : (u.passRecord h a).length = 256 := withCrc_length (bytesAt_length ..)
  have shows := dirWord_shows false hi (recordRing (u.passRecord h a)) u.lap.toNat
  have counted := wrapInc_kept (.refl t) (a1 := 0x10 + h) (a2 := 0x148) (a3 := 31) (a4 := 0) (a5 := 1)
  have ended : t.passEnd h i = _ := (passEnd_up k.ops k.late ((k.heatUp _).trans hup)).trans
    (congrArg (fun w => (((t.wrapInc (0x10 + h) 0x148 31 0).sideWrite (partner h) true slot (u.passRecord h a)
        (dirWord true i (recordRing (u.passRecord h a)) u.lap.toNat) i).setDir h false slot (putBit w 61 true)).updR (.heat h i) fun x =>
      { x with late := none, ops := x.ops.map fun o : Op => if o.kind == .baton then batOp 0 else o }) k.holds.dir)
  have far : ∀ b < memLen (partner h), t.byteAt (partner h) b = u.byteAt (partner h) b := fun b hb => k.rest _ _ hb fun e => partner_ne h e.1
  obtain ⟨near, mirror, quiet, rest⟩ := sides_confirmed (t := t.wrapInc (0x10 + h) 0x148 31 0) (.heat h i) (counted.mem k.mem) hh hs size (k.holds.same hh hs fun _ _ => rfl)
    (noOrphans_congr (partner_lt hh) hs far ho) shows.orph (dirWord_shows true hi (recordRing (u.passRecord h a)) u.lap.toNat).orph shows.confirmed.orph
  have runner := State.runner_updR (quiet.kept.tab (counted.tab k.tables)) (.heat h i) fun x =>
    { x with late := none, ops := x.ops.map fun o : Op => if o.kind == .baton then batOp 0 else o }
  have before : _ = (t.runner (.heat h i)).ops := quiet.ops (counted.tab k.tables)
  rw [ended]
  refine ⟨?_, congrArg Runner.late runner, near.same hh hs fun b _ => State.updR_byteAt .., mirror.same (partner_lt hh) hs fun b _ => State.updR_byteAt .., fun m b hb hout => ?_⟩
  · exact (congrArg Runner.ops runner).trans ((congrArg (List.map _) (before.trans k.ops)).trans (settled_ops hno 0))
  · rw [not_or] at hout
    exact (State.updR_byteAt ..).trans ((rest m b hb hout.1 hout.2).trans (k.rest m b hb hout.1))

/-- The partner is fenced: the local side holds the pass. -/
theorem LocalPassed.unmirrored (hup : u.heatUp (partner h) = false) :
    ((t.passEnd h i).runner (.heat h i)).ops = (u.runner (.heat h i)).ops ++ [batOp 3] ∧ ((t.passEnd h i).runner (.heat h i)).late = none
      ∧ ∀ m b, (t.passEnd h i).byteAt m b = t.byteAt m b := by
  obtain ⟨z, hb, hr, kept, e⟩ := passEnd_down k.ops k.late ((k.heatUp _).trans hup)
  have runner := State.runner_updR (kept.tab k.tables) (.heat h i) fun x => { x with late := none, ops := x.ops.map fun o : Op => if o.kind == .baton then batOp 3 else o }
  rw [e, runner, hr, k.ops, settled_ops hno]
  exact ⟨rfl, rfl, fun m b => (State.updR_byteAt ..).trans (byteAt_bytes hb m b)⟩

end

end Sys2Proof.Machine
end

section
/-! BAT: what t_get gives, what t_free clears, and the triggers as they are taken (R112, R113, R248, R249, R266). -/
namespace Sys2Proof.Machine

/-! Beginnings of words -/

section
variable {s u : State} {r : Rid} (k : Begun s u r)
include k

theorem Begun.ops : (u.runner r).ops = (s.runner r).ops := by
  obtain ⟨-, ⟨c, n, m, e⟩, -⟩ := k
  rw [e]

theorem Begun.late : (u.runner r).late = (s.runner r).late := by
  obtain ⟨-, ⟨c, n, m, e⟩, -⟩ := k
  rw [e]

theorem Begun.passing : (u.runner r).passing = (s.runner r).passing := by
  obtain ⟨-, ⟨c, n, m, e⟩, -⟩ := k
  rw [e]
  rfl

theorem Begun.bytesAt (m a n : Nat) : u.bytesAt m a n = s.bytesAt m a n := by
  rw [bytesAt_eq_map, bytesAt_eq_map]
  exact List.map_congr_left fun _ _ => k.byteAt ..

theorem Begun.dirAt (m a : Nat) : u.dirAt m a = s.dirAt m a := dirAt_congr fun _ _ => k.byteAt ..

theorem Begun.heatUp (h : Nat) : u.heatUp h = s.heatUp h := by
  obtain ⟨⟨ru, ar, rfl⟩, -, -⟩ := k
  rfl

theorem Begun.memOk (h : s.MemOk) : u.MemOk := by
  obtain ⟨⟨ru, ar, rfl⟩, -, -⟩ := k
  exact { h with }

/-- Nothing buffered, nothing to drain. -/
theorem Begun.drained (hs : (s.runner r).stores = []) (hf : (s.runner r).frame = []) : u.drainAll r = u := by
  have empty : (u.runner r).writes = [] := by
    rw [k.writes, Runner.writes, hs, hf]
    simp
  exact drainWhile_none (by rw [empty]; exact fun _ he => nomatch he) _

end

/-- A runner that was running goes on after the trigger. -/
theorem took_running {s : State} (h : s.TablesOk) {r : Rid} (hr : (s.runner r).run = .running) (f : State → State) : s.took r f = f (s.taking r) := by
  refine (thenStop_begun h r _).trans (if_neg ?_)
  rw [hr]
  decide

/-- The port of a BAT trigger (R112). -/
def batPort : BatOp → Nat
  | .pass => 0x248 | .get => 0x249 | .free => 0x24A

/-- A BAT trigger of a heat runner in the supervisor level, none while a pass waits, is taken (R112, R113). -/
theorem bat_taken {s : State} (h : s.TablesOk) {j i : Nat} (hr : s.executes (.heat j i)) (hsup : (s.runner (.heat j i)).sup = true)
    (hp : (s.runner (.heat j i)).passing = false) {op : BatOp} {v : Word} (hd : op = .free ∨ s.dataOk (.heat j i) (s.operand (.heat j i) 0x240).toNat 256) {f : State → State}
    (hrun : (s.taking (.heat j i)).runBat (.heat j i) op v = f (s.taking (.heat j i))) : s.trigger (.heat j i) (batPort op) v = s.took (.heat j i) f := by
  have k := begun_beginWord h (.heat j i)
  have open' : (s.beginWord (.heat j i)).portOpen (.heat j i) (batPort op) := by
    cases op <;> exact portOpen_super (k.sup.trans hsup) (by decide) (by decide) rfl rfl (.inl rfl) fun h => absurd h (by decide)
  have idle := k.passing.trans hp
  have reach (hop : op ≠ .free) : (s.beginWord (.heat j i)).dataOk (.heat j i) ((s.beginWord (.heat j i)).opAddr (.heat j i) 0x240) 256 := by
    rw [k.opAddr]
    exact k.dataOk (hd.resolve_left hop)
  refine trigger_runs h hr open' (t := .bat op) (by cases op <;> rfl) ?_ ?_ hrun
  · cases op with
    | free => rfl
    | pass => exact (List.append_nil _).trans (addrFaults_eq_nil (reach (by decide)))
    | get => exact (List.append_nil _).trans (addrFaults_eq_nil (reach (by decide)))
  · cases op with
    | free => exact idle
    | pass => exact Bool.or_eq_false_iff.2 ⟨idle, wipeWaits_eq_false (reach (by decide))⟩
    | get => exact Bool.or_eq_false_iff.2 ⟨idle, wipeWaits_eq_false (reach (by decide))⟩

/-- A BAT operation that begins is in flight. -/
theorem started_ops {r : Rid} {u z : State} (ok : u.TablesOk) (q : Quiet r u z) (o : Op) : ((z.start r o).runner r).ops = (u.runner r).ops ++ [o] :=
  (congrArg Runner.ops (State.runner_updR (q.kept.tab ok) ..)).trans (congrArg (· ++ [o]) (q.ops ok))

theorem start_byteAt (s : State) (r : Rid) (o : Op) (m a : Nat) : (s.start r o).byteAt m a = s.byteAt m a := State.updR_byteAt ..

theorem start_dirAt (s : State) (r : Rid) (o : Op) (m a : Nat) : (s.start r o).dirAt m a = s.dirAt m a := dirAt_congr fun _ _ => start_byteAt ..

/-! What drains leaves the operand ports -/

theorem userWrite_quiet (r : Rid) (s : State) (m a : Nat) (bs : List Byte) (who : Nat) : Quiet r s (s.userWrite m a bs who) := by
  unfold State.userWrite
  split
  · exact .of (report_kept (.refl s)) rfl (by cases r <;> rfl)
  · exact memWrite_quiet ..

/-- The operand ports of `r` stand. -/
structure OperandsKept (r : Rid) (s t : State) : Prop where
  tables : t.TablesOk
  oport  : (t.runner r).oport = (s.runner r).oport

theorem drainHead_operands {s : State} (ok : s.TablesOk) (r : Rid) : OperandsKept r s (s.drainHead r) := by
  have changed {f : Runner → Runner} (hf : ∀ x, (f x).oport = x.oport) : OperandsKept r s (s.updR r f) :=
    ⟨updR_ok ok .., by rw [State.runner_updR ok, hf]⟩
  have written {t : State} (k : OperandsKept r s t) (m a : Nat) (bs : List Byte) (who : Nat) : OperandsKept r s (t.userWrite m a bs who) :=
    have q := userWrite_quiet r t m a bs who
    ⟨q.kept.tab k.tables, (q.oport k.tables).trans k.oport⟩
  unfold State.drainHead
  dsimp only
  split
  · exact each_inv (P := OperandsKept r s) (changed fun _ => rfl) fun t e _ k => written k ..
  · unfold State.drainStore
    split
    · exact ⟨ok, rfl⟩
    · refine written (changed ?_) ..
      exact fun _ => rfl

theorem drainAll_operands {s : State} (ok : s.TablesOk) (r : Rid) : OperandsKept r s (s.drainAll r) := by
  have drain (n : Nat) : ∀ t, OperandsKept r s t → OperandsKept r s (t.drainWhile r (fun _ => true) n) := by
    induction n with
    | zero => exact fun _ k => k
    | succ n ih =>
      intro t k
      unfold State.drainWhile
      split
      · have next := drainHead_operands k.tables r
        exact ih _ ⟨next.tables, next.oport.trans k.oport⟩
      · exact k
  exact drain _ s ⟨ok, rfl⟩

theorem drainAll_opAddr {s : State} (ok : s.TablesOk) (r : Rid) (p : Nat) : (s.drainAll r).opAddr r p = s.opAddr r p :=
  congrArg (fun t : Table Word => (tget 0 t p).toNat) (drainAll_operands ok r).oport

/-! Bytes that stand, and the slot -/

/-- No byte changes outside `f`. -/
def StandsBut (s t : State) (f : Nat → Nat → Prop) : Prop := ∀ m b, m ≤ 16 → b < memLen m → ¬f m b → t.byteAt m b = s.byteAt m b

theorem standsBut_begun {s u t : State} {r : Rid} (b : Begun s u r) {f : Nat → Nat → Prop} (h : ∀ m c, c < memLen m → ¬f m c → t.byteAt m c = u.byteAt m c) : StandsBut s t f :=
  fun m c _ hc hout => (h m c hc hout).trans (b.byteAt ..)

/-- The slot a BAT trigger names. -/
def slotOf (v : Word) : Nat := v.toNat % 4096

theorem fld_slotOf (v : Word) : fld v 11 0 = slotOf v := by
  rw [fld_eq_div_mod]
  simp [slotOf]

theorem StandsBut.start {s u z : State} {r : Rid} (b : Begun s u r) {f : Nat → Nat → Prop} (h : ∀ m c, c < memLen m → ¬f m c → z.byteAt m c = u.byteAt m c) (o : Op) :
    StandsBut s (z.start r o) f := standsBut_begun b fun m c hc hout => (start_byteAt ..).trans (h m c hc hout)

/-! t_get (R248) -/

/-- The publication area, whose writes are discarded (R288). -/
def inPublication (a : Nat) : Prop := 0x36E000 ≤ a ∧ a < 0x370000

theorem giveRecord_quiet (r : Rid) (u : State) (h a : Nat) (bs : List Byte) (who : Nat) : Quiet r u (u.giveRecord h a bs who) := by
  unfold State.giveRecord
  split
  · exact .of (report_kept (.refl u)) rfl (by cases r <;> rfl)
  · exact memWrite_quiet ..

/-- The record goes to its place, unless that lies in the publication area; no other byte changes. -/
theorem giveRecord_copies {u : State} (hM : u.MemOk) {h a : Nat} (ha : a + 256 ≤ memLen h) {bs : List Byte} (hn : bs.length = 256) (who : Nat) :
    (¬inPublication a → ∀ j < 256, (u.giveRecord h a bs who).byteAt h (a + j) = bs.getD j 0)
      ∧ ∀ m b, b < memLen m → ¬(¬inPublication a ∧ m = h ∧ a ≤ b ∧ b < a + 256) → (u.giveRecord h a bs who).byteAt m b = u.byteAt m b := by
  unfold State.giveRecord
  split
  next hp => exact ⟨fun hn => absurd hp hn, fun _ _ _ _ => rfl⟩
  next hp =>
    have written := memWrite_stored hM (m := h) (a := a) (bs := bs) (by omega) (by omega)
    refine ⟨fun _ j hj => ?_, fun m b hb hout => ?_⟩
    · rw [written _ _ (by omega), if_pos ⟨rfl, by omega, by omega⟩, Nat.add_sub_cancel_left]
    · rw [written _ _ hb, if_neg]
      rintro ⟨rfl, hlo, hhi⟩
      exact hout ⟨hp, rfl, hlo, by omega⟩

/-- A get whose record fails: the failure is counted, and reported where both slots of the pair are lost (R248, R266). -/
def State.getFails (u : State) (h slot : Nat) (mir : Bool) : State :=
  let s := u.satInc (0x10 + h) 0x14C 7 0
  let lost (k : Nat) : Bool := if mir then s.mirrorLost h k else s.slotLost h k
  s.when (lost slot && lost (slot ^^^ 1)) fun s => s.report 0x0E 1 (0x10 + h) (0x30 + h) slot

section
variable {u : State} {h slot src who : Nat} {mir : Bool} (hc : ∀ m, (u.up m).ecc = [])
include hc

theorem memRead_free (m a n : Nat) : u.memRead m a n = (u, u.bytesAt m a n, false) := memRead_clean (by rw [hc]; exact fun _ h => nomatch h)

theorem batGet_empty (ho : dirOcc (u.dirAt h (dirPlace mir slot)) = false) : u.batGet h slot mir src who = (u, 4) := by
  unfold dirPlace at ho
  unfold State.batGet State.dirRead
  dsimp only
  rw [memRead_free hc]
  dsimp only
  rw [ho]
  rfl

/-- What a get of an occupied slot gives: the record where it passes, the partner's where only that one does (R248, R266). -/
theorem batGet_occupied (ho : dirOcc (u.dirAt h (dirPlace mir slot)) = true) : u.batGet h slot mir src who =
    if recordGood (u.bytesAt h (slotPlace mir slot) 256) = true then (u.giveRecord h src (u.bytesAt h (slotPlace mir slot) 256) who, 0)
    else if mir = false ∧ u.heatUp (partner h) = true ∧ recordGood (u.bytesAt (partner h) (slotPlace true slot) 256) = true then
      (((u.giveRecord h src (u.bytesAt (partner h) (slotPlace true slot) 256) who).satInc (0x10 + h) 0x14C 15 8).report 0x0C 2 (0x10 + h) (0x30 + h) 0 (localSlot slot), 0)
    else (u.getFails h slot mir, 2) := by
  unfold dirPlace at ho
  unfold State.batGet State.dirRead
  dsimp only
  rw [memRead_free hc]
  dsimp only
  rw [ho, if_neg (by decide)]
  cases mir with
  | true =>
    rw [if_pos rfl, memRead_free hc]
    dsimp only
    rw [Bool.not_false, Bool.true_and, if_neg (c := true = false ∧ _) fun e => nomatch e.1]
    rfl
  | false =>
    rw [if_neg Bool.false_ne_true, memRead_free hc]
    dsimp only
    rw [Bool.not_false, Bool.true_and, memRead_free hc]
    dsimp only
    refine ite_congr rfl (fun _ => rfl) fun _ => ?_
    by_cases hu : u.heatUp (partner h) = true
    · rw [if_pos hu]
      by_cases hg : recordGood (u.bytesAt (partner h) (mirrorSlot slot) 256) = true
      · exact (if_pos hg).trans (if_pos ⟨rfl, hu, hg⟩).symm
      · exact (if_neg hg).trans (if_neg fun e => hg e.2.2).symm
    · exact (if_neg hu).trans (if_neg fun e => hu e.2.1).symm

end

theorem getFails_quiet (r : Rid) (u : State) (h slot : Nat) (mir : Bool) : Quiet r u (u.getFails h slot mir) ∧ ∀ m b, (u.getFails h slot mir).byteAt m b = u.byteAt m b := by
  have counted := satInc_kept (.refl u) (a1 := 0x10 + h) (a2 := 0x14C) (a3 := 7) (a4 := 0) (a5 := 1)
  have either (b : Bool) (t : State) (ht : t = (u.satInc (0x10 + h) 0x14C 7 0).when b fun s => s.report 0x0E 1 (0x10 + h) (0x30 + h) slot) :
      Quiet r u t ∧ ∀ m b, t.byteAt m b = u.byteAt m b := by
    subst ht
    cases b
    · exact ⟨.of counted rfl (by cases r <;> rfl), fun _ _ => rfl⟩
    · exact ⟨.of (report_kept counted) rfl (by cases r <;> rfl), fun _ _ => rfl⟩
  exact either _ _ rfl

/-- The 256 bytes at `b` of memory `m` went to `a` of memory `h`, unless that lies in the publication area, and no other byte changed. -/
def Copied (u z : State) (h a m b : Nat) : Prop :=
  (¬inPublication a → ∀ j < 256, z.byteAt h (a + j) = u.byteAt m (b + j)) ∧ StandsBut u z fun m' b' => ¬inPublication a ∧ m' = h ∧ a ≤ b' ∧ b' < a + 256

theorem giveRecord_copied {u : State} (hM : u.MemOk) {h a : Nat} (ha : a + 256 ≤ memLen h) (m b who : Nat) : Copied u (u.giveRecord h a (u.bytesAt m b 256) who) h a m b := by
  obtain ⟨copies, rest⟩ := giveRecord_copies hM ha (bytesAt_length u m b 256) who
  exact ⟨fun hp j hj => (copies hp j hj).trans (bytesAt_getD u m b hj), fun m' b' _ => rest m' b'⟩

theorem Copied.start {s u z : State} {r : Rid} (b : Begun s u r) {h a m c : Nat} (k : Copied u z h a m c) (o : Op) : Copied s (z.start r o) h a m c :=
  ⟨fun hp j hj => (start_byteAt ..).trans ((k.1 hp j hj).trans (b.byteAt ..)), fun m' b' hm hb hout => (start_byteAt ..).trans ((k.2 m' b' hm hb hout).trans (b.byteAt ..))⟩

section
variable (r : Rid) {u : State} (hc : ∀ m, (u.up m).ecc = []) {h slot a who : Nat} {mir : Bool}
  (ho : dirOcc (u.dirAt h (dirPlace mir slot)) = true)
include hc ho

/-- A record that passes is given. -/
theorem batGet_own (hM : u.MemOk) (ha : a + 256 ≤ memLen h) (hg : recordGood (u.bytesAt h (slotPlace mir slot) 256) = true) :
    ∃ z, u.batGet h slot mir a who = (z, 0) ∧ Quiet r u z ∧ Copied u z h a h (slotPlace mir slot) :=
  ⟨_, (batGet_occupied hc ho).trans (if_pos hg), giveRecord_quiet .., giveRecord_copied hM ha ..⟩

/-- The mirror's record is given where only that one passes. -/
theorem batGet_partner (hM : u.MemOk) (ha : a + 256 ≤ memLen h) (hm : mir = false) (hg : recordGood (u.bytesAt h (slotPlace mir slot) 256) = false)
    (hu : u.heatUp (partner h) = true) (hf : recordGood (u.bytesAt (partner h) (slotPlace true slot) 256) = true) :
    ∃ z, u.batGet h slot mir a who = (z, 0) ∧ Quiet r u z ∧ Copied u z h a (partner h) (slotPlace true slot) :=
  ⟨_, (batGet_occupied hc ho).trans ((if_neg (ne_true_of_eq_false hg)).trans (if_pos ⟨hm, hu, hf⟩)),
    (giveRecord_quiet ..).trans (.of (report_kept (satInc_kept (.refl _))) rfl (by cases r <;> rfl)), giveRecord_copied hM ha ..⟩

/-- No record passes. -/
theorem batGet_fails (hg : recordGood (u.bytesAt h (slotPlace mir slot) 256) = false)
    (hf : mir = true ∨ u.heatUp (partner h) = false ∨ recordGood (u.bytesAt (partner h) (slotPlace true slot) 256) = false) :
    ∃ z, u.batGet h slot mir a who = (z, 2) ∧ Quiet r u z ∧ ∀ m b, z.byteAt m b = u.byteAt m b := by
  obtain ⟨quiet, same⟩ := getFails_quiet r u h slot mir
  refine ⟨_, (batGet_occupied hc ho).trans ((if_neg (ne_true_of_eq_false hg)).trans (if_neg ?_)), quiet, same⟩
  rintro ⟨hm, hu, hr⟩
  rw [hm, hu, hr] at hf
  simp at hf

end

/-! t_free (R249) -/

/-- An entry with its slot free and no orphan (R249). -/
def freed (w : Word) : Word := w &&& ~~~(3 <<< 62 : Word)

theorem getLsbD_freed (w : Word) {j : Nat} (hj : j < 64) : (freed w).getLsbD j = (w.getLsbD j && decide (j < 62)) := by
  unfold freed
  rw [BitVec.getLsbD_and, BitVec.getLsbD_not, decide_eq_true hj, Bool.true_and]
  congr 1
  revert j
  decide

section
variable {u : State} {h slot who : Nat}

/-- The entry that a free clears. -/
def State.freeDir (u : State) (h : Nat) (mir : Bool) (slot : Nat) : State := u.setDir h mir slot (freed (u.dirAt h (dirPlace mir slot)))

theorem freeDir_quiet (r : Rid) {mir : Bool} (ho : dirOrph (u.dirAt h (dirPlace mir slot)) = false) : Quiet r u (u.freeDir h mir slot) :=
  setDir_quiet r ho ((getLsbD_freed _ (by decide)).trans (Bool.and_false _))

theorem batFree_local (ho : dirOrph (u.dirAt h (dirPlace false slot)) = false) : u.batFree h slot false who =
    if u.heatUp (partner h) = true then ((u.freeDir h false slot).freeDir (partner h) true slot, 0) else (u.freeDir h false slot, 3) := by
  rw [← (freeDir_quiet .arb ho).heatUp]
  rfl

theorem batFree_mirror : u.batFree h slot true who = if u.heatUp (partner h) = true then (u.report 0x0E 2 who who 0 slot, 5) else (u.setDir h true slot 0, 0) := rfl

variable (hM : u.MemOk) (hh : h < 16) (hs : slot < 4096)
include hM hh hs

/-- The local entry is cleared. -/
theorem freeDir_stored (mir : Bool) : Stored u (u.freeDir h mir slot) h (dirPlace mir slot) (leBytes 8 (freed (u.dirAt h (dirPlace mir slot))).toNat) :=
  setDir_stored hM hh hs mir _

theorem batFree_alone (r : Rid) (ho : dirOrph (u.dirAt h (dirPlace false slot)) = false) (hu : u.heatUp (partner h) = false) :
    ∃ z, u.batFree h slot false who = (z, 3) ∧ Quiet r u z ∧ z.dirAt h (dirPlace false slot) = freed (u.dirAt h (dirPlace false slot))
      ∧ ∀ m b, b < memLen m → ¬(m = h ∧ dirPlace false slot ≤ b ∧ b < dirPlace false slot + 8) → z.byteAt m b = u.byteAt m b := by
  have near := freeDir_stored hM hh hs false
  have low := dirPlace_le false hs
  have len := memLen_heat hh
  refine ⟨_, (batFree_local ho).trans (if_neg (ne_true_of_eq_false hu)), freeDir_quiet r ho, near.dirAt (by omega), fun m b hb hout => ?_⟩
  rw [near _ _ hb, leBytes_size, if_neg hout]

theorem batFree_both (r : Rid) (ho : dirOrph (u.dirAt h (dirPlace false slot)) = false) (ho' : dirOrph (u.dirAt (partner h) (dirPlace true slot)) = false)
    (hu : u.heatUp (partner h) = true) :
    ∃ z, u.batFree h slot false who = (z, 0) ∧ Quiet r u z ∧ z.dirAt h (dirPlace false slot) = freed (u.dirAt h (dirPlace false slot))
      ∧ z.dirAt (partner h) (dirPlace true slot) = freed (u.dirAt (partner h) (dirPlace true slot))
      ∧ ∀ m b, b < memLen m → ¬((m = h ∧ dirPlace false slot ≤ b ∧ b < dirPlace false slot + 8) ∨ (m = partner h ∧ dirPlace true slot ≤ b ∧ b < dirPlace true slot + 8)) →
          z.byteAt m b = u.byteAt m b := by
  have hp := partner_lt hh
  have apart := partner_ne h
  have low := dirPlace_le false hs
  have low' := dirPlace_le true hs
  have len := memLen_heat hh
  have lenp := memLen_heat hp
  have near := freeDir_stored hM hh hs false
  have quiet := freeDir_quiet r ho
  have far := freeDir_stored (quiet.kept.mem hM) hp hs true
  have entry : (u.freeDir h false slot).dirAt (partner h) (dirPlace true slot) = u.dirAt (partner h) (dirPlace true slot) :=
    dirAt_congr fun j hj => by rw [near _ _ (by omega), if_neg fun e => apart e.1]
  refine ⟨_, (batFree_local ho).trans (if_pos hu), quiet.trans (freeDir_quiet r (by rw [entry]; exact ho')), ?_, by rw [far.dirAt (by omega), entry], fun m b hb hout => ?_⟩
  · rw [← near.dirAt (by omega)]
    exact dirAt_congr fun j hj => by rw [far _ _ (by omega), if_neg fun e => apart e.1.symm]
  · rw [not_or] at hout
    rw [far _ _ hb, leBytes_size, if_neg hout.2, near _ _ hb, leBytes_size, if_neg hout.1]

theorem batFree_fenced (r : Rid) (ho : dirOrph (u.dirAt h (dirPlace true slot)) = false) (hu : u.heatUp (partner h) = false) :
    ∃ z, u.batFree h slot true who = (z, 0) ∧ Quiet r u z ∧ z.dirAt h (dirPlace true slot) = 0
      ∧ ∀ m b, b < memLen m → ¬(m = h ∧ dirPlace true slot ≤ b ∧ b < dirPlace true slot + 8) → z.byteAt m b = u.byteAt m b := by
  have near := setDir_stored hM hh hs true (0 : Word)
  have low := dirPlace_le true hs
  have len := memLen_heat hh
  refine ⟨_, batFree_mirror.trans (if_neg (ne_true_of_eq_false hu)), setDir_quiet r ho rfl, near.dirAt (by omega), fun m b hb hout => ?_⟩
  rw [near _ _ hb, leBytes_size, if_neg hout]

end

/-- A pass whose acknowledgement comes at once ends with its trigger. -/
theorem passCmd_ends {s t : State} {h i : Nat} {v : Word} (hp : (s.runner (.heat h i)).passing = false) (ht : s.trigger (.heat h i) 0x248 v = t)
    (hq : (t.runner (.heat h i)).passing = true) : s.passCmd (.heat h i) v false = t.passEnd h i := by
  unfold State.passCmd
  dsimp only
  rw [ht, hp, hq]
  rfl

end Sys2Proof.Machine
end

section
/-! BAT: the triggers of a runner that has nothing buffered, on memories without errors (R112, R113, R240 to R249). -/
namespace Sys2Proof.Machine

/-- Nothing is buffered, no word of a memory is in error, and the runner runs. -/
structure BatonCalm (s : State) (h i : Nat) : Prop where
  mem     : s.MemOk
  heat    : h < 16
  runner  : i < 9
  stores  : (s.runner (.heat h i)).stores = []
  frame   : (s.runner (.heat h i)).frame = []
  clean   : ∀ m, (s.up m).ecc = []
  running : (s.runner (.heat h i)).run = .running

/-- The command starts a BAT operation of status `n`, and `f` holds of the state after it. -/
def Gives (s : State) (h i : Nat) (c : Instr) (n : Nat) (f : State → Prop) : Prop :=
  ∃ t : State, exec c s = .next t ∧ (t.runner (.heat h i)).ops = (s.runner (.heat h i)).ops ++ [batOp n] ∧ f t

/-- An entry is cleared in its bits 63 and 62 (R249). -/
def Cleared (s t : State) (m d : Nat) : Prop := ∀ j < 64, (t.dirAt m d).getLsbD j = ((s.dirAt m d).getLsbD j && decide (j < 62))

theorem cleared_start {s u z : State} {r : Rid} (b : Begun s u r) {m d : Nat} (e : z.dirAt m d = freed (u.dirAt m d)) (o : Op) : Cleared s (z.start r o) m d := fun j hj => by
  rw [start_dirAt, e, b.dirAt, getLsbD_freed _ hj]

/-- An access of a record's size at a place that its runner may access ends inside the memory. -/
theorem dataOk_room {s : State} {h i a : Nat} (hh : h < 16) (hd : s.dataOk (.heat h i) a 256) : a + 256 ≤ memLen h := by
  have len := memLen_heat hh
  have inside : a < memLen h := hd.2.1
  have aligned : a % 256 = 0 := hd.1
  omega

section
variable {s : State} {h i : Nat} {v : Word} (ok : s.TablesOk) (hr : s.executes (.heat h i)) (hsup : (s.runner (.heat h i)).sup = true)
  (hno : (s.runner (.heat h i)).passing = false)
include ok hr hsup hno

theorem pass_taken (hd : s.dataOk (.heat h i) (s.operand (.heat h i) 0x240).toNat 256) :
    s.trigger (.heat h i) 0x248 v = s.took (.heat h i) fun t => (t.drainAll (.heat h i)).passLocal h i (slotOf v) (s.operand (.heat h i) 0x240).toNat :=
  have b := begun_taking ok (.heat h i)
  bat_taken ok hr hsup hno (op := .pass) (.inr hd) (by rw [← b.opAddr, ← fld_slotOf, ← drainAll_opAddr b.ok]; rfl)

theorem get_taken (hd : s.dataOk (.heat h i) (s.operand (.heat h i) 0x240).toNat 256) :
    exec (.batGet (.heat h i) v) s = .next (s.took (.heat h i) fun t =>
      let e := (t.drainAll (.heat h i)).batGet h (slotOf v) (v.getLsbD 12) (s.operand (.heat h i) 0x240).toNat (Rid.heat h i).page
      e.1.start (.heat h i) (batOp e.2)) :=
  have b := begun_taking ok (.heat h i)
  congrArg Host.Outcome.next (bat_taken ok hr hsup hno (op := .get) (.inr hd) (by rw [← b.opAddr, ← fld_slotOf, ← drainAll_opAddr b.ok]; rfl))

theorem free_taken : exec (.batFree (.heat h i) v) s = .next (s.took (.heat h i) fun t =>
    let e := t.batFree h (slotOf v) (v.getLsbD 12) (Rid.heat h i).page
    e.1.start (.heat h i) (batOp e.2)) :=
  congrArg Host.Outcome.next (bat_taken ok hr hsup hno (op := .free) (.inl rfl) (by rw [← fld_slotOf]; rfl))

/-- A pass of a calm runner: its local half alone while the acknowledgement is to come, then both sides, or one where the partner is fenced. -/
theorem pass_calm (hd : s.dataOk (.heat h i) (s.operand (.heat h i) 0x240).toNat 256) (hc : BatonCalm s h i) (hl : (s.runner (.heat h i)).late = none)
    (hq : (s.runner (.heat h i)).ring = none) (ho : s.noOrphans h false (slotOf v)) (ho' : s.noOrphans (partner h) true (slotOf v)) :
    let k := slotOf v
    let a := (s.operand (.heat h i) 0x240).toNat
    (s.heatUp (partner h) = true → Gives s h i (.batPass (.heat h i) v false) 0 fun t => Passed s t h i a h (slotPlace false k) (dirPlace false k) true
        ∧ Passed s t h i a (partner h) (slotPlace true k) (dirPlace true k) true ∧ (t.runner (.heat h i)).late = none
        ∧ StandsBut s t fun m b => ofSide h false k m b ∨ ofSide (partner h) true k m b)
      ∧ (s.heatUp (partner h) = false → Gives s h i (.batPass (.heat h i) v false) 3 fun t => Passed s t h i a h (slotPlace false k) (dirPlace false k) false
        ∧ (t.runner (.heat h i)).late = none ∧ StandsBut s t (ofSide h false k))
      ∧ ∃ t : State, exec (.batPass (.heat h i) v true) s = .next t ∧ (t.runner (.heat h i)).ops = (s.runner (.heat h i)).ops ++ [passOp]
        ∧ Passed s t h i a h (slotPlace false k) (dirPlace false k) false ∧ (t.runner (.heat h i)).late.isSome = true ∧ StandsBut s t (ofSide h false k) := by
  intro k a
  have b := begun_taking ok (.heat h i)
  have hk : k < 4096 := Nat.mod_lt _ (by decide)
  have hi : i < 16 := hc.runner.trans (by decide)
  have began := (pass_taken ok hr hsup hno (v := v) hd).trans (took_running ok hc.running _)
  rw [b.drained hc.stores hc.frame] at began
  have record : (s.taking (.heat h i)).passRecord h a = s.passRecord h a := congrArg withCrc (b.bytesAt h a 256)
  have clear {m : Nat} {y : Bool} (hu : s.noOrphans m y k) : (s.taking (.heat h i)).noOrphans m y k := by
    unfold State.noOrphans
    rw [b.dirAt, b.dirAt]
    exact hu
  have half := passLocal_passed b.ok (b.memOk hc.mem) hc.heat hk a hi (b.late.trans hl) (b.heldRing.trans hq) (by rw [b.up]; exact hc.clean h) (clear ho)
  have idle : ∀ o ∈ ((s.taking (.heat h i)).runner (.heat h i)).ops, o.kind ≠ .baton := by
    rw [b.ops]
    exact fun o hm e => List.any_eq_false.1 hno o hm (beq_iff_eq.2 e)
  have waits : (((s.taking (.heat h i)).passLocal h i k a).runner (.heat h i)).passing = true := by
    unfold Runner.passing
    rw [half.ops]
    exact List.any_eq_true.2 ⟨passOp, List.mem_append_right _ (List.mem_singleton_self _), rfl⟩
  have shown {t : State} {m : Nat} {y mok : Bool} {w : Word} (S : SideHolds t m y k ((s.taking (.heat h i)).passRecord h a) w i)
      (D : DirShows w mok i (s.taking (.heat h i)).lap.toNat) : Passed s t h i a m (slotPlace y k) (dirPlace y k) mok := by
    rw [record] at S
    rw [b.lap] at D
    exact S.passed D hi
  have word (mok : Bool) := dirWord_shows mok hi (recordRing ((s.taking (.heat h i)).passRecord h a)) (s.taking (.heat h i)).lap.toNat
  refine ⟨fun hu => ?_, fun hu => ?_, ?_⟩
  · obtain ⟨ops, late, near, far, rest⟩ := half.acknowledged idle hc.heat hk hi ((b.heatUp _).trans hu) (clear ho')
    exact ⟨_, congrArg Host.Outcome.next (passCmd_ends hno began waits), ops.trans (congrArg (· ++ [batOp 0]) b.ops), shown near (word false).confirmed, shown far (word true), late,
      standsBut_begun b rest⟩
  · obtain ⟨ops, late, same⟩ := half.unmirrored idle ((b.heatUp _).trans hu)
    exact ⟨_, congrArg Host.Outcome.next (passCmd_ends hno began waits), ops.trans (congrArg (· ++ [batOp 3]) b.ops), shown (half.holds.same hc.heat hk fun c _ => same h c) (word false), late,
      standsBut_begun b fun m c hcm hout => (same m c).trans (half.rest m c hcm hout)⟩
  · exact ⟨_, congrArg Host.Outcome.next began, half.ops.trans (congrArg (· ++ [passOp]) b.ops), shown half.holds (word false), congrArg Option.isSome half.late, standsBut_begun b half.rest⟩

/-- A get of a calm runner gives what the directory and the record say at its trigger. -/
theorem get_calm (hd : s.dataOk (.heat h i) (s.operand (.heat h i) 0x240).toNat 256) (hc : BatonCalm s h i) {y : Bool} (hy : v.getLsbD 12 = y) {n : Nat} {f : State → Prop}
    (hz : ∃ z, (s.taking (.heat h i)).batGet h (slotOf v) y (s.operand (.heat h i) 0x240).toNat (Rid.heat h i).page = (z, n) ∧ Quiet (.heat h i) (s.taking (.heat h i)) z
      ∧ f (z.start (.heat h i) (batOp n))) : Gives s h i (.batGet (.heat h i) v) n f := by
  have b := begun_taking ok (.heat h i)
  obtain ⟨z, hz, q, hf⟩ := hz
  refine ⟨_, (get_taken ok hr hsup hno hd).trans (congrArg Host.Outcome.next ((took_running ok hc.running _).trans ?_)),
    (started_ops b.ok q _).trans (congrArg (· ++ [batOp n]) b.ops), hf⟩
  rw [b.drained hc.stores hc.frame, hy, hz]

theorem free_calm (hc : BatonCalm s h i) {y : Bool} (hy : v.getLsbD 12 = y) {n : Nat} {f : State → Prop}
    (hz : ∃ z, (s.taking (.heat h i)).batFree h (slotOf v) y (Rid.heat h i).page = (z, n) ∧ Quiet (.heat h i) (s.taking (.heat h i)) z ∧ f (z.start (.heat h i) (batOp n))) :
    Gives s h i (.batFree (.heat h i) v) n f := by
  have b := begun_taking ok (.heat h i)
  obtain ⟨z, hz, q, hf⟩ := hz
  refine ⟨_, (free_taken ok hr hsup hno).trans (congrArg Host.Outcome.next ((took_running ok hc.running _).trans ?_)),
    (started_ops b.ok q _).trans (congrArg (· ++ [batOp n]) b.ops), hf⟩
  rw [hy, hz]

section
variable (hd : s.dataOk (.heat h i) (s.operand (.heat h i) 0x240).toNat 256) (hc : BatonCalm s h i) {y : Bool} (hy : v.getLsbD 12 = y)
include hd hc hy

theorem get_empty (ho : dirOcc (s.dirAt h (dirPlace y (slotOf v))) = false) : Gives s h i (.batGet (.heat h i) v) 4 fun t => StandsBut s t fun _ _ => False := by
  have b := begun_taking ok (.heat h i)
  exact get_calm ok hr hsup hno hd hc hy ⟨_, batGet_empty (fun m => by rw [b.up]; exact hc.clean m) (by rw [b.dirAt]; exact ho), .refl .., .start b (fun _ _ _ _ => rfl) _⟩

section
variable (ho : dirOcc (s.dirAt h (dirPlace y (slotOf v))) = true)
include ho

theorem get_own (hg : recordGood (s.bytesAt h (slotPlace y (slotOf v)) 256) = true) :
    Gives s h i (.batGet (.heat h i) v) 0 fun t => Copied s t h (s.operand (.heat h i) 0x240).toNat h (slotPlace y (slotOf v)) := by
  have b := begun_taking ok (.heat h i)
  obtain ⟨z, hz, q, c⟩ := batGet_own (.heat h i) (fun m => by rw [b.up]; exact hc.clean m) (who := (Rid.heat h i).page) (by rw [b.dirAt]; exact ho) (b.memOk hc.mem)
    (dataOk_room hc.heat hd) (by rw [b.bytesAt]; exact hg)
  exact get_calm ok hr hsup hno hd hc hy ⟨z, hz, q, c.start b _⟩

theorem get_partner (hm : y = false) (hg : recordGood (s.bytesAt h (slotPlace y (slotOf v)) 256) = false) (hu : s.heatUp (partner h) = true)
    (hf : recordGood (s.bytesAt (partner h) (slotPlace true (slotOf v)) 256) = true) :
    Gives s h i (.batGet (.heat h i) v) 0 fun t => Copied s t h (s.operand (.heat h i) 0x240).toNat (partner h) (slotPlace true (slotOf v)) := by
  have b := begun_taking ok (.heat h i)
  obtain ⟨z, hz, q, c⟩ := batGet_partner (.heat h i) (fun m => by rw [b.up]; exact hc.clean m) (who := (Rid.heat h i).page) (by rw [b.dirAt]; exact ho) (b.memOk hc.mem)
    (dataOk_room hc.heat hd) hm (by rw [b.bytesAt]; exact hg) ((b.heatUp _).trans hu) (by rw [b.bytesAt]; exact hf)
  exact get_calm ok hr hsup hno hd hc hy ⟨z, hz, q, c.start b _⟩

theorem get_fails (hg : recordGood (s.bytesAt h (slotPlace y (slotOf v)) 256) = false)
    (hf : y = true ∨ s.heatUp (partner h) = false ∨ recordGood (s.bytesAt (partner h) (slotPlace true (slotOf v)) 256) = false) :
    Gives s h i (.batGet (.heat h i) v) 2 fun t => StandsBut s t fun _ _ => False := by
  have b := begun_taking ok (.heat h i)
  obtain ⟨z, hz, q, same⟩ := batGet_fails (.heat h i) (fun m => by rw [b.up]; exact hc.clean m) (a := (s.operand (.heat h i) 0x240).toNat) (who := (Rid.heat h i).page)
    (by rw [b.dirAt]; exact ho) (by rw [b.bytesAt]; exact hg) (by rw [b.heatUp, b.bytesAt]; exact hf)
  exact get_calm ok hr hsup hno hd hc hy ⟨z, hz, q, .start b (fun m c _ _ => same m c) _⟩

end

end

section
variable (hc : BatonCalm s h i)
include hc

theorem free_both (hy : v.getLsbD 12 = false) (ho : dirOrph (s.dirAt h (dirPlace false (slotOf v))) = false) (ho' : dirOrph (s.dirAt (partner h) (dirPlace true (slotOf v))) = false)
    (hu : s.heatUp (partner h) = true) : Gives s h i (.batFree (.heat h i) v) 0 fun t => Cleared s t h (dirPlace false (slotOf v)) ∧ Cleared s t (partner h) (dirPlace true (slotOf v))
      ∧ StandsBut s t fun m b => (m = h ∧ dirPlace false (slotOf v) ≤ b ∧ b < dirPlace false (slotOf v) + 8)
        ∨ (m = partner h ∧ dirPlace true (slotOf v) ≤ b ∧ b < dirPlace true (slotOf v) + 8) := by
  have b := begun_taking ok (.heat h i)
  obtain ⟨z, hz, q, near, far, rest⟩ := batFree_both (who := (Rid.heat h i).page) (b.memOk hc.mem) hc.heat (Nat.mod_lt _ (by decide) : slotOf v < 4096) (.heat h i)
    (by rw [b.dirAt]; exact ho) (by rw [b.dirAt]; exact ho') ((b.heatUp _).trans hu)
  exact free_calm ok hr hsup hno hc hy ⟨z, hz, q, cleared_start b near _, cleared_start b far _, .start b rest _⟩

theorem free_alone (hy : v.getLsbD 12 = false) (ho : dirOrph (s.dirAt h (dirPlace false (slotOf v))) = false) (hu : s.heatUp (partner h) = false) :
    Gives s h i (.batFree (.heat h i) v) 3 fun t => Cleared s t h (dirPlace false (slotOf v))
      ∧ StandsBut s t fun m b => m = h ∧ dirPlace false (slotOf v) ≤ b ∧ b < dirPlace false (slotOf v) + 8 := by
  have b := begun_taking ok (.heat h i)
  obtain ⟨z, hz, q, near, rest⟩ := batFree_alone (who := (Rid.heat h i).page) (b.memOk hc.mem) hc.heat (Nat.mod_lt _ (by decide) : slotOf v < 4096) (.heat h i)
    (by rw [b.dirAt]; exact ho) ((b.heatUp _).trans hu)
  exact free_calm ok hr hsup hno hc hy ⟨z, hz, q, cleared_start b near _, .start b rest _⟩

theorem free_fenced (hy : v.getLsbD 12 = true) (ho : dirOrph (s.dirAt h (dirPlace true (slotOf v))) = false) (hu : s.heatUp (partner h) = false) :
    Gives s h i (.batFree (.heat h i) v) 0 fun t => t.dirAt h (dirPlace true (slotOf v)) = 0
      ∧ StandsBut s t fun m b => m = h ∧ dirPlace true (slotOf v) ≤ b ∧ b < dirPlace true (slotOf v) + 8 := by
  have b := begun_taking ok (.heat h i)
  obtain ⟨z, hz, q, near, rest⟩ := batFree_fenced (who := (Rid.heat h i).page) (b.memOk hc.mem) hc.heat (Nat.mod_lt _ (by decide) : slotOf v < 4096) (.heat h i)
    (by rw [b.dirAt]; exact ho) ((b.heatUp _).trans hu)
  exact free_calm ok hr hsup hno hc hy ⟨z, hz, q, (start_dirAt ..).trans near, .start b rest _⟩

end

/-- A mirror slot of a partner that is up is not freed; that is reported (R249). -/
theorem free_refused (hy : v.getLsbD 12 = true) (hu : s.heatUp (partner h) = true) : exec (.batFree (.heat h i) v) s =
    .next (s.took (.heat h i) fun t => (t.report 0x0E 2 (Rid.heat h i).page (Rid.heat h i).page 0 (slotOf v)).start (.heat h i) (batOp 5)) := by
  refine (free_taken ok hr hsup hno).trans (congrArg Host.Outcome.next (took_congr ?_))
  dsimp only
  rw [hy, batFree_mirror, if_pos (((begun_taking ok (.heat h i)).heatUp _).trans hu)]

end

/-- Settles O22: each trigger is taken with nothing left to drain; a pass writes one side and then the other, no entry of which is an orphan, a get copies
the record that passes, a free clears its entries. -/
theorem batonsComplete : Obligations.BatonsComplete := by
  unfold Obligations.BatonsComplete
  intro s h i v ok r hr hsup hno x a k mir p loc far ld md st free calm good gives stands within passed kept copied unorph
  have b := begun_taking ok r
  have hk : k < 4096 := Nat.mod_lt _ (by decide)
  have quiet (hc : calm) : BatonCalm s h i := by
    obtain ⟨mem, heat, runner, stores, frame, clean, running⟩ := hc
    exact ⟨mem, heat, runner, stores, frame, fun m => (clean m).1, running⟩
  refine ⟨fun hd hc hl hq ho ho' => pass_calm ok hr hsup hno hd (quiet hc) hl hq ho ho', fun hd hc hm => ?_, fun hd hc hm => ?_, fun hc ho ho' hm => ?_, fun hc ho hm => ?_,
    fun hd => ⟨congrArg Host.Outcome.next (pass_taken ok hr hsup hno hd), get_taken ok hr hsup hno hd⟩, free_taken ok hr hsup hno⟩
  · exact ⟨get_empty (y := false) ok hr hsup hno hd (quiet hc) hm, get_own (y := false) ok hr hsup hno hd (quiet hc) hm,
      fun ho hg hu hf => get_partner (y := false) ok hr hsup hno hd (quiet hc) hm ho rfl hg hu hf, fun ho hg hf => get_fails (y := false) ok hr hsup hno hd (quiet hc) hm ho hg (.inr hf)⟩
  · exact ⟨get_empty (y := true) ok hr hsup hno hd (quiet hc) hm, get_own (y := true) ok hr hsup hno hd (quiet hc) hm,
      fun ho hg => get_fails (y := true) ok hr hsup hno hd (quiet hc) hm ho hg (.inl rfl)⟩
  · exact ⟨free_both ok hr hsup hno (quiet hc) hm ho.1 ho'.1, free_alone ok hr hsup hno (quiet hc) hm ho.1⟩
  · exact ⟨free_refused ok hr hsup hno hm, free_fenced ok hr hsup hno (quiet hc) hm ho.1⟩

end Sys2Proof.Machine
end

section
/-! SEQ: the flow triggers decide the next address, and with it the repeat, the return stack and the Relivo stack (R124, R128 to R131, R134, R135, R137, R138). -/
namespace Sys2Proof.Machine

/-- The flow triggers of SEQ (R124). -/
inductive FlowOp where
  | jmpi | calli | callm | retm | rep

def FlowOp.port : FlowOp → Nat
  | .jmpi => 0x1C8 | .calli => 0x1C9 | .callm => 0x1CA | .retm => 0x1CB | .rep => 0x1CC

theorem portInfo_flow (s : State) (r : Rid) (k : FlowOp) : s.portInfo r k.port = some pT := by
  cases k <;> exact portInfo_block s r (by decide) (by decide) rfl (.inr (by decide)) fun h => absurd h (by decide)

theorem portOpen_flow (s : State) (r : Rid) (k : FlowOp) : s.portOpen r k.port := by
  cases k <;> exact portOpen_user s r (i := pT) (by decide) (by decide) rfl rfl rfl (by decide)

theorem trigOf_flow (k : FlowOp) : trigOf k.port = none := by cases k <;> rfl

theorem isTrig_flow (s : State) (r : Rid) (k : FlowOp) : s.isTrig r k.port = true := by
  unfold State.isTrig
  rw [portInfo_flow]
  rfl

theorem resume_of_canTrig {s : State} {r : Rid} (h : s.canTrig r = true) : (s.runner r).resume = none := by
  unfold State.canTrig at h
  simp only [Bool.and_eq_true, Option.isNone_iff_eq_none] at h
  exact h.2

/-- The targets of the Arbiter runner are taken modulo 8,192 (R181). -/
theorem target_eq (r : Rid) (a : CAddr) : target r a = if r = .arb then BitVec.ofNat 15 (a.toNat % 8192) else a := by
  cases r with
  | heat h i => rfl
  | arb =>
    apply BitVec.eq_of_toNat_eq
    have mask : a.toNat &&& 8191 = a.toNat % 8192 := Nat.and_two_pow_sub_one_eq_mod a.toNat 13
    have small : a.toNat % 8192 < 2 ^ 15 := (Nat.mod_lt _ (by decide)).trans (by decide)
    calc (a &&& 0x1FFF).toNat = a.toNat % 8192 := (BitVec.toNat_and ..).trans mask
      _ = (BitVec.ofNat 15 (a.toNat % 8192)).toNat := (Nat.mod_eq_of_lt small).symm

/-! What the word reads and decides -/

/-- The value that decides: what t_retm loads from the stack at G63, the trigger's own otherwise (R138). -/
def State.flowValue (s : State) (r : Rid) (k : FlowOp) (v : Word) : Word :=
  match k with
  | .retm => s.wordAt r ((s.runner r).gr 63).toNat
  | _ => v

/-- The decision of a flow trigger (step 1 of R124). -/
def State.flowDec (s : State) (r : Rid) (k : FlowOp) (v : Word) : Decision := flowDecision r (s.runner r).pc k.port (s.flowValue r k v)

/-- What t_retm loads can be read plainly. -/
def State.flowReads (s : State) (r : Rid) (k : FlowOp) : Prop := k = .retm → s.plainRead r ((s.runner r).gr 63).toNat 8

/-- The words that a flow trigger reads before its commit. -/
def State.flowLoads (s : State) (r : Rid) (k : FlowOp) : List Word :=
  match k with
  | .retm => [s.wordAt r ((s.runner r).gr 63).toNat]
  | _ => []

theorem flowRead_flow {s : State} {r : Rid} {k : FlowOp} (hp : s.flowReads r k) : s.flowRead r k.port = (s, s.flowLoads r k, false) := by
  cases k with
  | retm =>
    have read : s.flowRead r 0x1CB = (let q := s.loadAt r ((s.runner r).gr 63).toNat 8; (q.1, [q.2.val], q.2.poison)) := rfl
    exact read.trans (by rw [loadAt_plain (by decide) (hp rfl)]; rfl)
  | jmpi | calli | callm | rep => rfl

theorem decision_flow {s t : State} {r : Rid} (hr : (s.runner r).resume = none) (k : FlowOp) (w : Word4) (c : Bool) (v : Word) :
    t.decision r (s.runner r) w c (some (flowMv k.port v)) (s.flowLoads r k) = some (s.flowDec r k v) := by
  unfold State.decision
  rw [hr]
  cases k <;> rfl

/-! The commit of the word -/

/-- What a flow trigger does besides the next address: t_callm and t_retm move G63, which was `g` when the word began (R137, R138). -/
def Runner.relivo (x : Runner) (k : FlowOp) (g : Word) : Runner :=
  match k with
  | .callm => x.callMem g
  | .retm => x.retMem g
  | _ => x

theorem flowGo_setRunner {s : State} (h : s.TablesOk) (r : Rid) (y x0 : Runner) (d : Decision) (k : FlowOp) (v : Word) (ws : List Word) (own : Bool) :
    (s.setRunner r y).flowGo r x0 (some d) (some (flowMv k.port v)) ws own = s.setRunner r ((y.relivo k (x0.gr 63)).transfer x0.pc d own) := by
  have moved : (if k.port = 0x1CA then (s.setRunner r y).updR r fun y => y.callMem (x0.gr 63)
      else if k.port = 0x1CB then (s.setRunner r y).updR r fun y => y.retMem (x0.gr 63) else s.setRunner r y) = s.setRunner r (y.relivo k (x0.gr 63)) := by
    cases k with
    | callm => exact State.updR_setRunner h r y fun y => y.callMem (x0.gr 63)
    | retm => exact State.updR_setRunner h r y fun y => y.retMem (x0.gr 63)
    | jmpi | calli | rep => rfl
  exact (congrArg (fun t : State => t.updR r fun z => z.transfer x0.pc d own) moved).trans (State.updR_setRunner h ..)

/-- The commit of a flow trigger's word: counts and marks, the stack at G63, the transfer, the path. -/
theorem commitWord_flow {s : State} (h : s.TablesOk) {r : Rid} (hr : (s.runner r).resume = none) {k : FlowOp} (hp : s.flowReads r k) (v : Word) :
    s.commitWord r (flowWord k.port) [flowMv k.port v] =
      (let x := s.runner r
       let d := s.flowDec r k v
       ((s.setRunner r (((x.beginCommit false s.clkS).relivo k (x.gr 63)).transfer x.pc d false)).resolve r x (flowWord k.port) (some d)).wordDone r x.pc) := by
  have seen : s.commitWord r (flowWord k.port) [flowMv k.port v] =
      (let q := s.flowRead r k.port
       let t := q.1.commitGo r (s.runner r) (s.seqCond r 0) (flowWord k.port) [flowMv k.port v] q.2.1
       if q.2.2 then t.updR r fun x => { x with pendM := some 0x30 } else t) := by cases k <;> rfl
  rw [seen, flowRead_flow hp]
  have go := commitGo_flow (s := s) (v := v) (x0 := s.runner r) (c := s.seqCond r 0) (ws := s.flowLoads r k)
    (fun t => isTrig_flow t r k) (by cases k <;> decide) (by cases k <;> decide) (by cases k <;> rfl) (by cases k <;> rfl)
  refine go.trans ?_
  dsimp only
  rw [decision_flow hr, State.updR, flowGo_setRunner h]

/-- The end of a word changes only what `plain` drops of the runner, and RUN.PC. -/
theorem wordDone_setRunner {s : State} (h : s.TablesOk) (r : Rid) (x : Runner) (pc : CAddr) :
    ∃ y, (s.setRunner r x).wordDone r pc = (s.setRunner r y).setReg r.page 0x10C (BitVec.ofNat 32 (2 ^ 31 + pc.toNat)) ∧ y.plain = x.plain := by
  unfold State.wordDone
  rw [State.updR_setRunner h]
  obtain ⟨y, hy, plain⟩ := follow_plain (State.setRunner_ok h r (x.refetch pc)) r
  rw [State.runner_setRunner h, refetch_plain] at plain
  exact ⟨y, by rw [hy, State.setRunner_setRunner h], plain⟩

/-- The runner of a flow trigger's commit apart from repeat and next address: counts and marks, the stack at G63, and the
return address that t_calli pushes. -/
def Runner.flowing (x : Runner) (k : FlowOp) (call : Bool) (now : Nat) : Runner :=
  let y := (x.beginCommit false now).relivo k (x.gr 63)
  { y with rs := if call then ((x.pc + 1) :: x.rs).take 16 else y.rs }

/-- The runner that a flow trigger leaves, with the repeat and the next address of its decision. -/
def Runner.flowed (x : Runner) (k : FlowOp) (d : Decision) (now : Nat) : Runner :=
  { x.flowing k d.call now with rep := (repNext x.rep x.pc d false).1, pc := (repNext x.rep x.pc d false).2 }

theorem transfer_flowed (x : Runner) (k : FlowOp) {d : Decision} (hd : d.ret = false) (now : Nat) :
    (((x.beginCommit false now).relivo k (x.gr 63)).transfer x.pc d false).plain = (x.flowed k d now).plain := by
  rw [transfer_plain, hd]
  unfold Runner.flowed Runner.flowing Runner.beginCommit
  rw [stallEnd_stl]
  cases k <;> rfl

theorem flowed_plain {x y : Runner} (hp : y.plain = x.plain) (k : FlowOp) (d : Decision) (now : Nat) : (y.flowed k d now).plain = (x.flowed k d now).plain := by
  rw [eq_of_plain hp]
  unfold Runner.flowed Runner.flowing Runner.beginCommit
  rw [stallEnd_stl, stallEnd_stl]
  cases k <;> rfl

theorem flowDec_ret (s : State) (r : Rid) (k : FlowOp) (v : Word) : (s.flowDec r k v).ret = false := by cases k <;> rfl

theorem commitWord_ends {s : State} (h : s.TablesOk) {r : Rid} (hr : (s.runner r).resume = none) {k : FlowOp} (hp : s.flowReads r k) (v : Word) :
    ∃ y, s.commitWord r (flowWord k.port) [flowMv k.port v] = (s.setRunner r y).setReg r.page 0x10C (BitVec.ofNat 32 (2 ^ 31 + (s.runner r).pc.toNat))
      ∧ y.plain = ((s.runner r).flowed k (s.flowDec r k v) s.clkS).plain := by
  rw [commitWord_flow h hr hp]
  dsimp only
  rw [State.resolve, State.updR_setRunner h]
  obtain ⟨y, hy, plain⟩ := wordDone_setRunner h r (Runner.resolve _ _ _ _ _) (s.runner r).pc
  exact ⟨y, hy, plain.trans ((resolve_plain ..).trans (transfer_flowed _ k (flowDec_ret s r k v) s.clkS))⟩

/-! Faults and waits -/

theorem beginCommit_ctlEff (x : Runner) (bar : Bool) (now : Nat) : (x.beginCommit bar now).ctlEff = x.ctlEff := by
  unfold Runner.beginCommit
  rw [stallEnd_stl]

/-- t_calli on a full return stack faults where CTL says so (R135). -/
theorem flowFaults_calli (s : State) (r : Rid) (v : Word) : s.flowFaults r FlowOp.calli.port v =
    if (s.runner r).rs.length = 16 ∧ (s.runner r).ctlEff.getLsbD 2 = true then [(7, 0)] else [] := List.append_nil _

theorem flowFaults_callm (s : State) (r : Rid) (v : Word) : s.flowFaults r FlowOp.callm.port v = s.addrFaults r ((s.runner r).gr 63 - 8).toNat 8 :=
  List.append_nil _

theorem flowFaults_retm (s : State) (r : Rid) (v : Word) : s.flowFaults r FlowOp.retm.port v = s.addrFaults r ((s.runner r).gr 63).toNat 8 := List.append_nil _

/-- What a flow trigger waits for: t_callm for room in the store buffer, and it and t_retm for a wipe of their place (R137, R138, R307). -/
def State.flowWaits (s : State) (r : Rid) (k : FlowOp) : Bool :=
  match k with
  | .callm => decide (8 ≤ (s.runner r).stores.length) || s.wipeWaits r ((s.runner r).gr 63 - 8).toNat
  | .retm => s.wipeWaits r ((s.runner r).gr 63).toNat
  | _ => false

theorem anyBusy_flow (s : State) (r : Rid) (k : FlowOp) (v : Word) : s.anyBusy s r [flowMv k.port v] = s.flowWaits r k := by
  have flow : isFlow k.port = true := by cases k <;> rfl
  have busy : s.anyBusy s r [flowMv k.port v] = (decide (k.port = 0x1CA ∧ 8 ≤ (s.runner r).stores.length) || s.flowBusy r k.port) := by
    by_cases hc : k.port = 0x1CA
    · simp [State.anyBusy, flowMv, hc, show isFlow 0x1CA = true from rfl]
    · simp [State.anyBusy, flowMv, trigOf_flow, flow, hc]
  rw [busy]
  cases k <;> simp [State.flowWaits, State.flowBusy, FlowOp.port]

theorem flowWaits_callm {s : State} {r : Rid} (hl : (s.runner r).stores.length < 8) (hd : s.dataOk r ((s.runner r).gr 63 - 8).toNat 8) : s.flowWaits r .callm = false := by
  rw [State.flowWaits, wipeWaits_eq_false hd, decide_eq_false (Nat.not_le.2 hl)]
  rfl

/-! The whole trigger -/

/-- What a flow trigger reads and decides stands while its word's path is decoded and CTL is taken. -/
theorem flowDec_setRunner {s : State} (h : s.TablesOk) {r : Rid} {y : Runner} (hy : y.plain = (s.begun r).plain) (k : FlowOp) :
    (s.flowReads r k → (s.setRunner r y).flowReads r k) ∧ ∀ v, (s.setRunner r y).flowDec r k v = s.flowDec r k v := by
  have pc : y.pc = (s.runner r).pc := (congrArg Runner.pc hy : y.plain.pc = (s.begun r).plain.pc)
  have gr : y.gr 63 = (s.runner r).gr 63 := (congrArg (Runner.gr · 63) hy : y.plain.gr 63 = (s.begun r).plain.gr 63)
  have writes : y.writes = (s.runner r).writes := (congrArg Runner.writes hy : y.plain.writes = (s.begun r).plain.writes)
  have up : (s.setRunner r y).up r.home = s.up r.home := State.updR_up s r (fun _ => y) r.home
  have word (a : Nat) : (s.setRunner r y).wordAt r a = s.wordAt r a :=
    congrArg (fun f : Nat → Byte => BitVec.ofNat 64 (leNat ((List.range 8).map f))) (funext fun j => State.updR_byteAt s r (fun _ => y) r.home (a + j))
  constructor
  · unfold State.flowReads State.plainRead
    rw [State.runner_setRunner h, gr, writes, up]
    exact id
  · intro v
    unfold State.flowDec State.flowValue
    rw [State.runner_setRunner h, pc, gr, word]

/-- A flow trigger that raises no fault and does not wait ends its word. -/
theorem flow_ends {s : State} (h : s.TablesOk) {r : Rid} (hr : s.executes r) {k : FlowOp} {v : Word} (hf : (s.beginWord r).flowFaults r k.port v = [])
    (hb : (s.beginWord r).flowWaits r k = false) (hp : s.flowReads r k) :
    ∃ y, s.flowTrigger r k.port v = s.wordEnds r y ∧ y.plain = ((s.begun r).flowed k (s.flowDec r k v) s.clkS).plain := by
  rw [flowTrigger_taken hr.1 (resFail_beginWord h hr) (portOpen_flow _ r k) (by cases k <;> rfl) hf ((anyBusy_flow ..).trans hb), thenStop_begun h]
  obtain ⟨y₀, hpath, plain₀⟩ := flowPath_begun h hr k.port v
  obtain ⟨reads, dec⟩ := flowDec_setRunner h plain₀ k
  have resume : y₀.resume = none := (congrArg Runner.resume plain₀ : y₀.plain.resume = (s.begun r).plain.resume).trans (resume_of_canTrig hr.1)
  have pc : y₀.pc = (s.runner r).pc := (congrArg Runner.pc plain₀ : y₀.plain.pc = (s.begun r).plain.pc)
  obtain ⟨y, hy, plain⟩ := commitWord_ends (State.setRunner_ok h r y₀) (by rw [State.runner_setRunner h]; exact resume) (reads hp) v
  rw [State.runner_setRunner h, State.setRunner_setRunner h, pc] at hy
  rw [State.runner_setRunner h, dec, clkS_setRunner] at plain
  exact ⟨y, by rw [hpath, hy]; rfl, plain.trans (flowed_plain plain₀ k _ s.clkS)⟩

/-! Where a decision lands -/

/-- A runner lands at `a` from a word at `pc`: where that is the address after the last word of the repeat `p`, the repeat's next iteration begins or the repeat
ends (R130); elsewhere the repeat is left as `rep`. -/
def Runner.lands (y : Runner) (pc : CAddr) (p : Rep) (a : CAddr) (rep : Rep) : Runner :=
  if p.act && a == pc + 1 && pc == p.rend then
    (if 1 < p.count.toNat then { y with pc := p.rbeg, rep := { p with count := p.count - 1 } } else { y with pc := a, rep := { p with act := false, count := 0 } })
  else { y with pc := a, rep := rep }

/-- The repeat after a jump to `a`: one whose block the jump leaves ends (R131). -/
def Rep.left (p : Rep) (a : CAddr) : Rep := if p.act = true ∧ (p.rend - p.rbeg).toNat < (a - p.rbeg).toNat then { p with act := false } else p

theorem repNext_lands (y : Runner) (p : Rep) (pc : CAddr) {d : Decision} (hd : d.rep = none) :
    { y with rep := (repNext p pc d false).1, pc := (repNext p pc d false).2 } = y.lands pc p d.act (if d.jump = true then p.left d.act else p) := by
  unfold repNext Runner.lands Rep.left Rep.inside
  rw [hd]
  dsimp only
  rw [Bool.not_false, Bool.and_true]
  by_cases hl : (p.act && d.act == pc + 1 && pc == p.rend) = true
  · have next : d.act = pc + 1 := by
      simp only [Bool.and_eq_true, beq_iff_eq] at hl
      exact hl.1.2
    rw [if_pos hl, if_pos hl, next]
    split <;> rfl
  · rw [if_neg hl, if_neg hl]
    cases d.jump with
    | false => simp
    | true =>
      have leaves : (p.act && true && !decide ((d.act - p.rbeg).toNat ≤ (p.rend - p.rbeg).toNat)) = true
          ↔ p.act = true ∧ (p.rend - p.rbeg).toNat < (d.act - p.rbeg).toNat := by simp
      rw [if_pos rfl]
      by_cases ho : p.act = true ∧ (p.rend - p.rbeg).toNat < (d.act - p.rbeg).toNat
      · rw [if_pos ho, if_pos (leaves.2 ho)]
      · rw [if_neg ho, if_neg (mt leaves.1 ho)]

/-- A flow trigger that starts no repeat lands at its target. -/
theorem flowed_lands (x : Runner) (k : FlowOp) {d : Decision} (hd : d.rep = none) (now : Nat) :
    x.flowed k d now = (x.flowing k d.call now).lands x.pc x.rep d.act (if d.jump = true then x.rep.left d.act else x.rep) :=
  repNext_lands (x.flowing k d.call now) x.rep x.pc hd

/-- t_callm has moved G63 down and stored the return address there (R137). -/
theorem flowing_callm (x : Runner) (now : Nat) : x.flowing .callm false now = { (x.beginCommit false now).setG 63 (x.gr 63 - 8) with
    stores := x.stores ++ [{ addr := (x.gr 63 - 8).toNat, size := 8, data := BitVec.ofNat 64 (x.pc + 1).toNat }] } := by
  unfold Runner.flowing Runner.beginCommit
  rw [stallEnd_stl]
  rfl

/-- A t_rep starts a repeat of the words after it, or skips them for a count of 0 (R129). -/
theorem repNext_rep (p : Rep) (pc : CAddr) {d : Decision} {n len : Nat} (hd : d.rep = some (n, len)) (own : Bool) : repNext p pc d own =
    (if n = 0 then { p with act := false } else { act := true, count := BitVec.ofNat 16 n, rend := pc + BitVec.ofNat 15 len, rbeg := pc + 1 }, d.act) := by
  unfold repNext
  rw [hd]
  cases n <;> rfl

/-- The runner after t_rep. -/
theorem flowed_rep (x : Runner) (r : Rid) (v : Word) (now : Nat) :
    let n := v.toNat % 65536
    let len := v.toNat / 65536 % 256 + 1
    x.flowed .rep (flowDecision r x.pc FlowOp.rep.port v) now =
      if n = 0 then { x.beginCommit false now with pc := x.pc + 1 + BitVec.ofNat 15 len, rep := { x.rep with act := false } }
      else { x.beginCommit false now with pc := x.pc + 1, rep := { act := true, count := BitVec.ofNat 16 n, rend := x.pc + BitVec.ofNat 15 len, rbeg := x.pc + 1 } } := by
  intro n len
  have op : repOp v = (n, len) := by
    unfold repOp
    rw [fld_eq_div_mod, fld_eq_div_mod, pow_zero, Nat.div_one]
    rfl
  have dec : flowDecision r x.pc FlowOp.rep.port v = { act := if n = 0 then x.pc + 1 + BitVec.ofNat 15 len else x.pc + 1, rep := some (n, len) } :=
    congrArg (fun q : Nat × Nat => ({ act := if q.1 = 0 then x.pc + 1 + BitVec.ofNat 15 q.2 else x.pc + 1, rep := some q } : Decision)) op
  have next := repNext_rep x.rep x.pc (d := flowDecision r x.pc FlowOp.rep.port v) (congrArg Decision.rep dec) false
  unfold Runner.flowed
  rw [next, dec]
  by_cases hn : n = 0
  · rw [if_pos hn, if_pos hn, if_pos hn]
    rfl
  · rw [if_neg hn, if_neg hn, if_neg hn]
    rfl

/-- Settles O26: each trigger's word ends with its decision, unless the full return stack stops it. -/
theorem jumpsComplete : Obligations.JumpsComplete := by
  unfold Obligations.JumpsComplete
  intro s r v h hr x b at' a ends outside loop lands n len
  have hat (c : CAddr) : target r c = at' c := target_eq r c
  have begun : (s.beginWord r).runner r = s.begun r := by rw [beginWord_begun h hr, State.runner_setRunner h]
  have landed (k : FlowOp) (hf : (s.beginWord r).flowFaults r k.port v = []) (hb : (s.beginWord r).flowWaits r k = false) (hp : s.flowReads r k)
      (hd : (s.flowDec r k v).rep = none) (ha : (s.flowDec r k v).act = target r (BitVec.ofNat 15 (s.flowValue r k v).toNat)) :
      ∃ y, s.flowTrigger r k.port v = s.wordEnds r y ∧ y.plain =
        (let t := at' (BitVec.ofNat 15 (s.flowValue r k v).toNat)
         lands ((s.begun r).flowing k (s.flowDec r k v).call s.clkS) t (if (s.flowDec r k v).jump = true then x.rep.left t else x.rep)).plain := by
    obtain ⟨y, hy, plain⟩ := flow_ends h hr hf hb hp
    rw [flowed_lands (s.begun r) k hd s.clkS, ha, hat] at plain
    exact ⟨y, hy, plain⟩
  have full : (s.beginWord r).flowFaults r FlowOp.calli.port v = if x.rs.length = 16 ∧ b.ctlEff.getLsbD 2 = true then [(7, 0)] else [] := by
    rw [flowFaults_calli, begun, ← beginCommit_ctlEff (s.begun r) false s.clkS]
    rfl
  refine ⟨?jmpi, fun hrs => ?deep, fun hrs => ?calli, fun hd hl => ?callm, fun hd hp => ?retm, ?rep⟩
  case jmpi =>
    obtain ⟨y, hy, plain⟩ := landed .jmpi rfl rfl (fun e => nomatch e) rfl rfl
    exact ⟨y, congrArg Host.Outcome.next hy, plain⟩
  case deep =>
    exact congrArg Host.Outcome.next (flowTrigger_fault hr.1 (resFail_beginWord h hr) (portOpen_flow _ r .calli) rfl (full.trans (if_pos hrs)))
  case calli =>
    have hn : ¬(x.rs.length = 16 ∧ b.ctlEff.getLsbD 2 = true) := by
      rintro ⟨hlen, hovf⟩
      rcases hrs with hlt | ⟨-, hoff⟩
      · omega
      · exact Bool.false_ne_true (hoff.symm.trans hovf)
    obtain ⟨y, hy, plain⟩ := landed .calli (full.trans (if_neg hn)) rfl (fun e => nomatch e) rfl rfl
    exact ⟨y, congrArg Host.Outcome.next hy, plain⟩
  case callm =>
    have hd' : (s.beginWord r).dataOk r (((s.beginWord r).runner r).gr 63 - 8).toNat 8 := by
      rw [begun]
      exact beginWord_dataOk h hd
    have room : ((s.beginWord r).runner r).stores.length < 8 := by rwa [begun]
    obtain ⟨y, hy, plain⟩ := landed .callm ((flowFaults_callm ..).trans (addrFaults_eq_nil hd')) (flowWaits_callm room hd') (fun e => nomatch e) rfl rfl
    rw [show (s.flowDec r .callm v).call = false from rfl, flowing_callm] at plain
    exact ⟨y, congrArg Host.Outcome.next hy, plain⟩
  case retm =>
    have hd' : (s.beginWord r).dataOk r (((s.beginWord r).runner r).gr 63).toNat 8 := by
      rw [begun]
      exact beginWord_dataOk h hd
    obtain ⟨y, hy, plain⟩ := landed .retm ((flowFaults_retm ..).trans (addrFaults_eq_nil hd')) (wipeWaits_eq_false hd') (fun _ => hp) rfl rfl
    exact ⟨y, congrArg Host.Outcome.next hy, plain⟩
  case rep =>
    obtain ⟨y, hy, plain⟩ := flow_ends h hr (k := .rep) (v := v) rfl rfl (fun e => nomatch e)
    exact ⟨y, congrArg Host.Outcome.next hy, plain.trans (congrArg Runner.plain (flowed_rep (s.begun r) r v s.clkS))⟩

end Sys2Proof.Machine
end

section
/-! TRP: calls and returns through the banks, and the return from a frame, decide the next address, world and level (R124, R155 to R161, R171 to R175, R335). -/
namespace Sys2Proof.Machine

/-- The flow triggers of TRP (R116, R124). -/
inductive TrpOp where
  | call | gate | sret | eret

def TrpOp.port : TrpOp → Nat
  | .call => 0x2B4 | .gate => 0x2B5 | .sret => 0x2B6 | .eret => 0x2B7

/-- Calls are open to both levels, returns to the supervisor level alone (R116). -/
def TrpOp.info : TrpOp → PortInfo
  | .call | .gate => pT
  | .sret | .eret => pT.s

theorem portInfo_trp (s : State) (r : Rid) (k : TrpOp) : s.portInfo r k.port = some k.info := by cases k <;> rfl

theorem trigOf_trp (k : TrpOp) : trigOf k.port = none := by cases k <;> rfl

theorem isFlow_trp (k : TrpOp) : isFlow k.port = true := by cases k <;> rfl

theorem isTrig_trp (s : State) (r : Rid) (k : TrpOp) : s.isTrig r k.port = true := by
  unfold State.isTrig
  rw [portInfo_trp]
  cases k <;> rfl

/-! A frame that can be read -/

/-- Word `k` of the frame at o_fsp, as it stands in memory (R172). -/
def State.frameAt (s : State) (r : Rid) (k : Nat) : Word := s.wordAt r ((s.runner r).fsp (s.runner r).cust + 8 * k)

/-- A t_eret finds its frame in memory, and no interrupt to chain to (R174, R340). -/
structure State.Returns (s : State) (r : Rid) : Prop where
  sup        : (s.runner r).sup = true
  place      : s.dataOk r ((s.runner r).fsp (s.runner r).cust) 64
  unbuffered : s.plainRead r ((s.runner r).fsp (s.runner r).cust) 64
  frame      : (s.runner r).frame = []
  chain      : s.chainSource r = none

theorem State.Returns.word {s : State} {r : Rid} (h : s.Returns r) : s.dataOk r ((s.runner r).fsp (s.runner r).cust) 8 := by
  obtain ⟨aligned, inside, secure⟩ := h.place
  exact ⟨by omega, inside, secure⟩

/-- A word of the frame reads as memory holds it: nothing of it is buffered. -/
theorem State.Returns.viewWord {s : State} {r : Rid} (h : s.Returns r) {k : Nat} (hk : k < 8) :
    s.viewWord r ((s.runner r).fsp (s.runner r).cust + 8 * k) = s.frameAt r k := by
  unfold State.viewWord State.frameAt State.wordAt bytesFrom
  dsimp only
  rw [List.map_map]
  refine congrArg (fun l : List Byte => BitVec.ofNat 64 (leNat l)) (List.map_congr_left fun j hj => ?_)
  have unbuffered := h.unbuffered.1 (8 * k + j) (by have := List.mem_range.1 hj; omega)
  rw [← Nat.add_assoc] at unbuffered
  show (bufByte _ _).getD _ = _
  rw [unbuffered]
  rfl

theorem State.Returns.flowRead {s : State} {r : Rid} (h : s.Returns r) : s.flowRead r TrpOp.eret.port = (s, (List.range 4).map (s.frameAt r), false) := by
  have read : s.flowRead r 0x2B7 = (let a := (s.runner r).fsp (s.runner r).cust
    let q := s.loadAt r a 64
    (q.1, (List.range 4).map fun k => s.viewWord r (a + 8 * k), q.2.poison)) := rfl
  have words : ((List.range 4).map fun k => s.viewWord r ((s.runner r).fsp (s.runner r).cust + 8 * k)) = (List.range 4).map (s.frameAt r) :=
    List.map_congr_left fun k hk => h.viewWord (by have := List.mem_range.1 hk; omega)
  refine read.trans ?_
  dsimp only
  rw [words, loadAt_plain (by decide) h.unbuffered]

/-- The frame of another world is refused; no frame asks for more than the supervisor level (R174). -/
theorem State.Returns.flowFaults {s : State} {r : Rid} (h : s.Returns r) (v : Word) :
    s.flowFaults r TrpOp.eret.port v = if (s.frameAt r 0).getLsbD 13 = (s.runner r).cust then [] else [(5, 0)] := by
  have faults : s.flowFaults r 0x2B7 v = s.eretFaults r := List.append_nil _
  have head : s.viewWord r ((s.runner r).fsp (s.runner r).cust) = s.frameAt r 0 := by simpa using h.viewWord (k := 0) (by decide)
  refine Eq.trans faults ?_
  unfold State.eretFaults
  dsimp only
  rw [addrFaults_eq_nil h.word, wipeWaits_eq_false h.word, head, h.sup]
  simp

theorem State.Returns.flowBusy {s : State} {r : Rid} (h : s.Returns r) : s.flowBusy r TrpOp.eret.port = false := by
  have busy : s.flowBusy r 0x2B7 = (s.wipeWaits r ((s.runner r).fsp (s.runner r).cust) || (!(s.runner r).frame.isEmpty && (s.chainSource r).isSome)) := rfl
  exact busy.trans (by rw [wipeWaits_eq_false h.word, h.frame]; rfl)

/-- Chaining follows from the world, the traps that are pending, and the slice (R340). -/
theorem chainSource_setRunner {s : State} (h : s.TablesOk) {r : Rid} {y : Runner} (hc : y.cust = (s.runner r).cust) (hb : y.pendBat = (s.runner r).pendBat)
    (hv : y.pendV = (s.runner r).pendV) (hz : y.pendDZ = (s.runner r).pendDZ) : (s.setRunner r y).chainSource r = s.chainSource r := by
  have same : (s.setRunner r y).presented r ((s.setRunner r y).prioOf r).cur = s.presented r (s.prioOf r).cur := by cases r <;> rfl
  unfold State.chainSource State.takesIntr
  dsimp only
  rw [State.runner_setRunner h, reg_setRunner, same, hc, hb, hv, hz]

/-- A change of the runner changes no word of its memory. -/
theorem wordAt_setRunner (s : State) (r : Rid) (y : Runner) (a : Nat) : (s.setRunner r y).wordAt r a = s.wordAt r a :=
  congrArg (fun f : Nat → Byte => BitVec.ofNat 64 (leNat ((List.range 8).map f))) (funext fun j => State.updR_byteAt s r (fun _ => y) r.home (a + j))

/-! What a trigger reads, and the state it leaves its runner in -/

/-- What a trigger needs in order to be looked at: its level, and a return its frame. -/
def State.trpReady (s : State) (r : Rid) : TrpOp → Prop
  | .call | .gate => True
  | .sret => (s.runner r).sup = true
  | .eret => s.Returns r

theorem portOpen_trp {s : State} {r : Rid} {k : TrpOp} (h : s.trpReady r k) : s.portOpen r k.port := by
  refine ⟨k.info, portInfo_trp s r k, ?_⟩
  cases k with
  | call | gate => rfl
  | sret =>
    have fault : s.portFault r 0x2B6 pT.s = if !(s.runner r).sup then some 3 else none := rfl
    exact fault.trans (by rw [show (s.runner r).sup = true from h]; rfl)
  | eret =>
    have fault : s.portFault r 0x2B7 pT.s = if !(s.runner r).sup then some 3 else none := rfl
    exact fault.trans (by rw [State.Returns.sup h]; rfl)

/-- The words that a trigger reads before its commit: t_eret those of its frame (R174). -/
def State.trpLoads (s : State) (r : Rid) : TrpOp → List Word
  | .eret => (List.range 4).map (s.frameAt r)
  | _ => []

theorem flowRead_trp {s : State} {r : Rid} {k : TrpOp} (h : s.trpReady r k) : s.flowRead r k.port = (s, s.trpLoads r k, false) := by
  cases k with
  | eret => exact State.Returns.flowRead h
  | call | gate | sret => rfl

theorem flowBusy_trp {s : State} {r : Rid} {k : TrpOp} (h : s.trpReady r k) : s.flowBusy r k.port = false := by
  cases k with
  | eret => exact State.Returns.flowBusy h
  | call | gate | sret => rfl

theorem frameLost_trp {s : State} {r : Rid} {k : TrpOp} (h : s.trpReady r k) (v : Word) : s.frameLost r [flowMv k.port v] = false := by
  cases k with
  | eret =>
    have read := State.Returns.flowRead h
    unfold State.frameLost
    rw [show s.flowRead r 0x2B7 = _ from read]
    exact Bool.and_false _
  | call | gate | sret => rfl

theorem anyBusy_trp {s : State} {r : Rid} {k : TrpOp} (h : s.trpReady r k) (v : Word) : s.anyBusy s r [flowMv k.port v] = false := by
  have store : (k.port == 0x1CA) = false := by cases k <;> rfl
  simp [State.anyBusy, flowMv, trigOf_trp, isFlow_trp, store, flowBusy_trp h]

/-- The state beside the runner: the returns end its entry hold (R335). -/
def State.trpRest (s : State) (r : Rid) : TrpOp → State
  | .call | .gate => s
  | .sret | .eret => s.endHold r

theorem trpRest_ok {s : State} (h : s.TablesOk) (r : Rid) (k : TrpOp) : (s.trpRest r k).TablesOk := by
  cases k with
  | call | gate => exact h
  | sret | eret => exact (endHold_kept (.refl s)).tab h

theorem trpRest_runner (s : State) (r : Rid) (k : TrpOp) : (s.trpRest r k).runner r = s.runner r := by cases k <;> cases r <;> rfl

theorem trpRest_setRunner (s : State) (r : Rid) (k : TrpOp) (y : Runner) : (s.setRunner r y).trpRest r k = (s.trpRest r k).setRunner r y := by
  cases k <;> cases r <;> rfl

/-- The runner after a trigger: `g` are the guards and `a` is o_fsp as the word began, `ws` the words it read. -/
def Runner.trpDone (y : Runner) (r : Rid) (v : Word) (g : BitVec 8) (a : Nat) (ws : List Word) : TrpOp → Runner
  | .call => y.callEntry false g (target r (BitVec.ofNat 15 (trpEntry y v).toNat))
  | .gate => y.callEntry true g (target r (BitVec.ofNat 15 (trpGate y v).toNat))
  | .sret => y.callReturn r
  | .eret => y.eret r a (ws.getD 0 0) (ws.getD 1 0) (ws.getD 2 0) (ws.getD 3 0)

theorem setBank_eq (x : Runner) (c : Bool) (b : Bank) : x.setBank c b = { x with bankS := if c then x.bankS else b, bankC := if c then b else x.bankC } := by
  cases c <;> rfl

theorem setFsp_eq (x : Runner) (c : Bool) (a : Nat) : x.setFsp c a = { x with fspS := if c then x.fspS else a, fspC := if c then a else x.fspC } := by
  cases c <;> rfl

/-- A trigger neither reads nor changes what only speeds fetching up. -/
theorem trpDone_plain {x y : Runner} (hp : y.plain = x.plain) (r : Rid) (v : Word) (g : BitVec 8) (a : Nat) (ws : List Word) (k : TrpOp) :
    (y.trpDone r v g a ws k).plain = (x.trpDone r v g a ws k).plain := by
  have apart (z : Runner) : (z.trpDone r v g a ws k).plain = (z.plain.trpDone r v g a ws k).plain := by
    cases k with
    | call | gate =>
      unfold Runner.trpDone Runner.callEntry
      dsimp only
      rw [setBank_eq, setBank_eq]
      rfl
    | sret =>
      unfold Runner.trpDone Runner.callReturn
      dsimp only
      rw [setBank_eq, setBank_eq]
      rfl
    | eret =>
      unfold Runner.trpDone Runner.eret
      dsimp only
      rw [setFsp_eq, setFsp_eq]
      rfl
  rw [apart y, apart x, hp]

theorem trpGo_setRunner {s : State} (h : s.TablesOk) {r : Rid} {k : TrpOp} {y : Runner} (hc : k = .eret → (s.setRunner r y).chainSource r = none) (v : Word)
    (x0 : Runner) (ws : List Word) :
    (s.setRunner r y).trpGo r k.port v x0 ws = (s.trpRest r k).setRunner r (y.trpDone r v x0.grd (x0.fsp x0.cust) ws k) := by
  have upd (f : Runner → Runner) : (s.setRunner r y).updR r f = s.setRunner r (f y) := State.updR_setRunner h r y f
  cases k with
  | call => exact upd fun x => x.callEntry false x0.grd (target r (BitVec.ofNat 15 (trpEntry x v).toNat))
  | gate => exact upd fun x => x.callEntry true x0.grd (target r (BitVec.ofNat 15 (trpGate x v).toNat))
  | sret => exact (congrArg (State.endHold · r) (upd fun x => x.callReturn r)).trans (trpRest_setRunner s r .sret _)
  | eret =>
    have go : (s.setRunner r y).trpGo r 0x2B7 v x0 ws = (s.setRunner r y).eretGo r (x0.fsp x0.cust) ws := rfl
    refine Eq.trans go ?_
    unfold State.eretGo
    rw [hc rfl]
    dsimp only
    rw [upd]
    exact trpRest_setRunner s r .eret _

/-! The whole trigger -/

/-- The frame stands while its word's path is decoded and CTL is taken. -/
theorem frameAt_begun {s : State} (h : s.TablesOk) {r : Rid} {y : Runner} (hy : y.plain = (s.begun r).plain) (k : Nat) : (s.setRunner r y).frameAt r k = s.frameAt r k := by
  have fsp : y.fsp y.cust = (s.runner r).fsp (s.runner r).cust :=
    (congrArg (fun x : Runner => x.fsp x.cust) hy : y.plain.fsp y.plain.cust = (s.begun r).plain.fsp (s.begun r).plain.cust)
  unfold State.frameAt
  rw [State.runner_setRunner h, wordAt_setRunner, fsp]

theorem trpLoads_begun {s : State} (h : s.TablesOk) {r : Rid} {y : Runner} (hy : y.plain = (s.begun r).plain) (k : TrpOp) :
    (s.setRunner r y).trpLoads r k = s.trpLoads r k := by
  cases k with
  | call | gate | sret => rfl
  | eret => exact List.map_congr_left fun k _ => frameAt_begun h hy k

/-- What a trigger needs stands while its word's path is decoded and CTL is taken. -/
theorem trpReady_begun {s : State} (h : s.TablesOk) {r : Rid} {y : Runner} (hy : y.plain = (s.begun r).plain) {k : TrpOp} (hk : s.trpReady r k) :
    (s.setRunner r y).trpReady r k := by
  have cust : y.cust = (s.runner r).cust := (congrArg Runner.cust hy : y.plain.cust = (s.begun r).plain.cust)
  have sup : y.sup = (s.runner r).sup := (congrArg Runner.sup hy : y.plain.sup = (s.begun r).plain.sup)
  have same : (s.setRunner r y).runner r = y := State.runner_setRunner h r y
  cases k with
  | call | gate => trivial
  | sret =>
    show ((s.setRunner r y).runner r).sup = true
    rw [same, sup]
    exact hk
  | eret =>
    obtain ⟨level, place, unbuffered, frame, chain⟩ := hk
    have up : (s.setRunner r y).up r.home = s.up r.home := State.updR_up s r (fun _ => y) r.home
    have fsp (c : Bool) : y.fsp c = (s.runner r).fsp c := (congrArg (Runner.fsp · c) hy : y.plain.fsp c = (s.begun r).plain.fsp c)
    have frame' : y.frame = (s.runner r).frame := (congrArg Runner.frame hy : y.plain.frame = (s.begun r).plain.frame)
    have writes : y.writes = (s.runner r).writes := (congrArg Runner.writes hy : y.plain.writes = (s.begun r).plain.writes)
    refine ⟨by rw [same, sup]; exact level, ?_, ?_, by rw [same, frame']; exact frame, ?_⟩
    · unfold State.dataOk
      rw [same, up, fsp, cust]
      exact place
    · unfold State.plainRead
      rw [same, up, fsp, cust, writes]
      exact unbuffered
    · exact (chainSource_setRunner h cust (congrArg Runner.pendBat hy : y.plain.pendBat = (s.begun r).plain.pendBat)
        (congrArg Runner.pendV hy : y.plain.pendV = (s.begun r).plain.pendV) (congrArg Runner.pendDZ hy : y.plain.pendDZ = (s.begun r).plain.pendDZ)).trans chain

/-- The commit of the word of a trigger of TRP: counts and marks, then what the trigger does. -/
theorem commitWord_trp {s : State} (h : s.TablesOk) {r : Rid} (hr : (s.runner r).resume = none) {k : TrpOp} (hk : s.trpReady r k) (v : Word) :
    ∃ y, s.commitWord r (flowWord k.port) [flowMv k.port v] = ((s.trpRest r k).setRunner r y).setReg r.page 0x10C (BitVec.ofNat 32 (2 ^ 31 + (s.runner r).pc.toNat))
      ∧ y.plain = (((s.runner r).beginCommit false s.clkS).trpDone r v (s.runner r).grd ((s.runner r).fsp (s.runner r).cust) (s.trpLoads r k) k).plain := by
  have seen : s.commitWord r (flowWord k.port) [flowMv k.port v] =
      (let q := s.flowRead r k.port
       let t := q.1.commitGo r (s.runner r) (s.seqCond r 0) (flowWord k.port) [flowMv k.port v] q.2.1
       if q.2.2 then t.updR r fun x => { x with pendM := some 0x30 } else t) := by cases k <;> rfl
  have go := commitGo_flow (s := s) (v := v) (x0 := s.runner r) (c := s.seqCond r 0) (ws := s.trpLoads r k)
    (fun t => isTrig_trp t r k) (by cases k <;> decide) (by cases k <;> decide) (isFlow_trp k) (trigOf_trp k)
  have decides (t : State) : t.decision r (s.runner r) (flowWord k.port) (s.seqCond r 0) (some (flowMv k.port v)) (s.trpLoads r k) = none := by
    unfold State.decision
    rw [hr]
    cases k <;> rfl
  have acts (t : State) : t.flowGo r (s.runner r) none (some (flowMv k.port v)) (s.trpLoads r k) false = t.trpGo r k.port v (s.runner r) (s.trpLoads r k) := by cases k <;> rfl
  have chain (hc : k = .eret) : (s.setRunner r ((s.runner r).beginCommit false s.clkS)).chainSource r = none := by
    subst hc
    refine (chainSource_setRunner h ?_ ?_ ?_ ?_).trans (State.Returns.chain hk) <;> (unfold Runner.beginCommit; rw [stallEnd_stl])
  rw [seen, flowRead_trp hk]
  dsimp only
  rw [if_neg Bool.false_ne_true, go]
  dsimp only
  rw [decides, acts, State.updR, trpGo_setRunner h chain, State.resolve, State.updR_setRunner (trpRest_ok h r k)]
  obtain ⟨y, hy, plain⟩ := wordDone_setRunner (trpRest_ok h r k) r (Runner.resolve _ _ _ _ _) (s.runner r).pc
  exact ⟨y, hy, plain.trans (resolve_plain ..)⟩

/-- A trigger of TRP that raises no fault ends its word. -/
theorem trp_ends {s : State} (h : s.TablesOk) {r : Rid} (hr : s.executes r) {k : TrpOp} (hk : s.trpReady r k) {v : Word} (hf : (s.beginWord r).flowFaults r k.port v = []) :
    ∃ y, s.flowTrigger r k.port v = (s.trpRest r k).wordEnds r y
      ∧ y.plain = (((s.begun r).beginCommit false s.clkS).trpDone r v (s.begun r).grd ((s.begun r).fsp (s.begun r).cust) (s.trpLoads r k) k).plain := by
  have ready : (s.beginWord r).trpReady r k := by rw [beginWord_begun h hr]; exact trpReady_begun h rfl hk
  rw [flowTrigger_taken hr.1 (resFail_beginWord h hr) (portOpen_trp ready) (frameLost_trp ready v) hf (anyBusy_trp ready v), thenStop_begun h]
  obtain ⟨y₀, hpath, plain₀⟩ := flowPath_begun h hr k.port v
  have resume : y₀.resume = none := (congrArg Runner.resume plain₀ : y₀.plain.resume = (s.begun r).plain.resume).trans (resume_of_canTrig hr.1)
  have pc : y₀.pc = (s.runner r).pc := (congrArg Runner.pc plain₀ : y₀.plain.pc = (s.begun r).plain.pc)
  have grd : y₀.grd = (s.begun r).grd := (congrArg Runner.grd plain₀ : y₀.plain.grd = (s.begun r).plain.grd)
  have fsp : y₀.fsp y₀.cust = (s.begun r).fsp (s.begun r).cust :=
    (congrArg (fun x : Runner => x.fsp x.cust) plain₀ : y₀.plain.fsp y₀.plain.cust = (s.begun r).plain.fsp (s.begun r).plain.cust)
  obtain ⟨y, hy, plain⟩ := commitWord_trp (State.setRunner_ok h r y₀) (by rw [State.runner_setRunner h]; exact resume) (trpReady_begun h plain₀ hk) v
  rw [State.runner_setRunner h, trpRest_setRunner, State.setRunner_setRunner (trpRest_ok h r k), pc] at hy
  rw [State.runner_setRunner h, trpLoads_begun h plain₀, clkS_setRunner, grd, fsp] at plain
  refine ⟨y, ?_, plain.trans (trpDone_plain (beginCommit_plain plain₀ s.clkS) ..)⟩
  unfold State.wordEnds State.thenStop
  rw [hpath, hy, trpRest_runner]

theorem worst_replicate (f : WFault) (n : Nat) : worst (List.replicate (n + 1) f) = some f := by
  induction n with
  | zero => rfl
  | succ n ih =>
    rw [List.replicate_succ, worst, ih]
    dsimp only
    split <;> rfl

/-- A trigger of TRP that one cause stops, however often it is met, raises it (R163). -/
theorem trp_fault {s : State} (h : s.TablesOk) {r : Rid} (hr : s.executes r) {k : TrpOp} (hk : s.trpReady r k) {v d : Word} {c : Nat} (n : Nat)
    (hf : (s.beginWord r).flowFaults r k.port v = List.replicate (n + 1) (c, d)) :
    s.flowTrigger r k.port v = (s.beginWord r).faultNow r { code := c, sv := true, slot := 0, detail := d } := by
  have ready : (s.beginWord r).trpReady r k := by rw [beginWord_begun h hr]; exact trpReady_begun h rfl hk
  obtain ⟨i, hi, hw⟩ := portOpen_trp ready
  simp [State.flowTrigger, State.portLevel, hr.1, resFail_beginWord h hr, frameLost_trp ready, hi, hw, hf, worst_replicate, WFault.record]

/-! The faults of the calls and of t_sret -/

/-- t_call faults for a bad entry and for a busy bank (R157). -/
theorem flowFaults_call (s : State) (r : Rid) (v : Word) : s.flowFaults r TrpOp.call.port v =
    (if (trpEntry (s.runner r) v).getLsbD 15 = true then [] else [(6, 0)]) ++ (if ((s.runner r).bank (s.runner r).cust).busy = true then [(6, 0)] else []) :=
  congrArg (_ ++ ·) (List.append_nil _)

/-- t_gate faults in the Custody world, or for a busy bank; in the Service world for a bad gate too (R158). -/
theorem flowFaults_gate (s : State) (r : Rid) (v : Word) : s.flowFaults r TrpOp.gate.port v =
    (if (s.runner r).cust = true then [(2, 0x2B5)] else if (s.runner r).bankC.busy = true then [(6, 0)] else [])
      ++ (if ((s.runner r).cust || (trpGate (s.runner r) v).getLsbD 15) = true then [] else [(6, 0)]) :=
  congrArg (_ ++ ·) (List.append_nil _)

theorem flowFaults_gate_custody {s : State} {r : Rid} (hc : (s.runner r).cust = true) (v : Word) : s.flowFaults r TrpOp.gate.port v = [(2, 0x2B5)] := by
  rw [flowFaults_gate, hc]
  rfl

theorem flowFaults_gate_service {s : State} {r : Rid} (hc : (s.runner r).cust = false) (v : Word) : s.flowFaults r TrpOp.gate.port v =
    (if (trpGate (s.runner r) v).getLsbD 15 = true then [] else [(6, 0)]) ++ (if (s.runner r).bankC.busy = true then [(6, 0)] else []) := by
  rw [flowFaults_gate, hc, Bool.false_or]
  cases (trpGate (s.runner r) v).getLsbD 15 <;> cases (s.runner r).bankC.busy <;> rfl

/-- t_sret faults where the bank holds no return point (R159). -/
theorem flowFaults_sret (s : State) (r : Rid) (v : Word) : s.flowFaults r TrpOp.sret.port v =
    if ((s.runner r).bank (s.runner r).cust).busy = true then [] else [(5, 0)] := List.append_nil _

/-- A call through a bad entry or into a busy bank meets its fault once or twice. -/
theorem call_faults {good busy : Bool} (h : ¬(good = true ∧ busy = false)) (f : Nat × Word) :
    ∃ n, (if good = true then [] else [f]) ++ (if busy = true then [f] else []) = List.replicate (n + 1) f := by
  cases good with
  | false => cases busy with
    | false => exact ⟨0, rfl⟩
    | true => exact ⟨1, rfl⟩
  | true => cases busy with
    | false => exact absurd ⟨rfl, rfl⟩ h
    | true => exact ⟨0, rfl⟩

theorem trpEntry_eq (x : Runner) (v : Word) : trpEntry x v = tget 0 x.entry ((if x.cust then 8 else 0) + v.toNat % 8) := by
  unfold trpEntry
  rw [fld_eq_div_mod, pow_zero, Nat.div_one]
  cases x.cust <;> rfl

theorem trpGate_eq (x : Runner) (v : Word) : trpGate x v = tget 0 x.gates (v.toNat % 4) := by
  unfold trpGate
  rw [fld_eq_div_mod, pow_zero, Nat.div_one]
  rfl

/-! What the returns restore -/

/-- A target field of 15 bits, of the Arbiter runner modulo 8,192 (R181). -/
theorem target_ofNat (r : Rid) (n : Nat) : target r (BitVec.ofNat 15 (n % 2 ^ 15)) = if r = .arb then BitVec.ofNat 15 (n % 2 ^ 15 % 8192) else BitVec.ofNat 15 (n % 2 ^ 15) := by
  rw [target_eq, BitVec.toNat_ofNat, Nat.mod_mod]

/-- The frame at `a` is released: o_fsp moves past its eight words (R171, R174). -/
theorem fspOf_released (a : Nat) : fspOf (BitVec.ofNat 64 (a + 64)) = (a + 64) % 2 ^ 23 / 64 * 64 := by
  unfold fspOf
  rw [fld_eq_div_mod, BitVec.toNat_ofNat]
  omega

section
variable (x : Runner) (now : Nat) (r : Rid) (v : Word) (a : Nat) (ws : List Word)

/-- The runner after t_call (R157). -/
theorem trpDone_call : (x.beginCommit false now).trpDone r v x.grd a ws .call =
    { (x.beginCommit false now).setBank x.cust
        { spc := x.pc + 1, sgrd := x.grd &&& 0xFE, gate := false, busy := true, world := x.cust, level := x.sup, srep := x.rep } with
      rep := { x.rep with act := false }, sup := true, pc := target r (BitVec.ofNat 15 (trpEntry x v).toNat) } := by
  unfold Runner.trpDone Runner.callEntry Runner.beginCommit
  rw [stallEnd_stl]
  dsimp only
  rw [setBank_eq, setBank_eq]
  rfl

/-- The runner after t_gate (R158). -/
theorem trpDone_gate : (x.beginCommit false now).trpDone r v x.grd a ws .gate =
    { x.beginCommit false now with
      bankC := { spc := x.pc + 1, sgrd := x.grd &&& 0xFE, gate := true, busy := true, world := x.cust, level := x.sup, srep := x.rep },
      rep := { x.rep with act := false }, cust := true, sup := true, pc := target r (BitVec.ofNat 15 (trpGate x v).toNat) } := by
  unfold Runner.trpDone Runner.callEntry Runner.beginCommit
  rw [stallEnd_stl]
  rfl

/-- The runner after t_sret (R159). -/
theorem trpDone_sret (g : BitVec 8) : (x.beginCommit false now).trpDone r v g a ws .sret =
    { (x.beginCommit false now).setBank x.cust { x.bank x.cust with busy := false } with
      grd := (x.bank x.cust).sgrd, rep := (x.bank x.cust).srep, cust := (x.bank x.cust).world, sup := (x.bank x.cust).level, pc := target r (x.bank x.cust).spc } := by
  unfold Runner.trpDone Runner.callReturn Runner.beginCommit
  rw [stallEnd_stl]
  rfl

/-- The runner after a t_eret that does not chain, from the frame of words `w` at `a` (R171, R172, R174). -/
theorem trpDone_eret (g : BitVec 8) (w : Nat → Word) :
    let at' (n : Nat) : CAddr := if r = .arb then BitVec.ofNat 15 (n % 8192) else BitVec.ofNat 15 n
    (x.beginCommit false now).trpDone r v g a ((List.range 4).map w) .eret = { (x.beginCommit false now).setFsp x.cust ((a + 64) % 2 ^ 23 / 64 * 64) with
      grd := BitVec.ofNat 8 ((w 2).toNat % 256 / 2 * 2), flgV := (w 2).getLsbD 8, flgDZ := (w 2).getLsbD 9, rep := repOf (w 3), sup := (w 0).getLsbD 14,
      pc := at' ((w 1).toNat % 2 ^ 15), resume := if (w 0).getLsbD 11 then some (at' ((w 1).toNat / 2 ^ 16 % 2 ^ 15)) else none } := by
  intro at'
  have guards : fld (w 2) 7 1 * 2 = (w 2).toNat % 256 / 2 * 2 := by
    rw [fld_eq_div_mod]
    omega
  have rpc : target r (BitVec.ofNat 15 (fld (w 1) 14 0)) = at' ((w 1).toNat % 2 ^ 15) := by
    rw [fld_eq_div_mod, pow_zero, Nat.div_one]
    exact target_ofNat r (w 1).toNat
  have npc : target r (BitVec.ofNat 15 (fld (w 1) 30 16)) = at' ((w 1).toNat / 2 ^ 16 % 2 ^ 15) := by
    rw [fld_eq_div_mod]
    exact target_ofNat r ((w 1).toNat / 2 ^ 16)
  have restored : (x.beginCommit false now).trpDone r v g a ((List.range 4).map w) .eret = (x.beginCommit false now).eret r a (w 0) (w 1) (w 2) (w 3) := rfl
  rw [restored]
  unfold Runner.eret Runner.restore
  rw [guards, rpc, npc, fspOf_released, setFsp_eq, setFsp_eq]
  unfold Runner.beginCommit
  rw [stallEnd_stl]

end

/-- Settles O27: a call or return meets the fault of its condition, or its word ends with what its bank or its frame gives. -/
theorem callsAndReturnsComplete : Obligations.CallsAndReturnsComplete := by
  unfold Obligations.CallsAndReturnsComplete
  refine ⟨fun s r v h hr => ?_, fun s r v h hr hsup => ?_⟩
  · intro x b at' ends e g bank saved
    have begun : (s.beginWord r).runner r = s.begun r := by rw [beginWord_begun h hr, State.runner_setRunner h]
    have entry : trpEntry (s.begun r) v = e := trpEntry_eq _ v
    have gate : trpGate (s.begun r) v = g := trpGate_eq _ v
    refine ⟨?call, ?gate, fun hsup => ?sret⟩
    case call =>
      have faults := flowFaults_call (s.beginWord r) r v
      rw [begun, entry] at faults
      split
      next hok =>
        obtain ⟨y, hy, plain⟩ := trp_ends (k := .call) h hr trivial (faults.trans (by rw [hok.1, show ((s.begun r).bank (s.begun r).cust).busy = false from hok.2]; rfl))
        rw [trpDone_call, entry, target_eq] at plain
        exact ⟨y, congrArg Host.Outcome.next hy, plain⟩
      next hbad =>
        obtain ⟨n, hn⟩ := call_faults hbad (6, 0)
        exact congrArg Host.Outcome.next (trp_fault (k := .call) h hr trivial n (faults.trans hn))
    case gate =>
      split
      next hc =>
        have faults := flowFaults_gate_custody (by rw [begun]; exact hc) v
        exact congrArg Host.Outcome.next (trp_fault (k := .gate) h hr trivial 0 faults)
      next hc =>
        have faults := flowFaults_gate_service (s := s.beginWord r) (r := r) (by rw [begun]; exact Bool.eq_false_iff.2 hc) v
        rw [begun, gate] at faults
        split
        next hok =>
          obtain ⟨y, hy, plain⟩ := trp_ends (k := .gate) h hr trivial (faults.trans (by rw [hok.1, show (s.begun r).bankC.busy = false from hok.2]; rfl))
          rw [trpDone_gate, gate, target_eq] at plain
          exact ⟨y, congrArg Host.Outcome.next hy, plain⟩
        next hbad =>
          obtain ⟨n, hn⟩ := call_faults hbad (6, 0)
          exact congrArg Host.Outcome.next (trp_fault (k := .gate) h hr trivial n (faults.trans hn))
    case sret =>
      have faults := flowFaults_sret (s.beginWord r) r v
      rw [begun] at faults
      split
      next hb =>
        obtain ⟨y, hy, plain⟩ := trp_ends (k := .sret) h hr hsup (faults.trans (if_pos hb))
        rw [trpDone_sret, target_eq] at plain
        exact ⟨y, congrArg Host.Outcome.next hy, plain⟩
      next hb => exact congrArg Host.Outcome.next (trp_fault (k := .sret) h hr hsup 0 (faults.trans (if_neg hb)))
  · intro x b at' a w hd hp hf hc
    have ready : s.Returns r := ⟨hsup, hd, hp, hf, hc⟩
    have faults : (s.beginWord r).flowFaults r TrpOp.eret.port v = if (w 0).getLsbD 13 = x.cust then [] else [(5, 0)] := by
      rw [beginWord_begun h hr, State.Returns.flowFaults (trpReady_begun (k := .eret) h rfl ready), frameAt_begun h rfl, State.runner_setRunner h]
      rfl
    split
    next hw =>
      obtain ⟨y, hy, plain⟩ := trp_ends (k := .eret) h hr ready (faults.trans (if_pos hw))
      exact ⟨y, congrArg Host.Outcome.next hy, plain.trans (congrArg Runner.plain (trpDone_eret ..))⟩
    next hw => exact congrArg Host.Outcome.next (trp_fault (k := .eret) h hr ready 0 (faults.trans (if_neg hw)))

end Sys2Proof.Machine
end


section
/-! Runners and heats: the statement of their controls fails where the path table lists an entry past its 4,096 paths (R265, R288, R290). -/
namespace Sys2Proof.Machine

/-- Heat 0 is fenced, and the path table lists entry 0x2000, whose place in the publication area would be byte 0 of heat 0's mirror directory. ARB.PATHW names
a path by 12 bits, so no write lists such an entry; neither `TablesOk` nor `MemOk` excludes it. -/
def pathPastEnd : State := { State.reset with mode := .service, heatFen := 1, arb := { paths := [(0x2000, 1)] } }

theorem pathPastEnd_ok : pathPastEnd.TablesOk := by
  constructor <;> decide

theorem pathPastEnd_memOk : pathPastEnd.MemOk := by
  constructor <;> decide

/-- Who starts the heat: runner 0 of heat 1, in the Custody world. -/
def starter : Origin := .runner (.heat 1 0) true false

theorem pathPastEnd_takesWrites : pathPastEnd.takesWrites starter := by decide

/-- The mirror entry of slot 0 of heat 0, where a command answers a next state. -/
def mirrorEntry : Res → Word
  | .next t => t.dirAt 0 0x370000
  | _ => 0

/-- The start publishes the whole path table after the directories were cleared. -/
theorem heatStart_mirrorEntry : mirrorEntry (exec (.heatStart starter 0) pathPastEnd) = 1 := by decide +kernel

/-- Refutes O39: the start of heat 0 publishes the path table's entry 0x2000 into the mirror directory that it has cleared, so that the entry of slot 0 reads 1
where the statement has 0. -/
theorem not_runnerControlsComplete : ¬ Obligations.RunnerControlsComplete := by
  unfold Obligations.RunnerControlsComplete
  rintro ⟨controls, -⟩
  obtain ⟨-, -, -, -, -, -, -, -, -, -, -, -, starts, -⟩ := controls pathPastEnd starter 0 0 pathPastEnd_ok pathPastEnd_takesWrites (by decide) (by decide)
  obtain ⟨t, answers, -, -, -, -, -, cleared, -⟩ := starts (by decide) (by decide) pathPastEnd_memOk
  have reads : mirrorEntry (exec (.heatStart starter 0) pathPastEnd) = 0 := (congrArg mirrorEntry answers).trans (cleared 0 (by decide)).2
  exact absurd (heatStart_mirrorEntry.symm.trans reads) (by decide)

end Sys2Proof.Machine
end
